-- ==== Sys2Proof/Word.lean ====
section
/-! DEFINITION. The plain words and containers of the model (R10): bytes, halves, words, dwords, Tally words, and the
sparse table in which every large array of the module is held. -/

namespace Sys2Proof

/-- A byte (R10). -/
abbrev Byte := BitVec 8
/-- A half of 16 bits (R10). -/
abbrev W16 := BitVec 16
/-- A word of 32 bits (R10). -/
abbrev W32 := BitVec 32
/-- A dword of 64 bits (R10). -/
abbrev W64 := BitVec 64
/-- A Tally word of 128 bits (R10, R60). -/
abbrev W128 := BitVec 128
/-- A Long Tally word of 320 bits (R65). -/
abbrev W320 := BitVec 320
/-- A 64-byte SHAKE256 digest, as one number (R192, R334). -/
abbrev Digest := BitVec 512

/-- A physical core C000 to C191 (R4). -/
abbrev CoreId := Fin 192
/-- A link port L00 to L47 (R4). -/
abbrev PortId := Fin 48
/-- A Tally tile 0 to 7 of a core (R85). -/
abbrev TileId := Fin 8
/-- A tile register V0 to V15 (R108). -/
abbrev VRegId := Fin 16

/-- A large array as the list of its entries that differ from what an unlisted index reads as, indexes strictly
rising. Which default an array has stands with the operations that read it. -/
abbrev SMap (α : Type) := List (Nat × α)

end Sys2Proof
end

