-- ==== Sys2Proof/Syntax/Operand.lean ====
section
/-! DEFINITION. The operands of the commands: plain records of what a row of spec/opcode_table.json carries. A field
that no rule of the spec computes (when hardware fails, what a peer or the host sends, what a sensor reads, whether a
signature or a tag verifies) is an operand, an input from outside. -/

namespace Sys2Proof

/-- What an engine's own checker found for one execution (R101, R102, R131, R245, R383): the kind and the index that
MXE_CHK_INFO or VXE_CHK_INFO shows. The spec gives no rule for when hardware fails: an input. -/
structure ChkFail where
  conv  : Bool       -- the duplicate converters of the load/store path differ (R383)
  ecc   : Bool       -- an uncorrectable SECDED error in the engine's own storage (R383)
  kind  : BitVec 3
  index : BitVec 7
  row   : Nat        -- the failing row of an UPD (R245)
  deriving DecidableEq, Repr

/-- Common fields of word 0 (R169), what the checkers found for this execution, whether a block read failed its
check once and passed on the second read (R382), the 512-byte block, if one, of LPDDR5X that fails its MAC on both reads (R154) or of stack
SRAM that holds an uncorrectable word (R383), and how many errors of the column's SECDED the execution met and corrected (R383). -/
structure Hdr where
  tag : W32
  ixl : Fin 5
  ixm : BitVec 4
  chk : Option ChkFail
  reread : Bool
  poison : Option Nat
  ecc : Nat
  deriving DecidableEq, Repr

/-- MMUL (R172, R173). -/
structure MmulF where
  tile : TileId
  ovw  : Bool
  acc  : BitVec 2
  csz  : BitVec 2
  ta   : Bool
  tb   : Bool
  ans  : Bool
  ha   : W16
  hb   : W16
  hanc : W16
  k0   : W32
  k1   : W32
  deriving DecidableEq, Repr

/-- ASWEEP (R172, R501). -/
structure AsweepF where
  ta   : Bool
  tb   : Bool
  ha   : W16
  hb   : W16
  hanc : W16
  k0   : W32
  k1   : W32
  deriving DecidableEq, Repr

/-- TFILL, TACCM and TSTORE (R172): a tile, a T128 tensor and the anchor tensor of an anchored tile. -/
structure TileMemF where
  tile : TileId
  kind : BitVec 2    -- KIND of TFILL; zero in TACCM and TSTORE (R501)
  h    : W16
  hanc : W16
  deriving DecidableEq, Repr

/-- EPI (R172). -/
structure EpiF where
  tile  : TileId
  stat  : Bool
  hd    : W16
  hsr   : W16
  hsc   : W16
  sa    : W16
  sb    : W16
  gslot : W16
  gmode : BitVec 2
  radd  : Bool
  cadd  : Bool
  deriving DecidableEq, Repr

/-- GPASS (R172, R99). -/
structure GpassF where
  hg    : W16
  hsr   : W16
  hsc   : W16
  gslot : W16
  radd  : Bool
  cadd  : Bool
  deriving DecidableEq, Repr

/-- A source field of a vector command (R174): kind 0 a tile register, 1 a row broadcast, 2 a column broadcast,
3 IMM32. -/
structure Src where
  kind  : BitVec 2
  reg   : VRegId
  index : Fin 64
  deriving DecidableEq, Repr

/-- The fields of a vector command that works on registers (R174). -/
structure VecF where
  view : BitVec 2
  vd   : VRegId
  ltr  : Fin 4
  axis : BitVec 2
  acc  : BitVec 2
  imm  : W32
  srca : Src
  srcb : Src
  se   : Byte
  srcc : Src
  nm1  : BitVec 12
  fn   : BitVec 3
  deriving DecidableEq, Repr

/-- The fields of VLD, VST, LTADDM and LTST (R174, R175). -/
structure VmemF where
  view : BitVec 2
  vd   : VRegId
  ltr  : Fin 4
  se   : Byte
  h    : W16
  row0 : W32
  col0 : W32
  deriving DecidableEq, Repr

/-- TRD (R174, R113): tile, row half and 16-element column block. -/
structure TrdF where
  vd   : VRegId
  tile : TileId
  rb   : Fin 2
  cb   : Fin 8
  deriving DecidableEq, Repr

/-- MOVE (R158, R176). -/
structure MoveF where
  fence : Bool
  src   : W16
  dst   : W16
  perm  : BitVec 18
  sig   : W16
  deriving DecidableEq, Repr

/-- UPD (R176, R229). -/
structure UpdF where
  group : Fin 64
  hw    : W16
  hp    : W16
  hg    : W16
  hm    : W16
  hsr   : W16
  hsc   : W16
  hvr   : W16
  hvc   : W16
  deriving DecidableEq, Repr

/-- WAIT (R176, R186). -/
structure WaitF where
  obj    : W16
  tinc   : W16
  target : W32
  deriving DecidableEq, Repr

/-- XCHG (R176, R282). -/
structure XchgF where
  wide  : Bool
  hl    : W16
  hr    : W16
  layer : W16
  sig   : W16
  deriving DecidableEq, Repr

/-- The header of a mailbox request (R423) but for TYPE, which the row says. -/
structure Mb where
  major  : Byte
  minor  : Byte
  length : W32
  seq    : W32
  deriving DecidableEq, Repr

/-- Who signed a message: the SHAKE256 hash of the public key under which its signature verifies, or none (R425).
The Falcon computation itself is not of this spec: which key verifies is an input. -/
abbrev Signer := Option Digest

/-- The envelope of an owner-signed message (R425), with the six bytes behind TYPE, the message's signature of 1,280 bytes, and who
made it. -/
structure Envelope where
  devid  : W128
  octr   : W64
  type   : W16
  rsvd   : BitVec 48
  sig    : List Byte
  signer : Signer
  deriving DecidableEq, Repr

/-- One entry of a token manifest (R292). -/
structure TokEntry where
  mb   : W32
  rank : W16
  len  : Nat
  deriving DecidableEq, Repr

/-- One entry of the chunk list of a token manifest (R349): CIV and KIV of 12 bytes, WCK of 32, KTAG of 16. -/
structure ChunkEntry where
  off    : W64
  clen   : W32
  slot   : Byte
  buf    : Byte
  civ    : List Byte
  kiv    : List Byte
  wck    : List Byte
  ktag   : List Byte
  digest : Digest
  rsvdOk : Bool      -- every reserved byte of the entry is zero
  deriving DecidableEq, Repr

/-- One knot of a schedule (R237). -/
structure Knot where
  sk : W64
  lr : W32
  wd : W32
  deriving DecidableEq, Repr

/-- A group update (R241): which of the fields it replaces. -/
structure GroupUpd where
  group  : Fin 64
  frozen : Option Bool
  knots  : Option (List Knot)
  beta1  : Option W32
  omb1   : Option W32
  beta2  : Option W32
  omb2   : Option W32
  eps    : Option W32
  deriving DecidableEq, Repr

/-- A capture point of an audit request (R320). -/
structure CapPoint where
  s      : W64
  tag    : W32
  handle : W16
  full   : Bool
  iter   : List W32
  deriving DecidableEq, Repr

/-- An entry of a key table (R344): an IV of 12 bytes, a wrapped key of 32, a tag of 16. -/
structure KeyEntry where
  slot    : Byte
  role    : Byte
  rsvd    : W16
  iv      : List Byte
  wrapped : List Byte
  tag     : List Byte
  deriving DecidableEq, Repr

/-- A handle's bytes as a replica source sends them (R305). -/
structure HandleBytes where
  handle : W16
  bytes  : List Byte
  deriving DecidableEq, Repr

/-- A managed scale (R209, R212) with its pending word and its pending overflow bit. `lexp` is floor(log2 L) of R210; none where no descriptor gives an L.
`written`: its record no longer holds the value the image gave it. -/
structure MScale where
  sh      : Nat
  len     : Nat
  head    : Nat
  tmin    : Int
  tmax    : Int
  pinned  : Bool
  lexp    : Option Int
  t       : Int
  hold    : Nat
  hist    : List W32
  pend    : W32
  pendOvf : Bool
  written : Bool
  deriving DecidableEq, Repr

/-- A layer (R275, R279, R220). LS and DMAX stand in the layer table of the update tables (R238). -/
structure GLayer where
  num   : Nat
  dmask : Nat
  wide  : Bool
  g     : Nat
  len   : Nat
  m     : Nat
  e     : Int
  emin  : Int
  emax  : Int
  hold  : Nat
  hist  : List W32
  dhist : List W32
  dpend : W32
  deriving DecidableEq, Repr

/-- Post-commit values of one step (R218). -/
structure Carried where
  scales : List (Nat × W32 × Bool)
  nfin   : Bool
  dmax   : SMap W32
  deriving DecidableEq, Repr

def Carried.none : Carried := ⟨[], false, []⟩

/-- Kelgil's step state (R305, R318), as a TYPE 4 record or a replica source carries it: S and the attempt, the groups with
their 64-byte records and the bytes of their knots, layers' LS and DMAX, the layer, scale-controller and grid-exponent state,
carried post-commit values, skips, the count registers recorded of each logical core (R182), the job nonce (R346) with the next
record number of each slot (R353: no number repeats under one key), and the digest of each TYPE 2 record with its handle. -/
structure StepState where
  s       : W64
  a       : W32
  groups  : List (Fin 64 × List Byte × List Byte)
  ls      : List (Nat × Nat × W32)
  scales  : List MScale
  layers  : List GLayer
  carried : Carried
  consec  : Nat
  counts  : List (Nat × List W32)
  nonce   : W128
  seqs    : List (Nat × W64)
  digests : List (W16 × Digest)
  deriving DecidableEq, Repr

/-- A firmware image (R414): header, body and signature, and whether the signature verifies under the Tolval vendor key. -/
structure FwImage where
  bytes : List Byte
  sigOk : Bool
  deriving DecidableEq, Repr

/-- A limits block in the layout of FACLIM and SITELIM (R444). -/
structure Limits where
  pinMax    : Nat
  pPeak     : Nat
  pPeakT    : Nat
  iinMax    : Nat
  rampUp    : Nat
  grantLead : Nat
  tjSet     : Nat
  tj1       : Nat
  tj2       : Nat
  tj3       : Nat
  tinMax    : Nat
  toutMax   : Nat
  flowMin   : Nat
  kFlow     : Nat
  vMin      : Nat
  slew      : Nat
  kp        : Nat
  ti        : Nat
  rlIn      : Nat
  rlOut     : Nat
  deriving DecidableEq, Repr

/-- An entry of the link map (R407, R254). -/
structure LinkEntry where
  valid : Bool
  peer  : W16
  port  : Nat
  deriving DecidableEq, Repr

/-- The body of a SITE_CONFIG message (R410): coordinates, extents minus one, link map, site limits, flags. -/
structure SiteCfg where
  pod     : List Byte
  linkmap : List LinkEntry
  limits  : Limits
  factory : Bool
  deriving DecidableEq, Repr

/-- Where a debug access goes (R367). -/
inductive DbgTarget where
  | counters | log | traces | trc | registers | sec | stack | lpddr | keyStore | taglessOther
  deriving DecidableEq, Repr

/-- A debug access: its target, address, and the value where it writes. -/
structure DbgAccess where
  target : DbgTarget
  addr   : Nat
  write  : Option W32
  poison : Bool          -- the LPDDR5X block fails its MAC on both reads (R154)
  deriving DecidableEq, Repr

/-- A debug token (R365): fields and what its signature verifies under. -/
structure DbgToken where
  magicOk : Bool
  level   : Byte
  signer  : Byte
  rsvdOk  : Bool
  devid   : W128
  ctr     : W64
  nonce   : BitVec 256
  key     : Signer
  deriving DecidableEq, Repr

/-- A frame header (R250), each field as it arrived. -/
structure FrameHdr where
  type  : BitVec 2
  buf   : BitVec 3
  blk   : Byte
  seq   : W16
  ack   : W16
  nak   : Bool
  freev : Bool
  freeBuf : BitVec 3
  freeBlk : Byte
  rtx   : Bool
  rsvd  : BitVec 5
  deriving DecidableEq, Repr

/-- A frame as the receiver finds it (R251, R252): its header, the symbols that the FEC corrected, the codewords it could not decode,
and its 64 bits of tag. -/
structure Arrival where
  word   : W64
  corr   : Nat
  unc    : Nat
  tag    : W64
  fourth : Bool       -- with this one, four tag failures have come within 1 ms in frames that decoded (R270)
  deriving DecidableEq, Repr

/-- What a module's vote carries for one managed scale (R215, R218). -/
structure ScaleVote where
  sh    : Nat
  amax  : W32
  ovf   : Bool
  campx : W32
  cpost : Bool
  deriving DecidableEq, Repr

/-- What a vote carries for one layer (R215, R220, R279). -/
structure LayerVote where
  layer : Nat
  dmax  : W32
  gmax  : W32
  govf  : Bool
  deriving DecidableEq, Repr

/-- A vote, of one module or combined (R215, R302). `members` is the member bitmap, as the ids set in it, `cnfin` the
post-commit NFIN of the step before (R218). -/
structure Vote where
  ovf     : Bool
  nfin    : Bool
  fault   : Bool
  charged : Nat
  scales  : List ScaleVote
  layers  : List LayerVote
  members : List Nat
  cnfin   : Bool
  deriving DecidableEq, Repr

/-- What a control frame says to Kelgil (R260): the messages the spec names. -/
inductive CtlMsg where
  | vote (s : W64) (a : W32) (v : Vote)
  | outcome (s : W64) (a : W32) (code : Nat) (lost : List Nat) (v : Vote)
  | lastOutcome (member : W16) (s : W64) (a : W32) (code : Option Nat) (v : Option Vote)
  | xchgReport (member : W16) (s : W64) (a : W32) (tag : W32) (group : List Nat)
  | xchgSerial (s : W64) (a : W32) (tag : W32) (group : List Nat) (serial : Nat)
  | formed (member : W16)
  | formation
  | testPause (member : W16)
  | duty (member : W16) (duty : Nat)
  | retune (port : Nat)
  | restore (data : List Byte)
  | other (type : Byte)
  deriving DecidableEq, Repr

/-- The packet of a control frame (R260). -/
structure CtlPacket where
  dest : W16
  src  : W16
  vc   : BitVec 1
  msg  : CtlMsg
  deriving DecidableEq, Repr

/-- A resync (R268): buffer index, last sequence number accepted in order, and which RX blocks are empty. -/
structure Resync where
  buf   : BitVec 3
  last  : W64
  empty : BitVec 256
  deriving DecidableEq, Repr

/-- A hello (R262): what it carries and what its evidence states, the bytes of that, the nonce its sender has drawn and the verifier
nonce of the evidence, its signature; with whether that and the evidence verify. -/
structure Hello where
  vmin    : Byte
  vmax    : Byte
  id      : W16
  port    : Nat
  extents : List Nat
  ownh    : Digest
  kelgil  : Digest
  sstate  : BitVec 2
  ev      : List Byte
  nonce   : BitVec 256
  verifier : BitVec 256
  sig     : List Byte
  sigOk   : Bool
  deriving DecidableEq, Repr

/-- What the die sensors, coolant interface and supply read in one scan (R449, R456). `rin` and `rout` are the resistances at the
two-wire terminals of the PT1000 sensors, in 0.01 Ω. -/
structure Sensors where
  vin   : Nat
  iin   : Nat
  pin   : Nat
  vcore : Nat
  icore : Nat
  die   : List Int
  rin   : Nat
  rout  : Nat
  vpos  : Nat
  vbank : Nat
  deriving DecidableEq, Repr

/-- The outcome of the bank's capacity check and of the banks of Bellows at a cold start (R452, R437). -/
structure ColdEnv where
  vin      : Nat
  capacity : Nat       -- usable capacity measured, in 0.01 J
  bankOk   : Bool      -- the newly staged Bellows bank passes Bellows' own check
  deriving DecidableEq, Repr

/-- What the boot ROM meets at step 5 (R333, R406, R408, R409): `reads` are the seeds that readings of the PUF array are
corrected to, and the others whether a signature verifies: of the factory part, of the device parts in slots A and B. -/
structure BootEnv where
  reads     : List (BitVec 256)
  factoryOk : Bool
  slotAOk   : Bool
  slotBOk   : Bool
  holdOk    : Bool
  deriving DecidableEq, Repr

/-- A register of the control and status region (R488) or of BAR0 (R431). -/
inductive RegAddr where
  | core (k : CoreId) (off : Nat)        -- an offset in the core window
  | module (off : Nat)                   -- an offset from 0x0F01_0000_0000
  | hif (off : Nat)                      -- an offset from BAR0 0x00F0_0000
  | bell (off : Nat)                     -- an offset of the doorbells, BAR0 0x00F0_1000
  | att (off : Nat)                      -- an offset of the attestation buffer, BAR0 0x00E0_0000 (R419)
  | msix (off : Nat)                     -- an offset from BAR0 0x00F0_2000: the MSI-X table, its pending bits at 0x1000 (R419)
  deriving DecidableEq, Repr

/-- The masters that access a register or memory (R157). -/
inductive Master where
  | cmdProc (k : CoreId) | skidder (k : CoreId) | ctrlProc (n : Fin 4) | island | pcie | linkPort (p : PortId)
  | debugPort
  deriving DecidableEq, Repr

/-- What comes of a record that Kelgil reads from the fault ring (R104, R132, R245): `again` is what the checker of the next
core finds where the work is executed again and mismatches there too. -/
structure FaultEnv where
  again : Option ChkFail
  deriving DecidableEq, Repr

/-- An outcome as a module receives it (R302, R303): step counter, attempt, code, combined vote. -/
structure OutcomeMsg where
  s      : W64
  a      : W32
  code   : Nat
  lost   : List Nat
  deriving DecidableEq, Repr

/-- What an outcome meets where it is applied: the message, and how many of the two comparisons of Kelgil's duplicate computation
of the values it writes then differ (R383). -/
structure ApplyEnv where
  msg     : OutcomeMsg
  differs : Nat
  deriving DecidableEq, Repr

/-- What a replica source sends (R305): the handles of the state list and the step state; or, in place of that, the sources found
lost during the restore. -/
structure RestoreEnv where
  lost    : List Nat
  records : List HandleBytes
  step    : StepState
  deriving DecidableEq, Repr

/-- The message of INSTALL (R339): the owner's public key, and the install nonce that its signature covers. -/
structure InstallMsg where
  key   : List Byte
  nonce : BitVec 256
  deriving DecidableEq, Repr

/-- How a retune ended (R266): clean or not, and the lanes that lock. -/
structure RetuneEnd where
  ok    : Bool
  lanes : Byte
  deriving DecidableEq, Repr

/-- Of a BAR2 access (R420): how many bytes a read takes, and the block of LPDDR5X whose MAC it finds wrong (R154). -/
structure BarEnv where
  len    : Nat
  poison : Option Nat
  deriving DecidableEq, Repr

/-- The message of KEY_TABLE (R344), with the key under which its signature verifies. -/
structure KeyTableMsg where
  magic   : W32
  nent    : W16
  rsvd    : W16
  devid   : W128
  ownh    : Digest
  kemct   : List Byte
  entries : List KeyEntry
  sig     : List Byte
  signer  : Signer
  deriving DecidableEq, Repr

/-- The message of TOKEN_MANIFEST (R292, R349). -/
structure TokenMsg where
  s       : W64
  entries : List TokEntry
  chunks  : List ChunkEntry
  raw     : List Byte
  deriving DecidableEq, Repr

/-- The message of RESUME (R354): the TYPE 2 records and the TYPE 4 record as they left the module (R353), and the step state
that the plaintext of the last tells. -/
structure ResumeMsg where
  records : List (List Byte)
  last    : List Byte
  step    : StepState
  deriving DecidableEq, Repr

/-- A unit that the debug agent halts, steps or resumes (R367). -/
inductive DbgUnit where
  | ctrl (n : Fin 4)
  | core (k : CoreId)
  deriving DecidableEq, Repr

/-- What the self-tests of step 8 of the cold start find (R411, R396). -/
structure InitEnv where
  failing : List CoreId
  ok      : Bool       -- Kelgil comes through its own start (R436)
  poison  : Option Nat -- a 512-byte block of the Kelgil area that fails its MAC on both reads (R154)
  deriving DecidableEq, Repr

/-- The event-counter block of a core, or the module's (R478, R479). -/
inductive EvcBlk where
  | core (k : CoreId)
  | module
  deriving DecidableEq, Repr

/-- The causes of Bellows that clear (R451). -/
inductive BlwCause where
  | tj1 | tj2 | tin | tout | flow | valve | coolsens | diesens | bankLow
  deriving DecidableEq, Repr

/-- The sources of a host-interface reset (R439, R465). -/
inductive HifReset where
  | perst | hotReset | linkLoss | flr
  deriving DecidableEq, Repr

end Sys2Proof
end

