-- ==== Sys2Proof/Syntax.lean ====
section
/-! DEFINITION. The commands of the module: one constructor for each row of spec/opcode_table.json. -/

namespace Sys2Proof

/-- A command or event of the module. Each constructor is one row of the command table; the rule in its comment is the
one the table names for it. -/
inductive Instr where
  /-- MMUL (R85) -/
  | mmul (k : CoreId) (h : Hdr) (c : MmulF)
  /-- ASWEEP (R74) -/
  | asweep (k : CoreId) (h : Hdr) (c : AsweepF)
  /-- TZERO (R172) -/
  | tzero (k : CoreId) (h : Hdr) (c : TileMemF)
  /-- TFILL (R81) -/
  | tfill (k : CoreId) (h : Hdr) (c : TileMemF)
  /-- TACCM (R80) -/
  | taccm (k : CoreId) (h : Hdr) (c : TileMemF)
  /-- TSTORE (R82) -/
  | tstore (k : CoreId) (h : Hdr) (c : TileMemF)
  /-- EPI (R94) -/
  | epi (k : CoreId) (h : Hdr) (c : EpiF)
  /-- GPASS (R99) -/
  | gpass (k : CoreId) (h : Hdr) (c : GpassF)
  /-- VADD (R116) -/
  | vadd (k : CoreId) (h : Hdr) (c : VecF)
  /-- VSUB (R116) -/
  | vsub (k : CoreId) (h : Hdr) (c : VecF)
  /-- VMUL (R116) -/
  | vmul (k : CoreId) (h : Hdr) (c : VecF)
  /-- VFMA (R116) -/
  | vfma (k : CoreId) (h : Hdr) (c : VecF)
  /-- VMAX (R117) -/
  | vmax (k : CoreId) (h : Hdr) (c : VecF)
  /-- VMIN (R117) -/
  | vmin (k : CoreId) (h : Hdr) (c : VecF)
  /-- VABS (R117) -/
  | vabs (k : CoreId) (h : Hdr) (c : VecF)
  /-- VNEG (R117) -/
  | vneg (k : CoreId) (h : Hdr) (c : VecF)
  /-- VCMP (R117) -/
  | vcmp (k : CoreId) (h : Hdr) (c : VecF)
  /-- VSEL (R117) -/
  | vsel (k : CoreId) (h : Hdr) (c : VecF)
  /-- VIADD (R110) -/
  | viadd (k : CoreId) (h : Hdr) (c : VecF)
  /-- VISUB (R110) -/
  | visub (k : CoreId) (h : Hdr) (c : VecF)
  /-- VCVT (R117) -/
  | vcvt (k : CoreId) (h : Hdr) (c : VecF)
  /-- VEXP2 (R126) -/
  | vexp2 (k : CoreId) (h : Hdr) (c : VecF)
  /-- VLOG2 (R127) -/
  | vlog2 (k : CoreId) (h : Hdr) (c : VecF)
  /-- VRCP (R128) -/
  | vrcp (k : CoreId) (h : Hdr) (c : VecF)
  /-- VRSQRT (R128) -/
  | vrsqrt (k : CoreId) (h : Hdr) (c : VecF)
  /-- VTANH (R129) -/
  | vtanh (k : CoreId) (h : Hdr) (c : VecF)
  /-- VERF (R129) -/
  | verf (k : CoreId) (h : Hdr) (c : VecF)
  /-- VRSUM (R119) -/
  | vrsum (k : CoreId) (h : Hdr) (c : VecF)
  /-- VRMAX (R119) -/
  | vrmax (k : CoreId) (h : Hdr) (c : VecF)
  /-- VRMIN (R119) -/
  | vrmin (k : CoreId) (h : Hdr) (c : VecF)
  /-- LTCLR (R122) -/
  | ltclr (k : CoreId) (h : Hdr) (c : VecF)
  /-- LTADDF (R122) -/
  | ltaddf (k : CoreId) (h : Hdr) (c : VecF)
  /-- LTADDT (R122) -/
  | ltaddt (k : CoreId) (h : Hdr) (c : VecF)
  /-- LTRD (R122) -/
  | ltrd (k : CoreId) (h : Hdr) (c : VecF)
  /-- LTADDM (R122) -/
  | ltaddm (k : CoreId) (h : Hdr) (c : VmemF)
  /-- LTST (R122) -/
  | ltst (k : CoreId) (h : Hdr) (c : VmemF)
  /-- VLD (R112) -/
  | vld (k : CoreId) (h : Hdr) (c : VmemF)
  /-- VST (R112) -/
  | vst (k : CoreId) (h : Hdr) (c : VmemF)
  /-- TRD (R113) -/
  | trd (k : CoreId) (h : Hdr) (c : TrdF)
  /-- MOVE (R158) -/
  | move (k : CoreId) (h : Hdr) (c : MoveF)
  /-- UPD (R232) -/
  | upd (k : CoreId) (h : Hdr) (c : UpdF)
  /-- SIGNAL (R185) -/
  | signal (k : CoreId) (h : Hdr) (obj : W16)
  /-- WAIT (R186) -/
  | wait (k : CoreId) (h : Hdr) (c : WaitF)
  /-- LOOP (R183) -/
  | loop (k : CoreId) (h : Hdr) (creg : Fin 16) (maxc : W32)
  /-- ENDL (R183) -/
  | endl (k : CoreId) (h : Hdr)
  /-- SETC (R182) -/
  | setc (k : CoreId) (h : Hdr) (creg : Fin 16) (value : W32)
  /-- LDC (R182) -/
  | ldc (k : CoreId) (h : Hdr) (creg : Fin 16) (hnd : W16) (idx : W32)
  /-- XCHG (R282) -/
  | xchg (k : CoreId) (h : Hdr) (c : XchgF)
  /-- COMMIT (R188) -/
  | commit (k : CoreId) (h : Hdr)
  /-- STEPEND (R189) -/
  | stepend (k : CoreId) (h : Hdr)
  /-- COMMAND_DISPATCH (R136) -/
  | commandDispatch (k : CoreId) (tag : W32)
  /-- COMMAND_COMPLETE (R137) -/
  | commandComplete (k : CoreId) (tag : W32)
  /-- WAIT_SATISFIED (R186) -/
  | waitSatisfied (k : CoreId)
  /-- ICACHE_MISS_FILL (R142) -/
  | icacheMissFill (k : CoreId) (poison : Bool)
  /-- FAULT_RECORD (R389) -/
  | faultRecord (e : FaultEnv)
  /-- JOB_LOAD (R191) -/
  | jobLoad (m : Mb) (e : Envelope) (body : List Byte) (poison : Option Nat)
  /-- JOB_LOAD_COMPLETE (R204) -/
  | jobLoadComplete
  /-- JOB_UNLOAD (R427) -/
  | jobUnload (m : Mb)
  /-- STEP_BOUNDARY (R189) -/
  | stepBoundary
  /-- ATTEMPT_START (R185) -/
  | attemptStart
  /-- VOTE (R215) -/
  | vote
  /-- OUTCOME_DECIDE (R302) -/
  | outcomeDecide
  /-- VOTE_TIMEOUT (R301) -/
  | voteTimeout
  /-- OUTCOME_APPLY (R303) -/
  | outcomeApply (o : ApplyEnv)
  /-- COORDINATOR_LOSS (R304) -/
  | coordinatorLoss
  /-- REPLICA_RESTORE (R305) -/
  | replicaRestore (e : RestoreEnv)
  /-- STEP_WATCHDOG (R187) -/
  | stepWatchdog
  /-- REPORT_FIFO_READ (R244) -/
  | reportFifoRead (k : CoreId)
  /-- CHUNK_DECRYPT (R350) -/
  | chunkDecrypt (poison : Option Nat)
  /-- EXCHANGE_SERIAL (R286) -/
  | exchangeSerial (tag : W32)
  /-- EXCHANGE_START (R286) -/
  | exchangeStart (tag : W32)
  /-- DATA_FRAME_RECEIVE (R252) -/
  | dataFrameReceive (p : PortId) (a : Arrival) (block : List Byte)
  /-- CONTROL_FRAME_RECEIVE (R260) -/
  | controlFrameReceive (p : PortId) (a : Arrival) (pkt : CtlPacket)
  /-- LINK_FRAME_RECEIVE (R250) -/
  | linkFrameReceive (p : PortId) (a : Arrival) (rs : Option Resync)
  /-- DATA_FRAME_SEND (R256) -/
  | dataFrameSend (p : PortId)
  /-- CONTROL_FRAME_SEND (R261) -/
  | controlFrameSend (p : PortId)
  /-- LINK_FRAME_SEND (R256) -/
  | linkFrameSend (p : PortId)
  /-- HELLO_FRAME (R262) -/
  | helloFrame (p : PortId) (m : Hello)
  /-- KEY_ENCAPSULATION (R263) -/
  | keyEncapsulation (p : PortId) (ok : Bool) (key : List Byte) (sig : List Byte)
  /-- KEY_CIPHERTEXT (R263) -/
  | keyCiphertext (p : PortId) (ok : Bool) (cipher : List Byte) (sig : List Byte)
  /-- KEY_EPOCH (R264) -/
  | keyEpoch (p : PortId)
  /-- LANE_LOCK_LOSS (R265) -/
  | laneLockLoss (p : PortId) (lanes : Byte)
  /-- LINK_TRAINING_COMPLETE (R271) -/
  | linkTrainingComplete (p : PortId) (lanes : Byte)
  /-- PORT_ERROR_THRESHOLD (R266) -/
  | portErrorThreshold (p : PortId)
  /-- RETUNE_START (R266) -/
  | retuneStart
  /-- RETUNE_COMPLETE (R266) -/
  | retuneComplete (e : RetuneEnd)
  /-- LOST_PORT_RETRY (R266) -/
  | lostPortRetry
  /-- POD_FORMATION (R271) -/
  | podFormation
  /-- HELLO (R424) -/
  | hello (m : Mb) (body : List Byte)
  /-- GOODBYE (R427) -/
  | goodbye (m : Mb)
  /-- EVIDENCE (R338) -/
  | evidence (m : Mb) (nonce : Digest)
  /-- STATUS (R427) -/
  | status (m : Mb)
  /-- LOG_READ (R483) -/
  | logRead (m : Mb) (entry : W64) (count : W32)
  /-- FAULT_READ (R389) -/
  | faultRead (m : Mb) (seq : W32) (count : W32)
  /-- SIG_FETCH (R401) -/
  | sigFetch (m : Mb) (count : W32)
  /-- SIG_ACK (R401) -/
  | sigAck (m : Mb) (upTo : W32)
  /-- RECORD_READ (R325) -/
  | recordRead (m : Mb) (entry : W64) (count : W32)
  /-- REG_READ (R427) -/
  | regRead (m : Mb) (addr : RegAddr)
  /-- OUTQ_DRAIN (R427) -/
  | outqDrain (m : Mb) (tail : W32)
  /-- FW_STAGE (R434) -/
  | fwStage (m : Mb) (f : FwImage)
  /-- FW_ACTIVATE (R435) -/
  | fwActivate (m : Mb)
  /-- KELGIL_ACTIVATION (R436) -/
  | kelgilActivation
  /-- BLW_STAGE (R437) -/
  | blwStage (m : Mb) (f : FwImage)
  /-- SITE_CONFIG (R410) -/
  | siteConfig (m : Mb) (e : Envelope) (c : SiteCfg)
  /-- BAR2_MAP (R420) -/
  | bar2Map (m : Mb) (first : Nat) (entries : List W16)
  /-- INSTALL_NONCE (R339) -/
  | installNonce (m : Mb)
  /-- INSTALL (R339) -/
  | install (m : Mb) (e : Envelope) (c : InstallMsg)
  /-- OWNER_KEY (R339) -/
  | ownerKey (m : Mb) (key : List Byte)
  /-- RELEASE (R341) -/
  | release (m : Mb) (e : Envelope)
  /-- RECLAIM (R341) -/
  | reclaim (m : Mb) (e : Envelope)
  /-- KEY_TABLE (R344) -/
  | keyTable (m : Mb) (c : KeyTableMsg) (poison : Option Nat)
  /-- FACTORY_ENTRY (R361) -/
  | factoryEntry (m : Mb) (e : Envelope)
  /-- FACTORY_EXIT (R361) -/
  | factoryExit (m : Mb) (e : Envelope)
  /-- TOKEN_MANIFEST (R293) -/
  | tokenManifest (m : Mb) (e : Envelope) (c : TokenMsg)
  /-- GROUP_UPDATE (R241) -/
  | groupUpdate (m : Mb) (e : Envelope) (c : List GroupUpd)
  /-- AUDIT (R320) -/
  | audit (m : Mb) (e : Envelope) (c : List CapPoint)
  /-- CHECKPOINT (R354) -/
  | checkpoint (m : Mb) (e : Envelope)
  /-- RESUME (R354) -/
  | resume (m : Mb) (c : ResumeMsg)
  /-- PARK (R370) -/
  | park (m : Mb)
  /-- UNPARK (R369) -/
  | unpark (m : Mb)
  /-- DBG_OPEN1 (R364) -/
  | dbgOpen1 (via : Option Mb)
  /-- DEBUG_CLOSE (R364) -/
  | debugClose (via : Option Mb)
  /-- DEBUG_NONCE (R365) -/
  | debugNonce (via : Option Mb)
  /-- DEBUG_TOKEN (R366) -/
  | debugToken (t : DbgToken)
  /-- DEBUG_HALT (R367) -/
  | debugHalt (u : DbgUnit)
  /-- DEBUG_SINGLE_STEP (R367) -/
  | debugSingleStep (u : DbgUnit)
  /-- DEBUG_RESUME (R367) -/
  | debugResume (u : DbgUnit)
  /-- DEBUG_ACCESS (R367) -/
  | debugAccess (a : DbgAccess)
  /-- DEBUG_RESET_REQUEST (R465) -/
  | debugResetRequest
  /-- JTAG_IDCODE (R367) -/
  | jtagIdcode
  /-- JTAG_BYPASS (R367) -/
  | jtagBypass
  /-- JTAG_SAMPLE_PRELOAD (R367) -/
  | jtagSamplePreload
  /-- JTAG_EXTEST (R367) -/
  | jtagExtest
  /-- JTAG_INTEST (R367) -/
  | jtagIntest
  /-- TEST (R396) -/
  | test (m : Mb) (core : W16)
  /-- INFIELD_TEST_DUE (R396) -/
  | infieldTestDue (k : CoreId)
  /-- INFIELD_TEST_COMPLETE (R396) -/
  | infieldTestComplete (pass : Bool)
  /-- TEST_PAUSE (R398) -/
  | testPause (k : CoreId)
  /-- RETUNE (R266) -/
  | retune (m : Mb) (port : W16)
  /-- RESET (R413) -/
  | reset (m : Mb)
  /-- REPLY_ACK (R422) -/
  | replyAck (seq : W32)
  /-- NOTIFICATION_ACK (R422) -/
  | notificationAck (value : W32)
  /-- BAR2_ACCESS (R420) -/
  | bar2Access (off : Nat) (write : Option (List Byte)) (e : BarEnv)
  /-- FWGO (R415) -/
  | fwgo (sigOk : Bool) (poison : Option Nat)
  /-- KELGIL_INIT (R411) -/
  | kelgilInit (e : InitEnv)
  /-- ATTGO (R431) -/
  | attgo
  /-- HIF_RESET (R431) -/
  | hifReset (value : W32)
  /-- HIF_OUTQ_TAIL_WRITE (R433) -/
  | hifOutqTailWrite (value : W32)
  /-- HOST_INTERFACE_RESET (R439) -/
  | hostInterfaceReset (src : HifReset)
  /-- SEAL (R143) -/
  | seal (value : W32)
  /-- UNSEAL (R144) -/
  | unseal (value : W32)
  /-- UPE_RPT_POP (R244) -/
  | upeRptPop (k : CoreId)
  /-- LNK_RETUNE_REQ (R274) -/
  | lnkRetuneReq (value : W32)
  /-- RST_CORE_GO (R472) -/
  | rstCoreGo (value : W32)
  /-- RST_WDOG (R470) -/
  | rstWdog (value : W32)
  /-- WDOG (R470) -/
  | wdog
  /-- EVC_SEL_WRITE (R479) -/
  | evcSelWrite (blk : EvcBlk) (n : Nat) (value : W32)
  /-- EVC_CLEAR (R478) -/
  | evcClear (blk : EvcBlk)
  /-- EVC_CNT_LO_READ (R478) -/
  | evcCntLoRead (blk : EvcBlk) (n : Nat)
  /-- BLW_PREQ (R446) -/
  | blwPreq (value : W32)
  /-- REGISTER_WRITE (R12) -/
  | registerWrite (a : RegAddr) (value : W32)
  /-- TRACE_DRAIN (R485) -/
  | traceDrain (k : CoreId)
  /-- LPDDR_RETRAIN (R155) -/
  | lpddrRetrain (channel : Fin 64)
  /-- LPDDR_REFRESH (R155) -/
  | lpddrRefresh
  /-- STANDBY_START (R441) -/
  | standbyStart (vin : Nat)
  /-- INPUT_VALID (R411) -/
  | inputValid (e : ColdEnv)
  /-- PLL_LOCK (R460) -/
  | pllLock (e : BootEnv)
  /-- PLL_LOCK_LOSS (R460) -/
  | pllLockLoss
  /-- INPUT_LOSS (R453) -/
  | inputLoss
  /-- HOLD_COMPLETE (R454) -/
  | holdComplete
  /-- SUPPLY (R362) -/
  | supply
  /-- CLOCK (R362) -/
  | clock
  /-- SHIELD (R362) -/
  | shield
  /-- SENSOR_SCAN (R449) -/
  | sensorScan (v : Sensors)
  /-- GRANT_TICK (R446) -/
  | grantTick
  /-- DUTY_TICK (R447) -/
  | dutyTick (pin : Nat)
  /-- VALVE_CONTROL_TICK (R450) -/
  | valveControlTick
  /-- FLOW_COUNT_TICK (R449) -/
  | flowCountTick (pulses : Nat)
  /-- TJ1_CAP_REDUCTION (R451) -/
  | tj1CapReduction
  /-- TIN (R451) -/
  | tin
  /-- TOUT (R451) -/
  | tout
  /-- FLOW (R451) -/
  | flow
  /-- VALVE (R451) -/
  | valve
  /-- BANK_LOW (R451) -/
  | bankLow
  /-- ICORE (R442) -/
  | icore
  /-- BANK_CRIT (R451) -/
  | bankCrit
  /-- BUS12 (R442) -/
  | bus12
  /-- CAUSE_CLEAR (R451) -/
  | causeClear (c : BlwCause)
  /-- INPUT_SWITCH_RECLOSE (R451) -/
  | inputSwitchReclose (e : ColdEnv)
  /-- BELLOWS_WATCHDOG (R455) -/
  | bellowsWatchdog
  /-- NVM_REQ (R495) -/
  | nvmReq
  /-- AUTHENTICATED_WRITE_COMPLETE (R408) -/
  | authenticatedWriteComplete
  /-- SCRUB_COMPLETE (R372) -/
  | scrubComplete
  /-- LPDDR_RETRAIN_COMPLETE (R155) -/
  | lpddrRetrainComplete
  /-- STANDBY_OFF (R441) -/
  | standbyOff
  /-- PERST_DEASSERT (R492) -/
  | perstDeassert
  /-- NVM_REQ_RELEASE (R495) -/
  | nvmReqRelease
  /-- UNASSIGNED_TYPE (R427) -/
  | unassignedType (m : Mb) (type : W16)
  deriving DecidableEq, Repr

end Sys2Proof
end

