-- ==== Sys2Proof/Machine/Bytes.lean ====
section
/-! DEFINITION. Bit fields and byte order (R10): every multi-byte value is little-endian. -/

namespace Sys2Proof.Machine

open Sys2Proof

/-- The `n` bits of `v` from bit `lo` on. -/
def bitsAt (v lo n : Nat) : Nat := v / 2 ^ lo % 2 ^ n

/-- One bit of `v`. -/
def bitAt (v lo : Nat) : Bool := v / 2 ^ lo % 2 = 1

/-- The `n` bytes of `v`, least significant first. -/
def leBytes : Nat → Nat → List Byte
  | 0, _ => []
  | n + 1, v => BitVec.ofNat 8 v :: leBytes n (v / 256)

/-- The number a list of bytes spells, least significant first. -/
def leNat : List Byte → Nat
  | [] => 0
  | b :: bs => b.toNat + 256 * leNat bs

/-- `n` bytes of a list from `off` on; bytes beyond its end read zero. -/
def slice (bs : List Byte) (off n : Nat) : List Byte :=
  let xs := (bs.drop off).take n
  xs ++ List.replicate (n - xs.length) 0

/-- The little-endian number of `n` bytes from `off` on. -/
def leAt (bs : List Byte) (off n : Nat) : Nat := leNat (slice bs off n)

/-- Split a list into chunks of `n` (n > 0); `fuel` bounds their number. -/
def chunksOf (n : Nat) : Nat → List Byte → List (List Byte)
  | 0, _ => []
  | fuel + 1, xs => if xs.isEmpty then [] else xs.take n :: chunksOf n fuel (xs.drop n)

end Sys2Proof.Machine
end

