-- ==== Sys2Proof/Machine/Crypto.lean ====
section
/-! DEFINITION. The standard functions the spec names: the CRCs of check values (R378), AES-256 (R223) and SHAKE256
(R192, R222). Their definitions are those of their standards (FIPS 197 and FIPS 202, PRESUMED, log 18). -/

namespace Sys2Proof

open Sys2Proof.Machine

/-! The header of a firmware image (R414). -/

def FwImage.magic (f : FwImage) : Nat := leAt f.bytes 0x00 4
def FwImage.fmt (f : FwImage) : Nat := leAt f.bytes 0x04 2
def FwImage.kver (f : FwImage) : W32 := BitVec.ofNat 32 (leAt f.bytes 0x08 4)
def FwImage.svn (f : FwImage) : W32 := BitVec.ofNat 32 (leAt f.bytes 0x0C 4)
def FwImage.len (f : FwImage) : Nat := leAt f.bytes 0x10 8
def FwImage.mask (f : FwImage) : W32 := BitVec.ofNat 32 (leAt f.bytes 0x18 4)
def FwImage.romMin (f : FwImage) : Nat := leAt f.bytes 0x1C 2
def FwImage.romMax (f : FwImage) : Nat := leAt f.bytes 0x1E 2
def FwImage.blwMin (f : FwImage) : Nat := leAt f.bytes 0x20 4
def FwImage.blwMax (f : FwImage) : Nat := leAt f.bytes 0x24 4
def FwImage.mbxMin (f : FwImage) : Nat := leAt f.bytes 0x28 1
def FwImage.mbxMax (f : FwImage) : Nat := leAt f.bytes 0x29 1
def FwImage.lnkMin (f : FwImage) : Nat := leAt f.bytes 0x2A 1
def FwImage.lnkMax (f : FwImage) : Nat := leAt f.bytes 0x2B 1

/-- The layout of R414 but for MAGIC and FMT: zeros where it has zeros, and header, a body of LEN bytes and a signature of 1,280 in at
most 512 MiB. An image that breaks it fails the format check (log 160). -/
def FwImage.laidOut (f : FwImage) : Bool :=
  leAt f.bytes 0x06 2 = 0 && leAt f.bytes 0x2C 20 = 0 && decide (f.len + 64 + 1280 ≤ 0x20000000)
    && decide (f.bytes.length = f.len + 64 + 1280)

end Sys2Proof

namespace Sys2Proof.Machine

open Sys2Proof

/-! CRCs (R378). -/

/-- One bit of a reflected CRC of 32 bits with reversed generator `g`. -/
def crcRefBit (g : W32) (c : W32) : W32 := if c.getLsbD 0 then (c >>> 1) ^^^ g else c >>> 1

/-- One byte of a reflected CRC. -/
def crcRefByte (g : W32) (c : W32) (b : Byte) : W32 :=
  let c0 := c ^^^ b.setWidth 32
  crcRefBit g (crcRefBit g (crcRefBit g (crcRefBit g (crcRefBit g (crcRefBit g (crcRefBit g (crcRefBit g c0)))))))

/-- A reflected 32-bit CRC with initial value and final XOR of all ones. -/
def crcRef (g : W32) (bs : List Byte) : W32 := (bs.foldl (crcRefByte g) 0xFFFFFFFF#32) ^^^ 0xFFFFFFFF#32

/-- CRC-32C, generator 0x1EDC6F41, reflected. -/
def crc32c (bs : List Byte) : W32 := crcRef 0x82F63B78#32 bs

/-- CRC-32 of IEEE 802.3, generator 0x04C11DB7, reflected. -/
def crc32 (bs : List Byte) : W32 := crcRef 0xEDB88320#32 bs

/-- One bit of CRC-64 (ECMA-182), not reflected. -/
def crc64Bit (c : W64) : W64 := if c.msb then (c <<< 1) ^^^ 0x42F0E1EBA9EA3693#64 else c <<< 1

/-- One byte of CRC-64. -/
def crc64Byte (c : W64) (b : Byte) : W64 :=
  let c0 := c ^^^ (b.setWidth 64 <<< 56)
  crc64Bit (crc64Bit (crc64Bit (crc64Bit (crc64Bit (crc64Bit (crc64Bit (crc64Bit c0)))))))

/-- CRC-64 (ECMA-182), initial value 0, no final XOR. -/
def crc64 (bs : List Byte) : W64 := bs.foldl crc64Byte 0

/-- The CRV field for a polynomial code (R378, R379). -/
def crvOf (cvp : Nat) (bs : List Byte) : BitVec 44 :=
  match cvp with
  | 0 => (crc32c bs).setWidth 44
  | 1 => (crc32 bs).setWidth 44
  | _ => (crc64 bs).setWidth 44

/-! AES-256. -/

/-- The S-box. -/
def aesSbox : List Nat :=
  [99, 124, 119, 123, 242, 107, 111, 197, 48, 1, 103, 43, 254, 215, 171, 118, 202, 130, 201, 125, 250, 89, 71, 240, 173, 212, 162, 175, 156, 164, 114, 192] ++
  [183, 253, 147, 38, 54, 63, 247, 204, 52, 165, 229, 241, 113, 216, 49, 21, 4, 199, 35, 195, 24, 150, 5, 154, 7, 18, 128, 226, 235, 39, 178, 117] ++
  [9, 131, 44, 26, 27, 110, 90, 160, 82, 59, 214, 179, 41, 227, 47, 132, 83, 209, 0, 237, 32, 252, 177, 91, 106, 203, 190, 57, 74, 76, 88, 207] ++
  [208, 239, 170, 251, 67, 77, 51, 133, 69, 249, 2, 127, 80, 60, 159, 168, 81, 163, 64, 143, 146, 157, 56, 245, 188, 182, 218, 33, 16, 255, 243, 210] ++
  [205, 12, 19, 236, 95, 151, 68, 23, 196, 167, 126, 61, 100, 93, 25, 115, 96, 129, 79, 220, 34, 42, 144, 136, 70, 238, 184, 20, 222, 94, 11, 219] ++
  [224, 50, 58, 10, 73, 6, 36, 92, 194, 211, 172, 98, 145, 149, 228, 121, 231, 200, 55, 109, 141, 213, 78, 169, 108, 86, 244, 234, 101, 122, 174, 8] ++
  [186, 120, 37, 46, 28, 166, 180, 198, 232, 221, 116, 31, 75, 189, 139, 138, 112, 62, 181, 102, 72, 3, 246, 14, 97, 53, 87, 185, 134, 193, 29, 158] ++
  [225, 248, 152, 17, 105, 217, 142, 148, 155, 30, 135, 233, 206, 85, 40, 223, 140, 161, 137, 13, 191, 230, 66, 104, 65, 153, 45, 15, 176, 84, 187, 22]

/-- A byte through the S-box. -/
def aesSub (b : Byte) : Byte := BitVec.ofNat 8 (aesSbox.getD b.toNat 0)

/-- Multiplication by x in the AES field. -/
def aesX (b : Byte) : Byte := if b.msb then (b <<< 1) ^^^ 0x1B#8 else b <<< 1

/-- XOR of byte lists. -/
def xorBytes (a b : List Byte) : List Byte := List.zipWith (· ^^^ ·) a b

/-- The next words of the key schedule from the last 32 bytes: `i` counts words, `n` words remain; newest bytes last. -/
def aesExpand (i : Nat) (rc : Byte) : Nat → List Byte → List Byte
  | 0, ks => ks
  | n + 1, ks =>
    let l := ks.length
    let prev := ks.drop (l - 4)
    let back := (ks.drop (l - 32)).take 4
    let rot := prev.drop 1 ++ prev.take 1
    let t :=
      if i % 8 = 0 then xorBytes (rot.map aesSub) [rc, 0, 0, 0]
      else if i % 8 = 4 then prev.map aesSub
      else prev
    aesExpand (i + 1) (if i % 8 = 0 then aesX rc else rc) n (ks ++ xorBytes back t)

/-- The 240 bytes of the AES-256 key schedule. -/
def aesKeys (key : List Byte) : List Byte := aesExpand 8 1 52 key

/-- ShiftRows on 16 bytes in column order. -/
def aesShift (s : List Byte) : List Byte :=
  [0, 5, 10, 15, 4, 9, 14, 3, 8, 13, 2, 7, 12, 1, 6, 11].map fun i => s.getD i 0

/-- MixColumns on one column. -/
def aesMixCol (c : List Byte) : List Byte :=
  match c with
  | [a, b, d, e] =>
    [aesX a ^^^ (aesX b ^^^ b) ^^^ d ^^^ e, a ^^^ aesX b ^^^ (aesX d ^^^ d) ^^^ e,
      a ^^^ b ^^^ aesX d ^^^ (aesX e ^^^ e), (aesX a ^^^ a) ^^^ b ^^^ d ^^^ aesX e]
  | _ => c

/-- MixColumns. -/
def aesMix (s : List Byte) : List Byte :=
  aesMixCol (s.take 4) ++ aesMixCol ((s.drop 4).take 4) ++ aesMixCol ((s.drop 8).take 4) ++ aesMixCol (s.drop 12)

/-- Rounds `r` to 13 of AES-256. -/
def aesRounds (ks : List Byte) : Nat → Nat → List Byte → List Byte
  | 0, _, s => s
  | n + 1, r, s => aesRounds ks n (r + 1) (xorBytes (aesMix (aesShift (s.map aesSub))) ((ks.drop (16 * r)).take 16))

/-- AES-256 encryption of one block of 16 bytes. -/
def aes256 (key blk : List Byte) : List Byte :=
  let ks := aesKeys key
  let s := aesRounds ks 13 1 (xorBytes blk (ks.take 16))
  xorBytes (aesShift (s.map aesSub)) ((ks.drop 224).take 16)

/-! SHAKE256. -/

/-- Round constants of Keccak-f[1600]. -/
def keccakRC : List W64 :=
  [0x1, 0x8082, 0x800000000000808A, 0x8000000080008000,
   0x808B, 0x80000001, 0x8000000080008081, 0x8000000000008009,
   0x8A, 0x88, 0x80008009, 0x8000000A,
   0x8000808B, 0x800000000000008B, 0x8000000000008089, 0x8000000000008003,
   0x8000000000008002, 0x8000000000000080, 0x800A, 0x800000008000000A,
   0x8000000080008081, 0x8000000000008080, 0x80000001, 0x8000000080008008]

/-- Rotation offsets, lane x + 5 y. -/
def keccakRot : List Nat := [0, 1, 62, 28, 27, 36, 44, 6, 55, 20, 3, 10, 43, 25, 39, 41, 45, 15, 21, 8, 18, 2, 61, 56, 14]

/-- One round of Keccak-f[1600] on 25 lanes. -/
def keccakRound (a : List W64) (rc : W64) : List W64 :=
  let g := fun i => a.getD i 0
  let c := (List.range 5).map fun x => g x ^^^ g (x + 5) ^^^ g (x + 10) ^^^ g (x + 15) ^^^ g (x + 20)
  let d := (List.range 5).map fun x => c.getD ((x + 4) % 5) 0 ^^^ (c.getD ((x + 1) % 5) 0).rotateLeft 1
  let t := (List.range 25).map fun i => (g i ^^^ d.getD (i % 5) 0).rotateLeft (keccakRot.getD i 0)
  let b := (List.range 25).map fun i => let x := i % 5; let y := i / 5
    -- lane (x, y) of the permuted state comes from lane ((x + 3 y) mod 5, x)
    t.getD ((x + 3 * y) % 5 + 5 * x) 0
  let e := (List.range 25).map fun i => let x := i % 5; let y := i / 5
    b.getD i 0 ^^^ (~~~ (b.getD ((x + 1) % 5 + 5 * y) 0) &&& b.getD ((x + 2) % 5 + 5 * y) 0)
  match e with
  | [] => []
  | l :: ls => (l ^^^ rc) :: ls

/-- The permutation. -/
def keccakF (a : List W64) : List W64 := keccakRC.foldl keccakRound a

/-- The lanes of a block of bytes. -/
def lanesOf : Nat → List Byte → List W64
  | 0, _ => []
  | n + 1, bs => BitVec.ofNat 64 (leNat (bs.take 8)) :: lanesOf n (bs.drop 8)

/-- The bytes of lanes. -/
def bytesOfLanes (a : List W64) : List Byte := a.flatMap fun l => leBytes 8 l.toNat

/-- Absorb blocks of 136 bytes; `n` bounds their number. -/
def shakeAbsorb : Nat → List Byte → List W64 → List W64
  | 0, _, a => a
  | n + 1, bs, a =>
    if bs.isEmpty then a
    else
      let l := lanesOf 17 (bs.take 136)
      shakeAbsorb n (bs.drop 136) (keccakF (List.zipWith (· ^^^ ·) a (l ++ List.replicate 8 0)))

/-- Pad a message for SHAKE256: 0x1F, zeros, and the top bit of the last byte of the block. -/
def shakePad (m : List Byte) : List Byte :=
  let k := 136 - m.length % 136
  if k = 1 then m ++ [0x9F#8] else m ++ [0x1F#8] ++ List.replicate (k - 2) 0 ++ [0x80#8]

/-- The first `n` bytes of SHAKE256, n at most 136. -/
def shake256 (n : Nat) (m : List Byte) : List Byte :=
  let p := shakePad m
  let a := shakeAbsorb (p.length / 136) p (List.replicate 25 0)
  (bytesOfLanes (a.take 17)).take n

/-- A 64-byte digest as one little-endian number. -/
def digestOf (m : List Byte) : Digest := BitVec.ofNat 512 (leNat (shake256 64 m))

/-- The step key K(g, S) of R222. -/
def stepKey (seed : W128) (g : Nat) (s : W64) : List Byte :=
  shake256 32 (leBytes 16 seed.toNat ++ leBytes 8 s.toNat ++ leBytes 2 g)

/-- The random word of R223. -/
def randWord (key : List Byte) (h : W16) (tag : W32) (x n : Nat) : W32 :=
  let blk := n / 4 % 2 ^ 48 + h.toNat * 2 ^ 48 + tag.toNat * 2 ^ 64 + x % 2 ^ 32 * 2 ^ 96
  BitVec.ofNat 32 (leNat (aes256 key (leBytes 16 blk)) / 2 ^ (32 * (n % 4)))

/-! AES-256-GCM with a 96-bit IV (NIST SP 800-38D), as R349 to R353 use it. -/

/-- One step of the GHASH product: x · α in the field's bit order. -/
def ghashX (v : W128) : W128 := if v.getLsbD 0 then (v >>> 1) ^^^ (0xE1#128 <<< 120) else v >>> 1

/-- Product of two field elements, most significant bit first. -/
def ghashMul (x y : W128) : W128 :=
  ((List.range 128).foldl (fun (a : W128 × W128) i =>
    (if x.getLsbD (127 - i) then a.1 ^^^ a.2 else a.1, ghashX a.2)) ((0 : W128), y)).1

/-- A big-endian number of bytes. -/
def beNat (bs : List Byte) : Nat := bs.foldl (fun a b => a * 256 + b.toNat) 0

/-- The `n` big-endian bytes of a number. -/
def beBytes (n v : Nat) : List Byte := (leBytes n v).reverse

/-- GHASH of whole blocks. -/
def ghash (h : W128) (bs : List Byte) : W128 :=
  (chunksOf 16 ((bs.length + 15) / 16) bs).foldl (fun y b =>
    ghashMul (y ^^^ BitVec.ofNat 128 (beNat (b ++ List.replicate (16 - b.length) 0))) h) 0

/-- Bytes padded with zeros to whole blocks. -/
def padBlock (bs : List Byte) : List Byte := bs ++ List.replicate ((16 - bs.length % 16) % 16) 0

/-- The counter stream from counter 2 on, applied to bytes. -/
def gcmCtr (key iv : List Byte) (bs : List Byte) : List Byte :=
  ((chunksOf 16 ((bs.length + 15) / 16) bs).zipIdx).flatMap fun b => xorBytes b.1 (aes256 key (iv ++ beBytes 4 (b.2 + 2)))

/-- The tag of a ciphertext. -/
def gcmTag (key iv aad c : List Byte) : List Byte :=
  let h := BitVec.ofNat 128 (beNat (aes256 key (List.replicate 16 0)))
  let g := ghash h (padBlock aad ++ padBlock c ++ beBytes 8 (8 * aad.length) ++ beBytes 8 (8 * c.length))
  xorBytes (beBytes 16 g.toNat) (aes256 key (iv ++ beBytes 4 1))

/-- Encrypt: ciphertext and tag. -/
def gcmSeal (key iv aad plain : List Byte) : List Byte × List Byte :=
  let c := gcmCtr key iv plain
  (c, gcmTag key iv aad c)

/-- Decrypt: the plaintext of a ciphertext whose tag checks. -/
def gcmOpen (key iv aad c tag : List Byte) : Option (List Byte) :=
  if gcmTag key iv aad c = tag then some (gcmCtr key iv c) else none

/-- The bytes of an ASCII string. -/
def ascii (s : String) : List Byte := s.toList.map fun c => BitVec.ofNat 8 c.toNat

end Sys2Proof.Machine

namespace Sys2Proof

/-- The digest of a firmware image: over all of its bytes (log 160). -/
def FwImage.digest (f : FwImage) : Digest := Machine.digestOf f.bytes

end Sys2Proof
end

