-- ==== Sys2Proof/Machine/Map.lean ====
section
/-! DEFINITION. Sparse tables: reading and writing an array held as the sorted list of its entries that differ from a
default, and the canonical form every such list keeps. -/

namespace Sys2Proof.Machine

/-- The entry at `k`; `d` where none is listed. -/
def SMap.get {α : Type} (d : α) : SMap α → Nat → α
  | [], _ => d
  | (i, a) :: m, k => if i = k then a else SMap.get d m k

/-- Is `k` listed. -/
def SMap.has {α : Type} (m : SMap α) (k : Nat) : Bool := m.any fun e => e.1 == k

/-- The listed entry at `k`, if any. -/
def SMap.find {α : Type} (m : SMap α) (k : Nat) : Option α := (m.find? fun e => e.1 == k).map (·.2)

/-- Put an entry before the first one of a greater index. -/
def SMap.ins {α : Type} (k : Nat) (a : α) : SMap α → SMap α
  | [] => [(k, a)]
  | (i, b) :: m => if k < i then (k, a) :: (i, b) :: m else (i, b) :: SMap.ins k a m

/-- Put `a` at `k`, keeping the indexes rising. Writing the default removes the entry. -/
def SMap.set {α : Type} [DecidableEq α] (d : α) (m : SMap α) (k : Nat) (a : α) : SMap α :=
  let r := m.filter fun e => e.1 ≠ k
  if a = d then r else SMap.ins k a r

/-- The canonical form: indexes strictly rising, no entry equal to the default. -/
def SMap.wf {α : Type} [DecidableEq α] (d : α) (m : SMap α) : Bool :=
  (m.map (·.1)).Pairwise (· < ·) && m.all fun e => e.2 ≠ d

/-- The table of `f 0` to `f (n - 1)`. -/
def SMap.ofFn {α : Type} [DecidableEq α] (d : α) (n : Nat) (f : Nat → α) : SMap α :=
  (List.range n).filterMap fun i => if f i = d then none else some (i, f i)

/-- Apply `f` to every listed entry, dropping the ones it sends to the default. -/
def SMap.mapVals {α : Type} [DecidableEq α] (d : α) (f : Nat → α → α) : SMap α → SMap α
  | [] => []
  | (i, a) :: m => SMap.set d (SMap.mapVals d f m) i (f i a)

/-- Write the consecutive values `xs` from index `k` on. -/
def SMap.setList {α : Type} [DecidableEq α] (d : α) (m : SMap α) (k : Nat) : List α → SMap α
  | [] => m
  | a :: xs => SMap.setList d (SMap.set d m k a) (k + 1) xs

/-- Replace the entries of the indexes `i` to `i + n - 1` by `f` of the index and the entry, in one pass over the list. -/
def SMap.updFrom {α : Type} [DecidableEq α] (d : α) (f : Nat → α → α) : Nat → Nat → SMap α → SMap α
  | 0, _, m => m
  | n + 1, i, [] =>
    let a := f i d
    if a = d then SMap.updFrom d f n (i + 1) [] else (i, a) :: SMap.updFrom d f n (i + 1) []
  | n + 1, i, (j, b) :: m =>
    if j = i then
      let a := f i b
      if a = d then SMap.updFrom d f n (i + 1) m else (i, a) :: SMap.updFrom d f n (i + 1) m
    else
      let a := f i d
      if a = d then SMap.updFrom d f n (i + 1) ((j, b) :: m) else (i, a) :: SMap.updFrom d f n (i + 1) ((j, b) :: m)

/-- Are the indexes strictly rising. -/
def SMap.rising {α : Type} : SMap α → Bool
  | [] => true
  | [_] => true
  | x :: y :: m => decide (x.1 < y.1) && SMap.rising (y :: m)

/-- Replace the entries of the indexes below `n` by `f` of the index and the entry. A list of rising indexes, as every
table of the module is, is walked once. -/
def SMap.upd {α : Type} [DecidableEq α] (d : α) (n : Nat) (f : Nat → α → α) (m : SMap α) : SMap α :=
  if SMap.rising m then SMap.updFrom d f n 0 m
  else (SMap.ofFn d n fun i => f i (SMap.get d m i)) ++ m.filter fun e => n ≤ e.1

end Sys2Proof.Machine
end

