-- ==== Sys2Proof/Config.lean ====
section
/-! DEFINITION. What an implementation fixes and the spec leaves open: free values without a body. No proof can see
what they are. -/

namespace Sys2Proof

/-- Fresh random bits (R263, R339, R346, R365): the n-th draw of the module's random source. -/
opaque Config.entropy : Nat → BitVec 256

/-- A Long Tally word whose addends weigh more than 2^42, whose value R66 leaves undefined: the n-th such value. -/
opaque Config.freeLt : Nat → BitVec 320

/-- A T128 element to which R73 adds a product outside 128 bits (an inherited anchor far below its products), whose
word the spec does not state: the n-th such value. -/
opaque Config.freeTally : Nat → BitVec 128

/-- An FP32 word the spec states no result for: the n-th such value. -/
opaque Config.freeF32 : Nat → BitVec 32

/-- A byte whose value the spec does not state: the n-th such value. -/
opaque Config.freeByte : Nat → BitVec 8

/-- POS of the slot of a rank whose two shards are empty, by step counter and micro-batch (R294): 21 bits the spec gives no
rule for. -/
opaque Config.emptyPos : BitVec 64 → BitVec 32 → BitVec 21

/-! Falcon-1024 and ML-KEM-1024 are standards that the spec names and does not state (R334, R263). -/

/-- The Falcon-1024 public key whose generation draws its random bytes from SHAKE256 over these bytes (R334). -/
opaque Config.falconPub : List (BitVec 8) → List (BitVec 8)

/-- The Falcon-1024 signature, in padded format, under that key pair of a message (R336). -/
opaque Config.falconSign : List (BitVec 8) → List (BitVec 8) → List (BitVec 8)

/-- The encapsulation key of ML-KEM.KeyGen_internal(d, z), with d ‖ z as given (R334, R263). -/
opaque Config.kemPub : BitVec 512 → List (BitVec 8)

/-- The shared secret that the decapsulation key of that pair finds in a ciphertext. -/
opaque Config.kemOpen : BitVec 512 → List (BitVec 8) → BitVec 256

/-- Encapsulation to a key with random bytes: the ciphertext and the shared secret. -/
opaque Config.kemSeal : List (BitVec 8) → BitVec 256 → List (BitVec 8) × BitVec 256

/-! What differs from module to module, or from one image to the next. -/

/-- SERIAL of the factory part (R406): ASCII, padded with zeros. -/
opaque Config.serial : BitVec 256

/-- The NVM identifiers of the counters (CTRID, R406). -/
opaque Config.ctrids : List (BitVec 32)

/-- The check value that HELPER carries (R333). -/
opaque Config.helperCheck : BitVec 256

/-- The 8,192 bytes of HELPER (R406). -/
opaque Config.helper : List (BitVec 8)

/-- Tolval's endorsement of the module's keys (R336, R406). -/
opaque Config.endorsement : List (BitVec 8)

/-- Tolval's signature of the factory part (R406). -/
opaque Config.factorySig : List (BitVec 8)

/-- SHAKE256 of the boot ROM (R337). -/
opaque Config.romDigest : BitVec 512

/-- SHAKE256 of the Bellows image that a module is shipped with (R337). -/
opaque Config.bellowsDigest : BitVec 512

/-- The digest of Tolval's vendor public key (R336, R341, R361, R365), held in the boot ROM. -/
opaque Config.vendorKey : BitVec 512

/-- The digest of the core code into which a Kelgil version translates an image, given by the image's digest (R202): core
code is no interface. -/
opaque Config.codeDigest : BitVec 32 → BitVec 512 → BitVec 512

/-! Kelgil assigns the types and bodies of its own messages, and no rule lays out a hello (R260, R262). -/

/-- Byte 5 of the route header of a message. -/
opaque Config.ctlType : CtlMsg → Byte

/-- The 240 bytes of a message behind its route header. -/
opaque Config.ctlBody : CtlMsg → List Byte

/-- The signed bytes of a hello. -/
opaque Config.helloBytes : Hello → List Byte

end Sys2Proof
end

