-- ==== Sys2Proof/Machine/State/BlwT.lean ====
section
/-! DEFINITION. The state of Bellows (R441-R457) and of clocks and resets (R458-R472). -/

namespace Sys2Proof.Machine

open Sys2Proof

/-- The factory limits (R444). -/
def facLimits : Limits :=
  { pinMax := 1800, pPeak := 2100, pPeakT := 10, iinMax := 4600, rampUp := 500, grantLead := 200, tjSet := 8500, tj1 := 9500,
    tj2 := 10500, tj3 := 11500, tinMax := 4000, toutMax := 6000, flowMin := 30, kFlow := 1000, vMin := 1500, slew := 2500,
    kp := 300, ti := 200, rlIn := 0, rlOut := 0 }

/-- No site value in any field (R444). -/
def noLimits : Limits := ⟨0, 0, 0, 0, 0, 0, 0, 0, 0, 0, 0, 0, 0, 0, 0, 0, 0, 0, 0, 0⟩

/-- Bellows. Temperatures in 0.01 °C, valve in 0.01 % of its stroke, power in W, energy in 0.01 J, as the registers of
R456 have them. `causes` are the codes in force (R451), `cap1` the cap that level-1 causes have brought down, `preqWas` the request
at the last computation of the grant, `preqOk` the request that the grant may rise to (R446), `toutOut` whether the outlet's term has been
dropped for the cause COOLSENS (R451), `lim` the limits it has read (R444), `shown` whether it has updated the registers of R456 since the die's last release. -/
structure Blw where
  powered  : Bool
  switch   : Bool
  ramp     : Bool
  causes   : List Nat
  last3    : Nat
  preq     : Nat
  preqWas  : Nat
  preqOk   : Nat
  grant    : Nat
  frac     : Nat
  lead     : Nat
  duty     : Nat
  overMs   : Nat
  lowMs    : Nat
  vin      : Nat
  iin      : Nat
  pin      : Nat
  pavg     : Int
  vcore    : Nat
  icore    : Nat
  tj       : Int
  tjsens   : Nat
  nvalid   : Nat
  tin      : Int
  tout     : Int
  tinBad   : Bool
  toutBad  : Bool
  toutOut  : Bool
  flow     : Nat
  pulses   : List Nat
  vcmd     : Int
  vpos     : Nat
  integ    : Int
  vbank    : Nat
  recharge : Bool
  worn     : Bool
  noStart  : Bool
  cap1     : Nat
  capRise  : Nat
  l2       : W16
  l3       : W16
  lock3    : Option Nat
  emergEnd : Option Nat
  bank     : Bool
  bver     : W32
  bsvn     : W32
  bdigest  : Digest
  ms       : Nat
  lim      : Limits
  shown    : Bool
  deriving DecidableEq, Repr

/-- Without input: nothing runs; registers at their reset values (R456). -/
def Blw.zero : Blw :=
  { powered := false, switch := false, ramp := false, causes := [], last3 := 0, preq := 0, preqWas := 0, preqOk := 0, grant := 0, frac := 0, lead := 0,
    duty := 64, overMs := 0, lowMs := 0, vin := 0, iin := 0, pin := 0, pavg := 0, vcore := 0, icore := 0, tj := 0,
    tjsens := 0, nvalid := 0, tin := 0, tout := 0, tinBad := false, toutBad := false, toutOut := false, flow := 0, pulses := [], vcmd := 0,
    vpos := 0, integ := 0, vbank := 0, recharge := false, worn := false, noStart := false, cap1 := 0, capRise := 0, l2 := 0,
    l3 := 0, lock3 := none, emergEnd := none, bank := false, bver := 0, bsvn := 0, bdigest := Config.bellowsDigest, ms := 0,
    lim := facLimits, shown := false }

/-- Clocks and resets: the PLL, the module in reset, the registers of R471, a core reset under way and a held GO, the
watchdog. -/
structure Rst where
  locked  : Bool
  dieUp   : Bool
  pcieRef : Bool
  cause   : Nat
  core    : Nat
  busy    : Bool
  heldGo  : Bool
  wdogOn  : Bool
  wdogMs  : Nat
  deriving DecidableEq, Repr

def Rst.zero : Rst := ⟨false, false, false, 0, 0, false, false, false, 0⟩

/-- In-field tests (R396-R398): the cores asked for, oldest first, and the core under test. -/
structure Tst where
  queue   : List CoreId
  running : Option CoreId
  deriving DecidableEq, Repr

def Tst.zero : Tst := ⟨[], none⟩

end Sys2Proof.Machine
end

