-- ==== Sys2Proof/Machine/State/CoreT.lean ====
section
/-! DEFINITION. The state of one core: Tally tiles, tile registers, Long Tally registers, the engines' register blocks,
the scoreboard, fetch and loops, counters and traces. -/

namespace Sys2Proof.Machine

open Sys2Proof

/-- One element of a Tally tile (R60, R62, R72, R81, R102): word, wrap byte, anchor, and the residue its cell keeps of
the exact products it formed. -/
structure TEl where
  w    : W128
  wrap : Byte
  anc  : W16
  rho  : W16
  deriving DecidableEq, Repr

/-- Zero word, zero wrap byte, empty anchor (R84). -/
def TEl.zero : TEl := ⟨0, 0, 0x8000#16, 0⟩

/-- A Tally tile (R81, R83, R101, R102): elements at 128 r + c, status word fields, and the checksum words and
residues that travel with it. `rounded`: a command of its chain rounds or truncates, so residues check it and not sums; `used`: the
corners (rows, columns) that the chain's commands have worked on since its OVW; `ops`: the handles they have read. -/
structure Tile where
  els   : SMap TEl
  sat   : Bool
  anch  : Bool
  kind  : BitVec 2
  width : BitVec 2
  colC  : SMap (BitVec 136)
  rowC  : SMap (BitVec 136)
  colR  : SMap W16
  rowR  : SMap W16
  rounded : Bool
  used  : List (Nat × Nat)
  ops   : List W16
  deriving DecidableEq, Repr

/-- A tile at its values of R84. -/
def Tile.zero : Tile := ⟨[], false, false, 0, 0, [], [], [], [], false, [], []⟩

/-- A word of a tile register with its wrap byte (R108, R110). -/
structure VEl where
  w    : W32
  wrap : Byte
  deriving DecidableEq, Repr

def VEl.zero : VEl := ⟨0, 0⟩

/-- A tile register (R108, R111): words at 64 r + c, and the two sticky bits. -/
structure VReg where
  els  : SMap VEl
  ovf  : Bool
  nfin : Bool
  deriving DecidableEq, Repr

def VReg.zero : VReg := ⟨[], false, false⟩

/-- A Long Tally register of one lane (R65, R66): the word, and the weight of the addends since it was overwritten,
which R66 bounds (the module holds no such count: the bound is on what the spec defines). -/
structure LtEl where
  w      : W320
  weight : Nat
  deriving DecidableEq, Repr

def LtEl.zero : LtEl := ⟨0, 0⟩

/-- A grid slot of the matrix engine (R288). -/
structure GExp where
  e      : W16
  wide   : Bool
  gmax   : BitVec 31
  govf   : Bool
  bmaxlo : W32
  bmaxhi : W32
  deriving DecidableEq, Repr

def GExp.zero : GExp := ⟨0, false, 0, false, 0x7FFFFFFF, 0⟩

/-- Matrix-engine registers (R106). BUSY, CHKHOLD and GPASS follow from the commands in flight. -/
structure Mxe where
  wtile    : BitVec 3
  wvalid   : Bool
  mismatch : W16
  reexec   : W16
  tag      : W32
  valid    : Bool
  kind     : BitVec 2
  index    : BitVec 7
  tile     : BitVec 3
  deriving DecidableEq, Repr

def Mxe.zero : Mxe := ⟨0, false, 0, 0, 0, false, 0, 0, 0⟩

/-- Vector-engine registers (R133). -/
structure Vxe where
  mismatch : W16
  reexec   : W16
  tag      : W32
  valid    : Bool
  kind     : BitVec 3
  lane     : BitVec 6
  deriving DecidableEq, Repr

def Vxe.zero : Vxe := ⟨0, 0, 0, false, 0, 0⟩

/-- A report of an UPD (R244). -/
structure Rpt where
  tag   : W32
  layer : W16
  skip  : Bool
  dmax  : W32
  deriving DecidableEq, Repr

/-- Scalars of a group in the update engine (R246). -/
structure GScal where
  lr  : W32
  wd  : W32
  bc1 : W32
  bc2 : W32
  deriving DecidableEq, Repr

def GScal.zero : GScal := ⟨0, 0, 0x3F800000, 0x3F800000⟩

/-- A layer slot of the update engine (R246). -/
structure LSlot where
  ls  : BitVec 7
  e   : W16
  lrs : W32
  deriving DecidableEq, Repr

def LSlot.zero : LSlot := ⟨0, 0, 0⟩

/-- Update-engine registers (R246). -/
structure Upe where
  rows     : W32
  tag      : W32
  skips    : W32
  done     : W32
  rpt      : List Rpt
  mismatch : W16
  reexec   : W16
  gscal    : SMap GScal
  lslot    : SMap LSlot
  deriving DecidableEq, Repr

def Upe.zero : Upe := ⟨0, 0, 0, 0, [], 0, 0, [], []⟩

/-- Check-value unit registers (R402), and the bad-block charges since the last passing test (R382). -/
structure Cvu where
  failhold  : Bool
  moving    : Bool
  transient : W16
  bad       : W16
  addr      : BitVec 48
  kind      : BitVec 2
  valid     : Bool
  charges   : Nat
  deriving DecidableEq, Repr

def Cvu.zero : Cvu := ⟨false, false, 0, 0, 0, 0, false, 0⟩

/-- An event counter (R478, R479). `src` is 8 bits wide in a core block and 9 in the module block. -/
structure EvCnt where
  src  : Nat
  en   : Bool
  mode : Bool
  wrap : Bool
  cnt  : BitVec 48
  hi   : W16
  deriving DecidableEq, Repr

/-- An event-counter block: counters that differ from reset, FREEZE, and whether MODE 1 counters count now. -/
structure Evc where
  cnts   : SMap EvCnt
  freeze : Bool
  live   : Bool
  deriving DecidableEq, Repr

def Evc.zero : Evc := ⟨[], false, false⟩

/-- A trace record (R484). Its step and attempt are those of the log entry that takes it (R484). -/
structure TraceRec where
  tag    : W32
  iter   : List W32
  kind   : Nat
  engine : Nat
  core   : W16
  deriving DecidableEq, Repr

/-- Trace block of a core (R487) and its FIFO (R485). `lostLogged` is what TRACE_LOST entries have told. -/
structure Trc where
  kinds      : BitVec 10
  stall      : Bool
  taglo      : W32
  taghi      : W32
  lost       : W32
  fifo       : List TraceRec
  lostLogged : W32
  deriving DecidableEq, Repr

def Trc.zero : Trc := ⟨0, false, 0, 0xFFFFFFFF, 0, [], 0⟩

/-- The module's event counters (R479) and TRC_MMASK (R487). -/
structure Mon where
  evc   : Evc
  mmask : BitVec 4
  deriving DecidableEq, Repr

def Mon.zero : Mon := ⟨.zero, 0⟩

/-- An active hardware loop (R183): latched and remaining counts, word position of the body's first command. -/
structure LoopLv where
  latched : W32
  remain  : W32
  body    : Nat
  deriving DecidableEq, Repr

/-- Where a command in flight stands (R135-R137): waiting for its hazards; in its engine or past it, its writes not yet
released; a WAIT or a COMMIT holding dispatch; an exchange under way; held by a mismatch; held by a bad block. -/
inductive Phase where
  | issued | done | waitObj | waitCommit | exchange | arrive | held | bad
  deriving DecidableEq, Repr

/-- Sticky flags and measurements that take effect when a command's writes are released (R315, R380, R185). -/
structure Post where
  ovf    : List W16
  nfin   : List W16
  amax   : List (W16 × W32)
  grid   : List (Nat × W32 × Bool)
  wrote  : List (W16 × Bool)
  sig    : W16
  report : Option Rpt
  deriving DecidableEq, Repr

def Post.none : Post := ⟨[], [], [], [], [], 0, Option.none⟩

/-- A command in flight (R138): the command, its place in the stream, which gives its core-code address, its tag, iteration
vector and count of earlier executions of the tag in the step (R223), its phase, what its release brings, and while it is held
the cores on which it has mismatched (R104). `chain`: no command of its own, but the hold of a chain that failed its check as its
tile left the cells (R101, R104): its command names the tile, its tag is that of the command at which the check failed. -/
structure Ent where
  ins   : Instr
  pos   : Nat
  tag   : W32
  iter  : List W32
  x     : Nat
  phase : Phase
  post  : Post
  target : W32
  tried : List CoreId
  chain : Bool
  deriving DecidableEq, Repr

/-- One core. `vecOn`: the core on which the vector instructions of its stream are executed since a mismatch (R132), none while
that is the core itself; their registers stay filed under the stream. `charged`: mismatches charged to the core since its last
passing in-field test (R104, R132, R245). -/
structure Core where
  tiles    : SMap Tile
  vregs    : SMap VReg
  lt       : SMap LtEl
  mxe      : Mxe
  gexp     : SMap GExp
  vxe      : Vxe
  upe      : Upe
  cvu      : Cvu
  evc      : Evc
  trc      : Trc
  inflight : List Ent
  waitq    : List Instr
  fetching : Bool
  fetchwait : Bool
  fpos     : Nat
  icache   : List (Nat × List Nat)
  loops    : List LoopLv
  lcnt     : SMap W32
  lcntRec  : SMap W32
  execs    : SMap Nat
  frozen   : Bool
  skdFrozen : Bool
  halted   : Bool
  stepOne  : Bool
  atCommit : Bool
  ended    : Bool
  inReset  : Bool
  fenced   : Bool
  jobFence : Bool
  testDue  : Bool
  marchDue : Bool
  passed   : Bool
  failed   : Bool
  charged  : Nat
  vecOn    : Option CoreId
  deriving DecidableEq, Repr

/-- A core at release of its reset domain (R465): nothing in flight, fetch stopped. -/
def Core.zero : Core :=
  { tiles := [], vregs := [], lt := [], mxe := .zero, gexp := [], vxe := .zero, upe := .zero, cvu := .zero,
    evc := .zero, trc := .zero, inflight := [], waitq := [], fetching := false, fetchwait := false, fpos := 0,
    icache := [], loops := [], lcnt := [], lcntRec := [], execs := [], frozen := false, skdFrozen := false,
    halted := false, stepOne := false, atCommit := false, ended := false, inReset := false,
    fenced := false, jobFence := false, testDue := false, marchDue := false,
    passed := false, failed := false, charged := 0, vecOn := none }

end Sys2Proof.Machine
end

