-- ==== Sys2Proof/Machine/State/JobT.lean ====
section
/-! DEFINITION. The state that Kelgil keeps for a job: the manifest, the program, the scale controller, layers, votes
and step, exchanges, the rings and the record. -/

namespace Sys2Proof.Machine

open Sys2Proof

/-- What waits for a scrub or for an authenticated write: the security transitions of R361, and the other uses of a job
scrub (R371). The number is the quarantine cause, or the SEQ of the request to be answered. -/
inductive TransK where
  | install (key : List Byte) (seq : W32)
  | release (seq : W32)
  | reclaim (seq : W32)
  | factoryEntry (seq : W32)
  | factoryExit (seq : W32)
  | quarantine (cause : Nat)
  | jobScrub
  | jobUnload (seq : W32)
  | debugOpen (level : Nat)
  deriving DecidableEq, Repr

/-- An entry of the output table (R352). -/
structure OutEnt where
  handle : W16
  slot   : Byte
  period : W32
  deriving DecidableEq, Repr

/-- The pipeline record and stage budgets (R290). -/
structure Pipe where
  pdim    : Nat
  v       : Nat
  cpmask  : Nat
  repmask : Nat
  nslot   : Nat
  sloth   : W16
  runmax  : Nat
  fretry  : Nat
  vto     : Nat
  mbatch  : Nat
  budgets : List Nat
  deriving DecidableEq, Repr

/-- A recorded outcome of a JOB record for replay (R327). -/
structure ReplayEnt where
  s    : W64
  code : Nat
  fp   : List Byte
  deriving DecidableEq, Repr

/-- The job manifest as held (R429): the fields Kelgil uses after the load. -/
structure Manifest where
  det      : Bool
  replay   : Bool
  encimg   : Bool
  vrel     : Bool
  rmode    : Nat
  policy   : Bool
  telrel   : Byte
  wdog     : Nat
  stageg   : Nat
  outg     : Nat
  s0       : W64
  imgDigest : Digest
  ktDigest : Digest
  pipe     : Pipe
  outputs  : List OutEnt
  stateList : List W16
  replays  : List ReplayEnt
  chunks   : List (W64 × Nat × Digest)
  mails    : List (W64 × List Byte)
  body     : List Byte
  deriving DecidableEq, Repr

/-- The program held after the loader accepted it (R167, R168, R246): streams of words by logical core, counts, aliases of
groups, the logical columns used, the layer of every slot of each stream, the layer of every handle that an UPD takes as HG, each stream's layers with the group of their UPD,
and the layers with the handles their XCHGs write. -/
structure Program where
  isa     : Nat
  nlcore  : Nat
  cols    : List Nat
  ncol    : Nat
  nhandle : Nat
  nscale  : Nat
  nsync   : Nat
  streams : List (List W64)
  aliasTab  : SMap Nat
  slots   : List (List Nat)
  updLayer : SMap Nat
  groups  : List (List (Nat × Nat))
  hrs     : List (Nat × W16)
  hasXchg : Bool
  codeDigest : Digest
  deriving DecidableEq, Repr

/-- States of the job (R432 JSTATE). -/
inductive JobSt where
  | none | loading | loaded | stopped
  deriving DecidableEq, Repr

/-- A load under way (R191): what JOB_LOAD_COMPLETE needs. `cols`: the column map that the loader checked against (R146). -/
structure Loading where
  seq   : W32
  cols  : List Nat
  man   : Manifest
  prog  : Program
  descs : List Byte
  scales : List Byte
  sctab : List MScale
  layers : List GLayer
  groups : List Byte
  seed  : W128
  env   : Envelope
  ignored : List (Nat × Nat × Nat)
  deriving DecidableEq, Repr

/-- Scale-controller registers (R227). -/
structure Scc where
  hist     : Nat
  head     : Nat
  hold     : Nat
  policy   : Bool
  skipmax  : Nat
  lastskip : Bool
  consec   : Nat
  stop     : Nat
  skips    : W32
  postovf  : W32
  nmanaged : Nat
  amax     : SMap W32
  deriving DecidableEq, Repr

def Scc.zero : Scc := ⟨16, 1, 64, false, 16, false, 0, 0, 0, 0, 0, []⟩

/-- Where the module stands in its step. `between`: no attempt runs and the next may start. `running`: commands are
dispatched. `voted`: from the vote to its outcome. `committed`: GO has been applied and UPDs run. `redo`: another
outcome has been applied and the step is to be attempted again. `restore`, `rollback`: the module waits for a replica's
state, or for its pod to run again from a checkpoint. -/
inductive StepPh where
  | between | running | voted | committed | redo | restore | rollback
  deriving DecidableEq, Repr

/-- One transfer of a block by an exchange (R284): out of or into the link buffers of a bundle, at a block place of a port
of that bundle; an arriving block is added or overwrites. -/
structure XOp where
  send   : Bool
  add    : Bool
  bundle : Nat
  idx    : Nat
  blk    : Nat
  block  : Nat
  deriving DecidableEq, Repr

/-- An exchange of one XCHG tag on this module (R282-R286): its words so far, whether a readout has saturated, and the
transfers still to be made, in order. -/
structure Xchg where
  tag     : W32
  core    : CoreId
  layer   : Nat
  wide    : Bool
  hr      : W16
  sig     : W16
  group   : List Nat
  serial  : Option Nat
  started : Bool
  acc     : List Int
  sat     : Bool
  bad     : Bool
  ops     : List XOp
  deriving DecidableEq, Repr

/-- What the coordinator of exchanges holds of one tag of one group in an attempt (R286). -/
structure XReport where
  s       : W64
  a       : W32
  tag     : W32
  group   : List Nat
  members : List Nat
  serial  : Option Nat
  deriving DecidableEq, Repr

/-- A token manifest held (R292, R293, R349); `pos` of its chunks have been decrypted. -/
structure TokMan where
  s       : W64
  pos     : Nat
  entries : List TokEntry
  chunks  : List ChunkEntry
  raw     : List Byte
  deriving DecidableEq, Repr

/-- A Landing buffer (R350): the step and list index of the chunk it holds, and the handles' moves still to read it. -/
structure Landing where
  held : Bool
  s    : W64
  idx  : Nat
  deriving DecidableEq, Repr

/-- A vote of one module for an attempt (R302). -/
structure VoteRec where
  src : Nat
  s   : W64
  a   : W32
  v   : Vote
  deriving DecidableEq, Repr

/-- The step and the vote. `vto` is the timeout of the coordinator's own vote, `duties` the DUTY reported for the
attempt (R448), `conv` the handles with a managed scale that a conversion has written since GO (R218), `ckptDue` the step counters
at whose boundaries a checkpoint has been asked for. -/
structure Stp where
  s        : W64
  a        : W32
  phase    : StepPh
  sync     : SMap W32
  first    : Bool
  own      : Option Vote
  comb     : Option Vote
  votes    : List VoteRec
  decided  : Option OutcomeMsg
  lastOut  : Option OutcomeMsg
  asking   : List (Nat × Option Nat)
  fault    : Bool
  charges  : SMap Nat
  lost     : List Nat
  carried  : Carried
  pauseMs  : Nat
  duties   : List Nat
  vto      : Nat
  conv     : List W16
  voteSent : Bool
  wdogFired : Bool
  ckptDue  : List W64
  waiting  : Nat
  deriving DecidableEq, Repr

def Stp.zero : Stp :=
  ⟨0, 0, .between, [], true, .none, .none, [], .none, .none, [], false, [], [], .none, 0, [], 0, [], false, false, [], 0⟩

/-- What a command of the attempt under way writes (R137, R141): the stream it belongs to (by logical core), its tag and
execution, the bytes, and how many releases there had been with its own when it released them. -/
structure WrRec where
  core  : Nat
  tag   : W32
  x     : Nat
  spans : List (Nat × Nat)
  rel   : Option Nat
  deriving DecidableEq, Repr

/-- What orders the cores' accesses to memory in an attempt (R141, R186): the writes, the releases so far, the releases that
came before each addition to an object, and those that each stream has waited for. The module holds no such record: it tells
which reads give bits that R141 leaves undefined (log 17). -/
structure Race where
  wr   : List WrRec
  rel  : Nat
  adds : SMap (List Nat)
  sees : SMap Nat
  deriving DecidableEq, Repr

def Race.zero : Race := ⟨[], 0, [], []⟩

/-- An entry of the record ring (R323, R324), at byte `pos` of the record area. -/
structure RecEnt where
  type    : Nat
  s       : W64
  a       : W32
  entry   : W64
  payload : List Byte
  pos     : Nat
  size    : Nat
  read    : Bool
  deriving DecidableEq, Repr

/-- A record of the output queue (R353, R321, R354): what it is, where it stands, its bytes in the clear where the
module would write their ciphertext. -/
structure OutRec where
  kind   : Nat
  s      : W64
  a      : W32
  handle : W16
  slot   : Byte
  seq    : W64
  pos    : W32
  units  : Nat
  digest : Digest
  bytes  : List Byte
  deriving DecidableEq, Repr

/-- A fault record (R390). -/
structure FaultRec where
  kind    : Nat
  engine  : Nat
  core    : W16
  handle  : W16
  tag     : W32
  attempt : W32
  s       : W64
  iter    : List W32
  addr    : BitVec 48
  detail  : W64
  seq     : W32
  deriving DecidableEq, Repr

/-- A log entry (R481, R482); the payload as the values its kind lists, in that order. -/
structure LogEnt where
  kind    : Nat
  cls     : Nat
  entry   : W64
  s       : W64
  a       : W32
  payload : List Nat
  deriving DecidableEq, Repr

/-- A failure signature (R400): the record it tells of, the re-execution result and core, whether the fault fenced the core,
the operands' digests and bytes, and the versions, the hottest die sensor in 0.1 °C and the core rail in mV as it was signed. -/
structure FailSig where
  rec'   : FaultRec
  reexec : Nat
  core   : Option CoreId
  fenced : Bool
  digests : List (W16 × Digest)
  bytes  : List (List Byte)
  sstate : Nat
  kelgil : Option (W32 × Digest)
  bver   : W32
  die    : Int
  rail   : Nat
  seed   : BitVec 256      -- the identity that signs it
  deriving DecidableEq, Repr

/-- The rings of Kelgil (R389, R401, R480). -/
structure Rings where
  fault    : List FaultRec
  wait     : List FaultRec
  seq      : W32
  copies   : List FaultRec
  returned : W32
  log      : List LogEnt
  logNext  : W64
  sigs     : List FailSig
  sigDrop  : Nat
  recs     : List RecEnt
  recNext  : W64
  deriving DecidableEq, Repr

def Rings.zero : Rings := ⟨[], [], 0, [], 0, [], 0, [], 0, [], 0⟩

/-- Everything Kelgil keeps of the job. `queued` and `audits`: mailbox SEQ, the step counter at which the message takes effect,
and what it brings. `scaleImg` are the scale records as the load wrote them (R212). `mailsDone` are the places of the recorded messages that have been applied (R327). `ckpt`: the owner has taken a checkpoint of it, or it was resumed from one. -/
structure Job where
  st       : JobSt
  stop     : Nat
  man      : Option Manifest
  prog     : Option Program
  load     : Option Loading
  nonce    : Option W128
  seed     : Option W128
  scaleImg : List Byte
  scales   : List MScale
  layers   : List GLayer
  queued   : List (W32 × W64 × List GroupUpd)
  audits   : List (W32 × W64 × List CapPoint)
  points   : List CapPoint
  tokens   : List TokMan
  landing  : SMap Landing
  xchgs    : List Xchg
  xreps    : List XReport
  nextSerial : Nat
  replayPos : Nat
  mailsDone : List Nat
  seqs     : SMap W64
  unloadReq : List TransK
  ckpt     : Bool
  deriving DecidableEq, Repr

def Job.zero : Job :=
  ⟨.none, 0, none, none, none, none, none, [], [], [], [], [], [], [], [], [], [], 0, 0, [], [], [], false⟩

end Sys2Proof.Machine
end

