-- ==== Sys2Proof/Machine/State/HostT.lean ====
section
/-! DEFINITION. The state of the host interface (R418-R440): the output queue, the mailbox, the emulated registers, the
firmware images. -/

namespace Sys2Proof.Machine

open Sys2Proof

/-- The output queue: producer and consumer counts in 4 KiB units, the records in it, and those waiting for room. -/
structure Outq where
  head    : Nat
  tail    : Nat
  records : List OutRec
  waiting : List OutRec
  deriving DecidableEq, Repr

def Outq.zero : Outq := ⟨0, 0, [], []⟩

/-- Key 22 of evidence: manifest digest, image digest, core-code digest, DET, step counter, job nonce. -/
structure EvJob where
  man   : Digest
  image : Digest
  code  : Digest
  det   : Bool
  s     : W64
  nonce : W128
  deriving DecidableEq, Repr

/-- Evidence (R336, R337): what the keys of its body hold, and the seed of the identity that signs it. -/
structure Evidence where
  seed    : BitVec 256
  serial  : BitVec 256
  endorse : List Byte
  blw     : Digest
  record  : Digest
  nonce   : List Byte
  sstate  : Nat
  dlevel  : Nat
  kelgil  : Option (W32 × Digest)
  bver    : W32
  octr    : W64
  ownh    : Option Digest
  fence   : List Nat
  pod     : List Nat
  qcause  : Nat
  job     : Option EvJob
  deriving DecidableEq, Repr

/-- What a reply carries beside its status. -/
inductive Payload where
  | none
  | words (ws : List Nat)
  | bytes (bs : List Byte)
  | logs (es : List LogEnt)
  | faults (rs : List FaultRec)
  | sigs (fs : List FailSig) (dropped : Nat)
  | records (rs : List RecEnt)
  | evidence (e : Evidence)
  | installed (wrap : List Byte) (e : Evidence)
  deriving DecidableEq, Repr

/-- A reply (R423). `ref`: offset in the output queue and length of data passed by reference. -/
structure Reply where
  type   : Nat
  seq    : W32
  status : Nat
  detail : Nat
  data   : Payload
  ref    : Option (Nat × Nat)
  deriving DecidableEq, Repr

/-- A notification (R428). -/
structure Notif where
  n      : W32
  code   : Nat
  data   : List Nat
  lost   : Nat
  deriving DecidableEq, Repr

/-- The host interface: the emulated registers (R431, R432), the mailbox (R422-R428), the BAR2 map (R420), the
attestation buffer (R419), the MSI-X table and its pending bits (R419), vectors raised (R421), Kelgil images (R434-R437). `oldKver` is the version of the Kelgil that
an activation takes over from, `rdata` what
the last BAR2 read has returned, `noteOver` the notifications overwritten since one was posted (R428), `blwWriting` a Bellows image
whose staging may still meet a level-3 cause (R455). -/
structure Hif where
  phase    : Nat
  fail     : Nat
  mbxUp    : Bool
  blwRange : Bool
  fwLen    : W32
  fwOwnk   : W32
  fwBusy   : Bool
  fwDone   : Bool
  fwFail   : Nat
  attNlen  : BitVec 7
  attBusy  : Bool
  attFail  : Bool
  elen     : Nat
  attNonce : List Byte
  evidence : Option Evidence
  irq      : BitVec 3
  irqEn    : BitVec 3
  ver      : Option (Nat × Nat)
  lastSeq  : Option W32
  open'    : List W32
  replies  : List Reply
  heldRep  : List Reply
  notifs   : List Notif
  notePend : List Notif
  noteNext : W32
  noteAck  : W32
  doorbell : List W32
  msix     : SMap Nat
  msixTab  : SMap W32
  pba      : W64
  rdata    : List Byte
  noteOver : Nat
  bar2     : List (Option Nat)
  running  : Option FwImage
  staged   : Option FwImage
  activate : List W32
  activating : Bool
  oldKver  : Nat
  blwStaged : Option FwImage
  blwWriting : Bool
  wait     : Nat
  perst    : Bool
  deriving DecidableEq, Repr

/-- The MSI-X table at reset: every one of the 32 vectors masked, as PCI Express has it (log 161). -/
def msixReset : SMap W32 := (List.range 32).map fun v => (4 * v + 3, 1#32)

/-- At release of the host-interface reset domain (R431, R420). -/
def Hif.zero : Hif :=
  { phase := 0, fail := 0, mbxUp := false, blwRange := false, fwLen := 0, fwOwnk := 0, fwBusy := false, fwDone := false,
    fwFail := 0, attNlen := 16, attBusy := false, attFail := false, elen := 0, attNonce := [], evidence := none, irq := 0,
    irqEn := 0, ver := none, lastSeq := none, open' := [], replies := [], heldRep := [], notifs := [], notePend := [],
    noteNext := 0, noteAck := 0, doorbell := [0, 0, 0], msix := [], msixTab := msixReset, pba := 0, rdata := [], noteOver := 0, bar2 := (List.range 64).map some, running := none,
    staged := none, activate := [], activating := false, oldKver := 0, blwStaged := none, blwWriting := false, wait := 0, perst := true }

end Sys2Proof.Machine
end

