-- ==== Sys2Proof/Machine/State/LinkT.lean ====
section
/-! DEFINITION. The state of the link ports and the pod (R248-R274). -/

namespace Sys2Proof.Machine

open Sys2Proof

/-- LNK_STATUS STATE (R273). -/
inductive PortSt where
  | down | training | keying | up | retune | heldOut | lost
  deriving DecidableEq, Repr

/-- The keys and salts of a port pair (R263), each key with its epoch (R264). -/
structure PortKeys where
  tx     : BitVec 256
  rx     : BitVec 256
  saltTx : W32
  saltRx : W32
  epTx   : Nat
  epRx   : Nat
  deriving DecidableEq, Repr

/-- A frame as it goes over a link (R250, R251): header, encrypted packets, tag. -/
structure Frame where
  word : W64
  body : List Byte
  tag  : W64
  deriving DecidableEq, Repr

/-- A port (R273): its registers, sequence numbers (R251, R252), what it owes its peer (a NAK, resyncs of buffers it
carries with the number that the port which left service expected next, FREEs), its control frames (R260), the frames not yet acknowledged, and the arrivals of the attempt (R324).
`turn` is the buffer it sends from next (R267), `returning` the number of its first frame since it came back. Of a negotiation (R262,
R263): the nonce it has drawn, its own hello, its ephemeral key pair and the message it has signed. `out` is the frame it sent last. -/
structure Port where
  st       : PortSt
  width    : Nat
  frozen   : Bool
  ver      : Nat
  corr     : W32
  unc      : W32
  nak      : W32
  tagfail  : W32
  lock     : Byte
  txSeq    : Nat
  rxSeq    : Nat
  acked    : Nat
  owesNak  : Bool
  rtxNext  : Bool
  keys     : Option PortKeys
  hello    : Option Hello
  fails    : Nat
  adoptees : List Nat
  returning : Option Nat
  resyncs  : List (Nat × Nat)
  turn     : Nat
  frees    : List (Nat × Nat)
  freeSent : List (Nat × Nat × Nat)
  ctl      : List CtlPacket
  ctlSent  : List (Nat × CtlPacket)
  resyncSent : List (Nat × Nat × Nat)
  arrived  : List W64
  nonce    : BitVec 256
  said     : Option Hello
  eph      : Option (BitVec 512)
  keyMsg   : List Byte
  out      : Option Frame
  deriving DecidableEq, Repr

def Port.zero : Port :=
  ⟨.down, 0, false, 0, 0, 0, 0, 0, 0, 0, 0, 0, false, false, none, none, 0, [], none, [], 0, [], [], [], [], [], [], 0, none, none, [], none⟩

/-- A TX block that is held (R256): the port and block of its buffer, and the port and sequence number of the frame that
last carried it. -/
structure TxBlk where
  port : Nat
  blk  : Nat
  sent : Option (Nat × Nat)
  deriving DecidableEq, Repr

/-- The link fabric of the module. `announced` are the retunes that a peer has begun while this end was busy (R266). -/
structure Lnk where
  ports   : SMap Port
  map     : List LinkEntry
  extents : List Nat
  self    : W16
  held    : List TxBlk
  mirror  : SMap (List Nat)
  full    : SMap (List Nat)
  retPort : Nat
  retQ    : List Nat
  retCur  : Option Nat
  announced : List Nat
  residue : W32
  formed  : Bool
  podFormed : Bool
  formedBy : List Nat
  deriving DecidableEq, Repr

/-- After a module reset (R273): every field 0, extents minus one 0. -/
def Lnk.zero : Lnk := ⟨[], [], [1, 1, 1, 1], 0, [], [], [], 0, [], none, [], 0, false, false, []⟩

end Sys2Proof.Machine
end

