-- ==== Sys2Proof/Machine/State/SecT.lean ====
section
/-! DEFINITION. The state of the security island, the debug port and the attached NVM (R333-R376, R404-R410). -/

namespace Sys2Proof.Machine

open Sys2Proof

/-- A slot key with its role (R343, R345); role 0 is an empty slot. -/
structure KeySlot where
  role : Nat
  key  : BitVec 256
  deriving DecidableEq, Repr

def KeySlot.zero : KeySlot := ⟨0, 0⟩

/-- Security states (R356). -/
inductive SState where
  | factory | open' | owned | quarantine
  deriving DecidableEq, Repr

/-- Codes of R356. -/
def SState.code : SState → Nat
  | .factory => 0 | .open' => 1 | .owned => 2 | .quarantine => 3

/-- JTAG instructions (R367). -/
inductive Jtag where
  | idcode | bypass | samplePreload | extest | intest
  deriving DecidableEq, Repr

/-- A hold record (R374). `scyc` is a count of cycles, which the model does not have: a free value (log 149). -/
structure HoldRec where
  sstate : Nat
  flags  : Nat
  qcause : Nat
  s      : W64
  a      : W32
  scyc   : W32
  deriving DecidableEq, Repr

def HoldRec.zero : HoldRec := ⟨0, 0, 0, 0, 0, 0⟩

/-- The security island and the debug port. `seed` is the identity seed (R333), `ownerKey` the owner's public key, `recDigest` the
digest of the boot record as read at start (R337), `instNonces` the install nonces that are valid (R339). `hold` is the record of a hold under way, `holdLog` what the boot ROM hands to
Kelgil for the log (none: a slot that did not verify), `parkReq` a park that waits (R370, R375). `trans` is under way: its scrub runs (`scrub`), or it waits for its
authenticated write; `queue` holds those behind it. -/
structure Sec where
  slots     : SMap KeySlot
  ktDigest  : Option Digest
  sstate    : SState
  dlevel    : Nat
  pstate    : Nat
  seed      : Option (BitVec 256)
  ownerKey  : Option (List Byte)
  recDigest : Digest
  instNonces : List (BitVec 256)
  dbgNonce  : Option (BitVec 256)
  viol      : List Nat
  trans     : Option TransK
  scrub     : Bool
  queue     : List TransK
  dbgFrozen : Bool
  pcieFrozen : Bool
  ctrlFrozen : List Nat
  ctrlHalted : List Nat
  jtag      : Jtag
  ownMsgs   : List Instr
  discarded : Nat
  hold      : Option HoldRec
  holdLog   : List (Option HoldRec)
  parkReq   : Bool
  deriving DecidableEq, Repr

/-- Unpowered: D0, P4 (R2). -/
def Sec.zero : Sec :=
  ⟨[], none, .open', 0, 4, none, none, 0, [], none, [], none, false, [], false, false, [], [], .idcode, [], 0, none, [], false⟩

/-- The device part of the boot record (R407). -/
structure DevPart where
  factory : Bool
  qcause  : Nat
  gen     : W64
  octr    : W64
  coords  : List Nat
  extents : List Nat
  linkmap : List LinkEntry
  sitelim : Limits
  ownh    : Option Digest
  fence   : List Nat
  deriving DecidableEq, Repr

/-- A change of the device part that the island is asked to write (R408): the fence map, a site configuration, or the
transition that takes effect with it. -/
inductive NvmWrite where
  | fence (cores : List Nat)
  | site (c : SiteCfg) (seq : W32)
  | trans (t : TransK)
  | cause (q : Nat)
  deriving DecidableEq, Repr

/-- The factory part of the boot record (R406) but for FACLIM. `check` is the check value that the helper data carries (R333). -/
structure FacPart where
  serial  : BitVec 256
  step    : W32
  ctrids  : List W32
  helper  : List Byte
  check   : BitVec 256
  endorse : List Byte
  sig     : List Byte
  deriving DecidableEq, Repr

/-- The attached NVM (R405-R410, R495): the factory part with its limits, slots A and B of the device part, the part in force, counters 0
to 4, the hold ring with the check bytes of its slots, writes asked for, whether NVM_REQ_L is low, and whether the isolation switch is closed. -/
structure Nvm where
  fac     : FacPart
  faclim  : Limits
  slotA   : Option DevPart
  slotB   : Option DevPart
  part    : DevPart
  ctrs    : List W64
  hold    : SMap HoldRec
  holdChk : SMap (BitVec 256)
  writes  : List NvmWrite
  req     : Bool
  lent    : Bool
  deriving DecidableEq, Repr

end Sys2Proof.Machine
end

