-- ==== Sys2Proof/Machine/State.lean ====
section
/-! DEFINITION. The state of the module, the ways a step can stop, and the state right after reset: a shipped module
without input power (R2). -/

namespace Sys2Proof.Machine

open Sys2Proof

/-- The ways a step ends in a fault. -/
inductive Fault where
  /-- An engine is handed a form that the loader rejects (R193-R201), or a handle whose descriptor is none of the formats
  the operation takes: no such command is ever issued by the hardware, and the spec gives it no effect. Safe. -/
  | notAdmitted
  /-- The input is above 72 V, where the module's behaviour is undefined (R441). Safe. -/
  | overRating
  deriving DecidableEq, Repr

/-- The ways a step is refused by the model. -/
inductive Refusal where
  /-- The command has no meaning yet; raised by the dispatch only. Safe. -/
  | notModelled (mnemonic : String)
  deriving DecidableEq, Repr

/-- A key set of LPDDR5X (R153, R343): 64 bytes for AES-XTS, 32 for the MAC. -/
structure LpKeys where
  xts : BitVec 512
  mac : BitVec 256
  deriving DecidableEq, Repr

/-- Marks of memory that are not bytes (R143, R146, R149, R152-R155, R165). `stalled` are host accesses that wait for a package under
retraining. -/
structure MemSt where
  sealed    : SMap Bool
  granule   : W16
  refused   : Bool
  stageg    : Nat
  outg      : Nat
  jobMarks  : Bool
  colmap    : List Nat
  oos       : SMap Bool
  poisoned  : List Nat
  fwKeys    : Option LpKeys
  hostKeys  : Option LpKeys
  jobKeys   : Option LpKeys
  retrainQ  : List Nat
  retrain   : Option Nat
  stalled   : List Instr
  deriving DecidableEq, Repr

def MemSt.zero : MemSt :=
  ⟨[], 0, false, 64, 64, false, List.range 192, [], [], none, none, none, [], none, []⟩

/-- The state of the module. `chk`, `fws` and `lws` are the check-value entries and the write-step table (R379, R380), `stepBase` what an
entry holds at job load; `fwsAt` is the whole step counter at which a handle's FWS was set, `stepFirst` where none has been since the
load. -/
structure State where
  mem     : List Host.Cell
  chk     : SMap W64
  fws     : SMap W16
  lws     : SMap W16
  stepBase : W16
  stepFirst : W64
  fwsAt   : SMap W64
  mm      : MemSt
  cores   : SMap Core
  job     : Job
  stp     : Stp
  scc     : Scc
  rings   : Rings
  lnk     : Lnk
  mon     : Mon
  outq    : Outq
  sec     : Sec
  nvm     : Nvm
  hif     : Hif
  blw     : Blw
  rst     : Rst
  tst     : Tst
  race    : Race
  draws   : Nat
  free    : Nat
  pending : List Instr
  deriving DecidableEq, Repr

/-- The device part of a shipped module (R2, R407): no owner, no cause, no peer, a pod of one module. -/
def DevPart.shipped : DevPart :=
  { factory := false, qcause := 0, gen := 0, octr := 0, coords := [0, 0, 0, 0], extents := [1, 1, 1, 1],
    linkmap := List.replicate 48 ⟨false, 0, 0⟩, sitelim := noLimits, ownh := none, fence := [] }

/-- The factory part of a module of B1 stepping (R1, R406). -/
def FacPart.shipped : FacPart :=
  ⟨Config.serial, 3, Config.ctrids, Config.helper, Config.helperCheck, Config.endorsement, Config.factorySig⟩

/-- The NVM of a shipped module (log 15: counters at 0). -/
def Nvm.shipped : Nvm :=
  { fac := .shipped, faclim := facLimits, slotA := some .shipped, slotB := none, part := .shipped, ctrs := [0, 0, 0, 0, 0], hold := [], holdChk := [], writes := [], req := false, lent := false }

/-- A shipped module, unpowered (R2): OPEN, D0, P4, no owner, every register at its reset value. -/
def State.reset : State :=
  { mem := [], chk := [], fws := [], lws := [], stepBase := 0, stepFirst := 0, fwsAt := [], mm := .zero, cores := [], job := .zero, stp := .zero,
    scc := .zero, rings := .zero, lnk := .zero, mon := .zero, outq := .zero, sec := .zero,
    nvm := .shipped, hif := .zero, blw := .zero, rst := .zero, tst := .zero, race := .zero, draws := 0, free := 0, pending := [] }

end Sys2Proof.Machine
end

