-- ==== Sys2Proof/Machine/Mem.lean ====
section
/-! DEFINITION. Device memory (R10, R11, R145-R157): bytes, regions, the column map, and the check values of 4 KiB
blocks (R377-R382). -/

namespace Sys2Proof.Machine

open Sys2Proof

/-- What an unlisted byte of memory reads as: zero (log 10). -/
def memDefault : Byte := 0

/-- The memory's canonical form: addresses strictly rising, no entry equal to what an unlisted address reads as. -/
def Memory.wf (m : List Host.Cell) : Bool := SMap.wf memDefault m

/-- Read one byte. -/
def memGet (m : List Host.Cell) (a : Nat) : Byte := SMap.get memDefault m a

/-- The bytes of `n` addresses from `lo` on, walking a list whose addresses are at or above `lo`. -/
def memFrom : Nat → Nat → List Host.Cell → List Byte
  | 0, _, _ => []
  | n + 1, lo, [] => memDefault :: memFrom n (lo + 1) []
  | n + 1, lo, (a, b) :: m =>
    if a = lo then b :: memFrom n (lo + 1) m else memDefault :: memFrom n (lo + 1) ((a, b) :: m)

/-- The `n` bytes from `lo` on. -/
def memRange (m : List Host.Cell) (lo n : Nat) : List Byte := memFrom n lo (m.dropWhile fun e => e.1 < lo)

/-- The entries of consecutive bytes from `lo` on that differ from the default. -/
def cellsOf : Nat → List Byte → List Host.Cell
  | _, [] => []
  | lo, b :: bs => if b = memDefault then cellsOf (lo + 1) bs else (lo, b) :: cellsOf (lo + 1) bs

/-- Write consecutive bytes from `lo` on. -/
def memWrite (m : List Host.Cell) (lo : Nat) (bs : List Byte) : List Host.Cell :=
  (m.filter fun e => e.1 < lo) ++ cellsOf lo bs ++ m.filter fun e => lo + bs.length ≤ e.1

/-- Make the bytes of an address range read as unlisted ones do. -/
def memClear (m : List Host.Cell) (lo n : Nat) : List Host.Cell := m.filter fun e => e.1 < lo ∨ lo + n ≤ e.1

/-- The little-endian number of `n` bytes from `lo` on. -/
def memLe (m : List Host.Cell) (lo n : Nat) : Nat := leNat (memRange m lo n)

/-! Layout (R11, R147, R150, R151). -/

def colStride : Nat := 0x08000000
def colBytes : Nat := 0x05000000
def colTensor : Nat := 0x04FD8000
def sharedBase : Nat := 0x008000000000
def descTable : Nat := sharedBase
def scaleTable : Nat := sharedBase + 0x00400000
def statusTable : Nat := sharedBase + 0x00500000
def updTable : Nat := sharedBase + 0x00C40000
def linkBase : Nat := sharedBase + 0x01000000
def linkSize : Nat := 0x00200000
def landingBase : Nat := sharedBase + 0x07000000
def spillBase : Nat := sharedBase + 0x17000000
def lpBase : Nat := 0x010000000000
def granSize : Nat := 0x40000000
def codeBase : Nat := lpBase + 0x7900000000

/-- The record area (R151): where it lies, and its bytes. -/
def recordBase : Nat := lpBase + 0x7A40000000
def recArea : Nat := 0x200000000

/-- The regions of device memory (R11, R147, R150, R151, R152). -/
inductive Region where
  | column (k : Nat) | columnCheck (k : Nat) | desc | scale | status | sharedCheck | faultRing | logRing | upd | sharedRsv
  | link (p : Nat) | landing | spill | granule (g : Nat) | kelgil | code (g : Nat) | lpCheck | record | lpRsv | tags
  | csr | outside
  deriving DecidableEq, Repr

/-- Does an address of the control and status region lie in a block of the table of R488: in the window of a core that exists, in a
module block, or in the block of a port that exists. -/
def csrMapped (a : Nat) : Bool :=
  if a < 0x0F0100000000 then decide ((a - 0x0F0000000000) / 0x10000 < 192) && decide (a % 0x10000 < 0x4800)
  else decide (a < 0x0F0100087000) || (decide (0x0F0100100000 ≤ a) && decide (a < 0x0F0100130000))

/-- The region of a physical address. -/
def regionOf (a : Nat) : Region :=
  if a < 0x0005FD000000 then
    let k := a / colStride
    let o := a % colStride
    if o < colTensor then .column k else if o < colBytes then .columnCheck k else .outside
  else if sharedBase ≤ a ∧ a < sharedBase + 0x40000000 then
    let o := a - sharedBase
    if o < 0x00400000 then .desc else if o < 0x00500000 then .scale else if o < 0x00540000 then .status
    else if o < 0x00740000 then .sharedCheck else if o < 0x00840000 then .faultRing else if o < 0x00C40000 then .logRing
    else if o < 0x00D40000 then .upd else if o < 0x01000000 then .sharedRsv
    else if o < 0x07000000 then .link ((o - 0x01000000) / linkSize)
    else if o < 0x17000000 then .landing else .spill
  else if lpBase ≤ a ∧ a < lpBase + 0x8000000000 then
    let o := a - lpBase
    if o < 0x7800000000 then .granule (o / granSize) else if o < 0x7900000000 then .kelgil
    else if o < 0x7A00000000 then .code ((o - 0x7900000000) / 0x10000)
    else if o < 0x7A40000000 then .lpCheck else if o < 0x7C40000000 then .record
    else if o < 0x7E00000000 then .lpRsv else .tags
  else if 0x0F0000000000 ≤ a ∧ a < 0x0F0100200000 ∧ csrMapped a = true then .csr
  else .outside

/-- The physical address of a descriptor's address: columns go through the column map (R146). None where the logical
column has no entry. -/
def physOf (s : State) (a : Nat) : Option Nat :=
  if a < 192 * colStride then
    match s.mm.colmap[a / colStride]? with
    | some k => if k < 192 then some (k * colStride + a % colStride) else none
    | none => none
  else some a

/-- Is a granule a HOST granule: staging or output queue (R152). -/
def isHostGranule (s : State) (g : Nat) : Bool := g < s.mm.stageg + s.mm.outg

/-- Is a granule a JOB granule that masters may reach: marked for a loaded job (R152). -/
def isJobGranule (s : State) (g : Nat) : Bool := s.mm.stageg + s.mm.outg ≤ g && g < 480 && s.mm.jobMarks

/-- Blocks that carry check values (R377). -/
def carriesCheck (s : State) (a : Nat) : Bool :=
  match regionOf a with
  | .column _ | .link _ | .landing | .spill => true
  | .granule g => ! isHostGranule s g
  | _ => false

/-- Blocks that are step-checked (R380): those commands write. RX halves of link buffers and Landing buffers are not. -/
def stepChecked (a : Nat) : Bool :=
  match regionOf a with
  | .column _ | .spill | .granule _ => true
  | .link _ => (a - linkBase) % linkSize < linkSize / 2
  | _ => false

/-! Check-value entries (R379). -/

/-- The message a check value covers: the block, its physical address, WSTEP. -/
def checkMsg (m : List Host.Cell) (blk : Nat) (wstep : W16) : List Byte :=
  memRange m (blk * 4096) 4096 ++ leBytes 6 (blk * 4096) ++ leBytes 2 wstep.toNat

/-- The entry of block `blk` with the contents memory holds. -/
def mkEntry (m : List Host.Cell) (blk cvp : Nat) (wstep : W16) : W64 :=
  BitVec.ofNat 64
    ((crvOf cvp (checkMsg m blk wstep)).toNat + cvp % 4 * 2 ^ 44 + 2 ^ 46 + wstep.toNat * 2 ^ 48)

def entryValid (e : W64) : Bool := e.getLsbD 46
def entryCvp (e : W64) : Nat := bitsAt e.toNat 44 2
def entryStep (e : W64) : W16 := BitVec.ofNat 16 (bitsAt e.toNat 48 16)
def entryCrv (e : W64) : Nat := bitsAt e.toNat 0 44

/-- The entry of a block. -/
def chkGet (s : State) (blk : Nat) : W64 := SMap.get 0 s.chk blk

/-- The step check of R380 for a block read through handle `h` (alias groups by their lowest handle): `whole` when it
lies wholly inside the view. A handle whose FWS lies 65,535 steps back passes every WSTEP. -/
def stepOk (s : State) (h : Nat) (whole : Bool) (wstep : W16) : Bool :=
  let now : W16 := s.stp.s.setWidth 16
  let f := SMap.get s.stepBase s.fws h
  let l := SMap.get s.stepBase s.lws h
  let age := wstep - f
  decide ((SMap.get s.stepFirst s.fwsAt h).toNat + 65535 ≤ s.stp.s.toNat)
    || (if whole then age.toNat ≤ (l - f).toNat else age.toNat ≤ (now - f).toNat)

/-- Why a block of the address marked in `poisoned` is bad: 3 for one that fails its MAC (R154), 0 for one of stack SRAM that holds an
uncorrectable word (R383). -/
def poisonKind (a : Nat) : Nat := match regionOf a with | .granule _ => 3 | _ => 0

/-- Why a block is bad (R382), with the KIND codes of R402: 0 CRC, 1 step check, 2 VALID 0; 3 a poisoned LPDDR5X block
(R154). -/
def blockFault (s : State) (h : Nat) (whole : Bool) (blk : Nat) : Option Nat :=
  let e := chkGet s blk
  if s.mm.poisoned.any fun p => p / 8 = blk then some (poisonKind (blk * 4096))
  else if ¬ entryValid e then some 2
  else if entryCrv e ≠ (crvOf (entryCvp e) (checkMsg s.mem blk (entryStep e))).toNat then some 0
  else if stepChecked (blk * 4096) ∧ ¬ stepOk s h whole (entryStep e) then some 1
  else none

/-- The blocks an address range touches. -/
def blocksOf (lo n : Nat) : List Nat := if n = 0 then [] else (List.range' (lo / 4096) ((lo + n - 1) / 4096 - lo / 4096 + 1))

/-- A run of bytes to be written. -/
abbrev Run := Nat × List Byte

/-- The blocks of runs, each once. -/
def runBlocks (rs : List Run) : List Nat := (rs.flatMap fun r => blocksOf r.1 r.2.length).eraseDups

/-- Does a set of runs write every byte of a block. -/
def coversBlock (rs : List Run) (blk : Nat) : Bool :=
  ((rs.map fun r => min (r.1 + r.2.length) (blk * 4096 + 4096) - max r.1 (blk * 4096)).foldl (· + ·) 0) ≥ 4096

/-- Do runs write every byte of a range. -/
def coversRange (rs : List Run) (lo n : Nat) : Bool :=
  n ≤ (rs.map fun r => min (r.1 + r.2.length) (lo + n) - max r.1 lo).foldl (· + ·) 0

/-- The 512-byte blocks that an access to pieces of LPDDR5X reads: all of a read, and of a write those that it does not write whole
(R153). -/
def readBlocks (ps : List (Nat × Nat)) (write : Bool) : List Nat :=
  let all := ps.flatMap fun p => List.range' (p.1 / 512) ((p.1 + p.2 - 1) / 512 - p.1 / 512 + 1)
  if write then all.filter fun b => ! coversRange (ps.map fun p => (p.1, List.replicate p.2 0)) (512 * b) 512 else all

/-- Poisoned blocks that stay so: one that is rewritten whole has a new MAC (R153). -/
def MemSt.rewritten (m : MemSt) (rs : List Run) : MemSt := { m with poisoned := m.poisoned.filter fun b => ! coversRange rs (512 * b) 512 }

/-! Retraining (R155). -/

/-- The package of an LPDDR5X address: eight channels each, by offset bits [14:9] (R153; log 144). -/
def packageOf (a : Nat) : Option Nat :=
  if lpBase ≤ a ∧ a < lpBase + 0x8000000000 then some ((a - lpBase) / 512 % 64 / 8) else none

/-- Does an access to `n` bytes wait for a package under retraining. -/
def State.stalls (s : State) (lo n : Nat) : Bool :=
  match s.mm.retrain with
  | none => false
  | some c =>
    n ≠ 0 && (List.range (min 64 ((lo + n - 1) / 512 - lo / 512 + 1))).any fun i => packageOf (lo / 512 * 512 + 512 * i) = some (c / 8)

/-- Before a part of a block is written, an invalid block is taken as zeros (R381). -/
def zeroInvalid (s : State) (bs : List Nat) : State :=
  bs.foldl (fun t b =>
    if carriesCheck t (b * 4096) ∧ ¬ entryValid (chkGet t b) then { t with mem := memClear t.mem (b * 4096) 4096 } else t) s

/-- Give every block of `bs` that carries check values the entry of its contents (R379, R381). -/
def stampBlocks (s : State) (cvp : Nat) (bs : List Nat) : State :=
  bs.foldl (fun t b =>
    if carriesCheck t (b * 4096) then
      { t with chk := SMap.set 0 t.chk b (mkEntry t.mem b cvp (t.stp.s.setWidth 16)) } else t) s

/-- Write runs of bytes and the check values of the blocks they touch, with WSTEP the current step (R381). -/
def writeRuns (s : State) (cvp : Nat) (rs : List Run) : State :=
  let bs := runBlocks rs
  let s1 := zeroInvalid s bs
  let s2 := { s1 with mem := rs.foldl (fun m r => memWrite m r.1 r.2) s1.mem, mm := s1.mm.rewritten rs }
  stampBlocks s2 cvp bs

/-- A block of the runs that is written in part and whose rest does not verify (R381): the block and why; `whole` tells which lie
wholly inside the view. -/
def writeFault (s : State) (h : Nat) (whole : Nat → Bool) (rs : List Run) : Option (Nat × Nat) :=
  (runBlocks rs).findSome? fun b =>
    if ¬ carriesCheck s (b * 4096) ∨ coversBlock rs b ∨ ¬ entryValid (chkGet s b) then none
    else (blockFault s h (whole b) b).map fun k => (b, k)

end Sys2Proof.Machine
end

