-- ==== Sys2Proof/Machine/Num.lean ====
section
/-! DEFINITION. Number formats and the one rounding function of the module (R32-R52, R55): codes, their values, exact
values as rationals, conversion with overflow and special inputs, FP32 arithmetic rounded once. -/

namespace Sys2Proof.Machine

/-- The formats of R32. -/
inductive Fmt where
  | e4m3 | e5m2 | e3m2 | e2m3 | e2m1 | int8 | bf16 | fp16 | fp32 | bx16 | t128 | lt320 | g32 | g64
  deriving DecidableEq, Repr

/-- Format codes of R32; every other code is unassigned or reserved (R33). -/
def Fmt.ofCode (c : Nat) : Option Fmt :=
  match c with
  | 0x01 => some .e4m3 | 0x02 => some .e5m2 | 0x03 => some .e3m2 | 0x04 => some .e2m3
  | 0x05 => some .e2m1 | 0x06 => some .int8 | 0x08 => some .bf16 | 0x09 => some .fp16
  | 0x0A => some .fp32 | 0x0B => some .bx16 | 0x10 => some .t128 | 0x11 => some .lt320
  | 0x12 => some .g32 | 0x13 => some .g64
  | _ => none

/-- Width of one element in bits (R32); for BX16 that of a fraction. -/
def Fmt.bits : Fmt → Nat
  | .e4m3 | .e5m2 | .int8 => 8
  | .e3m2 | .e2m3 => 6
  | .e2m1 => 4
  | .bf16 | .fp16 | .bx16 => 16
  | .fp32 | .g32 => 32
  | .g64 => 64
  | .t128 => 128
  | .lt320 => 320

/-- Formats that carry a BE4 per block (R38). -/
def Fmt.blockScaled : Fmt → Bool
  | .e4m3 | .e5m2 | .e3m2 | .e2m3 | .e2m1 | .int8 => true
  | _ => false

/-- Formats that carry a tensor scale (R38). -/
def Fmt.scaled : Fmt → Bool
  | .bf16 | .fp16 | .bx16 => true
  | f => f.blockScaled

/-- The grid words (R55). -/
def Fmt.grid : Fmt → Bool
  | .g32 | .g64 => true
  | _ => false

/-- The formats moved raw (R56). -/
def Fmt.raw : Fmt → Bool
  | .t128 | .lt320 | .g32 | .g64 => true
  | _ => false

/-! Exact values. -/

/-- 2 to an integer power, exactly. -/
def pow2 (e : Int) : ℚ :=
  if 0 ≤ e then ((2 ^ e.toNat : Nat) : ℚ) else mkRat 1 (2 ^ (-e).toNat)

/-- floor(log2 a) for a > 0. -/
def floorLog2 (a : ℚ) : Int :=
  let l : Int := (Nat.log2 a.num.toNat : Int) - (Nat.log2 a.den : Int)
  if pow2 l ≤ a then l else l - 1

/-- floor of a nonnegative exact value. -/
def floorNat (a : ℚ) : Nat := a.num.toNat / a.den

/-- floor of an exact value. -/
def floorInt (a : ℚ) : Int := a.num.fdiv a.den

/-- Nearest integer of a nonnegative exact value, ties to even (R48). -/
def rneNat (n : ℚ) : Nat :=
  let q := floorNat n
  let r := n - (q : ℚ)
  if r > 1 / 2 ∨ (r = 1 / 2 ∧ q % 2 = 1) then q + 1 else q

/-- Stochastic step on a nonnegative exact value with the random word `u` (R51). -/
def srNat (n : ℚ) (u : W32) : Nat :=
  let q := floorNat n
  let rf := floorNat ((n - (q : ℚ)) * pow2 32)
  if rf + u.toNat ≥ 2 ^ 32 then q + 1 else q

/-- Nearest integer of a signed exact value, ties to even. -/
def rneInt (v : ℚ) : Int := if v < 0 then -(rneNat (-v) : Int) else (rneNat v : Int)

/-- The rounding a conversion uses: nearest even (R48), or stochastic with its word (R51, R52). -/
inductive Rnd where
  | rne
  | sr (u : W32)
  deriving DecidableEq, Repr

/-- The rounding step on a nonnegative exact value. -/
def Rnd.step : Rnd → ℚ → Nat
  | .rne, n => rneNat n
  | .sr u, n => srNat n u

/-- A value of a floating-point code (R34): NaN, an infinity, or a sign with an exact magnitude. -/
inductive FV where
  | nan
  | inf (neg : Bool)
  | fin (neg : Bool) (mag : ℚ)
  deriving DecidableEq, Repr

/-- The exact number a finite value is; infinities and NaN count as 0 here (R46). -/
def FV.toRat : FV → ℚ
  | .fin false m => m
  | .fin true m => -m
  | _ => 0

/-- Is the value finite. -/
def FV.isFin : FV → Bool
  | .fin _ _ => true
  | _ => false

/-- An exact number as a value; zero is +0. -/
def FV.ofRat (v : ℚ) : FV := .fin (v < 0) |v|

/-- Change the sign when `neg`. -/
def FV.flip (neg : Bool) : FV → FV
  | .nan => .nan
  | .inf s => .inf (s != neg)
  | .fin s m => .fin (s != neg) m

/-- Sticky flags of a conversion (R53). -/
structure Fl where
  ovf  : Bool := false
  nfin : Bool := false
  deriving DecidableEq, Repr

/-- Setting flags is an OR (R54). -/
def Fl.or (a b : Fl) : Fl := ⟨a.ovf || b.ovf, a.nfin || b.nfin⟩

def Fl.none : Fl := ⟨false, false⟩
def Fl.mkOvf : Fl := ⟨true, false⟩
def Fl.mkNfin : Fl := ⟨false, true⟩

/-- Parameters of a floating-point format (R34, R35, R48). `hasInf`: E all ones is Inf or NaN. -/
structure FpP where
  eb     : Nat
  mb     : Nat
  bias   : Int
  emin   : Int
  thresh : ℚ
  hasInf : Bool
  deriving DecidableEq, Repr

/-- The parameters of R34, R35 and R48; none for a format that is not floating point. -/
def Fmt.fp : Fmt → Option FpP
  | .e4m3 => some ⟨4, 3, 7, -6, 464, false⟩
  | .e5m2 => some ⟨5, 2, 15, -14, 61440, true⟩
  | .e3m2 => some ⟨3, 2, 3, -2, 30, false⟩
  | .e2m3 => some ⟨2, 3, 1, 0, 31 / 4, false⟩
  | .e2m1 => some ⟨2, 1, 1, 0, 7, false⟩
  | .bf16 => some ⟨8, 7, 127, -126, (2 - pow2 (-8)) * pow2 127, true⟩
  | .fp16 => some ⟨5, 10, 15, -14, 65520, true⟩
  | .fp32 => some ⟨8, 23, 127, -126, (2 - pow2 (-24)) * pow2 127, true⟩
  | _ => none

/-- Value of a code under floating-point parameters (R34). -/
def FpP.decode (p : FpP) (e4m3 : Bool) (c : Nat) : FV :=
  let m := c % 2 ^ p.mb
  let e := c / 2 ^ p.mb % 2 ^ p.eb
  let s := c / 2 ^ (p.mb + p.eb) % 2 = 1
  if p.hasInf ∧ e = 2 ^ p.eb - 1 then (if m = 0 then .inf s else .nan)
  else if e4m3 ∧ e = 15 ∧ m = 7 then .nan
  else if e = 0 then .fin s ((m : ℚ) * pow2 (1 - p.bias - p.mb))
  else .fin s ((2 ^ p.mb + m : Nat) * pow2 ((e : Int) - p.bias - p.mb))

/-- Value of an element code before scales (R34); the integer of an INT8 code. Zero for the formats that are not
element formats of R34. -/
def Fmt.decode (f : Fmt) (c : Nat) : FV :=
  match f.fp with
  | some p => p.decode (f = .e4m3) c
  | none => if f = .int8 then FV.ofRat (((BitVec.ofNat 8 c).toInt : Int) : ℚ) else .fin false 0

/-- The code with the sign bit of its format. -/
def FpP.signed (p : FpP) (neg : Bool) (c : Nat) : Nat := if neg then c + 2 ^ (p.eb + p.mb) else c

/-- Largest finite code, unsigned (R35). -/
def Fmt.maxCode : Fmt → Nat
  | .e4m3 => 0x7E | .e5m2 => 0x7B | .e3m2 => 0x1F | .e2m3 => 0x1F | .e2m1 => 0x7
  | .bf16 => 0x7F7F | .fp16 => 0x7BFF | .fp32 => 0x7F7FFFFF | .int8 => 0x7F
  | _ => 0

/-- Largest finite value (R35). -/
def Fmt.maxFin (f : Fmt) : ℚ := (f.decode f.maxCode).toRat

/-- The canonical NaN, or zero in a format that has none (R50). -/
def Fmt.nanCode : Fmt → Nat
  | .e4m3 => 0x7F | .e5m2 => 0x7E | .bf16 => 0x7FC0 | .fp16 => 0x7E00 | .fp32 => 0x7FC00000
  | _ => 0

/-- Largest finite code with a sign; INT8 gives +127 or -128 (R49). -/
def Fmt.satCode (f : Fmt) (neg : Bool) : Nat :=
  match f.fp with
  | some p => p.signed neg f.maxCode
  | none => if neg then 0x80 else 0x7F

/-- The code of an overflow (R49). -/
def Fmt.ovfCode (f : Fmt) (neg nsat : Bool) : Nat :=
  match f.fp with
  | some p =>
    if nsat ∧ f = .e4m3 then 0x7F
    else if nsat ∧ p.hasInf then p.signed neg ((2 ^ p.eb - 1) * 2 ^ p.mb)
    else f.satCode neg
  | none => f.satCode neg

/-- round_rne of R48 with the step of R51 where stochastic: the code of a sign and an exact magnitude in a
floating-point format, and whether it overflowed. -/
def FpP.round (p : FpP) (f : Fmt) (rd : Rnd) (neg : Bool) (a : ℚ) (nsat : Bool) : Nat × Fl :=
  if a ≥ p.thresh then (f.ovfCode neg nsat, .mkOvf)
  else
    let e := if a = 0 then p.emin else max (floorLog2 a) p.emin
    let q0 := rd.step (a * pow2 ((p.mb : Int) - e))
    let carry := q0 = 2 ^ (p.mb + 1)
    let q := if carry then q0 / 2 else q0
    let e' := if carry then e + 1 else e
    let body :=
      if q < 2 ^ p.mb then q
      else (e' + p.bias).toNat * 2 ^ p.mb + (q - 2 ^ p.mb)
    -- between the largest finite value and the threshold the largest finite code results (R48, R51)
    (p.signed neg (min body f.maxCode), .none)

/-- An exact value into INT8 (R48, R49, R51). -/
def roundInt8 (rd : Rnd) (neg : Bool) (a : ℚ) : Nat × Fl :=
  if (¬ neg ∧ a ≥ 255 / 2) ∨ (neg ∧ a ≥ 257 / 2) then (Fmt.int8.satCode neg, .mkOvf)
  else
    let q := rd.step a
    if neg then ((BitVec.ofInt 8 (-(min q 128 : Nat) : Int)).toNat, .none) else (min q 127, .none)

/-- Conversion of one value into an element format (R48-R51): codes and flags. -/
def Fmt.convert (f : Fmt) (rd : Rnd) (nsat : Bool) (v : FV) : Nat × Fl :=
  match f.fp with
  | some p =>
    match v with
    | .nan => (f.nanCode, .mkNfin)
    | .inf s => (if p.hasInf ∨ f = .e4m3 then (if nsat then f.ovfCode s true else f.satCode s) else f.satCode s,
        .mkNfin)
    | .fin s a => p.round f rd s a nsat
  | none =>
    if f = .int8 then
      match v with
      | .nan => (0, .mkNfin)
      | .inf s => (f.satCode s, .mkNfin)
      | .fin s a => roundInt8 rd s a
    else (0, .none)

/-! FP32 words. -/

/-- The value of an FP32 word. -/
def f32 (w : W32) : FV := Fmt.fp32.decode w.toNat

/-- The canonical FP32 NaN (R50). -/
def nan32 : W32 := 0x7FC00000#32

/-- An FP32 infinity. -/
def inf32 (neg : Bool) : W32 := if neg then 0xFF800000#32 else 0x7F800000#32

/-- FP32 of a value, rounded once; an overflow gives an infinity (the rule of the vector engine, R116). -/
def toF32 (v : FV) : W32 :=
  match v with
  | .nan => nan32
  | .inf s => inf32 s
  | .fin _ _ => BitVec.ofNat 32 (Fmt.fp32.convert .rne true v).1

/-- A scale of R39 that conversions may use: finite and nonzero. -/
def scaleOk (w : W32) : Option ℚ :=
  match f32 w with
  | .fin _ m => if m = 0 then none else some (f32 w).toRat
  | _ => none

/-- Sum of two values by IEEE 754 rules: exact for finite ones. `x + (-x)` is +0, and -0 + -0 is -0. -/
def FV.add (a b : FV) : FV :=
  match a, b with
  | .nan, _ => .nan
  | _, .nan => .nan
  | .inf s, .inf t => if s = t then .inf s else .nan
  | .inf s, _ => .inf s
  | _, .inf t => .inf t
  | .fin s m, .fin t n =>
    let v := (FV.fin s m).toRat + (FV.fin t n).toRat
    if v = 0 then .fin (s && t) 0 else FV.ofRat v

/-- Product of two values by IEEE 754 rules. -/
def FV.mul (a b : FV) : FV :=
  match a, b with
  | .nan, _ => .nan
  | _, .nan => .nan
  | .inf s, .inf t => .inf (s != t)
  | .inf s, .fin t n => if n = 0 then .nan else .inf (s != t)
  | .fin s m, .inf t => if m = 0 then .nan else .inf (s != t)
  | .fin s m, .fin t n => .fin (s != t) (m * n)

/-- Negation. -/
def FV.neg (a : FV) : FV := a.flip true

/-- Quotient of two values by IEEE 754 rules. -/
def FV.div (a b : FV) : FV :=
  match a, b with
  | .nan, _ => .nan
  | _, .nan => .nan
  | .inf _, .inf _ => .nan
  | .inf s, .fin t _ => .inf (s != t)
  | .fin s _, .inf t => .fin (s != t) 0
  | .fin s m, .fin t n =>
    if n = 0 then (if m = 0 then .nan else .inf (s != t)) else .fin (s != t) (m / n)

/-- FP32 sum, rounded once. -/
def fadd (a b : W32) : W32 := toF32 ((f32 a).add (f32 b))
/-- FP32 difference, rounded once. -/
def fsub (a b : W32) : W32 := toF32 ((f32 a).add (f32 b).neg)
/-- FP32 product, rounded once. -/
def fmul (a b : W32) : W32 := toF32 ((f32 a).mul (f32 b))
/-- FP32 fused multiply-add a × b + c, rounded once. -/
def ffma (a b c : W32) : W32 := toF32 (((f32 a).mul (f32 b)).add (f32 c))
/-- FP32 quotient, rounded once. -/
def fdiv (a b : W32) : W32 := toF32 ((f32 a).div (f32 b))

/-- The integer square root by bisection from the top bit down: `n` bits remain to be tried. -/
def isqrtFrom (a : Nat) : Nat → Nat → Nat
  | 0, r => r
  | n + 1, r =>
    let t := r + 2 ^ n
    if t * t ≤ a then isqrtFrom a n t else isqrtFrom a n r

/-- floor(sqrt a). -/
def isqrt (a : Nat) : Nat := isqrtFrom a (Nat.log2 a / 2 + 1) 0

/-- RNE to FP32 of sqrt of a nonnegative exact value, by comparison of squares: `sqrtF32 a` is the FP32 word
nearest to the root, ties to even. The root of a normal FP32 range value is always a normal FP32 value. -/
def sqrtMag (a : ℚ) : ℚ :=
  if a ≤ 0 then 0
  else
    let e : Int := (floorLog2 a).fdiv 2
    -- root in [2^e, 2^(e+1)); units of 2^(e-23)
    let n := a * pow2 (2 * (23 - e))
    let q := isqrt (floorNat n)
    let h : ℚ := (q : ℚ) + 1 / 2
    let q' := if n > h * h ∨ (n = h * h ∧ q % 2 = 1) then q + 1 else q
    (q' : ℚ) * pow2 (e - 23)

/-- FP32 square root by IEEE 754 rules, rounded once. -/
def fsqrt (w : W32) : W32 :=
  match f32 w with
  | .nan => nan32
  | .inf false => inf32 false
  | .inf true => nan32
  | .fin s m => if m = 0 then w else if s then nan32 else toF32 (.fin false (sqrtMag m))

/-! Grid words (R55). -/

/-- An exact value rounded to a grid of exponent `e`, in a grid word of `w` bits: N and whether it overflowed. -/
def toGrid (w : Nat) (rd : Rnd) (e : Int) (neg : Bool) (a : ℚ) : Int × Bool :=
  let n := a * pow2 (-e)
  let lim : Nat := 2 ^ (w - 1) - 1
  if n ≥ (lim : ℚ) + 1 / 2 then (if neg then -(lim : Int) else (lim : Int), true)
  else
    let q := min (rd.step n) lim
    (if neg then -(q : Int) else (q : Int), false)

end Sys2Proof.Machine
end

