-- ==== Sys2Proof/Machine/Tally.lean ====
section
/-! DEFINITION. Tally arithmetic (R60-R75, R101, R102): adding, reading out, the accumulation modes, anchors, checksums
and residues, and Long Tally words. -/

namespace Sys2Proof.Machine

open Sys2Proof

/-- tally_add of R62 at width `w`, on a signed element, its wrap count and an addend. -/
def tallyAddAt (w : Nat) (n wrap p : Int) : Int × Int :=
  let s := n + p
  let lim : Int := 2 ^ (w - 1)
  let c : Int := if s ≥ lim then 1 else if s < -lim then -1 else 0
  (s - c * 2 ^ w, if wrap ≠ 127 ∧ wrap ≠ -127 then wrap + c else wrap)

/-- tally_read of R63 at width `w`: the value read out, and whether it saturated. -/
def tallyReadAt (w : Nat) (n wrap : Int) : Int × Bool :=
  if wrap > 0 then (2 ^ (w - 1) - 1, true) else if wrap < 0 then (-(2 ^ (w - 1)), true) else (n, false)

/-- tally_add on a tile element (R62). -/
def TEl.add (t : TEl) (p : Int) : TEl :=
  let r := tallyAddAt 128 t.w.toInt t.wrap.toInt p
  { t with w := BitVec.ofInt 128 r.1, wrap := BitVec.ofInt 8 r.2 }

/-- tally_read on a tile element (R63). -/
def TEl.read (t : TEl) : Int × Bool := tallyReadAt 128 t.w.toInt t.wrap.toInt

/-- Round to 16 significant bits, ties to even (R69). -/
def round16 (x : Int) : Int :=
  let a := x.natAbs
  let e := Nat.log2 a
  if a = 0 ∨ e ≤ 15 then x
  else
    let q := a >>> (e - 15)
    let r := a - (q <<< (e - 15))
    let half := 2 ^ (e - 16)
    let q' := if r > half ∨ (r = half ∧ q % 2 = 1) then q + 1 else q
    let b : Int := ((q' <<< (e - 15) : Nat) : Int)
    if x < 0 then -b else b

/-- CHUNK accumulation (R69) of products `ps` from logical index `k` on, with chunk word `cw`. -/
def chunkFrom (c : Nat) (first : Bool) : Nat → List Int → Int → TEl → TEl
  | _, [], cw, t => t.add cw
  | k, p :: ps, cw, t =>
    if ¬ first ∧ k % c = 0 then chunkFrom c false (k + 1) ps (round16 p) (t.add cw)
    else chunkFrom c false (k + 1) ps (round16 (cw + p)) t

/-- One level of the pairwise tree of R71: neighbours are added. -/
def pairLevel : List W32 → List W32
  | a :: b :: xs => fadd a b :: pairLevel xs
  | xs => xs

/-- The chunk sum of 32 FP32 products (R71). -/
def z1Tree (v : List W32) : W32 :=
  ((pairLevel (pairLevel (pairLevel (pairLevel (pairLevel v))))).head?).getD 0

/-- Z1 accumulation (R71) of the FP32 products of logical indices from `k0` on into an FP32 accumulator. -/
def z1Acc (k0 : Nat) (ps : List W32) (acc : W32) : W32 :=
  let pad := List.replicate (k0 % 32) (0 : W32) ++ ps
  let full := pad ++ List.replicate ((32 - pad.length % 32) % 32) (0 : W32)
  (List.range (full.length / 32)).foldl (fun a b => fadd a (z1Tree ((full.drop (32 * b)).take 32))) acc

/-- A truncated product of the anchored window (R73): fractions, block-exponent sum, anchor. -/
def anchorTerm (fa fb : Int) (s a : Int) : Int :=
  let pr := fa * fb
  let sh := s - 282 - a
  if sh ≥ 0 then pr * 2 ^ sh.toNat
  else if sh > -31 then (if pr < 0 then -((-pr) / 2 ^ (-sh).toNat) else pr / 2 ^ (-sh).toNat)
  else 0

/-- The value of an element as the epilogue takes it before scales (R94): a plain, anchored or Z1 element; whether the
readout saturated. -/
def TEl.value (t : TEl) (kind : BitVec 2) : FV × Bool :=
  if kind = 2 then (f32 (t.w.setWidth 32), false)
  else
    let r := t.read
    if kind = 1 then
      if t.anc = 0x8000#16 then (.fin false 0, false)
      else (FV.ofRat ((r.1 : ℚ) * pow2 t.anc.toInt), r.2)
    else (FV.ofRat ((r.1 : ℚ) * pow2 (-72)), r.2)

/-- Residue modulo 2^16 - 1 (R102). -/
def residue (v : Int) : Nat := (v.emod 65535).toNat

/-- Add a residue to a residue word. -/
def resAdd (r : W16) (v : Int) : W16 := BitVec.ofNat 16 (residue ((r.toNat : Int) + v))

/-- Adding into a checksum word, modulo 2^136 (R101). -/
def csAdd (c : BitVec 136) (v : Int) : BitVec 136 := c + BitVec.ofInt 136 v

/-- A full-width sum of an element for the checksums: N + W × 2^128 (R101). -/
def TEl.full (t : TEl) : Int := t.w.toInt + t.wrap.toInt * 2 ^ 128

/-- Is a cell one that the chain works on: within a corner that a command of the chain has used. R101 sums over the rows and columns of
the array and does not say what it does with cells outside a chain's M × N, which keep what earlier chains left: the model leaves them
out (DESIGN CHOICE, log 157). -/
def Tile.inUse (t : Tile) (x : Nat) : Bool := t.used.any fun u => x / 128 < u.1 && x % 128 < u.2

/-- Put a corner among those in use. -/
def Tile.use (t : Tile) (m n : Nat) : Tile := if (m, n) ∈ t.used then t else { t with used := t.used ++ [(m, n)] }

/-- The sum over the elements in use that satisfy a test, of a value of each. -/
def Tile.sumOf (t : Tile) (p : Nat → Bool) (f : TEl → Int) : Int :=
  (t.els.filter fun e => t.inUse e.1 && p e.1).foldl (fun a e => a + f e.2) 0

/-- The checksum of row `i` over the elements in use. -/
def Tile.rowSum (t : Tile) (i : Nat) : Int := t.sumOf (fun x => x / 128 = i) TEl.full

/-- The checksum of column `j` over the elements in use. -/
def Tile.colSum (t : Tile) (j : Nat) : Int := t.sumOf (fun x => x % 128 = j) TEl.full

/-- Do the elements in use that satisfy a test include one whose wrap byte is held at ±127: R62 leaves its row and column out. -/
def Tile.heldIn (t : Tile) (p : Nat → Bool) : Bool :=
  t.els.any fun e => t.inUse e.1 && p e.1 && (e.2.wrap.toInt = 127 || e.2.wrap.toInt = -127)

/-- The comparisons at a check point (R62, R101, R102): the kind and index of the first that fails. A chain with one command of a mode
that rounds is checked by residues alone, also for its EXACT commands and its TACCMs: the spec does not say how a mixed chain is checked
(DESIGN CHOICE, log 158). -/
def Tile.chkPoint (t : Tile) : Option (BitVec 3 × BitVec 7) :=
  let rho := fun (p : Nat → Bool) => BitVec.ofNat 16 (residue (t.sumOf p fun e => (e.rho.toNat : Int)))
  let at' := fun (n : BitVec 3) (bad : Nat → Bool) => ((List.range 128).find? bad).map fun i => (n, BitVec.ofNat 7 i)
  if t.rounded then
    (at' 2 fun j => rho (fun x => x % 128 = j) ≠ SMap.get 0 t.colR j) <|>
    (at' 2 fun i => rho (fun x => x / 128 = i) ≠ SMap.get 0 t.rowR i)
  else
    (at' 0 fun j => ! t.heldIn (fun x => x % 128 = j) && decide (BitVec.ofInt 136 (t.colSum j) ≠ SMap.get 0 t.colC j)) <|>
    (at' 1 fun i => ! t.heldIn (fun x => x / 128 = i) && decide (BitVec.ofInt 136 (t.rowSum i) ≠ SMap.get 0 t.rowC i))

/-! Long Tally words (R65, R66). -/

/-- Is the word valid: the top 11 bits agree (R65). -/
def ltValid (w : W320) : Bool := let v := w.toInt; -(2 ^ 309) ≤ v && v < 2 ^ 309

/-- Readout of a word in units of 2^-149: its value, or the saturated value and true (R66). -/
def ltRead (w : W320) : Int × Bool :=
  if ltValid w then (w.toInt, false)
  else if w.msb then (-(2 ^ 309), true) else (2 ^ 309 - 1, true)

/-- Raw word of a readout. -/
def ltSat (w : W320) : W320 × Bool := let r := ltRead w; (BitVec.ofInt 320 r.1, r.2)

/-- Units of 2^-149 of an exact value that is a multiple of it; truncated toward zero otherwise (R97). -/
def ltUnits (v : ℚ) : Int :=
  let u := v * pow2 149
  if u < 0 then -(floorNat (-u) : Int) else (floorNat u : Int)

/-- Add to a Long Tally register an addend of weight `wt`; beyond a total weight of 2^42 the word is the free value
`n` (R66). -/
def LtEl.add (l : LtEl) (v : Int) (wt n : Nat) : LtEl :=
  let total := l.weight + wt
  if total > 2 ^ 42 then ⟨Config.freeLt n, total⟩ else ⟨l.w + BitVec.ofInt 320 v, total⟩

/-- Weight of an FP32 addend (R66). -/
def wtF32 : Nat := 1
/-- Weight of an LT320 addend (R66). -/
def wtLt : Nat := 2 ^ 32

end Sys2Proof.Machine
end

