-- ==== Sys2Proof/Machine/View.lean ====
section
/-! DEFINITION. Tensors in memory: descriptors (R177-R179), addresses of elements (R36, R40, R82), scale records (R39),
and the conversions of the load/store path (R41-R46, R56-R58). -/

namespace Sys2Proof.Machine

open Sys2Proof

/-- A tensor descriptor (R178). `ext` and `str` have six entries; `str` starts with a zero for dimension 0. -/
structure Desc where
  raw    : Nat
  base   : Nat
  fmtc   : Nat
  cls    : Nat
  cvp    : Nat
  ndim   : Nat
  kdim   : Nat
  bsz    : Bool
  sr     : Bool
  nsat   : Bool
  bem    : Bool
  befix  : Nat
  alay   : Bool
  rsvd   : Nat
  scale  : Nat
  bscale : Nat
  owner  : Nat
  ext    : List Nat
  str    : List Nat
  deriving DecidableEq, Repr

/-- The descriptor a 512-bit value spells (R178). -/
def Desc.ofNat (v : Nat) : Desc :=
  { raw := v, base := bitsAt v 0 48, fmtc := bitsAt v 48 6, cls := bitsAt v 54 2, cvp := bitsAt v 56 2,
    ndim := bitsAt v 58 3, kdim := bitsAt v 61 3, bsz := bitAt v 64, sr := bitAt v 65, nsat := bitAt v 66,
    bem := bitAt v 67, befix := bitsAt v 68 4, alay := bitAt v 72, rsvd := bitsAt v 73 7, scale := bitsAt v 80 16,
    bscale := bitsAt v 96 16, owner := bitsAt v 112 8,
    ext := (List.range 6).map fun d => bitsAt v (120 + 32 * d) 32,
    str := 0 :: (List.range 5).map fun d => bitsAt v (312 + 40 * d) 40 }

/-- The descriptor of handle `h` in the descriptor table (R150). -/
def State.desc (s : State) (h : W16) : Desc := Desc.ofNat (memLe s.mem (descTable + 64 * h.toNat) 64)

/-- The format of a descriptor. -/
def Desc.fmt (d : Desc) : Option Fmt := Fmt.ofCode d.fmtc

/-- Does the format carry a tensor scale (R38). -/
def Desc.scaled (d : Desc) : Bool := match d.fmt with | some f => f.scaled | none => false

/-- Does the format carry a BE4 per block (R38). -/
def Desc.blockScaled (d : Desc) : Bool := match d.fmt with | some f => f.blockScaled | none => false

/-- Width of an element in memory in bits: that of its format, 16 in an anchor tensor (R82). -/
def Desc.ebits (d : Desc) : Nat := if d.alay then 16 else match d.fmt with | some f => f.bits | none => 8

/-- Extent of dimension `i`. -/
def Desc.extent (d : Desc) (i : Nat) : Nat := d.ext.getD i 1

/-- Elements of the view. -/
def Desc.count (d : Desc) : Nat := d.ext.foldl (· * ·) 1

/-- Bit offset of an element from BASE (R36, R179). -/
def Desc.bitOff (d : Desc) (ix : List Nat) : Nat :=
  8 * ((List.zipWith (· * ·) ix d.str).foldl (· + ·) 0) + ix.headD 0 * d.ebits

/-- Linear logical index (R223). -/
def linIdx : List Nat → List Nat → Nat
  | i :: ix, e :: es => i + e * linIdx ix es
  | _, _ => 0

/-- The indexes of linear index `n`. -/
def unlin : Nat → List Nat → List Nat
  | _, [] => []
  | n, e :: es => n % max e 1 :: unlin (n / max e 1) es

/-- Linear logical index of an element in the view. -/
def Desc.lin (d : Desc) (ix : List Nat) : Nat := linIdx ix d.ext

/-- The element of linear index `n`. -/
def Desc.at (d : Desc) (n : Nat) : List Nat := unlin n d.ext

/-- Is an element inside the extents. -/
def Desc.inside (d : Desc) (ix : List Nat) : Bool := (List.zipWith (fun i e => decide (i < e)) ix d.ext).all id

/-- Block size along KDIM (R38). -/
def Desc.bs (d : Desc) : Nat := if d.bsz then 16 else 32

/-- Does the format run in blocks. -/
def Desc.blocked (d : Desc) : Bool := match d.fmt with | some f => f.blockScaled || f = .bx16 | none => false

/-- Blocks along KDIM (R40). -/
def Desc.nb (d : Desc) : Nat := (d.extent d.kdim + d.bs - 1) / d.bs

/-- Block number of an element (R40). -/
def Desc.block (d : Desc) (ix : List Nat) : Nat :=
  ix.getD d.kdim 0 / d.bs + d.nb * linIdx (ix.eraseIdx d.kdim) (d.ext.eraseIdx d.kdim)

/-- Blocks of the whole tensor (R40). -/
def Desc.blocks (d : Desc) : Nat := d.nb * (d.ext.eraseIdx d.kdim).foldl (· * ·) 1

/-- Bytes from BASE to the end of the last element, whole-block padding included (the address hull of R139). -/
def Desc.hull (d : Desc) : Nat :=
  let last := (List.range 6).map fun i =>
    let e := if d.blocked ∧ i = d.kdim then d.nb * d.bs else d.extent i
    e - 1
  (d.bitOff last + d.ebits + 7) / 8

/-- The physical byte address of BASE; columns go through the column map. -/
def State.basePhys (s : State) (d : Desc) : Nat := (physOf s d.base).getD d.base

/-- Read the bits of an element. -/
def readBits (m : List Host.Cell) (bit n : Nat) : Nat :=
  memLe m (bit / 8) ((bit % 8 + n + 7) / 8) / 2 ^ (bit % 8) % 2 ^ n

/-- The stored code of an element. -/
def State.codeAt (s : State) (d : Desc) (ix : List Nat) : Nat :=
  readBits s.mem (8 * s.basePhys d + d.bitOff ix) d.ebits

/-! Scales (R37-R42). -/

/-- Does a scale handle name a record that the loaded image has filled (R168); the others hold their reset values (R39; log 152). -/
def State.scaleLoaded (s : State) (h : Nat) : Bool := match s.job.prog with | some p => decide (h < p.nscale) | none => true

/-- TS and RTS of a scale handle (R39); handle 0 is 1. -/
def State.scaleRec (s : State) (h : Nat) : W32 × W32 :=
  if h = 0 ∨ s.scaleLoaded h = false then (0x3F800000#32, 0x3F800000#32)
  else
    (BitVec.ofNat 32 (memLe s.mem (scaleTable + 16 * h) 4), BitVec.ofNat 32 (memLe s.mem (scaleTable + 16 * h + 4) 4))

/-- BE4 of the block of an element (R40): 0 where the handle is null or the format has none. -/
def State.beAt (s : State) (d : Desc) (ix : List Nat) : Nat :=
  if d.bscale = 0 ∨ ¬ d.blockScaled then 0
  else
    let b := s.desc (BitVec.ofNat 16 d.bscale)
    readBits s.mem (8 * s.basePhys b + 4 * d.block ix) 4

/-- Block exponent X of the block of a BX16 element (R42). -/
def State.xAt (s : State) (d : Desc) (ix : List Nat) : Nat :=
  let b := s.desc (BitVec.ofNat 16 d.bscale)
  readBits s.mem (8 * (s.basePhys b + d.block ix)) 8

/-- The code value of an element, before any scale; BX16 with its block exponent (R34, R42). -/
def State.rawVal (s : State) (d : Desc) (ix : List Nat) : FV :=
  match d.fmt with
  | some .bx16 =>
    let x := s.xAt d ix
    if x = 0xFF then .nan
    else if x = 0 then .fin false 0
    else FV.ofRat ((((BitVec.ofNat 16 (s.codeAt d ix)).toInt : Int) : ℚ) * pow2 ((x : Int) - 141))
  | some f => f.decode (s.codeAt d ix)
  | none => .fin false 0

/-- The exact value an element represents: code value × 2^-BE × TS (R37); +0 in a BX16 block whose X is 0x00 (R56). The sign of
another zero is the product of the signs of the code value and TS (log 116). -/
def State.elemVal (s : State) (d : Desc) (ix : List Nat) : FV :=
  let ts := (s.scaleRec d.scale).1
  let v := (s.rawVal d ix).mul (.fin false (pow2 (-(s.beAt d ix : Int))))
  if d.fmt = some .bx16 ∧ s.xAt d ix = 0 then .fin false 0
  else if d.scaled then v.mul (f32 ts) else v

/-- Load of an element into the vector engine (R56): FP32 word and the flags of the source tensor. -/
def State.loadF32 (s : State) (d : Desc) (ix : List Nat) : W32 × Fl :=
  let ts := (s.scaleRec d.scale).1
  if d.scaled ∧ scaleOk ts = none then (0, .mkNfin)
  else
    match s.elemVal d ix with
    | .nan => (nan32, .mkNfin)
    | .inf sg => (inf32 sg, .mkNfin)
    | .fin sg a =>
      let r := Fmt.fp32.convert .rne true (.fin sg a)
      (BitVec.ofNat 32 r.1, if r.2.ovf then ⟨true, true⟩ else .none)

/-! BX16 (R42-R46). -/

/-- floor(log2) of the largest nonzero magnitude of exact values, if any is nonzero. -/
def emaxOf (xs : List ℚ) : Option Int :=
  xs.foldl (fun m x =>
    if x = 0 then m
    else
      let e := floorLog2 |x|
      match m with | none => some e | some k => some (max k e)) none

/-- The load path's conversion of a block of finite values (R43): X and fractions. -/
def toBx16 (xs : List ℚ) : Nat × List Int :=
  match emaxOf xs with
  | none => (0, xs.map fun _ => 0)
  | some e =>
    let x := (max (e + 127) 1).toNat
    (x, xs.map fun v => rneInt (v * pow2 (141 - (x : Int))))

/-- Rounding of a signed value by a rounding step on its magnitude. -/
def Rnd.int (r : Rnd) (v : ℚ) : Int := if v < 0 then -(r.step (-v) : Int) else (r.step v : Int)

/-- The store path's conversion into BX16 (R45, R46) of exact values v × RTS, `none` for an infinity or NaN: X,
fractions, flags. The step is nearest even whatever SR says: R51 names no n for a block format, and R45's own text rounds to
nearest (log 126). -/
def storeBx16 (xs : List (Option ℚ)) : Nat × List Int × Fl :=
  if xs.any Option.isNone then (0xFF, xs.map fun _ => 0, .mkNfin)
  else
    let vs := xs.map fun x => x.getD 0
    match emaxOf vs with
    | none => (0, vs.map fun _ => 0, .none)
    | some e =>
      let at' := fun (x : Int) => vs.map fun v => rneInt (v * pow2 (141 - x))
      let sat : Nat × List Int × Fl :=
        (254, vs.map fun v => max (-32767) (min 32767 (rneInt (v * pow2 (141 - 254)))), .mkOvf)
      let x0 := max (e + 127) 1
      if x0 > 254 then sat
      else if ((at' x0).any fun f => f.natAbs ≥ 32768) then
        (if x0 + 1 > 254 then sat else ((x0 + 1).toNat, at' (x0 + 1), .none))
      else (x0.toNat, at' x0, .none)

/-! The store path (R57, R58). -/

/-- What a conversion adds up: elements that set OVF, that set NFIN, nonzero values stored as zero, stochastic
roundings up (R475), and the largest magnitude for the amax table (R211). -/
structure Conv where
  ovf  : Nat
  nfin : Nat
  zero : Nat
  up   : Nat
  amax : W32
  deriving DecidableEq, Repr

def Conv.none : Conv := ⟨0, 0, 0, 0, 0⟩

/-- Sums of two parts of a conversion. -/
def Conv.add (a b : Conv) : Conv :=
  ⟨a.ovf + b.ovf, a.nfin + b.nfin, a.zero + b.zero, a.up + b.up, if a.amax.toNat < b.amax.toNat then b.amax else a.amax⟩

/-- An exact magnitude rounded toward +∞ to FP32, saturating at the largest finite value (R211). -/
def roundUpF32 (a : ℚ) : W32 :=
  let e := if a = 0 then (-126 : Int) else max (floorLog2 a) (-126)
  let n := a * pow2 (23 - e)
  let q := floorNat n
  let q' := if n = (q : ℚ) then q else q + 1
  let body := if q' < 2 ^ 23 then (q' : Int) else (e + 127) * 2 ^ 23 + ((q' : Int) - 2 ^ 23)
  BitVec.ofNat 32 (min body 0x7F7FFFFF).toNat

/-- The largest BE in 0 to 15 that keeps `m` × 2^BE within the largest finite value; 15 for zero, 0 where none does
(R58). -/
def autoBe (f : Fmt) (m : ℚ) : Nat :=
  if m = 0 then 15
  else ((List.range 16).reverse.find? fun (b : Nat) => decide (m * pow2 (b : Int) ≤ f.maxFin)).getD 0

/-- What one element stores: code, conversion counts. `rts` none when it is not usable (R39). -/
def convElem (d : Desc) (f : Fmt) (rd : Rnd) (be : Nat) (rts : Option ℚ) (v : FV) : Nat × Conv :=
  let am : W32 := (match v with | .fin _ a => roundUpF32 a | _ => 0)
  match rts with
  | none => (0, ⟨0, 1, 0, 0, am⟩)
  | some r =>
    let x := v.mul (FV.ofRat (r * pow2 be))
    let c := f.convert rd d.nsat x
    let z : Bool := (match x, f.decode c.1 with | .fin _ a, .fin _ b => decide (a ≠ 0 ∧ b = 0) | _, _ => false)
    let u : Bool :=
      (match rd, x, f.decode c.1 with
        | .sr _, .fin _ a, .fin _ b => decide (b > a) && ! c.2.ovf
        | _, _, _ => false)
    (c.1, ⟨if c.2.ovf then 1 else 0, if c.2.nfin then 1 else 0, if z then 1 else 0, if u then 1 else 0, am⟩)

/-- One element to be stored: its indexes and value. -/
abbrev StEl := List Nat × FV

/-- What a store writes: codes of elements, scale nibbles or exponents of blocks, conversion counts. -/
structure Stored where
  codes  : List (List Nat × Nat)
  scales : List (Nat × Nat)
  conv   : Conv
  deriving DecidableEq, Repr

/-- Positions of the last block of an element's row beyond the extent (R41), for the element that is the last of its
row inside the extent. -/
def padOf (d : Desc) (ix : List Nat) : List (List Nat × Nat) :=
  let k := ix.getD d.kdim 0
  if k + 1 = d.extent d.kdim then
    (List.range (d.nb * d.bs - d.extent d.kdim)).map fun j => (ix.set d.kdim (k + 1 + j), 0)
  else []

/-- Convert elements into the format of a descriptor (R45, R57, R58): `rnd` gives the rounding of an element. Grid and
raw formats are not converted here. -/
def convStore (d : Desc) (f : Fmt) (rts : W32) (rnd : List Nat → Rnd) (els : List StEl) : Stored :=
  let r : Option ℚ := if f.scaled then scaleOk rts else some 1
  if f = .bx16 then
    let bl := (els.map fun e => d.block e.1).eraseDups
    let part := fun b =>
      let es := els.filter fun e => d.block e.1 = b
      let xs := es.map fun e =>
        match r, e.2 with | some q, .fin sg a => some ((FV.fin sg a).toRat * q) | _, _ => none
      let am := es.foldl (fun m e => match e.2 with | .fin _ a => m.add ⟨0, 0, 0, 0, roundUpF32 a⟩ | _ => m) Conv.none
      -- a scale that is not usable writes zeros (R39)
      let c : Nat × List Int × Fl := if r = none then (0, es.map fun _ => 0, .mkNfin) else storeBx16 xs
      let codes := List.zipWith (fun e q => (e.1, (BitVec.ofInt 16 q).toNat)) es c.2.1
      (codes, (b, c.1), am.add ⟨if c.2.2.ovf then 1 else 0, if c.2.2.nfin then 1 else 0, 0, 0, 0⟩)
    let ps := bl.map part
    { codes := ps.flatMap (·.1) ++ els.flatMap fun e => padOf d e.1,
      scales := ps.map fun p => p.2.1,
      conv := ps.foldl (fun c p => c.add p.2.2) .none }
  else
    let bl := if f.blockScaled then (els.map fun e => d.block e.1).eraseDups else []
    let beOf := fun b =>
      if d.bscale = 0 then 0
      else if d.bem then
        let m := els.foldl (fun m e =>
          if d.block e.1 = b then
            (match r, e.2 with | some q, .fin _ a => max m (a * |q|) | _, _ => m) else m) (0 : ℚ)
        autoBe f m
      else d.befix
    let bes := bl.map fun b => (b, beOf b)
    let one := fun (e : StEl) =>
      let be := if f.blockScaled then ((bes.find? fun x => x.1 = d.block e.1).map (·.2)).getD 0 else 0
      (e.1, convElem d f (rnd e.1) be r e.2)
    let cs := els.map one
    { codes := (cs.map fun c => (c.1, c.2.1)) ++ (if f.blockScaled then els.flatMap fun e => padOf d e.1 else []),
      scales := if d.bscale = 0 then [] else bes,
      conv := cs.foldl (fun a c => a.add c.2.2) .none }

/-- Put `n` bits `v` at a bit address. -/
def putBits (m : List Host.Cell) (bit n v : Nat) : Nat × List Byte :=
  let lo := bit / 8
  let sh := bit % 8
  let len := (sh + n + 7) / 8
  let old := memLe m lo len
  (lo, leBytes len (old - old / 2 ^ sh % 2 ^ n * 2 ^ sh + v % 2 ^ n * 2 ^ sh))

/-- The byte runs of element codes. Whole-byte elements are written as they stand; packed ones are merged with the
bits already there, one after another. -/
def codeRuns (m : List Host.Cell) (base : Nat) (d : Desc) (cs : List (List Nat × Nat)) : List Run :=
  if d.ebits % 8 = 0 then cs.map fun c => (base + d.bitOff c.1 / 8, leBytes (d.ebits / 8) c.2)
  else
    (cs.foldl (fun (a : List Host.Cell × List Run) c =>
      let r := putBits a.1 (8 * base + d.bitOff c.1) d.ebits c.2
      (memWrite a.1 r.1 r.2, r :: a.2)) (m, [])).2.reverse

/-- The byte runs of block scales or exponents (R40, R42) into memory `m`. -/
def scaleRuns (s : State) (m : List Host.Cell) (d : Desc) (f : Fmt) (xs : List (Nat × Nat)) : List Run :=
  let b := s.desc (BitVec.ofNat 16 d.bscale)
  let base := s.basePhys b
  if d.bscale = 0 then []
  else if f = .bx16 then xs.map fun x => (base + x.1, leBytes 1 x.2)
  else
    (xs.foldl (fun (a : List Host.Cell × List Run) x =>
      let r := putBits a.1 (8 * base + 4 * x.1) 4 x.2
      (memWrite a.1 r.1 r.2, r :: a.2)) (m, [])).2.reverse

end Sys2Proof.Machine
end

