-- ==== Sys2Proof/Machine/Ops.lean ====
section
/-! DEFINITION. Operations that many commands share: a core's record, the fault path (R389, R390), freezing a master
(R385-R387), event counters (R473-R479), trace points (R484, R485), tensor status words (R53, R54), the amax table
(R211), the log ring (R480), synchronisation objects (R185). -/

namespace Sys2Proof.Machine

open Sys2Proof

/-! Cores. -/

/-- The record of a core. -/
def State.core (s : State) (k : CoreId) : Core := SMap.get Core.zero s.cores k.val

/-- Replace the record of a core. -/
def State.setCore (s : State) (k : CoreId) (c : Core) : State := { s with cores := SMap.set Core.zero s.cores k.val c }

/-- Change the record of a core. -/
def State.modCore (s : State) (k : CoreId) (f : Core → Core) : State := s.setCore k (f (s.core k))

/-- Every core. -/
def allCores : List CoreId := List.finRange 192

/-- Physical cores that a logical column of the loaded program maps to (R146, R168). -/
def State.usedCores (s : State) : List CoreId :=
  match s.job.prog with
  | none => []
  | some p => allCores.filter fun k => (s.mm.colmap.take p.nlcore).contains k.val

/-! Log ring (R480, R481). -/

/-- The attempt number a log or record entry carries (R323, R481): all ones between steps and with no job. A replacement restored to
a step that nothing has attempted stands between steps too. -/
def State.attemptField (s : State) : W32 :=
  if s.job.st = .none ∨ s.stp.phase = .between ∨ (s.stp.phase = .redo ∧ s.stp.a = 0) then 0xFFFFFFFF#32 else s.stp.a

/-- The step counter an entry carries; 0 with no job. -/
def State.stepField (s : State) : W64 := if s.job.st = .none then 0 else s.stp.s

/-- The newest 32,768 entries. -/
def newestLogs (l : List LogEnt) : List LogEnt := (l.reverse.take 32768).reverse

/-- Write a log entry; the ring keeps the newest 32,768. -/
def State.log (s : State) (kind cls : Nat) (payload : List Nat) : State :=
  let e : LogEnt :=
    { kind := kind, cls := cls, entry := s.rings.logNext, s := s.stepField, a := s.attemptField, payload := payload }
  { s with rings := { s.rings with log := newestLogs (s.rings.log ++ [e]), logNext := s.rings.logNext + 1 } }

/-! Event counters. -/

/-- Add `n` occurrences of a source to a block. -/
def Evc.count (e : Evc) (src n : Nat) : Evc :=
  if e.freeze ∨ n = 0 then e
  else
    { e with cnts := e.cnts.map fun x =>
        if x.2.src = src ∧ x.2.en ∧ (x.2.mode → e.live) then
          (x.1, { x.2 with cnt := x.2.cnt + BitVec.ofNat 48 n, wrap := x.2.wrap || decide (x.2.cnt.toNat + n ≥ 2 ^ 48) })
        else x }

/-- Count `n` occurrences of a core source. -/
def Core.count (c : Core) (src n : Nat) : Core := { c with evc := c.evc.count src n }

/-! Trace points. -/

/-- Fire a trace point of a core for a command (R484, R485). -/
def Core.trace (c : Core) (k : CoreId) (kind engine : Nat) (tag : W32) (iter : List W32) : Core :=
  if c.trc.kinds.getLsbD kind ∧ c.trc.taglo.toNat ≤ tag.toNat ∧ tag.toNat ≤ c.trc.taghi.toNat then
    if c.trc.fifo.length < 64 then
      { c with trc := { c.trc with fifo := c.trc.fifo ++ [⟨tag, iter, kind, engine, BitVec.ofNat 16 k.val⟩] } }
    else
      { c with trc := { c.trc with lost := if c.trc.lost = 0xFFFFFFFF#32 then c.trc.lost else c.trc.lost + 1 } }
  else c

/-- Count `n` occurrences of a module source. -/
def State.mcount (s : State) (src n : Nat) : State := { s with mon := { s.mon with evc := s.mon.evc.count src n } }

/-- Fire a trace point of the module block (R484): its record goes to the log ring. -/
def State.mtrace (s : State) (kind : Nat) (tag : W32) : State :=
  if s.mon.mmask.getLsbD kind then s.log 0x0010 2 [tag.toNat, 0, 0, 0, 0, kind, 7, 0xFFFF] else s

/-- Iteration indexes of the four loop levels; 0 where a level is not active (R181). -/
def iter4 (it : List W32) : List W32 := (it ++ [0, 0, 0, 0]).take 4

/-! Fault path. -/

/-- Engine codes of a fault record (R390). -/
def engCmd : Nat := 0
def engMxe : Nat := 1
def engVxe : Nat := 2
def engUpe : Nat := 3
def engSkd : Nat := 4
def engCvu : Nat := 5
def engLs : Nat := 6
def engCtrl : Nat := 7
def engIsland : Nat := 8
def engPcie : Nat := 9
def engLink : Nat := 10
def engDebug : Nat := 11
def engLpddr : Nat := 12

/-- Write a fault record: into the ring, or waiting where the ring is full (R389). -/
def State.raise (s : State) (kind engine : Nat) (core handle : W16) (tag : W32) (iter : List W32) (addr : Nat)
    (detail : Nat) : State :=
  let r : FaultRec :=
    { kind := kind, engine := engine, core := core, handle := handle, tag := tag, attempt := s.stp.a, s := s.stepField,
      iter := iter4 iter, addr := BitVec.ofNat 48 addr, detail := BitVec.ofNat 64 detail, seq := s.rings.seq }
  let rs := { s.rings with seq := s.rings.seq + 1 }
  if s.rings.fault.length < 16384 then { s with rings := { rs with fault := rs.fault ++ [r] } }
  else { s with rings := { rs with wait := rs.wait ++ [r] } }

/-- The 64 bytes of a fault record (R390). -/
def FaultRec.bytes (r : FaultRec) : List Byte :=
  leBytes 2 r.kind ++ leBytes 1 r.engine ++ leBytes 1 0 ++ leBytes 2 r.core.toNat ++ leBytes 2 r.handle.toNat ++ leBytes 4 r.tag.toNat
    ++ leBytes 4 r.attempt.toNat ++ leBytes 8 r.s.toNat ++ (r.iter.flatMap fun i => leBytes 4 i.toNat) ++ leBytes 6 r.addr.toNat
    ++ leBytes 2 0 ++ leBytes 8 r.detail.toNat ++ leBytes 4 r.seq.toNat ++ leBytes 4 0

/-- The bytes of an entry of the record ring: header, payload, padding (R323). -/
def RecEnt.bytes (r : RecEnt) : List Byte :=
  let n := r.payload.length
  leBytes 2 r.type ++ leBytes 2 0 ++ leBytes 4 n ++ leBytes 8 r.s.toNat ++ leBytes 4 r.a.toNat ++ leBytes 4 0
    ++ leBytes 8 r.entry.toNat ++ r.payload ++ List.replicate ((n + 31) / 32 * 32 - n) 0

/-- CORE field of a physical core. -/
def coreField (k : CoreId) : W16 := BitVec.ofNat 16 k.val

/-- CORE field of no core. -/
def noCore : W16 := 0xFFFF#16

/-! Notifications (R421, R428) and the states they tell. -/

/-- Raise an MSI-X vector (R421): one that its table entry masks stands in the pending-bit array (R419, log 161). -/
def Hif.raised (h : Hif) (v : Nat) : Hif :=
  if (SMap.get 0 h.msixTab (4 * v + 3)).getLsbD 0 then { h with pba := h.pba ||| BitVec.ofNat 64 (2 ^ v) }
  else { h with msix := SMap.set 0 h.msix v (SMap.get 0 h.msix v + 1) }

/-- Raise an MSI-X vector. -/
def State.vector (s : State) (v : Nat) : State := { s with hif := s.hif.raised v }

/-- Put notifications that wait into the ring while it has room. -/
def State.postNotes : Nat → State → State
  | 0, s => s
  | n + 1, s =>
    match s.hif.notePend with
    | [] => s
    | x :: xs =>
      if (s.hif.noteNext - s.hif.noteAck).toNat ≥ 1024 ∨ s.hif.ver = none then s
      else
        let y := { x with n := s.hif.noteNext + 1, lost := s.hif.noteOver }
        State.postNotes n (({ s with hif := { s.hif with
          notePend := xs, noteOver := 0, notifs := s.hif.notifs ++ [y], noteNext := s.hif.noteNext + 1 } }.vector 1).mcount 0x019 1)

/-- Post a notification (R428): while the ring is full at most one of each event is held, the newest, and how many have
been overwritten is told by the next one posted. -/
def State.notify (s : State) (code : Nat) (data : List Nat) : State :=
  let q := s.hif.notePend
  let old := q.any fun x => x.code = code
  let q1 := if old then q.map fun x => if x.code = code then { x with data := data } else x
    else q ++ [⟨0, code, data, 0⟩]
  State.postNotes (q1.length + 1) { s with hif := { s.hif with
    notePend := q1, noteOver := if old then s.hif.noteOver + 1 else s.hif.noteOver } }

/-- The states as STATE entries and notifications tell them. -/
def State.states (s : State) : List Nat := [s.sec.sstate.code, s.sec.dlevel, s.sec.pstate]

/-- Change security, debug or power state: a STATE entry and a notification where one of them has changed (R428, R482). -/
def State.setStates (s : State) (ss : SState) (dl ps : Nat) : State :=
  let s1 := { s with sec := { s.sec with sstate := ss, dlevel := dl, pstate := ps } }
  if s.states = s1.states then s
  else (s1.log 0x0006 2 (s.states ++ s1.states ++ [s.nvm.part.qcause])).notify 0x0003 s1.states

/-! Security transitions begin (R361-R363). -/

/-- A return to D0 clears every trace mask (R486). -/
def State.clearMasks (s : State) : State :=
  let f := fun (_ : Nat) (c : Core) => { c with trc := { c.trc with kinds := 0, stall := false } }
  { s with cores := SMap.mapVals Core.zero f s.cores, mon := { s.mon with mmask := 0 } }

/-- Any reset closes D1 (R364), and the debug nonce is valid no more (R365; log 148). -/
def State.closeD1 (s : State) : State :=
  let s1 := { s with sec := { s.sec with dbgNonce := none } }
  if s.sec.dlevel = 1 then (s1.setStates s.sec.sstate 0 s.sec.pstate).clearMasks else s1

/-- Stop every core: nothing of the program is dispatched any more, what is in flight is discarded. -/
def State.stopCores (s : State) : State :=
  let stop := fun (_ : Nat) (c : Core) =>
    { c with fetching := false, inflight := [], waitq := [], loops := [], atCommit := false }
  { s with cores := SMap.mapVals Core.zero stop s.cores }

/-- Does a transition run a scrub (R361, R371). -/
def TransK.scrubs : TransK → Bool
  | .install .. => false
  | _ => true

/-- Is a transition one that gives the owner up (R341). -/
def TransK.releases : TransK → Bool
  | .release _ | .reclaim _ => true
  | _ => false

/-- A halted core or control processor runs again when its debug level closes (R375). -/
def State.clearHalts (s : State) : State :=
  { s with
    cores := SMap.mapVals Core.zero (fun (_ : Nat) (c : Core) => { c with halted := false, stepOne := false }) s.cores
    sec := { s.sec with ctrlHalted := [] } }

/-- Begin a transition that nothing holds up. -/
def State.beginTrans (s : State) (t : TransK) : State :=
  if t.scrubs then { s.stopCores with sec := { s.sec with trans := some t, scrub := true } }
  else { s with sec := { s.sec with trans := some t }, nvm := { s.nvm with writes := s.nvm.writes ++ [.trans t] } }

/-- Ask for a transition: it waits behind one that is under way. -/
def State.startTrans (s : State) (t : TransK) : State :=
  if s.sec.trans.isNone then s.beginTrans t else { s with sec := { s.sec with queue := s.sec.queue ++ [t] } }

/-- Is the module in QUARANTINE or on its way into it. -/
def State.quarantining (s : State) : Bool :=
  let q := fun (t : TransK) => match t with | .quarantine _ => true | _ => false
  s.sec.sstate = .quarantine || (match s.sec.trans with | some t => q t | none => false) || s.sec.queue.any q

/-- A quarantine cause (R361, R362, R375): the first enters QUARANTINE, with the debug level at D0 and the module out of P2, whose
watchdog counts anew (R470); a release or reclaim that has been accepted completes first. A later cause is logged. -/
def State.quarantine (s : State) (cause : Nat) : State :=
  if s.quarantining then s.log 0x0007 2 [cause]
  else if s.sec.pstate = 3 then
    { s with sec := { s.sec with hold := s.sec.hold.map fun r => if r.qcause = 0 then { r with qcause := cause } else r } }
  else
    let p := if s.sec.pstate = 2 then 0 else s.sec.pstate
    let s1 := { s.clearHalts with rst := { s.rst with wdogMs := if s.sec.pstate = 2 then 0 else s.rst.wdogMs } }.clearMasks.setStates
      s.sec.sstate 0 p
    let s2 := { s1 with job := { s1.job with unloadReq := s1.job.unloadReq.filter fun t => ! t.releases } }
    ((s1.job.unloadReq.filter TransK.releases).foldl State.startTrans s2).startTrans (.quarantine cause)

/-- Milliseconds of the span of R363 (2^32 CTRL cycles). -/
def violSpan : Nat := 10737

/-- The island counts a violation of the module's own masters; the eighth in a span enters QUARANTINE (R363). -/
def State.countViol (s : State) : State :=
  let v := (s.sec.viol.filter fun t => s.blw.ms ≤ t + violSpan) ++ [s.blw.ms]
  let s1 := { s with sec := { s.sec with viol := (v.reverse.take 8).reverse } }
  if v.length ≥ 8 then s1.quarantine 5 else s1

/-- A violation of a core's command processor: it is frozen, the access discarded, a record written (R386). -/
def State.violateCmd (s : State) (k : CoreId) (code : Nat) (tag : W32) (iter : List W32) (handle : W16) (addr : Nat) :
    State :=
  ((s.modCore k fun c => { c with frozen := true }).raise 0x0030 engCmd (coreField k) handle tag iter addr
    code).countViol

/-- A 512-byte block of LPDDR5X fails its MAC on both reads (R154): it is poisoned, the controller writes a record, and in the Kelgil
or code area it is an integrity failure of firmware (R362). -/
def State.macFail (s : State) (a : Nat) (core : W16) : State :=
  let s1 := { s with mm := { s.mm with poisoned := (a / 512 :: s.mm.poisoned).eraseDups } }.raise 0x0021 engLpddr core 0 0 [] a 0
  match regionOf a with
  | .kelgil | .code _ => s1.quarantine 4
  | _ => s1

/-- A block of a range of LPDDR5X that fails its MAC: in this access, or found so before (R154). -/
def State.macBad (s : State) (a n : Nat) (poison : Option Nat) : Option Nat :=
  (poison.toList ++ s.mm.poisoned).find? fun b => decide (a < 512 * b + 512 ∧ 512 * b < a + n)

/-- A violation of a core's Skidder (R386). -/
def State.violateSkd (s : State) (k : CoreId) (code : Nat) (tag : W32) (iter : List W32) (handle : W16) (addr : Nat) :
    State :=
  ((s.modCore k fun c => { c with skdFrozen := true }).raise 0x0030 engSkd (coreField k) handle tag iter
    addr code).countViol

/-! Tensor status words (R53, R54). -/

/-- The address of a handle's status word. -/
def statusAddr (h : W16) : Nat := statusTable + 4 * h.toNat

/-- Set flags by an atomic OR. -/
def State.setStatus (s : State) (h : W16) (f : Fl) : State :=
  let old := memLe s.mem (statusAddr h) 4
  let add := (if f.ovf then 1 else 0) ||| (if f.nfin then 2 else 0)
  if old ||| add = old then s else { s with mem := memWrite s.mem (statusAddr h) (leBytes 4 (old ||| add)) }

/-- Read the flags of a handle. -/
def State.status (s : State) (h : W16) : Fl :=
  let v := memLe s.mem (statusAddr h) 4
  ⟨bitAt v 0, bitAt v 1⟩

/-! Amax table (R211). -/

/-- Is a scale handle a managed scale. -/
def State.managed (s : State) (sh : Nat) : Bool := s.job.scales.any fun x => x.sh = sh

/-- Raise the amax word of a handle whose SCALE names a managed scale; after GO the handle is noted (R218). -/
def State.raiseAmax (s : State) (h : W16) (v : W32) : State :=
  let d := s.desc h
  if d.scale = 0 ∨ ¬ s.managed d.scale then s
  else
    let s1 := if s.stp.phase = .committed ∧ h ∉ s.stp.conv then { s with stp := { s.stp with conv := s.stp.conv ++ [h] } } else s
    if (SMap.get 0 s.scc.amax h.toNat).toNat < v.toNat then
      { s1 with scc := { s1.scc with amax := SMap.set 0 s1.scc.amax h.toNat v } }
    else s1

/-! Synchronisation objects (R185). -/

/-- The count of an object. -/
def State.obj (s : State) (o : Nat) : W32 := SMap.get 0 s.stp.sync o

/-- Add 1 to an object; object 0 is none. -/
def State.bump (s : State) (o : W16) : State :=
  if o = 0 then s
  else
    { s with
      stp := { s.stp with sync := SMap.set 0 s.stp.sync o.toNat (s.obj o.toNat + 1) }
      race := { s.race with adds := SMap.set [] s.race.adds o.toNat (SMap.get [] s.race.adds o.toNat ++ [s.race.rel]) } }

/-! Write-step table (R380). -/

/-- The handle whose entry an alias group uses: its lowest. -/
def State.groupLow (s : State) (h : W16) : Nat :=
  match s.job.prog with
  | none => h.toNat
  | some p =>
    match SMap.find p.aliasTab h.toNat with
    | none => h.toNat
    | some g => ((p.aliasTab.find? fun e => e.2 = g).map (·.1)).getD h.toNat

/-- A released write to a handle sets LWS, and FWS where it wrote every block of the view. -/
def State.stampHandle (s : State) (h : W16) (whole : Bool) : State :=
  let g := s.groupLow h
  let now : W16 := s.stp.s.setWidth 16
  let s1 := { s with lws := SMap.set s.stepBase s.lws g now }
  if whole then { s1 with fws := SMap.set s.stepBase s1.fws g now, fwsAt := SMap.set s.stepFirst s1.fwsAt g s.stp.s } else s1

/-! Holding counters. -/

/-- Add to a 16-bit count that holds at its largest value. -/
def hold16 (v : W16) (n : Nat) : W16 := BitVec.ofNat 16 (min 0xFFFF (v.toNat + n))

/-- Add to a 32-bit count that holds at its largest value. -/
def hold32 (v : W32) (n : Nat) : W32 := BitVec.ofNat 32 (min 0xFFFFFFFF (v.toNat + n))

/-- A fresh draw of the model's random source, and the state after it. -/
def State.draw (s : State) : BitVec 256 × State := (Config.entropy s.draws, { s with draws := s.draws + 1 })

/-- The fence map (R395, R407). -/
def State.fenceMap (s : State) : List Nat := (allCores.filter fun k => (s.core k).fenced && ! (s.core k).jobFence).map (·.val)

end Sys2Proof.Machine
end

