-- ==== Sys2Proof/Machine/Matrix.lean ====
section
/-! DEFINITION. What the matrix engine computes (R61, R67-R75, R80-R105, R277, R278): products into tiles, anchor
sweeps, fills, accumulates from memory, raw stores, the epilogue and grid passes. -/

namespace Sys2Proof.Machine

open Sys2Proof

/-- A Tally tile of a core. -/
def Core.tile (c : Core) (t : Nat) : Tile := SMap.get Tile.zero c.tiles t

/-- Replace a Tally tile. -/
def Core.setTile (c : Core) (t : Nat) (x : Tile) : Core := { c with tiles := SMap.set Tile.zero c.tiles t x }

/-! Handles and rounding of one command. -/

/-- A handle field after loop indexing (R184): field number `f`, value `h`. -/
def effHandle (hd : Hdr) (iter : List W32) (f : Nat) (h : W16) : W16 :=
  if hd.ixl.val ≠ 0 ∧ hd.ixm.getLsbD f then h + ((iter.getD (hd.ixl.val - 1) 0).setWidth 16) else h

/-- The iteration index that a command's IXL names; 0 without one. -/
def ixIter (hd : Hdr) (iter : List W32) : W32 := if hd.ixl.val = 0 then 0 else iter.getD (hd.ixl.val - 1) 0

/-- The rounding of an element stored into handle `h` (R51, R52, R223), with stream group `g`. -/
def State.rndOf (s : State) (d : Desc) (g : Nat) (h : W16) (tag : W32) (x : Nat) (ix : List Nat) : Rnd :=
  if d.sr then .sr (randWord (stepKey (s.job.seed.getD 0) g s.stp.s) h tag x (d.lin ix)) else .rne

/-- The logical core that a physical core runs (R146, R168). -/
def State.logical (s : State) (k : CoreId) : Option Nat :=
  match s.job.prog with
  | none => none
  | some p => (s.mm.colmap.take p.nlcore).findIdx? fun x => x = k.val

/-- The layer slot of a layer in the stream of a core (R246, R288). -/
def State.slotOf (s : State) (k : CoreId) (layer : Nat) : Option Nat :=
  match s.job.prog, s.logical k with
  | some p, some n => (p.slots.getD n []).findIdx? fun l => l = layer
  | _, _ => none

/-! Operands. -/

/-- Families of operand formats (R61). -/
inductive OpFam where
  | fp8 | small | int8 | bx
  deriving DecidableEq, Repr

def Fmt.fam : Fmt → Option OpFam
  | .e4m3 | .e5m2 => some .fp8
  | .e3m2 | .e2m3 | .e2m1 => some .small
  | .int8 => some .int8
  | .bx16 | .bf16 | .fp16 => some .bx
  | _ => none

/-- The family of an accepted operand pair (R61). -/
def pairFam (a b : Desc) : Option OpFam :=
  match a.fmt.bind Fmt.fam, b.fmt.bind Fmt.fam with
  | some x, some y => if x = y then some x else none
  | _, _ => none

/-- An operand element: a signed integer and a block exponent. For narrow formats the integer is the value with its
BE4 in units of 2^-36, so that a product of two is in units of 2^-72 (R67); for BX16 it is the fraction with X. -/
structure OpEl where
  v  : Int
  x  : Nat
  deriving DecidableEq, Repr

/-- A narrow element and whether its code is an infinity or NaN (R46). -/
def State.narrowEl (s : State) (d : Desc) (ix : List Nat) : OpEl × Bool :=
  let c := s.rawVal d ix
  (⟨(c.toRat * pow2 (36 - (s.beAt d ix : Int))).num, 0⟩, ! c.isFin)

/-- BX16 blocks of a line of an operand: a stored block as it stands, a BF16 or FP16 block converted (R43, R46, R56).
`at'` gives the indexes of position p of the line, `ext` its extent; positions 0 to `len` - 1 are delivered. -/
def State.bxLine (s : State) (d : Desc) (ext len : Nat) (at' : Nat → List Nat) : List OpEl × Bool :=
  if d.fmt = some .bx16 then
    let l := (List.range len).map fun p =>
      let x := s.xAt d (at' p)
      (OpEl.mk (if x = 0 ∨ x = 0xFF then 0 else (BitVec.ofNat 16 (s.codeAt d (at' p))).toInt) x, decide (x = 0xFF))
    (l.map (·.1), l.any (·.2))
  else
    let blk := fun (b : Nat) =>
      let vs := (List.range 32).map fun i => if 32 * b + i < ext then s.rawVal d (at' (32 * b + i)) else .fin false 0
      if vs.any fun v => ! v.isFin then (List.replicate 32 (OpEl.mk 0 0xFF), true)
      else
        let r := toBx16 (vs.map FV.toRat)
        (r.2.map fun f => OpEl.mk f r.1, false)
    let bs := (List.range ((len + 31) / 32)).map blk
    ((bs.flatMap (·.1)).take len, bs.any (·.2))

/-- The lines of an operand along K: `n` lines of `len` elements, and whether a non-finite code was met. Line i holds
the elements for row i of A or column i of B; `kd` is the stored dimension that K takes. -/
def State.opLines (s : State) (d : Desc) (fam : OpFam) (n len kd : Nat) : List (List OpEl) × Bool :=
  let at' := fun (i p : Nat) => if kd = 0 then [p, i, 0, 0, 0, 0] else [i, p, 0, 0, 0, 0]
  let ls := (List.range n).map fun i =>
    if fam = .bx then s.bxLine d (d.extent kd) len (at' i)
    else
      let l := (List.range len).map fun p => s.narrowEl d (at' i p)
      (l.map (·.1), l.any (·.2))
  (ls.map (·.1), ls.any (·.2))

/-- Both operands of a product command (R173). -/
structure Ops2 where
  fam  : OpFam
  m    : Nat
  n    : Nat
  a    : List (List OpEl)
  b    : List (List OpEl)
  nfa  : Bool
  nfb  : Bool
  hs   : List W16
  deriving DecidableEq, Repr

/-- Read the operands of MMUL or ASWEEP; none for a pair or a range that the loader rejects (R61, R93, R173). -/
def State.ops2 (s : State) (ha hb : W16) (ta tb : Bool) (k0 k1 : W32) : Option Ops2 :=
  let da := s.desc ha
  let db := s.desc hb
  let kda := if ta then 1 else 0
  let kdb := if tb then 0 else 1
  let m := da.extent (1 - kda)
  let n := db.extent (1 - kdb)
  let len := k1.toNat - k0.toNat
  match pairFam da db with
  | none => none
  | some fam =>
    if k1.toNat ≤ k0.toNat ∨ len > da.extent kda ∨ len > db.extent kdb ∨ m < 1 ∨ m > 128 ∨ n < 1 ∨ n > 128
      ∨ (ta ∧ da.fmt = some .bx16) ∨ (tb ∧ db.fmt = some .bx16) then none
    else
      let a := s.opLines da fam m len kda
      let b := s.opLines db fam n len kdb
      some ⟨fam, m, n, a.1, b.1, a.2, b.2, [ha, hb]⟩

/-- Does a block pair take part in an anchor (R72). -/
def takesPart (a b : OpEl) : Bool := a.x ≠ 0 && a.x ≠ 0xFF && b.x ≠ 0 && b.x ≠ 0xFF

/-- The anchor of an output element over its lines (R72). -/
def anchorOf (la lb : List OpEl) : W16 :=
  let m := (List.zip la lb).foldl (fun m p =>
    if takesPart p.1 p.2 then (match m with | none => some (p.1.x + p.2.x) | some y => some (max y (p.1.x + p.2.x)))
    else m) (none : Option Nat)
  match m with
  | none => 0x8000#16
  | some x => BitVec.ofInt 16 ((x : Int) - 342)

/-- The address of row `r` of a tile tensor: BASE and the stride of dimension 1 (R179), which is that of R82 for a tensor
without gaps (log 39). -/
def State.rowAddr (s : State) (d : Desc) (r : Nat) : Nat := s.basePhys d + d.str.getD 1 0 * r

/-- An anchor of an anchor tensor (R82). -/
def State.anchorAt (s : State) (h : W16) (r c : Nat) : W16 :=
  BitVec.ofNat 16 (memLe s.mem (s.rowAddr (s.desc h) r + 2 * c) 2)

/-- Products of two lines in order. -/
def products (la lb : List OpEl) : List Int := (List.zip la lb).map fun p => p.1.v * p.2.v

/-- An element after an anchored accumulation (R73, R75): the element, whether ANCH is set. A product outside 128 bits,
which only an anchor below its products can give, leaves the free word `n` and a free wrap byte (log 20). -/
def anchorAcc (la lb : List OpEl) (n : Nat) (e : TEl) : TEl × Bool :=
  let ps := (List.zip la lb).filter fun p => takesPart p.1 p.2
  let qs := ps.map fun p => anchorTerm p.1.v p.2.v ((p.1.x + p.2.x : Nat) : Int) e.anc.toInt
  let above := ps.any fun p => decide (((p.1.x + p.2.x : Nat) : Int) > e.anc.toInt + 342)
  if qs.any fun q => decide (q.natAbs > 2 ^ 127) then ({ e with w := Config.freeTally n, wrap := Config.freeByte n }, true)
  else (qs.foldl TEl.add e, above)

/-- The chunk length of CSZ (R67). -/
def chunkLen (csz : BitVec 2) : Nat := 16 * 2 ^ csz.toNat

/-- The scaled integer of an operand element for residues (R102). -/
def OpEl.res (e : OpEl) : Int := e.v * 2 ^ e.x

/-- Σ_k of the products of the sums over all lines of one operand with one line of the other (R101). -/
def crossSum (sums : List Int) (l : List Int) : Int := (List.zipWith (· * ·) sums l).foldl (· + ·) 0

/-- Sums over lines, position by position. -/
def lineSums (ls : List (List Int)) (len : Nat) : List Int :=
  ls.foldl (List.zipWith (· + ·)) (List.replicate len 0)

/-- What a command leaves for its release. -/
def Post.flags (p : Post) (h : W16) (f : Fl) : Post :=
  { p with ovf := if f.ovf then p.ovf ++ [h] else p.ovf, nfin := if f.nfin then p.nfin ++ [h] else p.nfin }

/-- Record a written handle. -/
def Post.writes (p : Post) (h : W16) (whole : Bool) : Post := { p with wrote := p.wrote ++ [(h, whole)] }

/-- Record a maximum for the amax table. -/
def Post.max (p : Post) (h : W16) (v : W32) : Post := { p with amax := p.amax ++ [(h, v)] }

/-- The tile kind a product command assigns (R80, R83). -/
def mmulKind (fam : OpFam) (acc : BitVec 2) : BitVec 2 := if acc = 3 then 2 else if fam = .bx then 1 else 0

/-- Is the mode accepted for the pair (R67). -/
def modeOk (fam : OpFam) (acc csz : BitVec 2) : Bool :=
  match acc.toNat with
  | 0 => csz == 0
  | 1 => fam == .fp8
  | 3 => fam == .fp8 && csz == 0
  | _ => false

/-- The tile after a product command (R68-R75, R83, R101, R102). `anchor` gives the anchors of an overwriting anchored
command, `n` numbers the free values. -/
def mmulTile (o : Ops2) (c : MmulF) (anchor : Nat → Nat → W16) (n : Nat) (t : Tile) : Tile :=
  let kind := mmulKind o.fam c.acc
  let start := fun (i j : Nat) (e : TEl) =>
    if c.ovw then TEl.mk 0 0 (if kind = 1 then anchor i j else 0x8000#16) 0 else e
  let one := fun (i j : Nat) (e0 : TEl) =>
    let la := o.a.getD i []
    let lb := o.b.getD j []
    let e := start i j e0
    if kind = 1 then
      let r := anchorAcc la lb (n + 128 * i + j) e
      ({ r.1 with rho := resAdd e.rho ((products (la.map fun x => ⟨x.res, 0⟩) (lb.map fun x => ⟨x.res, 0⟩)).foldl (· + ·) 0) }, r.2)
    else
      let ps := products la lb
      let tot := ps.foldl (· + ·) 0
      if c.acc = 3 then
        let acc := z1Acc c.k0.toNat (ps.map fun p => toF32 (FV.ofRat ((p : ℚ) * pow2 (-72)))) (e.w.setWidth 32)
        ({ e with w := acc.setWidth 128, wrap := 0, rho := resAdd e.rho tot }, false)
      else if c.acc = 1 then
        ({ (chunkFrom (chunkLen c.csz) true c.k0.toNat ps 0 e) with rho := resAdd e.rho tot }, false)
      else (ps.foldl TEl.add e, false)
  let inM := fun (i j : Nat) => decide (i < o.m) && decide (j < o.n)
  let els := SMap.upd TEl.zero 16384 (fun x e => if inM (x / 128) (x % 128) then (one (x / 128) (x % 128) e).1 else e) t.els
  let anchNow := (List.range o.m).any fun i => (List.range o.n).any fun j =>
    kind = 1 && (one i j (SMap.get TEl.zero t.els (128 * i + j))).2
  let base : Tile :=
    if c.ovw then { t with sat := false, anch := false, kind := kind, width := 0, colC := [], rowC := [], colR := [], rowR := [],
                           rounded := false, used := [], ops := [] }
    else t
  let ia := o.a.map fun l => l.map fun (x : OpEl) => if kind = 1 then x.res else x.v
  let ib := o.b.map fun l => l.map fun (x : OpEl) => if kind = 1 then x.res else x.v
  let len := c.k1.toNat - c.k0.toNat
  let sa := lineSums ia len
  let sb := lineSums ib len
  let cj := fun (j : Nat) => crossSum sa (ib.getD j [])
  let ri := fun (i : Nat) => crossSum sb (ia.getD i [])
  let exact : Bool := c.acc = 0 && kind = 0
  { base.use o.m o.n with
    els := els
    ops := (base.ops ++ o.hs).eraseDups
    rounded := base.rounded || ! exact
    anch := base.anch || anchNow
    colC := if exact then SMap.upd 0 o.n (fun j v => csAdd v (cj j)) base.colC else base.colC
    rowC := if exact then SMap.upd 0 o.m (fun i v => csAdd v (ri i)) base.rowC else base.rowC
    colR := if exact then base.colR else SMap.upd 0 o.n (fun j v => resAdd v (cj j)) base.colR
    rowR := if exact then base.rowR else SMap.upd 0 o.m (fun i v => resAdd v (ri i)) base.rowR }

/-- Event source of the K-slices of a mode (R475). -/
def sliceSrc (fam : OpFam) (acc : BitVec 2) : Nat :=
  if acc = 1 then 0x12 else if acc = 3 then 0x14 else if fam = .bx then 0x13 else 0x11

/-- The operands with the anchor tensor among the handles, where the command takes its anchors from one (R173). -/
def Ops2.anchored (o : Ops2) (c : MmulF) (hc : W16) : Ops2 := if c.ans then { o with hs := o.hs ++ [hc] } else o

/-- MMUL (R85). None where the loader rejects the form. -/
def effMmul (s : State) (k : CoreId) (e : Ent) (h : Hdr) (c : MmulF) : Option (State × Post) :=
  let ha := effHandle h e.iter 0 c.ha
  let hb := effHandle h e.iter 1 c.hb
  let hc := effHandle h e.iter 2 c.hanc
  match s.ops2 ha hb c.ta c.tb c.k0 c.k1 with
  | none => none
  | some o =>
    let core := s.core k
    let t := core.tile c.tile.val
    if ¬ modeOk o.fam c.acc c.csz ∨ (¬ c.ovw ∧ t.kind ≠ mmulKind o.fam c.acc) then none
    else
      let anchor := fun (i j : Nat) =>
        if c.ans then s.anchorAt hc i j else anchorOf (o.a.getD i []) (o.b.getD j [])
      let t' := mmulTile (o.anchored c hc) c anchor s.free t
      let len := c.k1.toNat - c.k0.toNat
      let core' := { (((core.setTile c.tile.val t').count 0x10 len).count (sliceSrc o.fam c.acc) len).count 0x21
          (if t'.anch ∧ (c.ovw ∨ ¬ t.anch) then 1 else 0) with
        mxe := { core.mxe with wtile := BitVec.ofNat 3 c.tile.val, wvalid := true } }
      some ({ (s.setCore k core') with free := s.free + 16384 },
        (Post.none.flags ha ⟨false, o.nfa⟩).flags hb ⟨false, o.nfb⟩)

/-- ASWEEP (R74): write the anchors of the command's K range. -/
def effAsweep (s : State) (e : Ent) (h : Hdr) (c : AsweepF) : Option (State × Post) :=
  let ha := effHandle h e.iter 0 c.ha
  let hb := effHandle h e.iter 1 c.hb
  let hc := effHandle h e.iter 2 c.hanc
  match s.ops2 ha hb c.ta c.tb c.k0 c.k1 with
  | none => none
  | some o =>
    let d := s.desc hc
    if o.fam ≠ .bx ∨ ¬ d.alay ∨ d.fmt ≠ some .t128 then none
    else
      let runs := (List.range o.m).map fun i =>
        (s.rowAddr d i, (List.range o.n).flatMap fun j => leBytes 2 (anchorOf (o.a.getD i []) (o.b.getD j [])).toNat)
      some (writeRuns s d.cvp runs,
        ((Post.none.flags ha ⟨false, o.nfa⟩).flags hb ⟨false, o.nfb⟩).writes hc (decide (d.count = o.m * o.n)))

/-- TZERO: every word and wrap byte zero, empty anchors, the given kind (R172, R83). The spec does not say whether it brings the tile into
the cells: WTILE and WVALID stay, and a tile in the cells is checked as one that leaves them (DESIGN CHOICE, log 159). -/
def effTzero (s : State) (k : CoreId) (c : TileMemF) : State × Post :=
  (s.modCore k fun x => x.setTile c.tile.val { Tile.zero with kind := c.kind, used := [(128, 128)] }, Post.none)

/-- The word of a T128 tile tensor (R82). -/
def State.tileWord (s : State) (d : Desc) (r c : Nat) : Nat := memLe s.mem (s.rowAddr d r + 16 * c) 16

/-- TFILL (R81, R82): a fill replaces the whole tile. -/
def effTfill (s : State) (k : CoreId) (e : Ent) (h : Hdr) (c : TileMemF) : Option (State × Post) :=
  let hh := effHandle h e.iter 0 c.h
  let hc := effHandle h e.iter 1 c.hanc
  let d := s.desc hh
  if d.fmt ≠ some .t128 ∨ d.alay ∨ c.kind = 3 then none
  else
    let inM := fun (x : Nat) => decide (x / 128 < d.extent 1) && decide (x % 128 < d.extent 0)
    let els := SMap.ofFn TEl.zero 16384 fun x =>
      if inM x then
        let w := s.tileWord d (x / 128) (x % 128)
        TEl.mk (BitVec.ofNat 128 (if c.kind = 2 then w % 2 ^ 32 else w)) 0
          (if c.kind = 1 then s.anchorAt hc (x / 128) (x % 128) else 0x8000#16) 0
      else TEl.zero
    let t : Tile := { Tile.zero with els := els, kind := c.kind, used := [(128, 128)], ops := if c.kind = 1 then [hh, hc] else [hh] }
    let t' : Tile :=
      { t with
        colC := SMap.ofFn 0 128 fun j => BitVec.ofInt 136 (t.colSum j)
        rowC := SMap.ofFn 0 128 fun i => BitVec.ofInt 136 (t.rowSum i) }
    some ((s.modCore k fun x =>
      { (x.setTile c.tile.val t') with mxe := { x.mxe with wtile := BitVec.ofNat 3 c.tile.val, wvalid := true } }), Post.none)

/-- TACCM (R80): raw T128 partials are added; in an anchored tile an element whose partial anchor differs is not added
and sets ANCH. -/
def effTaccm (s : State) (k : CoreId) (e : Ent) (h : Hdr) (c : TileMemF) : Option (State × Post) :=
  let hh := effHandle h e.iter 0 c.h
  let hc := effHandle h e.iter 1 c.hanc
  let d := s.desc hh
  let core := s.core k
  let t := core.tile c.tile.val
  if d.fmt ≠ some .t128 ∨ d.alay ∨ t.kind = 2 then none
  else
    let inM := fun (x : Nat) => decide (x / 128 < d.extent 1) && decide (x % 128 < d.extent 0)
    let eqAnc := fun (x : Nat) (el : TEl) => t.kind ≠ 1 || s.anchorAt hc (x / 128) (x % 128) == el.anc
    let part := fun (x : Nat) => (BitVec.ofNat 128 (s.tileWord d (x / 128) (x % 128))).toInt
    let els := SMap.upd TEl.zero 16384 (fun x el => if inM x ∧ eqAnc x el then el.add (part x) else el) t.els
    let bad := (List.range 16384).any fun x => inM x && ! eqAnc x (SMap.get TEl.zero t.els x)
    let arr := fun (x : Nat) => if inM x ∧ eqAnc x (SMap.get TEl.zero t.els x) then part x else 0
    let t' : Tile :=
      { t.use (d.extent 1) (d.extent 0) with
        els := els, anch := t.anch || bad, ops := (t.ops ++ if t.kind = 1 then [hh, hc] else [hh]).eraseDups
        colC := SMap.upd 0 128 (fun j v => csAdd v (((List.range 128).map fun i => arr (128 * i + j)).foldl (· + ·) 0)) t.colC
        rowC := SMap.upd 0 128 (fun i v => csAdd v (((List.range 128).map fun j => arr (128 * i + j)).foldl (· + ·) 0)) t.rowC }
    some ((s.modCore k fun x =>
      { ((x.setTile c.tile.val t').count 0x21 (if bad ∧ ¬ t.anch then 1 else 0)) with
        mxe := { x.mxe with wtile := BitVec.ofNat 3 c.tile.val, wvalid := true } }), Post.none)

/-- The raw word of a readout (R63, R71, R82): the word and whether it saturated. -/
def TEl.raw (t : TEl) (kind : BitVec 2) : Nat × Bool :=
  if kind = 2 then ((t.w.setWidth 32).toNat, false) else let r := t.read; ((BitVec.ofInt 128 r.1).toNat, r.2)

/-- The runs of the first `m` rows and `n` columns of a tile stored raw (R82). -/
def State.tileRuns (s : State) (d : Desc) (t : Tile) (m n : Nat) : List Run :=
  (List.range m).map fun r =>
    (s.rowAddr d r, (List.range n).flatMap fun j => leBytes 16 ((SMap.get TEl.zero t.els (128 * r + j)).raw t.kind).1)

/-- The runs of their anchors (R82). -/
def State.anchorRuns (s : State) (d : Desc) (t : Tile) (m n : Nat) : List Run :=
  (List.range m).map fun r =>
    (s.rowAddr d r, (List.range n).flatMap fun j => leBytes 2 (SMap.get TEl.zero t.els (128 * r + j)).anc.toNat)

/-- Is a Z1 accumulator an infinity or NaN (R71). -/
def TEl.badZ1 (t : TEl) (kind : BitVec 2) : Bool := kind = 2 && ! (f32 (t.w.setWidth 32)).isFin

/-- Set SAT of a tile where a readout saturated, and count the events of a readout. -/
def Core.readout (c : Core) (t : Nat) (sat rows : Nat) : Core :=
  let x := c.tile t
  let c1 := if sat > 0 then c.setTile t { x with sat := true } else c
  (c1.count 0x15 rows).count 0x20 sat

/-- TSTORE (R82): the raw words, and the anchors of an anchored tile. -/
def effTstore (s : State) (k : CoreId) (e : Ent) (h : Hdr) (c : TileMemF) : Option (State × Post) :=
  let hh := effHandle h e.iter 0 c.h
  let hc := effHandle h e.iter 1 c.hanc
  let d := s.desc hh
  let t := (s.core k).tile c.tile.val
  if d.fmt ≠ some .t128 ∨ d.alay ∨ d.extent 0 > 128 ∨ d.extent 1 > 128 then none
  else
    let el := fun (r j : Nat) => SMap.get TEl.zero t.els (128 * r + j)
    let all := (List.range (d.extent 1)).flatMap fun r => (List.range (d.extent 0)).map fun j => el r j
    let sat := (all.filter fun x => (x.raw t.kind).2).length
    let s1 := writeRuns s d.cvp (s.tileRuns d t (d.extent 1) (d.extent 0))
    let da := s.desc hc
    let anchored := t.kind = 1 ∧ hc ≠ 0
    let s2 := if anchored then writeRuns s1 da.cvp (s.anchorRuns da t (d.extent 1) (d.extent 0)) else s1
    let p := (Post.none.flags hh ⟨decide (sat > 0) || t.anch, all.any fun x => x.badZ1 t.kind⟩).writes hh true
    some (s2.modCore k fun x => x.readout c.tile.val sat (d.extent 1), if anchored then p.writes hc true else p)

/-! The epilogue. -/

/-- Statistics of squared values (R97): units of 2^-149 by row and by column. -/
def statSum (n : Nat) (ys : List (Nat × Int)) : List Int :=
  (List.range n).map fun i => (ys.filter fun y => y.1 = i).foldl (fun a y => a + y.2) 0

/-- Does a sum in units of 2^-149 make an invalid LT320 word (R65). -/
def ltBad (v : Int) : Bool := decide (v < -(2 ^ 309)) || decide (v ≥ 2 ^ 309)

/-- The valid word nearest to a sum: the sum itself, or its saturated value (R66). -/
def ltClamp (v : Int) : Int := if v ≥ 2 ^ 309 then 2 ^ 309 - 1 else if v < -(2 ^ 309) then -(2 ^ 309) else v

/-- The word that the epilogue writes for an accumulator `v` and the word `old` it adds into: the saturated accumulator where
that is invalid by itself, else the saturated sum (R98, log 127). -/
def statWord (v old : Int) : Int := if ltBad v then ltClamp v else ltClamp (v + old)

/-- Write a statistic vector (R98): LT320 words, saturated where the accumulator or the sum is invalid; the state and what its
release brings. -/
def State.writeStat (s : State) (h : W16) (d : Desc) (add : Bool) (vs : List Int) (p : Post) : State × Post :=
  let base := s.basePhys d
  let old := fun (i : Nat) => if add then (BitVec.ofNat 320 (memLe s.mem (base + 40 * i) 40)).toInt else 0
  let bad := vs.zipIdx.any fun v => ltBad v.1 || ltBad (v.1 + old v.2)
  let satd := vs.zipIdx.map fun v => statWord v.1 (old v.2)
  let runs := [(base, satd.flatMap fun v => leBytes 40 (BitVec.ofInt 320 v).toNat)]
  (writeRuns s d.cvp runs, (p.flags h ⟨bad, false⟩).writes h (decide (d.count = vs.length)))

/-- The contribution of an exact value to a grid word (R277): N, OVF, NFIN, GMAX code, GOVF. -/
def gridContrib (g : GExp) (w : Nat) (rd : Rnd) (v : FV) : Int × Fl × W32 × Bool :=
  let lim : Int := 2 ^ (w - 1) - 1
  let bmax : Int := ((g.bmaxlo.toNat + 2 ^ 32 * g.bmaxhi.toNat : Nat) : Int)
  let r : Int × Fl × W32 :=
    match v with
    | .nan => (0, .mkNfin, 0)
    | .inf sg => (if sg then -lim else lim, .mkNfin, 0)
    | .fin sg a => let q := toGrid w rd g.e.toInt sg a; (q.1, ⟨q.2, false⟩, roundUpF32 a)
  let govf := decide ((r.1.natAbs : Int) > bmax)
  (r.1, ⟨r.2.1.ovf || govf, r.2.1.nfin⟩, r.2.2, govf)

/-- Exact square of a written value in units of 2^-149, truncated (R97); none for an infinity or NaN. -/
def squareUnits (y : FV) : Option Int := match y with | .fin _ a => some (ltUnits (a * a)) | _ => none

/-- A written element for the statistics: row, column, value. -/
abbrev StatEl := Nat × Nat × FV

/-- Form the statistics a command asks for (R97, R98), whose vectors have the descriptors `dr` and `dc`. -/
def State.stats (s : State) (hd hsr hsc : W16) (dr dc : Desc) (radd cadd : Bool) (m n : Nat) (ys : List StatEl) (p : Post) :
    State × Post :=
  let sq := ys.filterMap fun y => (squareUnits y.2.2).map fun u => (y.1, y.2.1, u)
  let bad := ys.any fun y => (squareUnits y.2.2).isNone
  let r := s.writeStat hsr dr radd (statSum m (sq.map fun q => (q.1, q.2.2))) (p.flags hd ⟨false, bad⟩)
  r.1.writeStat hsc dc cadd (statSum n (sq.map fun q => (q.2.1, q.2.2))) r.2

/-- What the epilogue writes for the tile values: the state after the writes, what release brings, the values written
for the statistics, and the conversion counts. -/
structure EpiOut where
  st : State
  post : Post
  ys : List StatEl
  conv : Conv
  govf : Nat

/-- EPI into an element format or BX16 (R57, R95). -/
def epiConvert (s : State) (e : Ent) (hd : W16) (d : Desc) (f : Fmt) (vals : List StatEl) (p : Post) : EpiOut :=
  let sc := s.scaleRec d.scale
  let st := convStore d f sc.2 (s.rndOf d 0 hd e.tag e.x) (vals.map fun v => ([v.2.1, v.1, 0, 0, 0, 0], v.2.2))
  let s1 := writeRuns s d.cvp (codeRuns s.mem (s.basePhys d) d st.codes)
  let db := s.desc (BitVec.ofNat 16 d.bscale)
  let s2 := if d.bscale = 0 then s1 else writeRuns s1 db.cvp (scaleRuns s s1.mem d f st.scales)
  let ys := vals.map fun v => (v.1, v.2.1, s2.elemVal d [v.2.1, v.1, 0, 0, 0, 0])
  let p1 := ((p.flags hd ⟨decide (st.conv.ovf > 0), decide (st.conv.nfin > 0)⟩).writes hd (decide (d.count = vals.length))).max
    hd st.conv.amax
  ⟨s2, if d.bscale = 0 then p1 else p1.writes (BitVec.ofNat 16 d.bscale) (decide (d.count = vals.length)), ys, st.conv, 0⟩

/-- EPI into a grid word (R277, R278): overwrite, or add into a G64. -/
def epiGrid (s : State) (k : CoreId) (e : Ent) (hd : W16) (d : Desc) (w slot : Nat) (addInto : Bool) (vals : List StatEl)
    (p : Post) : EpiOut :=
  let g := SMap.get GExp.zero (s.core k).gexp slot
  let base := s.basePhys d
  let lim : Int := 2 ^ (w - 1) - 1
  let one := fun (v : StatEl) =>
    let ix := [v.2.1, v.1, 0, 0, 0, 0]
    let c := gridContrib g w (s.rndOf d 0 hd e.tag e.x ix) v.2.2
    let old := (BitVec.ofNat w (s.codeAt d ix)).toInt
    let sum := if addInto then old + c.1 else c.1
    let sat := decide (sum > lim) || decide (sum < -lim - 1)
    let n := if sum > lim then lim else if sum < -lim - 1 then -lim else sum
    (v.1, v.2.1, n, Fl.or c.2.1 ⟨addInto && sat, false⟩, c.2.2.1, c.2.2.2)
  let rs := vals.map one
  let runs := rs.map fun r => (base + d.bitOff [r.2.1, r.1, 0, 0, 0, 0] / 8, leBytes (w / 8) (BitVec.ofInt w r.2.2.1).toNat)
  let fl := rs.foldl (fun f r => f.or r.2.2.2.1) Fl.none
  let gm := rs.foldl (fun m r => if m.toNat < r.2.2.2.2.1.toNat then r.2.2.2.2.1 else m) (0 : W32)
  let go := (rs.filter fun r => r.2.2.2.2.2).length
  let p1 := (p.flags hd fl).writes hd (decide (d.count = vals.length))
  { st := writeRuns s d.cvp runs
    post := { p1 with grid := p1.grid ++ [(slot, gm, decide (go > 0))] }
    ys := rs.map fun r => (r.1, r.2.1, FV.ofRat ((r.2.2.1 : ℚ) * pow2 g.e.toInt))
    conv := ⟨(rs.filter fun r => r.2.2.2.1.ovf).length, (rs.filter fun r => r.2.2.2.1.nfin).length, 0, 0, 0⟩
    govf := go }

/-- EPI (R94-R98). -/
def effEpi (s : State) (k : CoreId) (e : Ent) (h : Hdr) (c : EpiF) : Option (State × Post) :=
  let hd := effHandle h e.iter 0 c.hd
  let hsr := effHandle h e.iter 1 c.hsr
  let hsc := effHandle h e.iter 2 c.hsc
  let d := s.desc hd
  let t := (s.core k).tile c.tile.val
  let m := d.extent 1
  let n := d.extent 0
  match d.fmt with
  | none => none
  | some f =>
    if f = .lt320 ∨ d.alay ∨ m > 128 ∨ n > 128 then none
    else
      let tsa := scaleOk (s.scaleRec c.sa.toNat).1
      let tsb := scaleOk (s.scaleRec c.sb.toNat).1
      let pos := (List.range m).flatMap fun r => (List.range n).map fun j => (r, j)
      let el := fun (r j : Nat) => SMap.get TEl.zero t.els (128 * r + j)
      let vals : List StatEl := pos.map fun q =>
        let v := ((el q.1 q.2).value t.kind).1
        -- a raw destination takes the scales as they stand (R97), a conversion only usable ones (R39)
        (q.1, q.2, if f = .t128 then (v.mul (f32 (s.scaleRec c.sa.toNat).1)).mul (f32 (s.scaleRec c.sb.toNat).1)
          else match tsa, tsb with | some a, some b => v.mul (FV.ofRat (a * b)) | _, _ => .fin false 0)
      let sat := (pos.filter fun q => if f = .t128 then ((el q.1 q.2).raw t.kind).2 else ((el q.1 q.2).value t.kind).2).length
      let scaleBad := tsa.isNone || tsb.isNone
      let z1bad := pos.any fun q => (el q.1 q.2).badZ1 t.kind
      let p0 := Post.none.flags hd ⟨decide (sat > 0) || t.anch, (scaleBad && f ≠ .t128) || z1bad⟩
      let addInto := f = .g64 ∧ (c.gmode = 1 ∨ (c.gmode = 2 ∧ ixIter h e.iter ≠ 0))
      let out : Option EpiOut :=
        if f = .t128 then
          some ⟨writeRuns s d.cvp (s.tileRuns d t m n), p0.writes hd true, vals, .none, 0⟩
        else if f.grid then
          (s.slotOf k c.gslot.toNat).map fun sl => epiGrid s k e hd d f.bits sl addInto vals p0
        else some (epiConvert s e hd d f vals p0)
      out.map fun o =>
        let r := if c.stat then o.st.stats hd hsr hsc (s.desc hsr) (s.desc hsc) c.radd c.cadd m n o.ys o.post else (o.st, o.post)
        (r.1.modCore k fun x =>
          ((((((x.readout c.tile.val sat m).count 0x22 o.conv.ovf).count 0x23 o.conv.nfin).count 0x24 o.conv.zero).count 0x26
            o.conv.up).count 0x27 o.govf), r.2)

/-- GPASS (R99): statistics of a grid tile in memory. -/
def effGpass (s : State) (k : CoreId) (e : Ent) (h : Hdr) (c : GpassF) : Option (State × Post) :=
  let hg := effHandle h e.iter 0 c.hg
  let hsr := effHandle h e.iter 1 c.hsr
  let hsc := effHandle h e.iter 2 c.hsc
  let d := s.desc hg
  let m := d.extent 1
  let n := d.extent 0
  match d.fmt, s.slotOf k c.gslot.toNat with
  | some f, some sl =>
    if ¬ f.grid ∨ m > 128 ∨ n > 128 then none
    else
      let g := SMap.get GExp.zero (s.core k).gexp sl
      let ys : List StatEl := (List.range m).flatMap fun r => (List.range n).map fun j =>
        (r, j, FV.ofRat (((BitVec.ofNat f.bits (s.codeAt d [j, r, 0, 0, 0, 0])).toInt : ℚ) * pow2 g.e.toInt))
      let r := s.stats hg hsr hsc (s.desc hsr) (s.desc hsc) c.radd c.cadd m n ys Post.none
      some (r.1.modCore k fun x => x.count 0x15 m, r.2)
  | _, _ => none

end Sys2Proof.Machine
end

