-- ==== Sys2Proof/Machine/Flags.lean ====
section
/-! DEFINITION. Results of comparisons and order (R116, R117, R119): FP32 order with NaN and signed zeros, maximum and
minimum. -/

namespace Sys2Proof.Machine

open Sys2Proof

/-- FP32 words as numbers for comparison: none for NaN; infinities beyond every finite value; zeros equal. -/
def cmpKey (w : W32) : Option ℚ :=
  match f32 w with
  | .nan => none
  | .inf s => some (if s then -(pow2 129) else pow2 129)
  | .fin s m => some (if s then -m else m)

/-- The comparison FN of VCMP on an ordered pair, unordered pairs given apart (R174). -/
def cmpFn {α : Type} [LT α] [DecidableLT α] [DecidableEq α] (fn : Nat) (a b : α) : Bool :=
  match fn with
  | 0 => a = b
  | 1 => a ≠ b
  | 2 => a < b
  | 3 => a < b ∨ a = b
  | 4 => b < a
  | _ => b < a ∨ a = b

/-- VCMP in F32: a NaN is unequal to everything and ordered with nothing (IEEE 754). -/
def cmpF32 (fn : Nat) (a b : W32) : Bool :=
  match cmpKey a, cmpKey b with
  | some x, some y => cmpFn fn x y
  | _, _ => fn = 1

/-- Sign of a finite zero or value. -/
def signBit (w : W32) : Bool := w.msb

/-- FP32 maximum: NaN gives the canonical NaN, +0 is greater than -0 (R119, of the reductions; taken for the elementwise commands too, DESIGN
CHOICE, log 167). -/
def fmax (a b : W32) : W32 :=
  match cmpKey a, cmpKey b with
  | some x, some y => if x < y then b else if y < x then a else if signBit a then b else a
  | _, _ => nan32

/-- FP32 minimum. -/
def fmin (a b : W32) : W32 :=
  match cmpKey a, cmpKey b with
  | some x, some y => if x < y then a else if y < x then b else if signBit a then a else b
  | _, _ => nan32

end Sys2Proof.Machine
end

