-- ==== Sys2Proof/Machine/Operands.lean ====
section
/-! DEFINITION. Operands of vector commands (R109, R110, R114): views of tile registers, source kinds, and writing a
destination. -/

namespace Sys2Proof.Machine

open Sys2Proof

/-- A tile register of a core. -/
def Core.vreg (c : Core) (v : VRegId) : VReg := SMap.get VReg.zero c.vregs v.val

/-- Replace a tile register. -/
def Core.setVreg (c : Core) (v : VRegId) (r : VReg) : Core := { c with vregs := SMap.set VReg.zero c.vregs v.val r }

/-- OR sticky bits into a tile register (R111). -/
def Core.stick (c : Core) (v : VRegId) (f : Fl) : Core :=
  let r := c.vreg v
  c.setVreg v { r with ovf := r.ovf || f.ovf, nfin := r.nfin || f.nfin }

/-- OR NFIN into the register a source names; an IMM32 source names none (R70, R114). -/
def Core.stickNfin (c : Core) (f : Src) (bad : Bool) : Core := if f.kind = 3 then c else c.stick f.reg ⟨false, bad⟩

/-- Lanes of an element in a view (R109). -/
def viewLanes (view : BitVec 2) : Nat := match view.toNat with | 0 => 1 | 1 => 1 | 2 => 2 | _ => 4

/-- Width of an element in a view in bits. -/
def viewBits (view : BitVec 2) : Nat := 32 * viewLanes view

/-- Elements per row in a view (R109). -/
def viewCols (view : BitVec 2) : Nat := 64 / viewLanes view

/-- An element as a view sees it: its bits and the wrap byte of its lowest lane (R110). -/
structure VVal where
  bits : Nat
  wrap : Int
  deriving DecidableEq, Repr

/-- Element `e` of row `r` of a tile register in a view. -/
def VReg.elem (v : VReg) (view : BitVec 2) (r e : Nat) : VVal :=
  let l := viewLanes view
  let at' := fun i => SMap.get VEl.zero v.els (64 * r + l * e + i)
  ⟨(List.range l).foldl (fun a i => a + (at' i).w.toNat * 2 ^ (32 * i)) 0, (at' 0).wrap.toInt⟩

/-- IMM32 in a view: an FP32 code or an integer, sign-extended (R114). -/
def immVal (view : BitVec 2) (imm : W32) : VVal :=
  if view = 0 then ⟨imm.toNat, 0⟩ else ⟨(BitVec.ofInt (viewBits view) imm.toInt).toNat, 0⟩

/-- A source element for element `e` of row `r` (R114). -/
def Core.src (c : Core) (view : BitVec 2) (imm : W32) (f : Src) (r e : Nat) : VVal :=
  match f.kind.toNat with
  | 0 => (c.vreg f.reg).elem view r e
  | 1 => (c.vreg f.reg).elem view f.index.val e
  | 2 => (c.vreg f.reg).elem view r f.index.val
  | _ => immVal view imm

/-- The signed integer of an element. -/
def VVal.int (v : VVal) (view : BitVec 2) : Int := (BitVec.ofNat (viewBits view) v.bits).toInt

/-- tally_read at the width of a view (R110): the signed value, and whether it saturated. -/
def VVal.read (v : VVal) (view : BitVec 2) : Int × Bool := tallyReadAt (viewBits view) (v.int view) v.wrap

/-- An element read in another way than it was added up: saturated where its wrap byte is not zero (R110). -/
def VVal.word (v : VVal) (view : BitVec 2) : Nat × Bool :=
  let r := v.read view
  ((BitVec.ofInt (viewBits view) r.1).toNat, r.2)

/-- Does reading a source saturate anywhere in `rows` × `cols`. -/
def Core.srcSat (c : Core) (view : BitVec 2) (f : Src) (rows cols : Nat) : Bool :=
  f.kind ≠ 3 &&
  (c.vreg f.reg).els.any fun x =>
    let r := x.1 / 64
    let e := x.1 % 64 / viewLanes view
    x.2.wrap ≠ 0 && decide (x.1 % viewLanes view = 0) &&
      (match f.kind.toNat with
        | 0 => decide (r < rows) && decide (e < cols)
        | 1 => decide (r = f.index.val) && decide (e < cols)
        | _ => decide (r < rows) && decide (e = f.index.val))

/-- Set the sticky OVF of a source register whose readout saturates (R110). -/
def Core.stickSrc (c : Core) (view : BitVec 2) (f : Src) (rows cols : Nat) : Core :=
  if c.srcSat view f rows cols then c.stick f.reg .mkOvf else c

/-- Write every element of a register in a view: bits and wrap byte of the lowest lane; the other lanes' wrap bytes are
zero. -/
def VReg.fill (v : VReg) (view : BitVec 2) (f : Nat → Nat → VVal) : VReg :=
  let l := viewLanes view
  { v with els := SMap.ofFn VEl.zero 4096 fun x =>
      let e := f (x / 64) (x % 64 / l)
      let i := x % 64 % l
      VEl.mk (BitVec.ofNat 32 (e.bits / 2 ^ (32 * i))) (if i = 0 then BitVec.ofInt 8 e.wrap else 0) }

/-- Write one element of a register in a view. -/
def VReg.put (v : VReg) (view : BitVec 2) (r e : Nat) (x : VVal) : VReg :=
  let l := viewLanes view
  { v with els := (List.range l).foldl (fun m i =>
      SMap.set VEl.zero m (64 * r + l * e + i)
        (VEl.mk (BitVec.ofNat 32 (x.bits / 2 ^ (32 * i))) (if i = 0 then BitVec.ofInt 8 x.wrap else 0))) v.els }

/-- A Long Tally register of a lane. -/
def Core.ltReg (c : Core) (lane reg : Nat) : LtEl := SMap.get LtEl.zero c.lt (4 * lane + reg)

/-- Replace a Long Tally register of a lane. -/
def Core.setLt (c : Core) (lane reg : Nat) (x : LtEl) : Core :=
  { c with lt := SMap.set LtEl.zero c.lt (4 * lane + reg) x }

/-- Change a Long Tally register in every lane. -/
def Core.updLt (c : Core) (reg : Nat) (f : Nat → LtEl → LtEl) : Core :=
  { c with lt := SMap.upd LtEl.zero 256 (fun x e => if x % 4 = reg then f (x / 4) e else e) c.lt }

end Sys2Proof.Machine
end

