-- ==== Sys2Proof/Machine/Trans.lean ====
section
/-! DEFINITION. Transcendental functions (R124-R130): the Q62 constants, and the evaluation with one rounding. -/

namespace Sys2Proof.Machine

open Sys2Proof

/-- TEXP[j] = 2^(j/64) in Q62 (R124). -/
def texp : List Int :=
  [4611686018427387904, 4661903986662671290, 4712668792719003884, 4763986391269842979] ++
  [4815862801830788490, 4868304109465667592, 4921316465500308116, 4974906088244084429] ++
  [5029079263719320435, 5083842346398635251, 5139201759950318048, 5195163997991819502] ++
  [5251735624851448219, 5308923276338361494, 5366733660520940721, 5425173558513642752] ++
  [5484249825272419512, 5543969390398799154, 5604339258952723100, 5665366512274234280] ++
  [5727058308814112983, 5789421884973557729, 5852464555953009676, 5916193716610220111] ++
  [5980616842327661685, 6045741489889385141, 6111575298367424380, 6178125990017853852] ++
  [6245401371186603363, 6313409333225136570, 6382157853416100552, 6451654995909055045] ++
  [6521908912666391106, 6592927844419550153, 6664720121635655541, 6737294165494670078] ++
  [6810658488877194079, 6884821697363019841, 6959792490240559659, 7035579661527265796] ++
  [7112192101001162095, 7189638795243608238, 7267928828693418961, 7347071384712461870] ++
  [7427075746662858866, 7507951298995917514, 7589707528352920109, 7672354024677899536] ++
  [7755900482342532474, 7840356701283281883, 7925732588150922155, 8012038157472581778] ++
  [8099283532826439817, 8187478948029213993, 8276634748336579668, 8366761391656660532] ++
  [8457869449776733335, 8549969609603290562, 8643072674415606502, 8737189565132953757] ++
  [8832331321595618838, 8928509103859867100, 9025734193507008925, 9124017994966720698]

/-- CEXP[n] = (ln 2)^n / n! in Q62. -/
def cexp : List Int :=
  [4611686018427387904, 3196577161300663915, 1107849223398934356, 255967521894832113, 44355791529079737]

/-- RLG[j] = 64 / (64 + j) in Q62. -/
def rlg : List Int :=
  [4611686018427387904, 4540737002759274244, 4471937957262921604, 4405192614617206356] ++
  [4340410370284600380, 4277505872164533708, 4216398645419326084, 4157012749004969378] ++
  [4099276460824344804, 4043121988758257888, 3988485205126389539, 3935305402391371011] ++
  [3883525068149379288, 3833089677653932803, 3783947502299395203, 3736049432650035770] ++
  [3689348814741910323, 3643801298510528714, 3599364697309180803, 3555998857582564167] ++
  [3513665537849438403, 3472328296227680304, 3431952385806428208, 3392504657233940527] ++
  [3353953467947191203, 3316268597520818268, 3279421168659475843, 3243383573399481603] ++
  [3208129404123400281, 3173633389025299203, 3139871331695242828, 3106820054519503430] ++
  [3074457345618258603, 3042761909065493050, 3011713318156661488, 2981291971508614403] ++
  [2951479051793528259, 2922256486924285405, 2893606913523066920, 2865513642517988601] ++
  [2837960626724546402, 2810932430279550722, 2784414199805215338, 2758391637190213326] ++
  [2732850973882896536, 2707778946599567210, 2683162774357752962, 2658990136750926359] ++
  [2635249153387078802, 2611928364419051556, 2589016712099586192, 2566503523298720225] ++
  [2544378492925455395, 2522631668199596802, 2501253433723329033, 2480234497305485932] ++
  [2459565876494606882, 2439238885779775420, 2419245124420924802, 2399576464872787202] ++
  [2380225041768974402, 2361183241434822607, 2342443691899625602, 2323999253380730912]

/-- LLG[j] = log2((64 + j) / 64) in Q62. -/
def llg : List Int :=
  [0, 103153330606121625, 204731739545776358, 304782595603293869] ++
  [403351162126124447, 500480719981309593, 596212681665212875, 690586697319517456] ++
  [783640753332765648, 875411264141121919, 965933157783587320, 1055239955714717668] ++
  [1143363847331251474, 1230335759627285963, 1316185422355184002, 1400941429035756762] ++
  [1484631294131014398, 1567281506665531296, 1648917580557901400, 1729564101901571123] ++
  [1809244773414275253, 1887982456257138845, 1965799209408045220, 2042716326758930046] ++
  [2118754372093087486, 2193933212086227468, 2268272047463780046, 2341789442436693607] ++
  [2414503352528620721, 2486431150898841404, 2557589653257460679, 2627995141462265872] ++
  [2697663385880076776, 2766609666589412753, 2834848793495784858, 2902395125425853134] ++
  [2969262588262028797, 3035464692174811580, 3101014548006201223, 3165924882853879154] ++
  [3230208054902495130, 3293876067545289651, 3356940582836414350, 3419412934311659540] ++
  [3481304139212842424, 3542624910148834945, 3603385666224101885, 3663596543663664096] ++
  [3723267405961586381, 3782407853578403233, 3841027233211328250, 3899134646659635119] ++
  [3956738959306241175, 4013848808235260778, 4070472610004118119, 4126618568087710828] ++
  [4182294680011091174, 4237508744186174972, 4292268366467094717, 4346580966437978175] ++
  [4400453783446152532, 4453893882393043195, 4506908159294352029, 4559503346620458693]

/-- DLG[n] = (-1)^n / ((n + 1) ln 2) in Q62. -/
def dlg : List Int :=
  [6653256548922161246, -3326628274461080623, 2217752182974053749, -1663314137230540311, 1330651309784432249]

/-- K2 = 2 log2 e in Q62. -/
def k2 : Int := 13306513097844322492

/-- AERF[n] = (2/√π) (-1)^n / (n! (2n + 1)) in Q62. -/
def aerf : List Int :=
  [5203730428379116615, -1734576809459705538, 520373042837911661, -123898343532836110]

/-- EERF rows 1 to 9 (R124). -/
def eerf0 : List (List Int) :=
  [[486424241061875324, 5158194916765159069, -483580773446733663, -1689174507247965502, 240373646176159604, 497738340442783666, -79653962119146217],
   [806514177158172529, 5078224516934708282, -793472580771048169, -1610088111814585243, 390278993992530528, 458633996419842415, -127961585711541600],
   [1120417003847315651, 4960587572701932484, -1085128531528547731, -1495281280052730950, 525255900515283358, 402624492720731991, -169426276064962270],
   [1425858273243748884, 4807966337993050672, -1352240532560545501, -1349110346142581276, 640465486613148992, 332680736598795121, -201979615486310107],
   [1720754684879430605, 4623776040083170476, -1589423013778589851, -1177015906036796651, 732107280109604375, 252440020795968394, -224154027078765878],
   [2003256044663715758, 4412037919395978137, -1792390404754616118, -985240238510950847, 797590391699075597, 165963632902185470, -235165013075257775],
   [2271778666928119142, 4177233544453288345, -1958078223962478912, -780511736496154788, 835625179562112582, 77473799780950327, -234938662432336844],
   [2525029276340363464, 3924147758082055062, -2084703496481091751, -569716764356965025, 846232181026016085, -8909309160938911, -224084224776354691],
   [2762018937950238157, 3657707905695336002, -2171764069006605751, -359579357916663891, 830671478217044843, -89410668701548983, -203816532677363722]]

/-- EERF rows 10 to 18 (R124). -/
def eerf1 : List (List Int) :=
  [[2982067018572375613, 3382826815673861573, -2219980097785971657, -156367645776591258, 791301499699101225, -160806349938036694, -175837344204148133],
   [3184795632336550604, 3104256381240121476, -2231184274016337311, 34357004219454469, 731381042947412654, -220579151113217479, -142187856498435020],
   [3370115421995327113, 2826457599499220000, -2208169999608765625, 207936008296492096, 654831663295437983, -267015697268771999, -105086439048374088],
   [3538203854883897528, 2553491647140998757, -2154508577275217701, 360747192336977038, 565979303991243713, -299242172798137864, -66765953298188716],
   [3689477453869099292, 2288935119188439021, -2074347451764522863, 490273212378252889, 469294101229278447, -317201075409089304, -29323935464645192],
   [3824559531605268751, 2035821037909002127, -1972201630474345810, 595106540378347627, 369145812995686472, -321575964649332796, 5403355119163990],
   [3944245050174679663, 1796605760171250555, -1852749690176602134, 674896825272663783, 269589554527650115, -313674738824454807, 35935143596866309],
   [4049464193282410451, 1573160567266350245, -1720644370447570580, 730249664362570133, 174192838284242985, -295284266058127346, 61204298457894132],
   [4141246125473077901, 1366785586760000360, -1580345834691250416, 762588051987838742, 85910727341614199, -268510126991848190, 80578750820344370]]

/-- EERF rows 19 to 27 (R124). -/
def eerf2 : List (List Int) :=
  [[4220684237210235306, 1178242823462913469, -1435983441095425790, 773988938069062298, 7011637895973759, -235614854895005897, 93848764695503143],
   [4288903953467006678, 1007804493482507392, -1291249507274462596, 767007456302767670, -60947649269139673, -198866566640396218, 101185302641106465],
   [4347033935024147678, 855312564752436777, -1149326258886086919, 744500585334640606, -117102577809682684, -160407540027687739, 103076564719983849],
   [4396181243774292638, 720245391118092843, -1012845081259818061, 709460466641715151, -161224363520849945, -122149435512036451, 100250711501827072],
   [4437410792092633150, 601787549335273914, -883875463086183561, 664865541160130099, -193635477427409354, -85698819359436034, 93592840958699720],
   [4471729165220826318, 498899401357366300, -763939708328467146, 613555318466188112, -215106721257852891, -52313728769421538, 84063591394819681],
   [4500072704858639122, 410383453450695387, -654048628937045772, 558132183762046004, -226745374289698486, -22889479018931017, 72625468872726699],
   [4523299578518712612, 334945212924418222, -554753008906067680, 500891376358976989, -229883001411921926, 2030075527705179, 60181362845591946],
   [4542185435998005543, 271246899653681460, -466205608779765010, 443778293508920254, -225970101390973340, 22220956653618095, 47527937288124190]]

/-- EERF rows 28 to 36 (R124). -/
def eerf3 : List (List Int) :=
  [[4557422171765237479, 217953006914904524, -388228793567173683, 388370690056050574, -216483047975445481, 37732964665689733, 35324865023198849],
   [4569619267757510979, 173767287333674945, -320383436021463179, 335882210998490176, -202846934590412072, 48834950960881850, 24079368946067916],
   [4579307180631989625, 137461238416768809, -262035485731965542, 287183016978783273, -186376151147247627, 55956910156141333, 14144353644217895],
   [4586942255214824112, 107894562265881722, -212417419460954641, 242833008953875726, -168232936701986537, 59633534966651680, 5727609131997911],
   [4592912685332533671, 84028369581815137, -170682625713061996, 203123265792499741, -149402858249486884, 60452842589958171, -1090849970421009],
   [4597545097896782617, 64932091326439821, -135951566214733374, 168121697399252061, -130685213226597544, 59012356857499824, -6336317196370741],
   [4601111399901558457, 49785161358480824, -107349254179224277, 137719499096474624, -112695750236978612, 55884234850451665, -10114593735567838],
   [4603835595453727712, 37874553498485094, -84034165574763803, 111675685413176427, -95878824980321331, 51589751546082253, -12587233752870978],
   [4605900346599664449, 28589212888307854, -65219141901452292, 89657707345689409, -80526108474026219, 46582761778842102, -13948679509587523]]

/-- EERF rows 37 to 45 (R124). -/
def eerf4 : List (List Int) :=
  [[4607453114076800433, 21412331083683324, -50185150977382790, 71276854707599501, -66799180451340569, 41241175260851933, -14406553385516421],
   [4608611769796807370, 15912293314797078, -38288955788730469, 56117768806156101, -54753705331996403, 35865110740199707, -14165819484336141],
   [4609469620411615477, 11732989328837626, -28965817405567890, 43761911370384610, -44363336879295873, 30680221757189291, -13417042653208122],
   [4610099820117626320, 8584038367241776, -21728347117080747, 33805239637659834, -35541974044052979, 25844676828305691, -12328586328802132],
   [4610559180987550109, 6231343595406149, -16162547450584699, 25870623768167325, -28163449382480434, 21458391603873252, -11042314572187300],
   [4610891411159077228, 4488268420589431, -11921962992190676, 19615719991807846, -22078140450056236, 17573308230642397, -9672195875866293],
   [4611129826070325899, 3207620788492276, -8720719018713377, 14737096291920570, -17126333932258399, 14203759263754838, -8305134450842249],
   [4611299586719815654, 2274543732034596, -6326074754721220, 10971415697034063, -13148433368780921, 11336207413658556, -7003360058071040],
   [4611419522816847284, 1600341389528392, -4550970826471365, 8094435062009165, -9992284578303827, 8937893189217853, -5807768698065070]]

/-- EERF rows 46 to 54 (R124). -/
def eerf5 : List (List Int) :=
  [[4611503598821354030, 1117218344409578, -3246915813440336, 5918493273737459, -7518005267252966, 6964133141060336, -4741702575801409],
   [4611562078299202458, 773874529549079, -2297440009598828, 4289058509147987, -5600757887983601, 5364182439236130, -3814770102031793],
   [4611602437650357382, 531875667288489, -1612248116468233, 3080792846266725, -4131910618800260, 4085703771415298, -3026420354020805],
   [4611630074856140293, 362707692090580, -1122126922405232, 2193484213430598, -3019003585182045, 3077971672633602, -2369090664688190],
   [4611648853029992708, 245420300731693, -774607824184407, 1548097196477459, -2184888280129520, 2293992294720282, -1830834185369091],
   [4611661512684244207, 164767395312366, -530345053661677, 1083109629211560, -1566347874958462, 1691740000245552, -1397403275274534],
   [4611669981049845692, 109758747639588, -360145890692399, 751232886676426, -1112442824472712, 1234711341117507, -1053814109487883],
   [4611675601700830945, 72546102326433, -242576029654011, 516560365328254, -782765684231838, 891980993061607, -785449632721426],
   [4611679303244707623, 47576895461016, -162058800164084, 352149560218936, -545735119693181, 637919232516278, -578774763334676]]

/-- EERF rows 55 to 63 (R124). -/
def eerf6 : List (List Int) :=
  [[4611681721980593123, 30958876333439, -107388602281616, 238016517331757, -377013696486728, 451701548675808, -421742929926609],
   [4611683290187119372, 19988552884548, -70584577373561, 159505008272075, -258097837772528, 316711693372074, -303969965667371],
   [4611684299038813137, 12805147697202, -46018499536821, 105984272574567, -175100989936817, 219912391261805, -216743121382552],
   [4611684943001433730, 8139447100396, -29759853460825, 69826493777294, -117731607783008, 151234528249461, -152921985895229],
   [4611685350854048462, 5133484939187, -19090147117603, 45616494749329, -78454787551999, 103016548058800, -106776319350688],
   [4611685607157882134, 3212452788489, -12147087106476, 29549964484745, -51818872568479, 69511055414401, -73794526743640],
   [4611685766972393837, 1994657295584, -7666963979899, 18981709433298, -33924818157153, 46464895086633, -50486528654508],
   [4611685865847412857, 1228872710876, -4800284026861, 12091115416324, -22015365121888, 30771673378053, -34196519011836],
   [4611685926544270126, 751194820502, -2981304443869, 7637636400902, -14162166585085, 20191148533551, -22934629158154]]

/-- EERF[j][n]: the n-th Taylor coefficient of erf at (2j + 1)/32; row j - 1 of the list. -/
def eerf : List (List Int) := eerf0 ++ eerf1 ++ eerf2 ++ eerf3 ++ eerf4 ++ eerf5 ++ eerf6

/-- horner of R125: coefficients from the lowest, argument in Q62; shifts round toward minus infinity. -/
def horner : List Int → Int → Int
  | [], _ => 0
  | [c], _ => c
  | c :: cs, t => (horner cs t * t) / 2 ^ 62 + c

/-- The exponential steps of R126 from y on: m in Q62 and the integer part i. -/
def exp2Parts (y : Int) : Int × Int :=
  let i := y / 2 ^ 62
  let f := y - i * 2 ^ 62
  let j := (f / 2 ^ 56).toNat
  let r := f % 2 ^ 56
  ((texp.getD j 0 * horner cexp r) / 2 ^ 62, i)

/-- round_fp32 of an exact value (R125). -/
def roundF32 (v : ℚ) : W32 := toF32 (FV.ofRat v)

/-- round_fp32 of sign × magnitude, keeping the sign of a zero. -/
def roundSigned (neg : Bool) (a : ℚ) : W32 := toF32 (.fin neg a)

/-- VEXP2 (R126, R130) with scale exponent `se`. -/
def vexp2 (se : Int) (x : FV) : W32 :=
  match x with
  | .nan => nan32
  | .inf false => inf32 false
  | .inf true => 0
  | .fin _ _ =>
    let v := x.toRat
    if v ≥ 128 then inf32 false
    else if v < -160 then 0
    else
      let p := exp2Parts (floorInt (v * pow2 62))
      roundF32 ((p.1 : ℚ) * pow2 (p.2 - 62 + se))

/-- VLOG2 (R127, R130). -/
def vlog2 (se : Int) (x : FV) : W32 :=
  match x with
  | .nan => nan32
  | .inf false => inf32 false
  | .inf true => nan32
  | .fin s a =>
    if a = 0 then inf32 true
    else if s then nan32
    else
      let e := floorLog2 a
      let m := floorInt (a * pow2 (62 - e))
      let j := (m / 2 ^ 56 - 64).toNat
      let z := (m * rlg.getD j 0) / 2 ^ 62 - 2 ^ 62
      let q := (horner dlg z * z) / 2 ^ 62
      roundF32 (((e * 2 ^ 62 + llg.getD j 0 + q : Int) : ℚ) * pow2 (se - 62))

/-- VRCP (R128, R130): RNE(2^SE / x). -/
def vrcp (se : Int) (x : FV) : W32 :=
  match x with
  | .nan => nan32
  | .inf s => if s then 0x80000000#32 else 0
  | .fin s a => if a = 0 then inf32 s else roundSigned s (pow2 se / a)

/-- VRSQRT (R128, R130): RNE(2^SE / √x), by comparison of squares. -/
def vrsqrt (se : Int) (x : FV) : W32 :=
  match x with
  | .nan => nan32
  | .inf false => 0
  | .inf true => nan32
  | .fin s a =>
    if a = 0 then inf32 s
    else if s then nan32
    else roundRoot (pow2 (2 * se) / a)
where
  /-- FP32 of the root of a positive exact value, the threshold and subnormal range included (R48). -/
  roundRoot (r : ℚ) : W32 :=
    let th := (2 - pow2 (-24)) * pow2 127
    if r ≥ th * th then inf32 false
    else
      let e : Int := max ((floorLog2 r).fdiv 2) (-126)
      let n := r * pow2 (2 * (23 - e))
      let q := isqrt (floorNat n)
      let h : ℚ := (q : ℚ) + 1 / 2
      let q' := if n > h * h ∨ (n = h * h ∧ q % 2 = 1) then q + 1 else q
      roundF32 ((q' : ℚ) * pow2 (e - 23))

/-- VTANH (R129, R130). -/
def vtanh (se : Int) (x : FV) : W32 :=
  match x with
  | .nan => nan32
  | .inf s => roundSigned s (pow2 se)
  | .fin s a =>
    if a = 0 then toF32 x
    else if a < pow2 (-12) then roundSigned s (a * pow2 se)
    else if a ≥ 19 / 2 then roundSigned s (pow2 se)
    else
      let y := -floorInt (a * (k2 : ℚ))
      let p := exp2Parts y
      let q := p.1 / 2 ^ (-p.2).toNat
      roundSigned s ((((2 ^ 62 - q : Int) : ℚ) / ((2 ^ 62 + q : Int) : ℚ)) * pow2 se)

/-- VERF (R129, R130). -/
def verf (se : Int) (x : FV) : W32 :=
  match x with
  | .nan => nan32
  | .inf s => roundSigned s (pow2 se)
  | .fin s a =>
    if a = 0 then toF32 x
    else if a ≥ 4 then roundSigned s (pow2 se)
    else if a < 1 / 16 then
      let w := floorInt (a * a * pow2 62)
      roundSigned s (a * (horner aerf w : ℚ) * pow2 (se - 62))
    else
      let j := floorNat (16 * a)
      let d := floorInt (a * pow2 62) - ((2 * j + 1 : Nat) : Int) * 2 ^ 57
      roundSigned s ((horner (eerf.getD (j - 1) []) d : ℚ) * pow2 (se - 62))

end Sys2Proof.Machine
end

