-- ==== Sys2Proof/Machine/Vector.lean ====
section
/-! DEFINITION. What the vector engine computes (R108-R123, R502). Every operation answers the core after it. -/

namespace Sys2Proof.Machine

open Sys2Proof

/-- SE as an exponent (R115). -/
def vecSexp (c : VecF) : Int := c.se.toInt

/-- An elementwise F32 command: a value from the three sources, scaled by 2^SE and rounded once (R115, R116). -/
def vecF32 (core : Core) (c : VecF) (n : Nat) (f : FV → FV → FV → FV) : Core :=
  let g := fun (s : Src) (r e : Nat) => f32 (BitVec.ofNat 32 ((core.src 0 c.imm s r e).word 0).1)
  let sc := FV.fin false (pow2 (vecSexp c))
  let v := (core.vreg c.vd).fill 0 fun r e =>
    ⟨(toF32 ((f (g c.srca r e) (if n > 1 then g c.srcb r e else .nan) (if n > 2 then g c.srcc r e else .nan)).mul sc)).toNat, 0⟩
  let c1 := core.stickSrc 0 c.srca 64 64
  let c2 := if n > 1 then c1.stickSrc 0 c.srcb 64 64 else c1
  let c3 := if n > 2 then c2.stickSrc 0 c.srcc 64 64 else c2
  c3.setVreg c.vd { v with ovf := (c3.vreg c.vd).ovf, nfin := (c3.vreg c.vd).nfin }

def effVadd (k : Core) (c : VecF) : Core := vecF32 k c 2 fun a b _ => a.add b
def effVsub (k : Core) (c : VecF) : Core := vecF32 k c 2 fun a b _ => a.add b.neg
def effVmul (k : Core) (c : VecF) : Core := vecF32 k c 2 fun a b _ => a.mul b
def effVfma (k : Core) (c : VecF) : Core := vecF32 k c 3 fun a b d => (a.mul b).add d
/-- VMAX and VMIN take a NaN and the zeros of both signs as R119 has it for the reductions: R117 does not say (DESIGN CHOICE, log 167). -/
def effVmax (k : Core) (c : VecF) : Core := vecF32 k c 2 fun a b _ => f32 (fmax (toF32 a) (toF32 b))
def effVmin (k : Core) (c : VecF) : Core := vecF32 k c 2 fun a b _ => f32 (fmin (toF32 a) (toF32 b))
/-- Magnitude of a value. -/
def FV.abs : FV → FV
  | .nan => .nan
  | .inf _ => .inf false
  | .fin _ m => .fin false m
def effVabs (k : Core) (c : VecF) : Core := vecF32 k c 1 fun a _ _ => a.abs
def effVneg (k : Core) (c : VecF) : Core := vecF32 k c 1 fun a _ _ => a.neg

/-- VCMP (R117, R502): 0 or 1 in I32 by a comparison in the view. -/
def effVcmp (k : Core) (c : VecF) : Core :=
  let g := fun (s : Src) (r e : Nat) => (k.src c.view c.imm s r e).word c.view
  let fn := c.fn.toNat
  let t := fun (r e : Nat) =>
    let a := BitVec.ofNat 32 (g c.srca r e).1
    let b := BitVec.ofNat 32 (g c.srcb r e).1
    if c.view = 0 then cmpF32 fn a b else cmpFn fn a.toInt b.toInt
  let v := (k.vreg c.vd).fill 1 fun r e => ⟨if t r e then 1 else 0, 0⟩
  let k1 := (k.stickSrc c.view c.srca 64 64).stickSrc c.view c.srcb 64 64
  k1.setVreg c.vd { v with ovf := (k1.vreg c.vd).ovf, nfin := (k1.vreg c.vd).nfin }

/-- VSEL (R117): SRCA where the I32 element of SRCC is not zero, SRCB elsewhere; words move unchanged. -/
def effVsel (k : Core) (c : VecF) : Core :=
  let v := (k.vreg c.vd).fill 1 fun r e =>
    let m := (k.src 1 c.imm c.srcc r e).bits
    let s := if m ≠ 0 then c.srca else c.srcb
    ⟨(k.src c.view c.imm s r e).bits, 0⟩
  k.setVreg c.vd v

/-- VIADD and VISUB (R110): the result starts from SRCA with its wrap byte; SRCB is read out and added or subtracted. -/
def effViadd (k : Core) (c : VecF) (sub : Bool) : Core :=
  let n := viewCols c.view
  let v := (k.vreg c.vd).fill c.view fun r e =>
    let a := k.src c.view c.imm c.srca r e
    let b := ((k.src c.view c.imm c.srcb r e).read c.view).1
    let x := tallyAddAt (viewBits c.view) (a.int c.view) a.wrap (if sub then -b else b)
    ⟨(BitVec.ofInt (viewBits c.view) x.1).toNat, x.2⟩
  let k1 := k.stickSrc c.view c.srcb 64 n
  k1.setVreg c.vd { v with ovf := (k1.vreg c.vd).ovf, nfin := (k1.vreg c.vd).nfin }

/-- F32 to I32 (R117): nearest even, saturating, OVF in the destination register. A NaN gives 0 and an infinity the limit of
its sign, with NFIN: R50 has no column for I32 (log 128). -/
def toI32 (v : FV) : Int × Fl :=
  let lim : Int := 2 ^ 31
  match v with
  | .nan => (0, .mkNfin)
  | .inf s => (if s then -lim else lim - 1, .mkNfin)
  | .fin s a =>
    if ¬ s ∧ a ≥ (2 ^ 31 : ℚ) - 1 / 2 then (lim - 1, .mkOvf)
    else if s ∧ a ≥ (2 ^ 31 : ℚ) + 1 / 2 then (-lim, .mkOvf)
    else (if s then -(rneNat a : Int) else (rneNat a : Int), .none)

/-- VCVT (R117). None for a FN that is not assigned. -/
def effVcvt (k : Core) (c : VecF) : Option Core :=
  let g := fun (r e : Nat) => (k.src c.view c.imm c.srca r e).word c.view
  let k1 := k.stickSrc c.view c.srca 64 (if c.fn = 2 then 32 else 64)
  match c.fn.toNat with
  | 0 =>
    let one := fun (r e : Nat) => toI32 ((f32 (BitVec.ofNat 32 (g r e).1)).mul (.fin false (pow2 (vecSexp c))))
    let v := (k.vreg c.vd).fill 1 fun r e => ⟨(BitVec.ofInt 32 (one r e).1).toNat, 0⟩
    let fl := (List.range 4096).foldl (fun f x => f.or (one (x / 64) (x % 64)).2) Fl.none
    some ((k1.setVreg c.vd { v with ovf := (k1.vreg c.vd).ovf, nfin := (k1.vreg c.vd).nfin }).stick c.vd fl)
  | 1 =>
    let v := (k.vreg c.vd).fill 0 fun r e => ⟨(toF32 (FV.ofRat (((BitVec.ofNat 32 (g r e).1).toInt : Int) : ℚ))).toNat, 0⟩
    some (k1.setVreg c.vd { v with ovf := (k1.vreg c.vd).ovf, nfin := (k1.vreg c.vd).nfin })
  | 2 =>
    let v := (k.vreg c.vd).fill 2 fun r e => ⟨(BitVec.ofInt 64 (BitVec.ofNat 32 (g r e).1).toInt).toNat, 0⟩
    some (k1.setVreg c.vd { v with ovf := (k1.vreg c.vd).ovf, nfin := (k1.vreg c.vd).nfin })
  | _ => none

/-- A transcendental command (R124-R130): a NaN or infinity sets NFIN of the destination register. -/
def vecTrans (k : Core) (c : VecF) (f : Int → FV → W32) : Core :=
  let g := fun (r e : Nat) => f32 (BitVec.ofNat 32 ((k.src 0 c.imm c.srca r e).word 0).1)
  let v := (k.vreg c.vd).fill 0 fun r e => ⟨(f (vecSexp c) (g r e)).toNat, 0⟩
  let bad := (List.range 4096).any fun x => ! (g (x / 64) (x % 64)).isFin
  let k1 := k.stickSrc 0 c.srca 64 64
  (((k1.setVreg c.vd { v with ovf := (k1.vreg c.vd).ovf, nfin := (k1.vreg c.vd).nfin }).stick c.vd ⟨false, bad⟩).count 0x32
    4096)

/-! Reductions (R119, R120). -/

/-- The groups of elements an AXIS reduces in a view: the place of each result (row, element) with the elements (row,
element) that go into it, in order. With AXIS 3 in a view of fewer than n elements those beyond the register read as zeros: the spec is
silent (DESIGN CHOICE, log 168). -/
def redGroups (view axis : BitVec 2) (nm1 : Nat) : List ((Nat × Nat) × List (Nat × Nat)) :=
  let n := viewCols view
  match axis.toNat with
  | 0 => (List.range 64).map fun r => ((r, 0), (List.range n).map fun e => (r, e))
  | 1 => (List.range n).map fun e => ((0, e), (List.range 64).map fun r => (r, e))
  | 2 => [((0, 0), (List.range (64 * n)).map fun i => (i / n, i % n))]
  | _ => [((0, 0), (List.range (nm1 + 1)).map fun i => (i / n, i % n))]

/-- The sticky OVF of a reduction's source (R110): of the elements that the reduction reads. -/
def Core.stickRed (k : Core) (view : BitVec 2) (c : VecF) : Core :=
  if c.axis ≠ 3 then k.stickSrc view c.srca 64 (viewCols view)
  else
    let wraps := (redGroups view c.axis c.nm1.toNat).any fun g => g.2.any fun p => (k.src view c.imm c.srca p.1 p.2).wrap ≠ 0
    if c.srca.kind ≠ 3 ∧ wraps then k.stick c.srca.reg .mkOvf else k

/-- The lane whose Long Tally register takes a raw sum (R119). -/
def redLane (axis : BitVec 2) (p : Nat × Nat) : Nat := if axis = 0 then p.1 else p.2

/-- two_sum of R70. -/
def twoSum (a b : W32) : W32 × W32 :=
  let s := fadd a b
  let bb := fsub s a
  (s, fadd (fsub a (fsub s bb)) (fsub b bb))

/-- One lane step of COMP: sum and error term. -/
def compStep (p : W32 × W32) (x : W32) : W32 × W32 :=
  let r := twoSum p.1 x
  (r.1, fadd p.2 r.2)

/-- Joining two lanes in the tree of R70. -/
def compJoin (a b : W32 × W32) : W32 × W32 :=
  let cc := fadd a.2 b.2
  let r := twoSum a.1 b.1
  (r.1, fadd cc r.2)

/-- One level of the tree. -/
def compLevel : List (W32 × W32) → List (W32 × W32)
  | a :: b :: xs => compJoin a b :: compLevel xs
  | xs => xs

/-- Value plus value times 2^SE, rounded once (R115). -/
def finishSum (a b : W32) (se : Int) : W32 := toF32 (((f32 a).add (f32 b)).mul (.fin false (pow2 se)))

/-- COMP over values in order (R70): lanes by index modulo 64, then six tree levels. -/
def compSum (xs : List W32) (se : Int) : W32 :=
  let lanes := (List.range 64).map fun l =>
    ((xs.zipIdx.filter fun x => x.2 % 64 = l).map (·.1)).foldl compStep ((0 : W32), (0 : W32))
  let t := compLevel (compLevel (compLevel (compLevel (compLevel (compLevel lanes)))))
  match t with
  | p :: _ => finishSum p.1 p.2 se
  | [] => 0

/-- COMP down one column: the sequential part in one lane only (R120). -/
def compCol (xs : List W32) (se : Int) : W32 :=
  let p := xs.foldl compStep ((0 : W32), (0 : W32))
  finishSum p.1 p.2 se

/-- Readout of a Long Tally word as FP32 × 2^SE (R66, R116, R122). -/
def ltToF32 (w : W320) (se : Int) : W32 × Bool :=
  let r := ltRead w
  if r.2 then (inf32 w.msb, true) else (roundF32 ((r.1 : ℚ) * pow2 (se - 149)), false)

/-- VRSUM (R70, R119, R120). None for a form that R502 rejects; `n` numbers free values. An infinity or NaN in a sum into LT320
adds nothing and sets NFIN of the source register, as LTADDF has it (R122, log 129). An IMM32 source has no register whose NFIN
could be set. -/
def effVrsum (k : Core) (c : VecF) (n : Nat) : Option Core :=
  let gs := redGroups c.view c.axis c.nm1.toNat
  let el := fun (p : Nat × Nat) => k.src c.view c.imm c.srca p.1 p.2
  let sticky := k.stickRed c.view c
  if c.acc = 2 then
    if c.view ≠ 0 then none
    else
      let ws := fun (ps : List (Nat × Nat)) => ps.map fun p => BitVec.ofNat 32 ((el p).word 0).1
      let bad := gs.any fun g => (ws g.2).any fun w => ! (f32 w).isFin
      let out := gs.foldl (fun v g =>
        v.put 0 g.1.1 g.1.2 ⟨(if c.axis = 1 then compCol (ws g.2) (vecSexp c) else compSum (ws g.2) (vecSexp c)).toNat, 0⟩) (sticky.vreg c.vd)
      some ((sticky.setVreg c.vd out).stickNfin c.srca bad)
  else if c.acc ≠ 0 then none
  else if c.view = 0 then
    let vals := fun (ps : List (Nat × Nat)) => ps.map fun p => f32 (BitVec.ofNat 32 ((el p).word 0).1)
    let bad := gs.any fun g => (vals g.2).any fun v => ! v.isFin
    let one := fun (ps : List (Nat × Nat)) =>
      ((vals ps).zipIdx).foldl (fun (l : LtEl) v => if v.1.isFin then l.add (ltUnits v.1.toRat) wtF32 n else l) LtEl.zero
    let rs := gs.map fun g => (g.1, one g.2)
    let out := rs.foldl (fun v r => v.put 0 r.1.1 r.1.2 ⟨(ltToF32 r.2.w (vecSexp c)).1.toNat, 0⟩) (sticky.vreg c.vd)
    let k1 := rs.foldl (fun (x : Core) r => x.setLt (redLane c.axis r.1) c.ltr.val r.2) (sticky.setVreg c.vd out)
    let sat := rs.any fun r => (ltToF32 r.2.w (vecSexp c)).2
    some (((k1.stickNfin c.srca bad).stick c.vd ⟨sat, false⟩).count 0x31 (gs.foldl (fun a g => a + g.2.length) 0))
  else
    let w := viewBits c.view
    let sum := fun (ps : List (Nat × Nat)) =>
      ps.foldl (fun (a : Int × Int) p => tallyAddAt w a.1 a.2 ((el p).read c.view).1) ((0 : Int), (0 : Int))
    let out := gs.foldl (fun v g => let s := sum g.2; v.put c.view g.1.1 g.1.2 ⟨(BitVec.ofInt w s.1).toNat, s.2⟩) (sticky.vreg c.vd)
    some (sticky.setVreg c.vd out)

/-- VRMAX and VRMIN (R119). -/
def effVrext (k : Core) (c : VecF) (f : W32 → W32 → W32) : Core :=
  let gs := redGroups 0 c.axis c.nm1.toNat
  let el := fun (p : Nat × Nat) => BitVec.ofNat 32 ((k.src 0 c.imm c.srca p.1 p.2).word 0).1
  let sticky := k.stickRed 0 c
  let best := fun (ps : List (Nat × Nat)) =>
    match ps with
    | [] => (0 : W32)
    | p :: qs => qs.foldl (fun a q => f a (el q)) (f (el p) (el p))
  let out := gs.foldl (fun v g => v.put 0 g.1.1 g.1.2
    ⟨(toF32 ((f32 (best g.2)).mul (.fin false (pow2 (vecSexp c))))).toNat, 0⟩) (sticky.vreg c.vd)
  sticky.setVreg c.vd out

/-! Long Tally commands (R122). -/

/-- LTCLR. -/
def effLtclr (k : Core) (c : VecF) : Core := k.updLt c.ltr.val fun _ _ => LtEl.zero

/-- The element of SRCA that goes to a lane (R122): of a row or of a column. -/
def ltLaneEl (k : Core) (c : VecF) (lane : Nat) : W32 :=
  let v := (k.vreg c.srca.reg)
  BitVec.ofNat 32 ((if c.srca.kind = 1 then v.elem 0 c.srca.index.val lane else v.elem 0 lane c.srca.index.val).word 0).1

/-- LTADDF. None where SRCA names neither a row nor a column. SE scales the addend as it scales every F32 instruction (R115);
what of it lies below 2^-149 is cut off (log 130). A wrapped element is read out saturated, with OVF of the source register (R110, R111). -/
def effLtaddf (k : Core) (c : VecF) (n : Nat) : Option Core :=
  if c.srca.kind ≠ 1 ∧ c.srca.kind ≠ 2 then none
  else
    let add := fun (lane : Nat) (l : LtEl) =>
      match f32 (ltLaneEl k c lane) with
      | .fin s a => l.add (ltUnits ((FV.fin s a).toRat * pow2 (vecSexp c))) wtF32 (n + lane)
      | _ => l
    let bad := (List.range 64).any fun i => ! (f32 (ltLaneEl k c i)).isFin
    some ((((k.updLt c.ltr.val add).stickSrc 0 c.srca 64 64).stick c.srca.reg ⟨false, bad⟩).count 0x31 64)

/-- LTADDT: lane 0 takes the exact sum over all lanes; 63 addends of LT320 weight, each the readout of its word (R66). -/
def effLtaddt (k : Core) (c : VecF) (n : Nat) : Core :=
  let l0 := k.ltReg 0 c.ltr.val
  let l := (List.range 63).foldl (fun (a : LtEl) i => a.add (ltRead (k.ltReg (i + 1) c.ltr.val).w).1 wtLt n) l0
  (k.setLt 0 c.ltr.val l).count 0x31 63

/-- LTRD. None where SRCA names neither a row nor a column. -/
def effLtrd (k : Core) (c : VecF) : Option Core :=
  if c.srca.kind ≠ 1 ∧ c.srca.kind ≠ 2 then none
  else
    let rs := (List.range 64).map fun i => ltToF32 (k.ltReg i c.ltr.val).w (vecSexp c)
    let out := rs.zipIdx.foldl (fun v r =>
      if c.srca.kind = 1 then v.put 0 c.srca.index.val r.2 ⟨r.1.1.toNat, 0⟩
      else v.put 0 r.2 c.srca.index.val ⟨r.1.1.toNat, 0⟩) (k.vreg c.vd)
    some ((k.setVreg c.vd out).stick c.vd ⟨rs.any fun r => r.2, false⟩)

/-- The handle of a load, store or Long Tally memory command. -/
def vmemHandle (c : VmemF) (h : Hdr) (iter : List W32) : W16 := effHandle h iter 0 c.h

/-- Lanes and their elements inside the view for LTADDM and LTST (R175). -/
def ltPos (d : Desc) (c : VmemF) : List (Nat × List Nat) :=
  ((List.range 64).map fun i => (i, [c.col0.toNat + i, c.row0.toNat, 0, 0, 0, 0])).filter fun p => d.inside p.2

/-- LTADDM (R122, R175): each addend is the readout of its word (R66). -/
def effLtaddm (s : State) (k : CoreId) (e : Ent) (h : Hdr) (c : VmemF) : Option (State × Post) :=
  let d := s.desc (vmemHandle c h e.iter)
  if d.fmt ≠ some .lt320 then none
  else
    let ps := ltPos d c
    let core := ps.foldl (fun (x : Core) p =>
      x.setLt p.1 c.ltr.val ((x.ltReg p.1 c.ltr.val).add (ltRead (BitVec.ofNat 320 (s.codeAt d p.2))).1 wtLt (s.free + p.1))) (s.core k)
    some ({ (s.setCore k (core.count 0x31 ps.length)) with free := s.free + 64 }, Post.none)

/-- LTST (R122, R175): raw words, an invalid one as its saturated value. -/
def effLtst (s : State) (k : CoreId) (e : Ent) (h : Hdr) (c : VmemF) : Option (State × Post) :=
  let hh := vmemHandle c h e.iter
  let d := s.desc hh
  if d.fmt ≠ some .lt320 then none
  else
    let ps := ltPos d c
    let core := s.core k
    let ws := ps.map fun p => (p.2, ltSat (core.ltReg p.1 c.ltr.val).w)
    let base := s.basePhys d
    let runs := ws.map fun w => (base + d.bitOff w.1 / 8, leBytes 40 w.2.1.toNat)
    some (writeRuns s d.cvp runs,
      (Post.none.flags hh ⟨ws.any fun w => w.2.2, false⟩).writes hh (decide (d.count = ps.length)))

/-! Loads and stores (R112, R175, R502). -/

/-- The view a load or store of a raw format uses (R502). -/
def rawView (f : Fmt) : Option (BitVec 2) :=
  match f with | .g32 => some 1 | .g64 => some 2 | .t128 => some 3 | _ => none

/-- The positions of a region inside the view: row and element of the register, indexes of the view (R175). -/
def regionPos (d : Desc) (c : VmemF) (cols : Nat) : List (Nat × Nat × List Nat) :=
  ((List.range 64).flatMap fun r => (List.range cols).map fun e =>
    (r, e, [c.col0.toNat + e, c.row0.toNat + r, 0, 0, 0, 0])).filter fun p => d.inside p.2.2

/-- A load whose exact value is multiplied by 2^SE before its rounding (R115). -/
def State.loadScaled (s : State) (d : Desc) (se : Int) (ix : List Nat) : W32 × Fl :=
  if d.scaled ∧ scaleOk (s.scaleRec d.scale).1 = Option.none then (0, Fl.mkNfin)
  else
    match s.elemVal d ix with
    | .nan => (nan32, Fl.mkNfin)
    | .inf sg => (inf32 sg, Fl.mkNfin)
    | .fin sg a =>
      let r := Fmt.fp32.convert .rne true (.fin sg (a * pow2 se))
      (BitVec.ofNat 32 r.1, if r.2.ovf then ⟨true, true⟩ else Fl.none)

/-- VLD. None for a format and VIEW that R502 does not allow. An infinity or NaN delivered sets NFIN of the source tensor (R56)
and of the tile register (R111, log 131). -/
def effVld (s : State) (k : CoreId) (e : Ent) (h : Hdr) (c : VmemF) : Option (State × Post) :=
  let hh := vmemHandle c h e.iter
  let d := s.desc hh
  match d.fmt with
  | none => none
  | some f =>
    if d.alay ∨ f = .lt320 then none
    else
      match rawView f with
      | some v =>
        if c.view ≠ v then none
        else
          let ix := fun (r el : Nat) => [c.col0.toNat + el, c.row0.toNat + r, 0, 0, 0, 0]
          let core := s.core k
          let out := (core.vreg c.vd).fill v fun r el => if d.inside (ix r el) then ⟨s.codeAt d (ix r el), 0⟩ else ⟨0, 0⟩
          some (s.setCore k (core.setVreg c.vd out), Post.none)
      | none =>
        if c.view ≠ 0 then none
        else
          let ix := fun (r el : Nat) => [c.col0.toNat + el, c.row0.toNat + r, 0, 0, 0, 0]
          let core := s.core k
          let sc := c.se.toInt
          let val := fun (r el : Nat) =>
            if d.inside (ix r el) then
              (if sc = 0 then s.loadF32 d (ix r el) else s.loadScaled d sc (ix r el))
            else (0, .none)
          let out := (core.vreg c.vd).fill 0 fun r el => ⟨(val r el).1.toNat, 0⟩
          let fl := (List.range 4096).foldl (fun f x => f.or (val (x / 64) (x % 64)).2) Fl.none
          some (s.setCore k ((core.setVreg c.vd out).stick c.vd ⟨false, fl.nfin⟩), Post.none.flags hh fl)
/-- VST of F32 elements into a grid format (R502, R55). The word of a NaN is free (log 21). -/
def vstGrid (s : State) (e : Ent) (hh : W16) (d : Desc) (w : Nat) (se : Int) (els : List StEl) : State × Post :=
  let lim : Int := 2 ^ (w - 1) - 1
  let one := fun (x : StEl) =>
    match x.2 with
    | .nan => ((BitVec.setWidth w (Config.freeTally (s.free + d.lin x.1))).toInt, Fl.mkNfin)
    | .inf sg => ((if sg then -lim else lim), (⟨true, true⟩ : Fl))
    | .fin sg a => let q := toGrid w (s.rndOf d 0 hh e.tag e.x x.1) (-se) sg a; (q.1, ⟨q.2, false⟩)
  let rs := els.map fun x => (x.1, one x)
  let base := s.basePhys d
  let runs := rs.map fun r => (base + d.bitOff r.1 / 8, leBytes (w / 8) (BitVec.ofInt w r.2.1).toNat)
  ({ (writeRuns s d.cvp runs) with free := s.free + d.count },
    (Post.none.flags hh (rs.foldl (fun f r => f.or r.2.2) Fl.none)).writes hh (decide (d.count = els.length)))

/-- VST. None for a format and VIEW that R502 does not allow. -/
def effVst (s : State) (k : CoreId) (e : Ent) (h : Hdr) (c : VmemF) : Option (State × Post) :=
  let hh := vmemHandle c h e.iter
  let d := s.desc hh
  match d.fmt with
  | none => none
  | some f =>
    if d.alay ∨ f = .lt320 then none
    else
      let core := s.core k
      let reg := core.vreg c.vd
      let done := fun (r : State × Post) (sat : Bool) =>
        (r.1.modCore k fun x => let v := x.vreg c.vd; x.setVreg c.vd { v with ovf := false, nfin := false },
          r.2.flags hh ⟨reg.ovf || sat, reg.nfin⟩)
      if c.view = 0 then
        let ps := regionPos d c 64
        let sc := FV.fin false (pow2 c.se.toInt)
        if f = .t128 then none
        else if f.grid then
          let els : List StEl := ps.map fun p => (p.2.2, f32 (BitVec.ofNat 32 ((reg.elem 0 p.1 p.2.1).word 0).1))
          some (done (vstGrid s e hh d f.bits c.se.toInt els) (ps.any fun p => ((reg.elem 0 p.1 p.2.1).word 0).2))
        else
          let els : List StEl := ps.map fun p => (p.2.2, (f32 (BitVec.ofNat 32 ((reg.elem 0 p.1 p.2.1).word 0).1)).mul sc)
          let r := s.scaleRec d.scale
          let st := convStore d f r.2 (s.rndOf d 0 hh e.tag e.x) els
          let s1 := writeRuns s d.cvp (codeRuns s.mem (s.basePhys d) d st.codes)
          let db := s.desc (BitVec.ofNat 16 d.bscale)
          let s2 := if d.bscale = 0 then s1 else writeRuns s1 db.cvp (scaleRuns s s1.mem d f st.scales)
          let whole := decide (d.count = els.length)
          let p := (((Post.none.flags hh ⟨decide (st.conv.ovf > 0), decide (st.conv.nfin > 0)⟩).writes hh whole).max hh st.conv.amax)
          let p' := if d.bscale = 0 then p else p.writes (BitVec.ofNat 16 d.bscale) whole
          let s3 := s2.modCore k fun x =>
            (((x.count 0x22 st.conv.ovf).count 0x23 st.conv.nfin).count 0x24 st.conv.zero).count 0x26 st.conv.up
          some (done (s3, p') (ps.any fun p => ((reg.elem 0 p.1 p.2.1).word 0).2))
      else
        if rawView f ≠ some c.view then none
        else
          let ps := regionPos d c (viewCols c.view)
          let ws := ps.map fun p => (p.2.2, (reg.elem c.view p.1 p.2.1).word c.view)
          let base := s.basePhys d
          let runs := ws.map fun w => (base + d.bitOff w.1 / 8, leBytes (viewBits c.view / 8) w.2.1)
          some (done (writeRuns s d.cvp runs, Post.none.writes hh (decide (d.count = ps.length))) (ws.any fun w => w.2.2))

/-- TRD (R113): 64 rows of 16 elements of a tile into a register in the T128 view. -/
def effTrd (k : Core) (c : TrdF) : Core :=
  let t := k.tile c.tile.val
  let el := fun (r e : Nat) => SMap.get TEl.zero t.els (128 * (64 * c.rb.val + r) + 16 * c.cb.val + e)
  let v := (k.vreg c.vd).fill 3 fun r e => ⟨((el r e).raw t.kind).1, 0⟩
  let all := (List.range 64).flatMap fun r => (List.range 16).map fun e => el r e
  let sat := (all.filter fun x => (x.raw t.kind).2).length
  (((k.setVreg c.vd v).stick c.vd ⟨decide (sat > 0) || t.anch, all.any fun x => x.badZ1 t.kind⟩).readout c.tile.val sat 64)

end Sys2Proof.Machine
end

