-- ==== Sys2Proof/Machine/Access.lean ====
section
/-! DEFINITION. What a command names and reaches: handles and Tally tiles for the scoreboard (R139, R140, R78), byte
ranges for the check-value unit (R381), and the rights of R157 and R195. -/

namespace Sys2Proof.Machine

open Sys2Proof

/-! Fields of an Evlux command. -/

/-- The engines with their queues (R136). -/
inductive Eng where
  | mxe | vxe | upe | skd | sync
  deriving DecidableEq, Repr

/-- Queue depths (R136). -/
def Eng.depth : Eng → Nat
  | .mxe => 16 | .vxe => 64 | .upe => 8 | .skd => 32 | .sync => 16

/-- ENGINE code of a fault record or trace record (R390): commands of the last queue are the command processor's. -/
def Eng.code : Eng → Nat
  | .mxe => engMxe | .vxe => engVxe | .upe => engUpe | .skd => engSkd | .sync => engCmd

/-- Event-counter source of a dispatch (R475). -/
def Eng.source : Eng → Nat
  | .mxe => 0x08 | .vxe => 0x09 | .upe => 0x0A | .skd => 0x0B | .sync => 0x0C

/-- The engine of a command; none for rows that are no Evlux command, and for LOOP, ENDL and SETC, which act at issue. -/
def engOf : Instr → Option Eng
  | .mmul .. | .asweep .. | .tzero .. | .tfill .. | .taccm .. | .tstore .. | .epi .. | .gpass .. => some .mxe
  | .vadd .. | .vsub .. | .vmul .. | .vfma .. | .vmax .. | .vmin .. | .vabs .. | .vneg .. | .vcmp .. | .vsel ..
  | .viadd .. | .visub .. | .vcvt .. | .vexp2 .. | .vlog2 .. | .vrcp .. | .vrsqrt .. | .vtanh .. | .verf ..
  | .vrsum .. | .vrmax .. | .vrmin .. | .ltclr .. | .ltaddf .. | .ltaddt .. | .ltrd .. | .ltaddm .. | .ltst ..
  | .vld .. | .vst .. | .trd .. => some .vxe
  | .upd .. => some .upe
  | .move .. => some .skd
  | .signal .. | .wait .. | .ldc .. | .xchg .. | .commit .. | .stepend .. => some .sync
  | _ => none

/-- The common fields of an Evlux command. -/
def hdrOf : Instr → Hdr
  | .mmul _ h _ | .asweep _ h _ | .tzero _ h _ | .tfill _ h _ | .taccm _ h _ | .tstore _ h _ | .epi _ h _
  | .gpass _ h _ | .vadd _ h _ | .vsub _ h _ | .vmul _ h _ | .vfma _ h _ | .vmax _ h _ | .vmin _ h _ | .vabs _ h _
  | .vneg _ h _ | .vcmp _ h _ | .vsel _ h _ | .viadd _ h _ | .visub _ h _ | .vcvt _ h _ | .vexp2 _ h _
  | .vlog2 _ h _ | .vrcp _ h _ | .vrsqrt _ h _ | .vtanh _ h _ | .verf _ h _ | .vrsum _ h _ | .vrmax _ h _
  | .vrmin _ h _ | .ltclr _ h _ | .ltaddf _ h _ | .ltaddt _ h _ | .ltrd _ h _ | .ltaddm _ h _ | .ltst _ h _
  | .vld _ h _ | .vst _ h _ | .trd _ h _ | .move _ h _ | .upd _ h _ | .signal _ h _ | .wait _ h _ | .loop _ h _ _
  | .endl _ h | .setc _ h _ _ | .ldc _ h _ _ _ | .xchg _ h _ | .commit _ h | .stepend _ h => h
  | _ => ⟨0, 0, 0, none, false, none, 0⟩

/-! What a command names (R140). -/

/-- Kinds of access to a handle. -/
inductive AccK where
  | rd | wr | ac
  deriving DecidableEq, Repr

/-- A handle named and how. -/
structure Touch where
  h : W16
  k : AccK
  deriving DecidableEq, Repr

/-- Kinds of access to a Tally tile (R78). -/
inductive TAccK where
  | acc | zacc | ovw | rd
  deriving DecidableEq, Repr

/-- The handle named, and with it the block-scale or exponent tensor of its descriptor. -/
def State.touch (s : State) (h : W16) (k : AccK) : List Touch :=
  if h = 0 then []
  else
    let d := s.desc h
    ⟨h, k⟩ :: (if d.bscale ≠ 0 then [⟨BitVec.ofNat 16 d.bscale, if k = .rd then .rd else .wr⟩] else [])

/-- Does an EPI add into its destination (R172). -/
def epiAdds (s : State) (h : Hdr) (iter : List W32) (c : EpiF) : Bool :=
  (s.desc (effHandle h iter 0 c.hd)).fmt = some .g64 && (c.gmode = 1 || (c.gmode = 2 && ixIter h iter ≠ 0))

/-- Is the group of an UPD frozen now (R236, R240). -/
def State.groupFrozen (s : State) (g : Nat) : Bool := bitAt (memLe s.mem (updTable + 64 * g) 64) 1

/-- The handles a command names in an execution. -/
def State.touches (s : State) (iter : List W32) (i : Instr) : List Touch :=
  let h := hdrOf i
  let ef := fun (f : Nat) (v : W16) => effHandle h iter f v
  match i with
  | .mmul _ _ c => s.touch (ef 0 c.ha) .rd ++ s.touch (ef 1 c.hb) .rd ++ (if c.ans then s.touch (ef 2 c.hanc) .rd else [])
  | .asweep _ _ c => s.touch (ef 0 c.ha) .rd ++ s.touch (ef 1 c.hb) .rd ++ s.touch (ef 2 c.hanc) .wr
  | .tfill _ _ c => s.touch (ef 0 c.h) .rd ++ s.touch (ef 1 c.hanc) .rd
  | .taccm _ _ c => s.touch (ef 0 c.h) .rd ++ s.touch (ef 1 c.hanc) .rd
  | .tstore _ _ c => s.touch (ef 0 c.h) .wr ++ s.touch (ef 1 c.hanc) .wr
  | .epi _ _ c =>
    s.touch (ef 0 c.hd) (if epiAdds s h iter c then .ac else .wr)
      ++ (if c.stat then s.touch (ef 1 c.hsr) (if c.radd then .ac else .wr) ++ s.touch (ef 2 c.hsc) (if c.cadd then .ac else .wr)
          else [])
  | .gpass _ _ c =>
    s.touch (ef 0 c.hg) .rd ++ s.touch (ef 1 c.hsr) (if c.radd then .ac else .wr)
      ++ s.touch (ef 2 c.hsc) (if c.cadd then .ac else .wr)
  | .ltaddm _ _ c => s.touch (vmemHandle c h iter) .ac
  | .ltst _ _ c => s.touch (vmemHandle c h iter) .wr
  | .vld _ _ c => s.touch (vmemHandle c h iter) .rd
  | .vst _ _ c => s.touch (vmemHandle c h iter) .wr
  | .move _ _ c =>
    -- a move names its two handles alone (R161)
    (if ef 0 c.src = 0 then [] else [⟨ef 0 c.src, .rd⟩]) ++ (if ef 1 c.dst = 0 then [] else [⟨ef 1 c.dst, .wr⟩])
  | .upd _ _ c =>
    s.touch (ef 0 c.hw) .wr ++ s.touch (ef 1 c.hp) .wr ++ s.touch (ef 2 c.hg) .rd ++ s.touch (ef 3 c.hm) .wr
      ++ s.touch (ef 4 c.hsr) .rd ++ s.touch (ef 5 c.hsc) .rd ++ s.touch (ef 6 c.hvr) .wr ++ s.touch (ef 7 c.hvc) .wr
  | .ldc _ _ _ hh _ => s.touch (ef 0 hh) .rd
  | .xchg _ _ c => s.touch (ef 0 c.hl) .rd ++ s.touch (ef 1 c.hr) .wr
  | _ => []

/-- The Tally tile a command names, and how. -/
def tileOf : Instr → Option (TileId × TAccK)
  | .mmul _ _ c => some (c.tile, if c.ovw then .ovw else if c.acc = 3 then .zacc else .acc)
  | .tzero _ _ c => some (c.tile, .ovw)
  | .tfill _ _ c => some (c.tile, .ovw)
  | .taccm _ _ c => some (c.tile, .acc)
  | .tstore _ _ c => some (c.tile, .rd)
  | .epi _ _ c => some (c.tile, .rd)
  | .trd _ _ c => some (c.tile, .rd)
  | _ => none

/-- Two handles stand for one object of the scoreboard (R139). -/
def State.sameGroup (s : State) (a b : W16) : Bool := s.groupLow a = s.groupLow b

/-- Two accesses to one handle are ordered (R140). -/
def ordH (s : State) (a b : Touch) : Bool := s.sameGroup a.h b.h && ! (a.k = .rd && b.k = .rd)

/-- Two accesses to one tile are ordered (R78). -/
def ordT (a b : TileId × TAccK) : Bool :=
  a.1 = b.1 && ! ((a.2 = .acc && b.2 = .acc) || (a.2 = .rd && b.2 = .rd))

/-! Byte ranges. -/

/-- A range of bytes: address and length. -/
abbrev Span := Nat × Nat

/-- The bytes of elements at given indexes. -/
def State.posSpans (s : State) (d : Desc) (ps : List (List Nat)) : List Span :=
  let base := 8 * s.basePhys d
  ps.map fun p => let b := base + d.bitOff p; (b / 8, (b % 8 + d.ebits + 7) / 8)

/-- The bytes of the block scales or exponents of elements at given indexes (R40, R42). -/
def State.scaleSpans (s : State) (d : Desc) (ps : List (List Nat)) : List Span :=
  let b := s.desc (BitVec.ofNat 16 d.bscale)
  let base := s.basePhys b
  (ps.map fun p => if d.fmt = some .bx16 then (base + d.block p, 1) else (base + d.block p / 2, 1)).eraseDups

/-- The rows of a view: index tuples with dimension 0 at zero, whole-block padding along KDIM included. -/
def Desc.rows (d : Desc) : List (List Nat) :=
  let ex := (List.range 6).map fun i => if d.blocked ∧ i = d.kdim then d.nb * d.bs else d.extent i
  (List.range (ex.tail.foldl (· * ·) 1)).map fun n => 0 :: unlin n ex.tail

/-- The bytes of a whole view, row by row. -/
def State.viewSpans (s : State) (d : Desc) : List Span :=
  let e0 := if d.blocked ∧ d.kdim = 0 then d.nb * d.bs else d.extent 0
  d.rows.map fun p => let b := 8 * s.basePhys d + d.bitOff p; (b / 8, (b % 8 + e0 * d.ebits + 7) / 8)

/-- The bytes of every block scale or exponent of a tensor. -/
def State.allScaleSpans (s : State) (d : Desc) : List Span :=
  let b := s.desc (BitVec.ofNat 16 d.bscale)
  [(s.basePhys b, if d.fmt = some .bx16 then d.blocks else (d.blocks + 1) / 2)]

/-- Indexes of a box of dimensions 0 and 1. -/
def boxPos (c0 nc r0 nr : Nat) : List (List Nat) :=
  (List.range nr).flatMap fun r => (List.range nc).map fun c => [c0 + c, r0 + r, 0, 0, 0, 0]

/-- Spans of a handle read or written at given indexes, its block-scale tensor's with them. -/
def State.at' (s : State) (h : W16) (ps : List (List Nat)) : List (W16 × List Span) :=
  let d := s.desc h
  if h = 0 then []
  else (h, s.posSpans d ps) :: (if d.bscale ≠ 0 then [(BitVec.ofNat 16 d.bscale, s.scaleSpans d ps)] else [])

/-- Spans of a whole view, its block-scale tensor's with them. -/
def State.whole (s : State) (h : W16) : List (W16 × List Span) :=
  let d := s.desc h
  if h = 0 then []
  else (h, s.viewSpans d) :: (if d.bscale ≠ 0 then [(BitVec.ofNat 16 d.bscale, s.allScaleSpans d)] else [])

/-- The first `m` rows of `n` elements of `w` bytes of a tile tensor (R82). -/
def State.tileSpans (s : State) (h : W16) (m n w : Nat) : List (W16 × List Span) :=
  if h = 0 then [] else [(h, (List.range m).map fun r => (s.rowAddr (s.desc h) r, w * n))]

/-- The indexes an operand of MMUL or ASWEEP is read at: its K range, whole blocks where the load path converts to BX16
(R43, R173). -/
def State.opPos (s : State) (h : W16) (kd : Nat) (len : Nat) : List (List Nat) :=
  let d := s.desc h
  let l := match d.fmt with
    | some .bf16 | some .fp16 => min (d.extent kd) ((len + 31) / 32 * 32)
    | _ => min (d.extent kd) len
  if kd = 0 then boxPos 0 l 0 (d.extent 1) else boxPos 0 (d.extent 0) 0 l

/-- What an execution reads from memory that check values cover. -/
def State.reads (s : State) (iter : List W32) (i : Instr) : List (W16 × List Span) :=
  let h := hdrOf i
  let ef := fun (f : Nat) (v : W16) => effHandle h iter f v
  match i with
  | .mmul _ _ c =>
    let len := c.k1.toNat - c.k0.toNat
    s.at' (ef 0 c.ha) (s.opPos (ef 0 c.ha) (if c.ta then 1 else 0) len)
      ++ s.at' (ef 1 c.hb) (s.opPos (ef 1 c.hb) (if c.tb then 0 else 1) len)
      ++ (if c.ans then s.whole (ef 2 c.hanc) else [])
  | .asweep _ _ c =>
    let len := c.k1.toNat - c.k0.toNat
    s.at' (ef 0 c.ha) (s.opPos (ef 0 c.ha) (if c.ta then 1 else 0) len)
      ++ s.at' (ef 1 c.hb) (s.opPos (ef 1 c.hb) (if c.tb then 0 else 1) len)
  | .tfill _ _ c => s.whole (ef 0 c.h) ++ s.whole (ef 1 c.hanc)
  | .taccm _ _ c => s.whole (ef 0 c.h) ++ s.whole (ef 1 c.hanc)
  | .epi _ _ c =>
    (if epiAdds s h iter c then s.whole (ef 0 c.hd) else [])
      ++ (if c.stat ∧ c.radd then s.whole (ef 1 c.hsr) else []) ++ (if c.stat ∧ c.cadd then s.whole (ef 2 c.hsc) else [])
  | .gpass _ _ c =>
    s.whole (ef 0 c.hg) ++ (if c.radd then s.whole (ef 1 c.hsr) else []) ++ (if c.cadd then s.whole (ef 2 c.hsc) else [])
  | .ltaddm _ _ c => let hh := vmemHandle c h iter; s.at' hh ((ltPos (s.desc hh) c).map (·.2))
  | .vld _ _ c =>
    let hh := vmemHandle c h iter
    s.at' hh ((regionPos (s.desc hh) c (viewCols c.view)).map fun p => p.2.2)
  | .move _ _ c => [(ef 0 c.src, s.viewSpans (s.desc (ef 0 c.src)))]
  | .upd _ _ c =>
    if s.groupFrozen c.group.val then []
    else
      s.whole (ef 0 c.hw) ++ s.whole (ef 2 c.hg) ++ s.whole (ef 3 c.hm) ++ s.whole (ef 4 c.hsr) ++ s.whole (ef 5 c.hsc)
        ++ s.whole (ef 6 c.hvr) ++ s.whole (ef 7 c.hvc)
  | .ldc _ _ _ hh idx => let d := s.desc (ef 0 hh); if d.count ≤ idx.toNat then [] else s.at' (ef 0 hh) [d.at idx.toNat]
  | .xchg _ _ c => s.whole (ef 0 c.hl)
  | _ => []

/-- What an execution writes to memory. -/
def State.writes (s : State) (iter : List W32) (i : Instr) : List (W16 × List Span) :=
  let h := hdrOf i
  let ef := fun (f : Nat) (v : W16) => effHandle h iter f v
  match i with
  | .asweep _ _ c =>
    s.tileSpans (ef 2 c.hanc) ((s.desc (ef 0 c.ha)).extent (if c.ta then 0 else 1))
      ((s.desc (ef 1 c.hb)).extent (if c.tb then 1 else 0)) 2
  | .tstore _ _ c => s.whole (ef 0 c.h) ++ s.whole (ef 1 c.hanc)
  | .epi _ _ c =>
    s.whole (ef 0 c.hd)
      ++ (if c.stat then s.whole (ef 1 c.hsr) ++ s.whole (ef 2 c.hsc) else [])
  | .gpass _ _ c => s.whole (ef 1 c.hsr) ++ s.whole (ef 2 c.hsc)
  | .ltst _ _ c => let hh := vmemHandle c h iter; s.at' hh ((ltPos (s.desc hh) c).map (·.2))
  | .vst _ _ c =>
    let hh := vmemHandle c h iter
    s.at' hh ((regionPos (s.desc hh) c (viewCols c.view)).map fun p => p.2.2)
  | .move _ _ c => [(ef 1 c.dst, s.viewSpans (s.desc (ef 1 c.dst)))]
  | .upd _ _ c =>
    if s.groupFrozen c.group.val then []
    else s.whole (ef 0 c.hw) ++ s.whole (ef 1 c.hp) ++ s.whole (ef 3 c.hm) ++ s.whole (ef 6 c.hvr) ++ s.whole (ef 7 c.hvc)
  | .xchg _ _ c => s.whole (ef 1 c.hr)
  | _ => []

/-! Check values of what is read and of what is written in part (R381, R382). -/

/-- The blocks of spans, each once. -/
def spanBlocks (ss : List Span) : List Nat := (ss.flatMap fun r => blocksOf r.1 r.2).eraseDups

/-- Is a block wholly inside the view of a descriptor (R380). -/
def State.inView (s : State) (d : Desc) (blk : Nat) : Bool :=
  s.basePhys d ≤ blk * 4096 && (blk + 1) * 4096 ≤ s.basePhys d + d.hull

/-- The first bad block among those read: handle, block, why. -/
def State.badRead (s : State) (rs : List (W16 × List Span)) : Option (W16 × Nat × Nat) :=
  rs.findSome? fun r =>
    (spanBlocks r.2).findSome? fun b =>
      if carriesCheck s (b * 4096) then
        (blockFault s (s.groupLow r.1) (s.inView (s.desc r.1) b) b).map fun w => (r.1, b, w)
      else none

/-- The first block written in part whose rest does not verify. -/
def State.badWrite (s : State) (ws : List (W16 × List Span)) : Option (W16 × Nat × Nat) :=
  ws.findSome? fun r =>
    (writeFault s (s.groupLow r.1) (s.inView (s.desc r.1)) (r.2.map fun x => (x.1, List.replicate x.2 (0 : Byte)))).map fun f => (r.1, f.1, f.2)

/-- The fault kind of a bad block (R391). -/
def cvKind (w : Nat) : Nat := if w = 3 then 0x0021 else 0x0010 + w

/-- What a core's check-value unit tells of a block that it finds bad (R382, R402, R403). One that fails its MAC is found by the LPDDR5X
controller, and KIND has no code for it: the unit's address and counts do not take it. -/
def Core.cvBad (c : Core) (blk kind : Nat) : Core :=
  if kind = 3 then c
  else
    { c.count 0x52 1 with cvu := { c.cvu with
        bad := hold16 c.cvu.bad 1, addr := BitVec.ofNat 48 (blk * 4096), kind := BitVec.ofNat 2 kind, valid := true } }

/-! Reads that race (R141, R186). -/

/-- The stream a core runs, as the record of writes names it. -/
def State.who (s : State) (k : CoreId) : Nat := (s.logical k).getD (65536 + k.val)

/-- The part that two ranges share. -/
def meet (a b : Span) : List Span :=
  let lo := max a.1 b.1
  let hi := min (a.1 + a.2) (b.1 + b.2)
  if lo < hi then [(lo, hi - lo)] else []

/-- The bytes a command reads that another core has written in this attempt without a WAIT of this one that covers their
release: undefined bits (R141). -/
def State.racy (s : State) (k : CoreId) (iter : List W32) (i : Instr) : List Span :=
  let me := s.who k
  let open' := fun (w : WrRec) => match w.rel with | some r => decide (SMap.get 0 s.race.sees me < r) | none => true
  let ws := s.race.wr.filter fun w => decide (w.core ≠ me) && open' w
  if ws.isEmpty then []
  else ((s.reads iter i).flatMap (·.2)).flatMap fun a => ws.flatMap fun w => w.spans.flatMap (meet a)

/-- Free values in the place of undefined bytes. -/
def State.blur (s : State) (bs : List Span) : State :=
  bs.foldl (fun t b =>
    { t with mem := memWrite t.mem b.1 ((List.range b.2).map fun i => Config.freeByte (t.free + i)), free := t.free + b.2 }) s

/-- After a command that worked on blurred bytes: those it has not written are what they were before it, and so is their part
in the check values it has made. -/
def State.unblur (t s : State) (bs ws : List Span) : State :=
  let as := bs.flatMap fun b => (List.range b.2).map fun i => b.1 + i
  let keep := as.filter fun a => ws.all fun w => decide (a < w.1) || decide (w.1 + w.2 ≤ a)
  let t1 := { t with mem := keep.foldl (fun m a => memWrite m a [memGet s.mem a]) t.mem }
  let again := fun (u : State) (b : Nat) =>
    let e := chkGet u b
    { u with chk := SMap.set 0 u.chk b (mkEntry u.mem b (entryCvp e) (entryStep e)) }
  ((spanBlocks bs).filter fun b => chkGet t1 b ≠ chkGet s b).foldl again t1

/-- Work of a command with free values for the bytes that race. -/
def State.withRaces {α : Type} (s : State) (k : CoreId) (iter : List W32) (i : Instr) (f : State → Option (State × α)) :
    Option (State × α) :=
  let bs := s.racy k iter i
  if bs.isEmpty then f s
  else (f (s.blur bs)).map fun r => (r.1.unblur s bs ((s.writes iter i).flatMap (·.2)), r.2)

/-- What a command is about to write, where the record does not have it yet. -/
def State.wrOf (s : State) (k : CoreId) (tag : W32) (x : Nat) (iter : List W32) (i : Instr) : List WrRec :=
  let ss := (s.writes iter i).flatMap (·.2)
  if ss.isEmpty || s.race.wr.any fun w => decide (w.core = s.who k) && decide (w.tag = tag) && decide (w.x = x) && w.rel.isNone then []
  else [⟨s.who k, tag, x, ss, none⟩]

/-- Put writes on record. -/
def State.addWr (s : State) (ws : List WrRec) : State := { s with race := { s.race with wr := s.race.wr ++ ws } }

/-- A command's writes are released (R137). -/
def State.release (s : State) (k : CoreId) (tag : W32) (x : Nat) : State :=
  let mine := fun (w : WrRec) => decide (w.core = s.who k) && decide (w.tag = tag) && decide (w.x = x) && w.rel.isNone
  if s.race.wr.any mine then
    { s with race := { s.race with
        rel := s.race.rel + 1, wr := s.race.wr.map fun w => if mine w then { w with rel := some (s.race.rel + 1) } else w } }
  else s

/-- A WAIT has seen its count: every write released before the addition that brought the count there is visible to the core's
later commands (R186). -/
def State.seeWait (s : State) (k : CoreId) (obj : W16) (target : W32) : State :=
  let n := target.toInt
  let m := if n ≤ 0 then 0 else (SMap.get [] s.race.adds obj.toNat).getD (n.toNat - 1) 0
  { s with race := { s.race with sees := SMap.set 0 s.race.sees (s.who k) (max m (SMap.get 0 s.race.sees (s.who k))) } }

/-! Rights (R157, R195). -/

/-- Two addresses lie in one region, for R195: TX halves and RX halves of a bundle are regions (R255); JOB granules are
one. -/
def sameRegion (s : State) (a b : Nat) : Bool :=
  match regionOf a, regionOf b with
  | .link p, .link q =>
    decide (p / 6 = q / 6) && decide ((a - linkBase) % linkSize < linkSize / 2 ↔ (b - linkBase) % linkSize < linkSize / 2)
  | .granule g, .granule k => isHostGranule s g = isHostGranule s k
  | x, y => x = y

/-- May core `k` reach an address through its load/store path, or through its Skidder. -/
def mayReach (s : State) (k : CoreId) (skd wr : Bool) (a : Nat) : Bool :=
  match regionOf a with
  | .column c => decide (c < 192) && (skd || c = k.val) && ! SMap.get false s.mm.oos c
  | .spill => true
  | .link _ => skd
  | .landing => skd && ! wr
  | .granule g => skd && isJobGranule s g
  | _ => false

/-- The violation code of an access to the view of a descriptor (R385), if it is one. -/
def accessCode (s : State) (k : CoreId) (skd wr : Bool) (d : Desc) : Option Nat :=
  match physOf s d.base with
  | none => some 0x01
  | some p =>
    if regionOf p = .outside then some 0x01
    else if ¬ sameRegion s p (p + d.hull - 1) then some 0x20
    else if ¬ mayReach s k skd wr p then some 0x02
    else if d.cls = 1 ∨ (regionOf p = .landing ∧ d.cls ≠ 0) then some 0x21
    else none

/-- An LDC whose index lies outside the view of the descriptor it names (R182, R385). -/
def State.ldcBeyond (s : State) (iter : List W32) (i : Instr) : Option (Nat × W16 × Nat) :=
  match i with
  | .ldc _ h _ hnd idx =>
    let e := effHandle h iter 0 hnd
    if (s.desc e).count ≤ idx.toNat then some (0x20, e, s.basePhys (s.desc e)) else none
  | _ => none

/-- The first violation of an execution: code, handle, address. -/
def State.violation (s : State) (k : CoreId) (iter : List W32) (i : Instr) : Option (Nat × W16 × Nat) :=
  let skd : Bool := engOf i = some .skd
  let frozen : Bool := (match i with | .upd _ _ c => s.groupFrozen c.group.val | _ => false)
  if frozen then none
  else
    ((s.touches iter i).findSome? fun t =>
      let d := s.desc t.h
      (accessCode s k skd (t.k ≠ .rd) d).map fun c => (c, t.h, s.basePhys d))
    <|> s.ldcBeyond iter i

end Sys2Proof.Machine
end

