-- ==== Sys2Proof/Machine/LinkOps.lean ====
section
/-! DEFINITION. Shared operations of the link fabric: ports, buffers and bundles (R253-R259), the pod's groups (R283,
R296, R305), control frames leaving the module (R260). -/

namespace Sys2Proof.Machine

open Sys2Proof

/-- A port's record. -/
def State.port (s : State) (p : Nat) : Port := SMap.get Port.zero s.lnk.ports p

/-- Replace a port's record. -/
def State.setPort (s : State) (p : Nat) (x : Port) : State :=
  { s with lnk := { s.lnk with ports := SMap.set Port.zero s.lnk.ports p x } }

/-- Change a port's record. -/
def State.modPort (s : State) (p : Nat) (f : Port → Port) : State := s.setPort p (f (s.port p))

/-- The link-map entry of a port, where it names a peer. -/
def State.peer (s : State) (p : Nat) : Option LinkEntry :=
  match s.lnk.map[p]? with
  | some e => if e.valid then some e else none
  | none => none

/-- The six ports of a bundle (R20). -/
def bundlePorts (b : Nat) : List Nat := (List.range 6).map fun i => 6 * b + i

/-- Does a bundle have a peer (R259). -/
def State.bundlePeer (s : State) (b : Nat) : Bool := (bundlePorts b).any fun p => (s.peer p).isSome

/-- Where a link-buffer address lies: port, RX half, block (R255). -/
def linkPlace (a : Nat) : Nat × Bool × Nat :=
  let o := a - linkBase
  (o / linkSize, decide (linkSize / 2 ≤ o % linkSize), o % (linkSize / 2) / 4096)

/-- The device address of a block of a link buffer. -/
def linkAddr (p : Nat) (rx : Bool) (blk : Nat) : Nat :=
  linkBase + p * linkSize + (if rx then linkSize / 2 else 0) + blk * 4096

/-- Is an address in a link buffer. -/
def inLink (a : Nat) : Bool := match regionOf a with | .link _ => true | _ => false

/-- The link blocks of a physical range: port and block. -/
def linkBlocks (lo n : Nat) : List (Nat × Nat) :=
  (blocksOf lo n).map fun b => let p := linkPlace (b * 4096); (p.1, p.2.2)

/-- Is an RX block full (R257). -/
def State.rxFull (s : State) (p b : Nat) : Bool := (SMap.get [] s.lnk.full p).contains b

/-- Is a TX block held (R256). -/
def State.txHeld (s : State) (p b : Nat) : Bool := s.lnk.held.any fun t => t.port = p && t.blk = b

/-- The port that carries a port's buffer: its adopter, or itself (R267). -/
def State.carrier (s : State) (p : Nat) : Nat :=
  ((bundlePorts (p / 6)).find? fun q => (s.port q).adoptees.contains p).getD p

/-- Hold TX blocks written by a Skidder, in block order, where their bundle has a peer (R160, R256, R259). -/
def State.holdTx (s : State) (bs : List (Nat × Nat)) : State :=
  let new := (bs.filter fun b => s.bundlePeer (b.1 / 6)).map fun b => (⟨b.1, b.2, none⟩ : TxBlk)
  { s with lnk := { s.lnk with held := s.lnk.held ++ new } }

/-- An RX block is no longer full. -/
def State.rxTake (s : State) (p b : Nat) : State :=
  { s with lnk := { s.lnk with full := SMap.set [] s.lnk.full p ((SMap.get [] s.lnk.full p).filter (· ≠ b)) } }

/-- Queue the FREE of an empty RX block on the port that carries its buffer (R256). -/
def State.rxFree (s : State) (p b : Nat) : State :=
  s.modPort (s.carrier p) fun x => { x with frees := x.frees ++ [(p % 6, b)] }

/-- Ports that the link map names (R254). -/
def State.mappedPorts (s : State) : List Nat := (List.range 48).filter fun p => (s.peer p).isSome

/-- Does the link map keep the rules of R254 at a port. -/
def State.mapOk (s : State) (p : Nat) : Bool :=
  match s.peer p with
  | none => true
  | some e =>
    let d := p / 12
    let n := s.lnk.extents.getD d 1
    let c := s.lnk.self.toNat / 16 ^ d % 16
    let up : Bool := p / 6 % 2 = 0
    let c' := if up then (c + 1) % n else (c + n - 1) % n
    decide (1 < n ∧ e.port % 6 = p % 6 ∧ e.port / 12 = d ∧ (e.port / 6 % 2 = 0 ↔ ¬ up = true)
      ∧ e.peer.toNat + c * 16 ^ d = s.lnk.self.toNat + c' * 16 ^ d)

/-- In QUARANTINE every port is held out, without keys (R264). -/
def State.holdPorts (s : State) : State :=
  let f := fun (t : State) (p : Nat) => t.modPort p fun x => { x with keys := none, hello := none, ver := 0, st := .heldOut }
  s.mappedPorts.foldl f s

/-! The pod. -/

/-- Coordinates of a module id (R253). -/
def coordsOf (id : Nat) : List Nat := (List.range 4).map fun i => id / 16 ^ i % 16

/-- The module id of coordinates. -/
def idOf (c : List Nat) : Nat := (c.zipIdx.map fun x => x.1 * 16 ^ x.2).foldl (· + ·) 0

/-- The coordinates of this module. -/
def State.coords (s : State) : List Nat := coordsOf s.lnk.self.toNat

/-- Every module id of the pod, ascending. -/
def State.podIds (s : State) : List Nat :=
  let n := fun (d : Nat) => List.range (s.lnk.extents.getD d 1)
  (n 3).flatMap fun w => (n 2).flatMap fun z => (n 1).flatMap fun y => (n 0).map fun x => x + 16 * y + 256 * z + 4096 * w

/-- The modules whose coordinates equal those of module `m` in every dimension outside a mask (R283, R296, R305). -/
def State.maskGroup (s : State) (m mask : Nat) : List Nat :=
  s.podIds.filter fun i =>
    (List.range 4).all fun d => bitAt mask d || (coordsOf i).getD d 0 = (coordsOf m).getD d 0

/-- The linear index of this module over the dimensions of a mask, X innermost (R292, R296). -/
def State.maskRank (s : State) (mask : Nat) : Nat :=
  ((List.range 4).foldl (fun (a : Nat × Nat) d =>
    if bitAt mask d then (a.1 + a.2 * s.coords.getD d 0, a.2 * s.lnk.extents.getD d 1) else a) (0, 1)).1

/-- The number of modules over the dimensions of a mask. -/
def State.maskCount (s : State) (mask : Nat) : Nat :=
  (List.range 4).foldl (fun a d => if bitAt mask d then a * s.lnk.extents.getD d 1 else a) 1

/-- The bundle by which a control frame leaves toward a destination (R260): the first dimension that differs, the
shorter way round, + when equal; the other way when every port of the bundle is down. None when it has arrived. -/
def State.routeBundle (s : State) (dest : Nat) : Option Nat :=
  (List.range 4).findSome? fun d =>
    let n := s.lnk.extents.getD d 1
    let p := s.coords.getD d 0
    let q := (coordsOf dest).getD d 0
    if p = q then none
    else
      let up := (q + n - p) % n
      let b := if up ≤ n - up then 2 * d else 2 * d + 1
      let o := if b = 2 * d then 2 * d + 1 else 2 * d
      some (if (bundlePorts b).any (fun x => (s.port x).st = .up) then b else o)

/-- The active port of a bundle with the fewest control frames queued, the lowest among equals (R260). -/
def State.leastPort (s : State) (b : Nat) : Option Nat :=
  ((bundlePorts b).filter fun p => (s.port p).st = .up).foldl (fun (a : Option Nat) p =>
    match a with
    | none => some p
    | some q => if (s.port p).ctl.length < (s.port q).ctl.length then some p else a) none

/-- Queue a control frame on its way (R260): channel 1 once it crosses coordinate 0 in the dimension it travels, 0 when
it turns into the next. -/
def State.forwardTo (s : State) (pkt : CtlPacket) (b : Nat) : State :=
  let d := b / 2
  let n := s.lnk.extents.getD d 1
  let p := s.coords.getD d 0
  let wraps : Bool := if b % 2 = 0 then decide (p + 1 = n) else decide (p = 0)
  match s.leastPort b with
  | none => s
  | some q => s.modPort q fun x => { x with ctl := x.ctl ++ [{ pkt with vc := if wraps then 1 else pkt.vc }] }

/-- The bundles a broadcast from `src` leaves this module by: a spanning tree in dimension order, each ring covered the
shorter way from the source (R260). -/
def State.treeBundles (s : State) (src : Nat) : List Nat :=
  let c := s.coords
  let o := coordsOf src
  let last := ((List.range 4).filter fun d => c.getD d 0 ≠ o.getD d 0).foldl (fun a d => max a (d + 1)) 0
  (List.range 4).flatMap fun d =>
    let n := s.lnk.extents.getD d 1
    let off := (c.getD d 0 + n - o.getD d 0) % n
    if d + 1 < last ∨ n ≤ 1 then []
    else
      (if off ≤ n / 2 ∧ off + 1 ≤ n / 2 then [2 * d] else [])
        ++ (if (off = 0 ∨ n - off ≤ (n - 1) / 2) ∧ (n - off) % n + 1 ≤ (n - 1) / 2 then [2 * d + 1] else [])

/-- The other bundle of the same dimension. -/
def otherBundle (b : Nat) : Nat := if b % 2 = 0 then b + 1 else b - 1

/-- Is a port of a bundle active. -/
def State.bundleUp (s : State) (b : Nat) : Bool := (bundlePorts b).any fun x => (s.port x).st = .up

/-- The modules that a broadcast from `src` reaches through bundle `b` of this module. -/
def State.subtree (s : State) (src b : Nat) : List Nat :=
  let d := b / 2
  let n := s.lnk.extents.getD d 1
  let off := fun (m : Nat) =>
    let x := ((coordsOf m).getD d 0 + n - (coordsOf src).getD d 0) % n
    if b % 2 = 0 then x else (n - x) % n
  let far := if b % 2 = 0 then n / 2 else (n - 1) / 2
  let here := off s.lnk.self.toNat
  s.podIds.filter fun m =>
    (List.range d).all (fun i => (coordsOf m).getD i 0 = s.coords.getD i 0) && decide (here < off m ∧ off m ≤ far)

/-- Send a broadcast into a bundle of its tree. Where that has no active port, the other bundle reaches the same peer in a dimension
of extent 2; in a longer ring the frame goes the other way, singly to each module beyond (R260, R269; log 142). -/
def State.castTo (s : State) (pkt : CtlPacket) (b : Nat) : State :=
  if s.bundleUp b then s.forwardTo pkt b
  else if s.lnk.extents.getD (b / 2) 1 = 2 then s.forwardTo pkt (otherBundle b)
  else (s.subtree pkt.src.toNat b).foldl (fun t m => t.forwardTo { pkt with dest := BitVec.ofNat 16 m } (otherBundle b)) s

/-- The bundle by which a frame that came in on port `p` leaves: in the dimension it travels it keeps its way round the ring
(R260; log 142). -/
def State.routeOn (s : State) (p dest : Nat) : Option Nat :=
  (s.routeBundle dest).map fun b =>
    let on := otherBundle (p / 6)
    if b / 2 = p / 12 ∧ s.bundleUp on then on else b

/-- Send a message of this module to one module, or to every module with 0xFFFF. -/
def State.sendCtl (s : State) (dest : W16) (m : CtlMsg) : State :=
  let pkt : CtlPacket := ⟨dest, s.lnk.self, 0, m⟩
  if dest = 0xFFFF#16 then (s.treeBundles s.lnk.self.toNat).foldl (fun t b => t.castTo pkt b) s
  else match s.routeBundle dest.toNat with | none => s | some b => s.forwardTo pkt b

end Sys2Proof.Machine
end

