-- ==== Sys2Proof/Machine/Move.lean ====
section
/-! DEFINITION. The Skidder (R158-R161): moves of a view into another, byte for byte, and the waits on link buffers
(R256, R257, R259). -/

namespace Sys2Proof.Machine

open Sys2Proof

/-- The six groups of PERM (R158). -/
def permOf (p : BitVec 18) : List Nat := (List.range 6).map fun i => bitsAt p.toNat (3 * i) 3

/-- Do they name each dimension once. -/
def permOk (p : BitVec 18) : Bool := (List.range 6).all fun d => (permOf p).contains d

/-- The source index that a destination index takes its element from. -/
def permSrc (p : BitVec 18) (j : List Nat) : List Nat :=
  (List.range 6).map fun d => j.getD ((permOf p).findIdx fun x => x = d) 0

/-- Does a move keep the rules of R158 (the loader rejects it otherwise). -/
def moveOk (d dst : Desc) (perm : BitVec 18) : Bool :=
  permOk perm && d.fmtc = dst.fmtc && d.bsz = dst.bsz && d.fmt.isSome
    && dst.ext = (permOf perm).map (fun x => d.extent x)
    && (d.ebits % 8 = 0 || (permOf perm).head? = some 0)

/-- The extents of a view with whole-block padding along KDIM. -/
def Desc.padded (d : Desc) : List Nat :=
  (List.range 6).map fun i => if d.blocked ∧ i = d.kdim then d.nb * d.bs else d.extent i

/-- The link blocks that a view covers, in its order. -/
def State.linkView (s : State) (d : Desc) : List (Nat × Nat) :=
  (spanBlocks (s.viewSpans d)).map fun b => let p := linkPlace (b * 4096); (p.1, p.2.2)

/-- The link blocks of the RX half that a move reads, and of the TX half that it writes. -/
def State.moveRx (s : State) (h : W16) : List (Nat × Nat) :=
  let d := s.desc h
  let a := s.basePhys d
  if inLink a && (linkPlace a).2.1 then s.linkView d else []

def State.moveTx (s : State) (h : W16) : List (Nat × Nat) :=
  let d := s.desc h
  let a := s.basePhys d
  if inLink a && ! (linkPlace a).2.1 then s.linkView d else []

/-- The handles of the moves that have run and not completed: source and destination. -/
def State.moving (s : State) : List (W16 × W16) :=
  s.usedCores.flatMap fun k => (s.core k).inflight.filterMap fun e =>
    match e.phase, e.ins with
    | .done, .move _ h c => some (effHandle h e.iter 0 c.src, effHandle h e.iter 1 c.dst)
    | _, _ => none

/-- Is an RX block full, and no move that has read it about to consume it (R257). -/
def State.rxReady (s : State) (p b : Nat) : Bool := s.rxFull p b && ! s.moving.any fun m => (s.moveRx m.1).contains (p, b)

/-- Is a TX block neither held nor written by a move that has not completed (R256). -/
def State.txFree (s : State) (p b : Nat) : Bool := ! s.txHeld p b && ! s.moving.any fun m => (s.moveTx m.2).contains (p, b)

/-- Can a move run now: every RX block it reads is full (R257), no TX block it writes is held (R256). -/
def State.moveReady (s : State) (src dst : W16) : Bool :=
  (s.moveRx src).all (fun b => s.rxReady b.1 b.2) && (s.moveTx dst).all fun b => s.txFree b.1 b.2

/-- The copy. None for a move that the loader rejects. -/
def effMove (s : State) (k : CoreId) (e : Ent) (h : Hdr) (c : MoveF) : Option (State × Post) :=
  let src := effHandle h e.iter 0 c.src
  let dst := effHandle h e.iter 1 c.dst
  let d := s.desc src
  let dd := s.desc dst
  let a := s.basePhys dd
  if ¬ moveOk d dd c.perm ∨ (inLink a ∧ (linkPlace a).2.1) then none
  else
    let ext := dd.padded
    let js := (List.range (ext.foldl (· * ·) 1)).map fun n => unlin n ext
    let codes := js.map fun j => (j, s.codeAt d (permSrc c.perm j))
    let s1 := writeRuns s dd.cvp (codeRuns s.mem a dd codes)
    let bytes := (js.length * dd.ebits + 7) / 8
    some (s1.modCore k fun x => (x.count 0x40 ((bytes + 63) / 64)).count 0x42 (s.moveTx dst).length,
      { (Post.none.writes dst true) with sig := c.sig })

/-- When a move completes, the RX blocks it read are consumed and their FREEs queued (R257), and the TX blocks it wrote are held
(R256). -/
def State.moveFrees (s : State) (src dst : W16) : State :=
  ((s.moveRx src).foldl (fun t b => (t.rxTake b.1 b.2).rxFree b.1 b.2) s).holdTx (s.moveTx dst)

end Sys2Proof.Machine
end

