-- ==== Sys2Proof/Machine/Exchange.lean ====
section
/-! DEFINITION. The gradient exchange (R281-R286): an XCHG's words, the coordinator's serials, the transfers of the
reduce-scatter and the all-gather, and the result. -/

namespace Sys2Proof.Machine

open Sys2Proof

/-- The layer record of a number (R275). -/
def State.layer (s : State) (l : Nat) : Option GLayer := s.job.layers.find? fun x => x.num = l

/-- The modules of the group of a mask on this module (R283). -/
def State.xgroup (s : State) (dmask : Nat) : List Nat := s.maskGroup s.lnk.self.toNat dmask

/-- The active dimensions of a mask (R283). -/
def State.activeDims (s : State) (dmask : Nat) : List Nat :=
  (List.range 4).filter fun d => bitAt dmask d && decide (s.lnk.extents.getD d 1 > 1)

/-- Words of a block (R284). -/
def wordsPer (wide : Bool) : Nat := if wide then 512 else 1024

/-- Width of a word of the exchange. -/
def xBits (wide : Bool) : Nat := if wide then 64 else 32

/-- A word read out of a tile register (R110, R285): saturated where it leaves the range of its view. -/
def xRead (wide : Bool) (v : Int) : Int × Bool :=
  let w := xBits wide
  let word := (BitVec.ofInt w v).toInt
  tallyReadAt w word ((v - word) / 2 ^ w)

/-! The transfers of one module (R284). -/

/-- Segment `q` of a block list in a phase of extent `n`. -/
def segment (l : List Nat) (n q : Nat) : List Nat := let z := (l.length + n - 1) / n; (l.drop (q * z)).take z

/-- Blocks at even, or odd, positions of a segment. -/
def alternate (l : List Nat) (odd : Bool) : List Nat := (l.zipIdx.filter fun x => x.2 % 2 = if odd then 1 else 0).map (·.1)

/-- A transfer before its place is set. -/
def xop (send add : Bool) (bundle : Nat) (bs : List Nat) : List XOp := bs.map fun b => ⟨send, add, bundle, 0, 0, b⟩

/-- A reduce-scatter phase over dimension `d` of extent `n` at position `p`. -/
def phaseRS (d n p : Nat) (l : List Nat) : List XOp :=
  (List.range (n - 1)).flatMap fun h =>
    let sg := fun (q : Nat) (odd : Bool) => alternate (segment l n (q % n)) odd
    xop true false (2 * d) (sg (p + 2 * n - h - 1) false) ++ xop true false (2 * d + 1) (sg (p + h + 1) true)
      ++ xop false true (2 * d + 1) (sg (p + 2 * n - h - 2) false) ++ xop false true (2 * d) (sg (p + h + 2) true)

/-- An all-gather phase. -/
def phaseAG (d n p : Nat) (l : List Nat) : List XOp :=
  (List.range (n - 1)).flatMap fun h =>
    let sg := fun (q : Nat) (odd : Bool) => alternate (segment l n (q % n)) odd
    xop true false (2 * d) (sg (p + n - h) false) ++ xop true false (2 * d + 1) (sg (p + h) true)
      ++ xop false false (2 * d + 1) (sg (p + 2 * n - h - 1) false) ++ xop false false (2 * d) (sg (p + h + 1) true)

/-- All phases of a part over its dimensions in order: the reduce-scatters inwards, the all-gathers outwards. -/
def partOps (ext co : List Nat) : List Nat → List Nat → List XOp
  | [], _ => []
  | d :: ds, l =>
    let n := ext.getD d 1
    let p := co.getD d 0
    phaseRS d n p l ++ partOps ext co ds (segment l n p) ++ phaseAG d n p l

/-- Places for the transfers of a part (log 22): those that use one bundle in one direction are numbered in order;
number c takes port index c mod 6 and block c / 6 mod 8 of the part's eight blocks in the slot. -/
def setPlaces (slot part : Nat) (ops : List XOp) : List XOp :=
  (ops.foldl (fun (a : List Nat × List XOp) o =>
    let i := 2 * o.bundle + (if o.send then 1 else 0)
    let c := a.1.getD i 0
    (a.1.set i (c + 1), { o with idx := c % 6, blk := 32 * slot + 8 * part + c / 6 % 8 } :: a.2))
    (List.replicate 16 0, [])).2.reverse

/-- The transfers of an exchange of `n` blocks over active dimensions `ds` in a slot. -/
def exchOps (ext co ds : List Nat) (n slot : Nat) : List XOp :=
  let k := ds.length
  (List.range k).flatMap fun j =>
    setPlaces slot j (partOps ext co (ds.drop j ++ ds.take j) ((List.range n).filter fun i => i % k = j))

/-! Progress. -/

/-- Replace an exchange. -/
def State.setXchg (s : State) (x : Xchg) : State :=
  { s with job := { s.job with xchgs := s.job.xchgs.map fun y => if y.tag = x.tag then x else y } }

/-- The words of a block. -/
def xBlock (x : Xchg) (b : Nat) : List Int := (x.acc.drop (b * wordsPer x.wide)).take (wordsPer x.wide)

/-- Replace the words of a block. -/
def xPut (x : Xchg) (b : Nat) (ws : List Int) : Xchg :=
  let n := wordsPer x.wide
  { x with acc := x.acc.take (b * n) ++ ws ++ x.acc.drop (b * n + n) }

/-- The tag of Kelgil's own commands that carry an exchange out (R285): of those R180 keeps for them, one for each serial
(log 139). -/
def Xchg.ownTag (x : Xchg) : W32 := 0xFFFF0000#32 + BitVec.ofNat 32 (x.serial.getD 0 % 65536)

/-- Own commands of an exchange on the core of its XCHG (R285): a Skidder move of a block and, where a partial arrives to be added, a VIADD,
each dispatched with the exchange's own tag (log 139). -/
def Core.ownCmds (c : Core) (x : Xchg) (add : Bool) : Core :=
  let c1 := ((((c.count Eng.skd.source 1).trace x.core 1 Eng.skd.code x.ownTag []).count 0x40 64).count 0x41 1)
  if add then ((c1.count Eng.vxe.source 1).trace x.core 1 Eng.vxe.code x.ownTag []).count 0x30 1 else c1

/-- Try one transfer: none where it must wait. -/
def State.xTry (s : State) (x : Xchg) (o : XOp) : Option (State × Xchg) :=
  let p := 6 * o.bundle + o.idx
  let nb := xBits x.wide / 8
  if o.send then
    if ¬ s.txFree p o.blk then none
    else
      let ws := (xBlock x o.block).map (xRead x.wide)
      let bytes := ws.flatMap fun w => leBytes nb (BitVec.ofInt (xBits x.wide) w.1).toNat
      let s1 := (writeRuns s 0 [(linkAddr p false o.blk, bytes)]).holdTx [(p, o.blk)]
      some (s1.modCore x.core fun c => (c.ownCmds x false).count 0x42 1, { x with sat := x.sat || ws.any (·.2) })
  else if ¬ s.rxReady p o.blk then none
  else
    let a := linkAddr p true o.blk
    match blockFault s 0 true (a / 4096) with
    | some w =>
      some ((s.modCore x.core fun c => (c.ownCmds x false).cvBad (a / 4096) w).raise (cvKind w) engCvu (coreField x.core) x.hr x.ownTag [] a 0,
        { x with bad := true })
    | none =>
      let got := (List.range (wordsPer x.wide)).map fun i => (BitVec.ofNat (xBits x.wide) (memLe s.mem (a + nb * i) nb)).toInt
      let ws := if o.add then List.zipWith (· + ·) (xBlock x o.block) got else got
      some (((s.modCore x.core fun c => c.ownCmds x o.add).rxTake p o.blk).rxFree p o.blk, xPut x o.block ws)

/-- Does a transfer wait for an earlier one: that of its block, or of its place, where blocks follow one another in the order of
their numbers at both ends. -/
def xBehind (w o : XOp) : Bool :=
  w.block = o.block || (w.send = o.send && w.bundle = o.bundle && w.idx = o.idx && w.blk = o.blk)

/-- One pass over the transfers: each runs unless an earlier one that it waits for still waits. -/
def State.xPass (s : State) (x : Xchg) : State × Xchg :=
  let r := x.ops.foldl (fun (a : State × Xchg × List XOp) o =>
    if a.2.1.bad ∨ a.2.2.any (fun w => xBehind w o) then (a.1, a.2.1, a.2.2 ++ [o])
    else
      match a.1.xTry a.2.1 o with
      | none => (a.1, a.2.1, a.2.2 ++ [o])
      | some r => (r.1, r.2, a.2.2)) (s, x, [])
  (r.1, { r.2.1 with ops := r.2.2 })

/-- The command of an exchange is past its engine: its release is due, with `p`. -/
def State.xEnt (s : State) (x : Xchg) (p : Post) : State :=
  s.modCore x.core fun c =>
    { c with inflight := c.inflight.map fun e => if e.tag = x.tag ∧ e.phase = .exchange then { e with phase := .done, post := p } else e }

/-- Write HR and hand the command on (R282 steps 4, 5). -/
def State.xFinish (s : State) (x : Xchg) : State :=
  let d := s.desc x.hr
  let ws := (x.acc.take d.count).map (xRead x.wide)
  let nb := xBits x.wide / 8
  let runs := ws.zipIdx.map fun w =>
    (s.basePhys d + d.bitOff (d.at w.2) / 8, leBytes nb (BitVec.ofInt (xBits x.wide) w.1.1).toNat)
  let p := { ((Post.none.writes x.hr true).flags x.hr ⟨x.sat || ws.any (·.2), false⟩) with sig := x.sig }
  let s1 := (writeRuns s d.cvp runs).xEnt x p
  let s2 := { s1 with job := { s1.job with xchgs := s1.job.xchgs.filter fun y => y.tag ≠ x.tag } }
  (s2.modCore x.core fun c => c.trace x.core 7 engCmd x.tag []).mtrace 2 x.tag

/-- Carry an exchange on as far as its link buffers allow. -/
def State.xAdvance (s : State) (tag : W32) : State :=
  match s.job.xchgs.find? fun x => x.tag = tag with
  | none => s
  | some x =>
    if ¬ x.started ∨ x.bad then s
    else
      let r := s.xPass x
      if r.2.ops.isEmpty ∧ ¬ r.2.bad then r.1.xFinish r.2 else r.1.setXchg r.2

/-- Carry every exchange on. -/
def State.xAll (s : State) : State := (s.job.xchgs.map (·.tag)).foldl State.xAdvance s

/-! Serials (R286). -/

/-- The coordinator of exchanges takes a member's report of an attempt, its own or one that this module has yet to begin. -/
def State.xReport (s : State) (member : Nat) (st : W64) (a : W32) (tag : W32) (group : List Nat) : State :=
  let rs := s.job.xreps
  let same := fun (r : XReport) => r.s = st && r.a = a && r.tag = tag && r.group = group && r.serial.isNone
  if rs.any same then
    { s with job := { s.job with xreps := rs.map fun r => if same r then { r with members := (member :: r.members).eraseDups } else r } }
  else { s with job := { s.job with xreps := rs ++ [⟨st, a, tag, group, [member], none⟩] } }

/-- A serial of the attempt under way reaches the module. -/
def State.xSerial (s : State) (st : W64) (a : W32) (tag : W32) (group : List Nat) (n : Nat) : State :=
  if s.stp.s ≠ st ∨ s.stp.a ≠ a then s
  else
    { s with job := { s.job with xchgs := s.job.xchgs.map fun x =>
        if x.tag = tag ∧ x.group = group ∧ x.serial = none then { x with serial := some n } else x } }

/-- An XCHG is handed to the exchange (R282). None for operands that the loader rejects (R281). -/
def effXchg (s : State) (k : CoreId) (e : Ent) (h : Hdr) (c : XchgF) : Option (State × Post × Bool) :=
  let hl := effHandle h e.iter 0 c.hl
  let hr := effHandle h e.iter 1 c.hr
  let dl := s.desc hl
  let dr := s.desc hr
  match s.layer c.layer.toNat with
  | none => none
  | some ly =>
    if dl.fmt ≠ some .g64 ∨ dr.fmt ≠ some (if c.wide then .g64 else .g32) ∨ dl.ext ≠ dr.ext ∨ dl.ndim ≠ dr.ndim then none
    else
      let lim : Int := 2 ^ 31 - 1
      let vs := (List.range dl.count).map fun n => (BitVec.ofNat 64 (s.codeAt dl (dl.at n))).toInt
      let ws := vs.map fun v => if c.wide then v else max (-lim) (min lim v)
      let sat := ! c.wide && vs.any fun v => decide (v > lim ∨ v < -lim)
      let grp := s.xgroup ly.dmask
      let nw := wordsPer c.wide
      let pad := (nw - ws.length % nw) % nw
      let x : Xchg :=
        { tag := e.tag, core := k, layer := c.layer.toNat, wide := c.wide, hr := hr, sig := c.sig, group := grp,
          serial := none, started := false, acc := ws ++ List.replicate pad 0, sat := sat, bad := false, ops := [] }
      let s1 := s.modCore k fun y => y.trace k 7 engCmd e.tag e.iter
      if grp.length ≤ 1 then
        let nb := xBits c.wide / 8
        let runs := ws.zipIdx.map fun w =>
          (s.basePhys dr + dr.bitOff (dr.at w.2) / 8, leBytes nb (BitVec.ofInt (xBits c.wide) w.1).toNat)
        some ((writeRuns s1 dr.cvp runs).modCore k (fun y => y.trace k 7 engCmd e.tag e.iter),
          { ((Post.none.writes hr true).flags hr ⟨sat, false⟩) with sig := c.sig }, true)
      else
        let s2 := { s1 with job := { s1.job with xchgs := s1.job.xchgs ++ [x] } }
        let s3 := if s.lnk.self = 0 then s2.xReport 0 s.stp.s s.stp.a e.tag grp
          else s2.sendCtl 0 (.xchgReport s.lnk.self s.stp.s s.stp.a e.tag grp)
        some (s3, Post.none, false)

/-- Is an attempt of the current step under way here: begun, and not yet ended by an outcome that undoes it. -/
def State.underWay (s : State) : Bool := s.stp.phase = .running || s.stp.phase = .voted || s.stp.phase = .committed

/-- EXCHANGE_SERIAL (R286): the coordinator numbers an exchange that its whole group has reported, and broadcasts it. Serials are those of
an attempt under way: before it has begun on the coordinator too, a report only waits. -/
def execExchangeSerial (tag : W32) (s : State) : Host.Outcome State Fault Refusal :=
  match s.job.xreps.find? fun r =>
      r.s = s.stp.s && r.a = s.stp.a && r.tag = tag && r.serial = none && r.group.all fun m => r.members.contains m with
  | none => .next s
  | some r =>
    if s.lnk.self ≠ 0 ∨ ¬ s.underWay then .next s
    else
      let n := s.job.nextSerial
      let s1 := { s with job := { s.job with
        nextSerial := n + 1, xreps := s.job.xreps.map fun y => if y = r then { y with serial := some n } else y } }
      .next ((s1.xSerial r.s r.a tag r.group n).sendCtl 0xFFFF#16 (.xchgSerial r.s r.a tag r.group n))

/-- EXCHANGE_START (R286): an exchange with its serial starts once its slot has been freed here. -/
def execExchangeStart (tag : W32) (s : State) : Host.Outcome State Fault Refusal :=
  match s.job.xchgs.find? fun x => x.tag = tag with
  | none => .next s
  | some x =>
    match x.serial with
    | none => .next s
    | some n =>
      let slotBusy := s.job.xchgs.any fun y => match y.serial with | some m => decide (m < n) && m % 4 = n % 4 | none => false
      if x.started ∨ slotBusy then .next s
      else
        let ds := s.activeDims (((s.layer x.layer).map (·.dmask)).getD 0)
        let ops := exchOps s.lnk.extents s.coords ds (x.acc.length / wordsPer x.wide) (n % 4)
        .next (((s.setXchg { x with started := true, ops := ops }).mtrace 1 tag).xAdvance tag)

end Sys2Proof.Machine
end

