-- ==== Sys2Proof/Machine/Identity.lean ====
section
/-! DEFINITION. What the security island derives and draws: the module's identity (R333, R334), key sets of LPDDR5X (R153), slot
keys (R343-R345), CBOR (R336). -/

namespace Sys2Proof.Machine

open Sys2Proof

/-- A field of `n` bytes. -/
def sized (n : Nat) (bs : List Byte) : List Byte := (bs ++ List.replicate n 0).take n

/-! Identity. -/

/-- The check value of an identity seed (R333). -/
def seedCheck (seed : BitVec 256) : BitVec 256 := BitVec.ofNat 256 (leNat (shake256 32 (leBytes 32 seed.toNat)))

/-- The seed that a start regenerates (R333): of the seeds to which up to four reads of the PUF array are corrected, the first that
matches the check value. -/
def State.regenerate (s : State) (reads : List (BitVec 256)) : Option (BitVec 256) :=
  (reads.take 4).find? fun x => seedCheck x = s.nvm.fac.check

/-- What the random bytes of the identity key pair are drawn from (R334). -/
def idRng (seed : BitVec 256) : List Byte := ascii "TGZ2 identity" ++ leBytes 32 seed.toNat

/-- The identity public key (R334). -/
def idKey (seed : BitVec 256) : List Byte := sized 1793 (Config.falconPub (idRng seed))

/-- A signature with the identity key. -/
def idSign (seed : BitVec 256) (msg : List Byte) : List Byte := sized 1280 (Config.falconSign (idRng seed) msg)

/-- d ‖ z of the wrap key pair (R334). -/
def wrapSeed (seed : BitVec 256) : BitVec 512 :=
  BitVec.ofNat 512 (leNat (shake256 64 (ascii "TGZ2 wrap" ++ leBytes 32 seed.toNat)))

/-- The wrap encapsulation key (R334). -/
def wrapKey (seed : BitVec 256) : List Byte := sized 1568 (Config.kemPub (wrapSeed seed))

/-- The device id (R334). -/
def deviceIdOf (seed : BitVec 256) : W128 := BitVec.ofNat 128 (leNat (shake256 16 (idKey seed)))

/-- Has the identity been regenerated (R335). -/
def Sec.idOk (x : Sec) : Bool := x.seed.isSome

/-- The device id of the module; zero while it has no identity. -/
def State.devid (s : State) : W128 := match s.sec.seed with | some k => deviceIdOf k | none => 0

/-! The hold ring (R374, R409). -/

/-- The 32 bytes of a hold record (R374). -/
def HoldRec.bytes (r : HoldRec) : List Byte :=
  leBytes 2 0x5248 ++ leBytes 1 r.sstate ++ leBytes 1 r.flags ++ leBytes 1 r.qcause ++ leBytes 3 0 ++ leBytes 8 r.s.toNat
    ++ leBytes 4 r.a.toNat ++ leBytes 4 r.scyc.toNat ++ leBytes 8 0

/-- The root key of the NVM's counters (R404); its length is log 149's. -/
def nvmRoot (seed : BitVec 256) : List Byte := shake256 32 (ascii "TGZ2 nvm" ++ leBytes 32 seed.toNat)

/-- The check bytes behind a hold record, under the value of counter 4 before the increment that follows (R409). -/
def holdCheck (seed : BitVec 256) (r : HoldRec) (c4 : W64) : BitVec 256 :=
  BitVec.ofNat 256 (leNat (shake256 32 (nvmRoot seed ++ r.bytes ++ leBytes 8 c4.toNat)))

/-! Keys. -/

/-- A key set of LPDDR5X drawn anew (R153). -/
def State.drawSet (s : State) : LpKeys × State :=
  let a := s.draw
  let b := a.2.draw
  let c := b.2.draw
  (⟨b.1 ++ a.1, c.1⟩, c.2)

/-- The role of a key slot (R345). -/
def State.roleOf (s : State) (slot : Nat) : Nat := (SMap.get KeySlot.zero s.sec.slots slot).role

/-- The key of a slot. -/
def State.slotKey (s : State) (slot : Nat) : List Byte := leBytes 32 (SMap.get KeySlot.zero s.sec.slots slot).key.toNat

/-- The job seed of a manifest body under its SEEDSLOT, a JOB slot (R429). -/
def State.openSeed (s : State) (b : List Byte) : Option W128 :=
  let slot := leAt b 0x12 1
  if s.roleOf slot = 1 then
    (gcmOpen (s.slotKey slot) (slice b 0x20 12) [] (slice b 0x2C 16) (slice b 0x3C 16)).map fun p => BitVec.ofNat 128 (leNat p)
  else none

/-- The 32-byte envelope of a message (R425). -/
def envBytes (e : Envelope) : List Byte :=
  leBytes 16 e.devid.toNat ++ leBytes 8 e.octr.toNat ++ leBytes 2 e.type.toNat ++ leBytes 6 e.rsvd.toNat

/-! CBOR under the core deterministic encoding (RFC 8949). -/

/-- The head of an item: its major type and its argument in the shortest form. -/
def cborHead (major n : Nat) : List Byte :=
  let b := fun (x : Nat) => (BitVec.ofNat 8 (32 * major + x) : Byte)
  if n < 24 then [b n]
  else if n < 256 then b 24 :: beBytes 1 n
  else if n < 65536 then b 25 :: beBytes 2 n
  else if n < 2 ^ 32 then b 26 :: beBytes 4 n
  else b 27 :: beBytes 8 n

/-- An unsigned integer. -/
def cborUint (n : Nat) : List Byte := cborHead 0 n

/-- A byte string. -/
def cborBstr (bs : List Byte) : List Byte := cborHead 2 bs.length ++ bs

/-- A text string. -/
def cborTstr (bs : List Byte) : List Byte := cborHead 3 bs.length ++ bs

/-- An array of items. -/
def cborArray (es : List (List Byte)) : List Byte := cborHead 4 es.length ++ es.flatten

/-- A map with unsigned keys, in ascending order as given. -/
def cborMap (es : List (Nat × List Byte)) : List Byte := cborHead 5 es.length ++ es.flatMap fun e => cborUint e.1 ++ e.2

/-- A boolean. -/
def cborBool (b : Bool) : List Byte := [if b then 0xF5 else 0xF4]

end Sys2Proof.Machine
end

