-- ==== Sys2Proof/Machine/Outq.lean ====
section
/-! DEFINITION. Records that leave the module through the encrypt pipeline: output, capture and checkpoint records
(R321, R352-R354), and their places in the output queue (R438); large reply data there (R423). -/

namespace Sys2Proof.Machine

open Sys2Proof

/-- Bytes of a view in linear logical order (R321, R352): element by element, packed as the elements' bits follow one
another. -/
def State.viewBytes (s : State) (d : Desc) : List Byte :=
  if d.ebits % 8 = 0 then
    (List.range d.count).flatMap fun n => leBytes (d.ebits / 8) (s.codeAt d (d.at n))
  else
    leBytes ((d.count * d.ebits + 7) / 8)
      ((List.range d.count).foldl (fun a n => a + s.codeAt d (d.at n) * 2 ^ (n * d.ebits)) 0)

/-- Units of 4 KiB a record of `n` ciphertext bytes takes (R438). -/
def recUnits (n : Nat) : Nat := (64 + n + 16 + 4095) / 4096

/-- Size of the output queue in units. -/
def State.outSize (s : State) : Nat := s.mm.outg * 262144

/-- Free units. -/
def State.outFree (s : State) : Nat := s.outSize - (s.outq.head - s.outq.tail)

/-- The output key of a slot key and a job nonce (R353). -/
def outKeyOf (key nonce : List Byte) (slot : Nat) : List Byte := shake256 32 (ascii "TGZ2 output" ++ key ++ nonce ++ leBytes 1 slot)

/-- The output key of a slot in the job that runs. -/
def State.outKey (s : State) (slot : Nat) : List Byte :=
  outKeyOf (s.slotKey slot) (leBytes 16 (s.job.nonce.getD 0).toNat) slot

/-- Where unit `u` of the queue lies in the HOST granules. -/
def State.outAddr (s : State) (u : Nat) : Nat := lpBase + s.mm.stageg * granSize + u % max s.outSize 1 * 4096

/-- Where bytes lie that are written into the queue from unit `u` on, wrapping at its end. -/
def State.outRuns (s : State) (u : Nat) (bs : List Byte) : List Run :=
  (chunksOf 4096 ((bs.length + 4095) / 4096) bs).zipIdx.map fun c => (s.outAddr (u + c.2), c.1)

/-- Write bytes into the queue from unit `u` on. Blocks written whole have a new MAC; one of which a part is written is read first, and
where it fails its MAC it stays as it is and a record is written (R153, R154). -/
def State.outWrite (s : State) (u : Nat) (bs : List Byte) : State :=
  let rs := s.outRuns u bs
  let put := fun (rs : List Run) => { s with mem := rs.foldl (fun m r => memWrite m r.1 r.2) s.mem, mm := s.mm.rewritten rs }
  match (readBlocks (rs.map fun r => (r.1, r.2.length)) true).find? fun b => s.mm.poisoned.contains b with
  | none => put rs
  | some b =>
    (put (rs.map fun r => if r.1 ≤ 512 * b ∧ 512 * b < r.1 + 4096 then (r.1, r.2.take (512 * b - r.1)) else r)).macFail (512 * b) noCore

/-- Put records that wait into the queue, in order, while they fit and no package that they are written to is under retraining
(R155). -/
def State.outPlace : Nat → State → State
  | 0, s => s
  | n + 1, s =>
    match s.outq.waiting with
    | [] => s
    | r :: rs =>
      if r.units ≤ s.outFree ∧ ¬ (s.outRuns s.outq.head r.bytes).any (fun x => s.stalls x.1 x.2.length) then
        let p := { r with pos := BitVec.ofNat 32 s.outq.head }
        let s1 := s.outWrite s.outq.head r.bytes
        State.outPlace n
          ({ s1 with outq := { s.outq with waiting := rs, head := s.outq.head + r.units, records := s.outq.records ++ [p] } }.vector 3)
      else s

/-- The next record number of a slot (R353). -/
def State.outSeq (s : State) (slot : Nat) : W64 := SMap.get 0 s.job.seqs slot

/-- Make one record (R353) and queue it. -/
def State.outRecord (s : State) (kind slot : Nat) (handle : W16) (plain : List Byte) : State :=
  let seq := s.outSeq slot
  let hd := leBytes 2 kind ++ leBytes 1 slot ++ [0] ++ leBytes 2 handle.toNat ++ [0, 0] ++ leBytes 8 s.stp.s.toNat
    ++ leBytes 8 seq.toNat ++ leBytes 8 plain.length ++ leBytes 16 (s.job.nonce.getD 0).toNat ++ List.replicate 16 0
  let e := gcmSeal (s.outKey slot) (leBytes 8 seq.toNat ++ [0, 0, 0, 0]) hd plain
  let bytes := hd ++ e.1 ++ e.2
  let r : OutRec :=
    { kind := kind, s := s.stp.s, a := s.stp.a, handle := handle, slot := BitVec.ofNat 8 slot, seq := seq, pos := 0,
      units := recUnits plain.length, digest := digestOf bytes, bytes := bytes }
  let s1 := { s with job := { s.job with seqs := SMap.set 0 s.job.seqs slot (seq + 1) } }
  State.outPlace (s1.outq.waiting.length + 1) { s1 with outq := { s1.outq with waiting := s1.outq.waiting ++ [r] } }

/-- A record opened (R353, R354): its TYPE, SLOT, HANDLE and the plaintext, under the key of a slot derived from the record's own
JNONCE; none where its length or its tag fails. -/
def State.openRecord (s : State) (bs : List Byte) : Option (Nat × Nat × W16 × List Byte) :=
  let hd := bs.take 64
  let n := leAt bs 24 8
  let slot := leAt bs 2 1
  if bs.length ≠ 64 + n + 16 then none
  else
    (gcmOpen (outKeyOf (s.slotKey slot) (slice bs 32 16) slot) (slice bs 16 8 ++ [0, 0, 0, 0]) hd (slice bs 64 n) (bs.drop (64 + n))).map
      fun p => (leAt bs 0 2, slot, BitVec.ofNat 16 (leAt bs 4 2), p)

/-- Reply data of `n` bytes in the queue (R423): whole units at HEAD, as soon as they fit. Where the spec does not lay the data of a
reply out, and behind them, the bytes are free (log 47). -/
def State.refData (s : State) (n : Nat) (bs : List Byte) : State :=
  let u := (n + 4095) / 4096
  let r : OutRec :=
    { kind := 0, s := s.stp.s, a := s.stp.a, handle := 0, slot := 0, seq := 0, pos := 0, units := u, digest := digestOf [],
      bytes := bs ++ (List.range (4096 * u - bs.length)).map fun i => Config.freeByte (s.free + i) }
  State.outPlace (s.outq.waiting.length + 1)
    { s with free := s.free + 4096 * u, outq := { s.outq with waiting := s.outq.waiting ++ [r] } }

/-- Where in the queue, in bytes, the next reply data will lie (R423): behind what stands there and what waits. -/
def State.refPos (s : State) : Nat := (s.outq.head + (s.outq.waiting.map (·.units)).sum) % max s.outSize 1 * 4096

/-- Records of the queue that a job wrote: all but reply data. -/
def Outq.undrained (q : Outq) : List OutRec := (q.records ++ q.waiting).filter fun r => r.kind ≠ 0

/-- A view as one or more records of at most 1 GiB (R353). -/
def State.outView (s : State) (kind slot : Nat) (handle : W16) (bs : List Byte) : State :=
  (chunksOf 0x40000000 ((bs.length + 0x3FFFFFFF) / 0x40000000) bs).foldl (fun t c => t.outRecord kind slot handle c) s

/-- The slot whose role is CHECKPOINT (R345). -/
def State.ckptSlot (s : State) : Nat := ((s.sec.slots.find? fun x => x.2.role = 3).map (·.1)).getD 0

/-- The consumer count that a write of a 32-bit TAIL brings: the count advanced to that offset. -/
def State.tailOf (s : State) (v : W32) : Nat := s.outq.tail + (v - BitVec.ofNat 32 s.outq.tail).toNat

/-- Advance the consumer count, at most to HEAD (R433): records that end at or before it leave the queue. -/
def State.outDrain (s : State) (tail : Nat) : State :=
  let t := min tail s.outq.head
  let s1 := { s with outq := { s.outq with
    tail := t, records := s.outq.records.filter fun r => decide (t < r.pos.toNat + r.units) } }
  State.outPlace (s1.outq.waiting.length + 1) s1

/-- A capture record of a named execution (R321). -/
def State.capture (s : State) (p : CapPoint) : State :=
  let d := s.desc p.handle
  let bs := s.viewBytes d
  let pt := leBytes 8 p.s.toNat ++ leBytes 4 p.tag.toNat ++ leBytes 2 p.handle.toNat ++ leBytes 2 (if p.full then 1 else 0)
    ++ (iter4 p.iter).flatMap fun i => leBytes 4 i.toNat
  s.outView 3 s.ckptSlot p.handle
    (pt ++ leBytes 4 s.stp.a.toNat ++ leBytes 64 d.raw ++ leBytes 64 (digestOf bs).toNat ++ (if p.full then bs else []))

/-- The captures that the release of a write of one execution brings (R320, R321). -/
def State.captures (s : State) (tag : W32) (iter : List W32) (wrote : List (W16 × Bool)) : State :=
  (s.job.points.filter fun p =>
    decide (p.s = s.stp.s ∧ p.tag = tag ∧ iter4 p.iter = iter4 iter) && wrote.any fun w => w.1 = p.handle).foldl
    State.capture s

end Sys2Proof.Machine
end

