-- ==== Sys2Proof/Machine/Update.lean ====
section
/-! DEFINITION. The update engine (R229-R245): the factored second-moment rule, row by row. -/

namespace Sys2Proof.Machine

open Sys2Proof

/-- A field of the group record of group `g` (R236). -/
def State.groupField (s : State) (g lo n : Nat) : Nat := bitsAt (memLe s.mem (updTable + 64 * g) 64) lo n

/-- The five words of a group record that the rule uses. -/
structure UpdG where
  beta1 : W32
  omb1  : W32
  beta2 : W32
  omb2  : W32
  eps   : W32
  deriving DecidableEq, Repr

def State.updG (s : State) (g : Nat) : UpdG :=
  let w := fun (lo : Nat) => BitVec.ofNat 32 (s.groupField g lo 32)
  ⟨w 32, w 64, w 96, w 128, w 160⟩

/-- The exact value of an LT320 element, saturated where its word is invalid (R66, R232), and whether it was. -/
def State.ltVal (s : State) (d : Desc) (i : Nat) : FV × Bool :=
  let r := ltRead (BitVec.ofNat 320 (s.codeAt d [i, 0, 0, 0, 0, 0]))
  (FV.ofRat ((r.1 : ℚ) * pow2 (-149)), r.2)

/-- An FP32 word of a vector in memory. -/
def State.vecWord (s : State) (d : Desc) (i : Nat) : W32 := BitVec.ofNat 32 (s.codeAt d [i, 0, 0, 0, 0, 0])

/-- beta × v + omb × h, rounded once (R232). -/
def mix (beta omb v : W32) (h : FV) : W32 := toF32 (((f32 beta).mul (f32 v)).add ((f32 omb).mul h))

/-- Is a word an infinity or a NaN. -/
def badF (w : W32) : Bool := ! (f32 w).isFin

/-- What one element of a row gives: the new weight, the code stored into HM, its conversion counts, d', and whether a
value that went into the weight was not finite. -/
structure UpdEl where
  w    : W32
  hm   : Nat
  conv : Conv
  dp   : W32
  deriving DecidableEq, Repr

/-- The first moment of one element: descriptor, format, the value before, the rounding of its store, and the two words of its
scale record (R37, R39, R57; 1 for a tensor without one). -/
structure UpdM where
  d   : Desc
  f   : Fmt
  old : FV
  rd  : Rnd
  ts  : W32
  rts : W32
  deriving DecidableEq, Repr

/-- The value of a code under a tensor scale (R37); zero where a scaled tensor has no usable one (R39). -/
def scaledVal (f : Fmt) (ts : W32) (v : FV) : FV :=
  if f.scaled then (match scaleOk ts with | some q => v.mul (FV.ofRat q) | none => .fin false 0) else v

/-- One element of the rule (R232); `hm` is the first moment, stored as its descriptor says (R57) and taken back exactly. -/
def updElem (g : UpdG) (lrs wd bc1 : W32) (ls : Nat) (a vc : W32) (gw : FV) (w : W32) (hm : Option UpdM) : UpdEl :=
  let v := ffma a vc g.eps
  let u := toF32 ((f32 (toF32 gw)).mul (f32 (vrsqrt 0 (f32 v))))
  let st : Nat × Conv × FV :=
    match hm with
    | none => (0, Conv.none, f32 u)
    | some x =>
      let c := convElem x.d x.f x.rd 0 (if x.f.scaled then scaleOk x.rts else some 1)
        (((f32 g.beta1).mul x.old).add ((f32 g.omb1).mul (f32 u)))
      (c.1, c.2, (scaledVal x.f x.ts (x.f.decode c.1)).mul (f32 bc1))
  let dp := toF32 ((f32 lrs).mul (st.2.2.add ((f32 wd).mul (f32 w))))
  { w := toF32 ((f32 w).add ((f32 dp).mul (.fin true (pow2 (-(ls : Int)))))), hm := st.1, conv := st.2.1, dp := dp }

/-- |d'| × 2^-LS as R220 reports it; an infinity or NaN adds nothing. -/
def dmaxOf (ls : Nat) (dp : W32) : W32 :=
  match f32 dp with | .fin _ m => roundUpF32 (m * pow2 (-(ls : Int))) | _ => 0

/-- The rows from `lo` to `hi` - 1 of an UPD, the vector phase computed from HSC and HVC; HVC itself is written when the
last row has been (R242). None for operands that the loader rejects. -/
def updRows (s : State) (k : CoreId) (e : Ent) (h : Hdr) (c : UpdF) (lo hi : Nat) : Option (State × Post) :=
  let ef := fun (f : Nat) (v : W16) => effHandle h e.iter f v
  let hw := ef 0 c.hw
  let hp := ef 1 c.hp
  let hg := ef 2 c.hg
  let hm := ef 3 c.hm
  let dw := s.desc hw
  let dg := s.desc hg
  let dm := s.desc hm
  let dsr := s.desc (ef 4 c.hsr)
  let dsc := s.desc (ef 5 c.hsc)
  let dvr := s.desc (ef 6 c.hvr)
  let dvc := s.desc (ef 7 c.hvc)
  let m := dw.extent 1
  let n := dw.extent 0
  let core := s.core k
  match s.job.prog.bind (fun p => SMap.find p.updLayer hg.toNat), dg.fmt with
  | some layer, some fg =>
    match s.slotOf k layer with
    | none => none
    | some sl =>
      if ¬ fg.grid ∨ dw.fmt ≠ some .fp32 ∨ dsr.fmt ≠ some .lt320 ∨ dsc.fmt ≠ some .lt320 ∨ dvr.fmt ≠ some .fp32
        ∨ dvc.fmt ≠ some .fp32 ∨ (hm ≠ 0 ∧ dm.fmt ≠ some .fp32 ∧ dm.fmt ≠ some .bf16) then none
      else
        let g := s.updG c.group.val
        let sc := SMap.get GScal.zero core.upe.gscal c.group.val
        let slot := SMap.get LSlot.zero core.upe.lslot sl
        let ls := slot.ls.toNat
        let vc := (List.range n).map fun j => mix g.beta2 g.omb2 (s.vecWord dvc j) (s.ltVal dsc j).1
        let ct := toF32 (vc.foldl (fun (t : FV) v => t.add (f32 v)) (.fin false 0))
        let q : W32 := (match f32 ct with | .fin _ a => if a = 0 then 0 else fdiv sc.bc2 ct | _ => fdiv sc.bc2 ct)
        let row := fun (i : Nat) =>
          let vr := mix g.beta2 g.omb2 (s.vecWord dvr i) (s.ltVal dsr i).1
          let a := toF32 ((f32 vr).mul (f32 q))
          (i, vr, (vc.zipIdx).map fun v =>
            let ix := [v.2, i, 0, 0, 0, 0]
            let gv := FV.ofRat ((((BitVec.ofNat fg.bits (s.codeAt dg ix)).toInt : Int) : ℚ) * pow2 slot.e.toInt)
            let hmv : Option UpdM := if hm = 0 then none else dm.fmt.map fun f =>
              let sc := s.scaleRec dm.scale
              ⟨dm, f, scaledVal f sc.1 (s.rawVal dm ix), s.rndOf dm (1 + c.group.val) hm e.tag e.x ix, sc.1, sc.2⟩
            (ix, updElem g slot.lrs sc.wd sc.bc1 ls a v.1 gv (BitVec.ofNat 32 (s.codeAt dw ix)) hmv))
        let rows := (List.range' lo (hi - lo)).map row
        let els := rows.flatMap fun r => r.2.2
        let base := fun (d : Desc) => s.basePhys d
        let words := fun (d : Desc) (ix : List Nat) (w : W32) => (base d + d.bitOff ix / 8, leBytes 4 w.toNat)
        let s1 := writeRuns s dw.cvp (els.map fun x => words dw x.1 x.2.w)
        let s2 := if hm = 0 then s1
          else writeRuns s1 dm.cvp (els.map fun x => (base dm + dm.bitOff x.1 / 8, leBytes (dm.ebits / 8) x.2.hm))
        let dp := s.desc hp
        let st : Option Stored := if hp = 0 then none else dp.fmt.map fun f =>
          convStore dp f (s.scaleRec dp.scale).2 (s.rndOf dp (1 + c.group.val) hp e.tag e.x)
            (els.map fun x => (x.1, f32 x.2.w))
        let s3 := (match st, dp.fmt with
          | some st, some f =>
            let a := writeRuns s2 dp.cvp (codeRuns s2.mem (base dp) dp st.codes)
            if dp.bscale = 0 then a
            else writeRuns a (s.desc (BitVec.ofNat 16 dp.bscale)).cvp (scaleRuns s a.mem dp f st.scales)
          | _, _ => s2)
        let s4 := writeRuns s3 dvr.cvp (rows.map fun r => words dvr [r.1, 0, 0, 0, 0, 0] r.2.1)
        let last := decide (hi = m)
        let s5 := if last then writeRuns s4 dvc.cvp (vc.zipIdx.map fun v => words dvc [v.2, 0, 0, 0, 0, 0] v.1) else s4
        let whole := last
        let mc := els.foldl (fun (a : Conv) x => a.add x.2.conv) Conv.none
        let hc := (st.map (·.conv)).getD Conv.none
        let satR := rows.any fun r => (s.ltVal dsr r.1).2
        let satC := (List.range n).any fun j => (s.ltVal dsc j).2
        let p := Post.none.flags hw ⟨false, els.any fun x => badF x.2.w || badF x.2.dp⟩
        let p := p.writes hw whole
        let mscale := (dm.fmt.any fun f => f.scaled) && (scaleOk (s.scaleRec dm.scale).1).isNone
        let p := if hm = 0 then p
          else ((p.flags hm ⟨decide (mc.ovf > 0), decide (mc.nfin > 0) || mscale⟩).writes hm whole).max hm mc.amax
        let p := if hp = 0 then p
          else ((p.flags hp ⟨decide (hc.ovf > 0), decide (hc.nfin > 0)⟩).writes hp whole).max hp hc.amax
        let p := if hp = 0 ∨ dp.bscale = 0 then p else p.writes (BitVec.ofNat 16 dp.bscale) whole
        let p := (p.flags (ef 6 c.hvr) ⟨false, rows.any fun r => badF r.2.1⟩).writes (ef 6 c.hvr) whole
        let p := (p.flags (ef 7 c.hvc) ⟨false, last && vc.any badF⟩).writes (ef 7 c.hvc) whole
        let p := (p.flags (ef 4 c.hsr) ⟨satR, false⟩).flags (ef 5 c.hsc) ⟨satC, false⟩
        let dmax := els.foldl (fun (a : W32) x => if a.toNat < (dmaxOf ls x.2.dp).toNat then dmaxOf ls x.2.dp else a) (0 : W32)
        let p := { p with report := some ⟨e.tag, BitVec.ofNat 16 layer, false, dmax⟩ }
        some (s5.modCore k fun x =>
          { x.count 0x3A els.length with upe := { x.upe with rows := BitVec.ofNat 32 hi, tag := e.tag } }, p)
  | _, _ => none

/-- UPD (R232, R240). A frozen group reads and writes nothing, counts a skip and reports it. -/
def effUpd (s : State) (k : CoreId) (e : Ent) (h : Hdr) (c : UpdF) : Option (State × Post) :=
  if s.groupFrozen c.group.val then
    match s.job.prog.bind (fun p => SMap.find p.updLayer (effHandle h e.iter 2 c.hg).toNat) with
    | none => none
    | some layer =>
      some (s.modCore k fun x => { x.count 0x39 1 with upe := { x.upe with skips := hold32 x.upe.skips 1, tag := e.tag, rows := 0 } },
        { Post.none with report := some ⟨e.tag, BitVec.ofNat 16 layer, true, 0⟩ })
  else updRows s k e h c 0 ((s.desc (effHandle h e.iter 0 c.hw)).extent 1)

end Sys2Proof.Machine
end

