-- ==== Sys2Proof/Machine/Issue.lean ====
section
/-! DEFINITION. The command processor and the scoreboard (R135-R142, R182-R189): issue, hazards, dispatch with the
engine's effect, waits, release. The bytes a command writes are in memory from its dispatch; everything its release
brings (status flags, maxima, synchronisation, reports, captures) follows at COMMAND_COMPLETE. -/

namespace Sys2Proof.Machine

open Sys2Proof

/-! What the engines do. -/

/-- LDC (R182): an element of a G32 tensor into a count register. None for another format. An index beyond the tensor is a violation
before it comes here (R385); for it the value is a free one (log 40). -/
def effLdc (s : State) (k : CoreId) (e : Ent) (h : Hdr) (creg : Fin 16) (hnd : W16) (idx : W32) : Option (State × Post) :=
  let d := s.desc (effHandle h e.iter 0 hnd)
  if d.fmt ≠ some .g32 then none
  else
    let v : W32 := if d.count ≤ idx.toNat then Config.freeF32 s.free else BitVec.ofNat 32 (s.codeAt d (d.at idx.toNat))
    some ({ s with free := s.free + 1 }.modCore k fun x => { x with lcnt := SMap.set 0 x.lcnt creg.val v }, Post.none)

/-- A vector command on registers, which writes nothing to memory. -/
def vecDone (s : State) (k : CoreId) (r : Option Core) : Option (State × Post) :=
  r.map fun c => (s.setCore k c, Post.none)

/-- The effect of a dispatched command in its engine; none for a form that the loader rejects. -/
def effect (s : State) (k : CoreId) (e : Ent) : Option (State × Post) :=
  let c := s.core k
  match e.ins with
  | .mmul _ h f => effMmul s k e h f
  | .asweep _ h f => effAsweep s e h f
  | .tzero _ _ f => some (effTzero s k f)
  | .tfill _ h f => effTfill s k e h f
  | .taccm _ h f => effTaccm s k e h f
  | .tstore _ h f => effTstore s k e h f
  | .epi _ h f => effEpi s k e h f
  | .gpass _ h f => effGpass s k e h f
  | .vadd _ _ f => vecDone s k (some (effVadd c f))
  | .vsub _ _ f => vecDone s k (some (effVsub c f))
  | .vmul _ _ f => vecDone s k (some (effVmul c f))
  | .vfma _ _ f => vecDone s k (some (effVfma c f))
  | .vmax _ _ f => vecDone s k (some (effVmax c f))
  | .vmin _ _ f => vecDone s k (some (effVmin c f))
  | .vabs _ _ f => vecDone s k (some (effVabs c f))
  | .vneg _ _ f => vecDone s k (some (effVneg c f))
  | .vcmp _ _ f => vecDone s k (some (effVcmp c f))
  | .vsel _ _ f => vecDone s k (some (effVsel c f))
  | .viadd _ _ f => vecDone s k (some (effViadd c f false))
  | .visub _ _ f => vecDone s k (some (effViadd c f true))
  | .vcvt _ _ f => vecDone s k (effVcvt c f)
  | .vexp2 _ _ f => vecDone s k (some (vecTrans c f vexp2))
  | .vlog2 _ _ f => vecDone s k (some (vecTrans c f vlog2))
  | .vrcp _ _ f => vecDone s k (some (vecTrans c f vrcp))
  | .vrsqrt _ _ f => vecDone s k (some (vecTrans c f vrsqrt))
  | .vtanh _ _ f => vecDone s k (some (vecTrans c f vtanh))
  | .verf _ _ f => vecDone s k (some (vecTrans c f verf))
  | .vrsum _ _ f => vecDone { s with free := s.free + 1 } k (effVrsum c f s.free)
  | .vrmax _ _ f => vecDone s k (some (effVrext c f fmax))
  | .vrmin _ _ f => vecDone s k (some (effVrext c f fmin))
  | .ltclr _ _ f => vecDone s k (some (effLtclr c f))
  | .ltaddf _ _ f => vecDone { s with free := s.free + 64 } k (effLtaddf c f s.free)
  | .ltaddt _ _ f => vecDone { s with free := s.free + 1 } k (some (effLtaddt c f s.free))
  | .ltrd _ _ f => vecDone s k (effLtrd c f)
  | .ltaddm _ h f => effLtaddm s k e h f
  | .ltst _ h f => effLtst s k e h f
  | .vld _ h f => effVld s k e h f
  | .vst _ h f => effVst s k e h f
  | .trd _ _ f => vecDone s k (some (effTrd c f))
  | .move _ h f => effMove s k e h f
  | .upd _ h f => effUpd s k e h f
  | .signal _ _ o => some ((s.bump o).modCore k fun x => x.trace k 4 engCmd e.tag e.iter, Post.none)
  | .ldc _ h r hnd i => effLdc s k e h r hnd i
  | .xchg _ h f => (effXchg s k e h f).map fun r => (r.1, r.2.1)
  | .wait .. | .commit .. | .stepend .. => some (s, Post.none)
  | _ => none

/-! Hazards. -/

/-- Is a WAIT's target reached (R186). -/
def State.reached (s : State) (e : Ent) : Bool :=
  match e.ins with
  | .wait _ _ c => ! (s.obj c.obj.toNat - e.target).msb
  | _ => false

/-- An earlier command that no later one of its core passes (R186, R188): a WAIT whose count is not there yet, a COMMIT
without its outcome. -/
def isBarrier (e : Ent) : Bool :=
  match e.ins with
  | .wait .. => e.phase = .issued || e.phase = .waitObj
  | .commit .. => e.phase = .issued || e.phase = .waitCommit
  | _ => false

/-- Does command `e` have to wait for the earlier command `p` of its core (R78, R118, R132, R140, R158, R245). -/
def waitsFor (s : State) (p e : Ent) : Bool :=
  isBarrier p
    || (s.touches p.iter p.ins).any (fun a => (s.touches e.iter e.ins).any fun b => ordH s a b)
    || (match tileOf p.ins, tileOf e.ins with
        | some a, some b => ordT a b || (a.1 = b.1 && p.phase = .held)
        | _, _ => false)
    || (engOf p.ins = some .upe && engOf e.ins = some .upe && (p.phase = .held || p.phase = .bad))
    || (engOf p.ins = some .vxe && engOf e.ins = some .vxe && (p.phase = .issued || p.phase = .held || p.phase = .bad))
    || (match e.ins, p.ins with | .move _ _ c, .move .. => c.fence | _, _ => false)

/-- Entries of an engine's queue: dispatched and not completed. -/
def queued (es : List Ent) (g : Eng) : Nat := (es.filter fun e => engOf e.ins = some g && e.phase ≠ .issued && ! e.chain).length

/-- Does a command wait for a package of LPDDR5X that is under retraining (R155). -/
def State.lpWaits (s : State) (e : Ent) : Bool :=
  s.mm.retrain.isSome && ((s.reads e.iter e.ins ++ s.writes e.iter e.ins).flatMap (·.2)).any fun a => s.stalls a.1 a.2

/-- Has the update engine stopped at a held UPD (R245). -/
def updStopped (es : List Ent) : Bool := es.any fun p => engOf p.ins = some .upe && (p.phase = .held || p.phase = .bad)

/-- May an issued command be dispatched now: `pre` are the earlier ones in flight, `post` the later. -/
def State.clear (s : State) (k : CoreId) (pre : List Ent) (e : Ent) (post : List Ent) : Bool :=
  let c := s.core k
  match engOf e.ins with
  | none => false
  | some g =>
    ! c.frozen && ! c.inReset && ! (g = .skd && c.skdFrozen) && decide (queued (pre ++ post) g < g.depth)
      && (match e.ins with | .signal .. | .stepend .. => pre.isEmpty | _ => true)
      && ! s.lpWaits e && ! (g = .upe && updStopped post)
      && pre.all fun p => ! waitsFor s p e

/-! Dispatch. -/

/-- Put an entry back between its neighbours. -/
def State.putEnt (s : State) (k : CoreId) (pre : List Ent) (e : Ent) (post : List Ent) : State :=
  s.modCore k fun c => { c with inflight := pre ++ e :: post }

/-- The handle through which a command meets a 512-byte block: it reads it, or it writes a part of it, which the controller or the
stack's SECDED reads and merges (R153, R383). -/
def meetsBlock (rs ws : List (W16 × List Span)) (p : Nat) : Option W16 :=
  let on := fun (r : W16 × List Span) => r.2.any fun a => a.1 < 512 * p + 512 && 512 * p < a.1 + a.2
  let whole := fun (r : W16 × List Span) => decide (512 ≤ (r.2.map fun a => min (a.1 + a.2) (512 * p + 512) - max a.1 (512 * p)).foldl (· + ·) 0)
  ((rs.find? on) <|> (ws.find? fun r => on r && ! whole r)).map (·.1)

/-- The first bad block among those a command reads (R154, R382, R383): one that fails its MAC or holds an uncorrectable word now, or one
that does not verify. -/
def State.readFault (s : State) (e : Ent) : Option (W16 × Nat × Nat) :=
  let rs := s.reads e.iter e.ins
  match (hdrOf e.ins).poison with
  | none => s.badRead rs
  | some p =>
    match meetsBlock rs (s.writes e.iter e.ins) p with
    | some h => if carriesCheck s (512 * p) then some (h, p / 8, poisonKind (512 * p)) else s.badRead rs
    | none => s.badRead rs

/-- A bad block met by a command (R382, R402, R403): the command is held, the unit's registers tell the block, a record
is written; a block that fails its MAC is poisoned (R154), and one with an uncorrectable word stays bad (R383). -/
def State.cvFail (s : State) (k : CoreId) (e : Ent) (b : W16 × Nat × Nat) : State :=
  let new := match (hdrOf e.ins).poison with | some p => if p / 8 = b.2.1 ∧ b.2.2 = poisonKind (512 * p) then [p] else [] | none => []
  let s0 := { s with mm := { s.mm with poisoned := (new ++ s.mm.poisoned).eraseDups } }
  let s1 := s0.modCore k fun c => let d := c.cvBad b.2.1 b.2.2; { d with cvu := { d.cvu with failhold := true } }
  s1.raise (cvKind b.2.2) (if b.2.2 = 3 then engLpddr else engCvu) (coreField k) b.1 e.tag e.iter (b.2.1 * 4096) 0

/-- The core that executes a command of the stream on core `k` (R132). -/
def State.runsOn (s : State) (k : CoreId) (i : Instr) : CoreId :=
  match i with
  | .trd .. => k
  | _ => if engOf i = some .vxe then ((s.core k).vecOn).getD k else k

/-- The tile that a readout reads, at its check point (R101). -/
def State.atCheck (i : Instr) : Option Nat :=
  match i, tileOf i with
  | .epi .., some t | .tstore .., some t | .trd .., some t => some t.1.val
  | _, _ => none

/-- The tile that leaves the cells for the tile of a command, at its check point (R101). A TZERO of another tile counts as bringing it
there, though WTILE keeps its value: the spec does not say where TZERO works (DESIGN CHOICE, log 159). -/
def State.leaves (s : State) (k : CoreId) (i : Instr) : Option TileId :=
  let m := (s.core k).mxe
  match State.atCheck i, tileOf i with
  | none, some t => if m.wvalid ∧ m.wtile.toNat ≠ t.1.val then some m.wtile.toFin else none
  | _, _ => none

/-- What the checks of a check point compute (R101, R102): none where they agree, as in every state that a run reaches. -/
def State.tileChk (s : State) (k : CoreId) (i : Instr) : Option ChkFail :=
  ((State.atCheck i).bind fun t => ((s.core k).tile t).chkPoint).map fun r => ⟨false, false, r.1, r.2, 0⟩

/-- What the checkers find for an execution: what an execution's faults make them find, or what a check point computes. -/
def State.found (s : State) (k : CoreId) (i : Instr) : Option ChkFail :=
  match (hdrOf i).chk with
  | some f => some f
  | none => s.tileChk k i

/-- What a checker of core `k` found in an execution (R104, R107, R132, R134, R245, R383): the registers of the last mismatch and
a record. -/
def State.chkFail (s : State) (k : CoreId) (e : Ent) (f : ChkFail) : State :=
  let tile := match tileOf e.ins with | some t => t.1.val | none => 0
  let rec' := fun (st : State) (kind eng detail : Nat) => st.raise kind eng (coreField k) 0 e.tag e.iter 0 detail
  if f.ecc then rec' s 0x0020 (((engOf e.ins).map Eng.code).getD engCmd) 0
  else if f.conv then rec' s 0x0004 engLs 0
  else
    match e.ins, engOf e.ins with
    | .upd .., _ => rec' (s.modCore k fun c => { c with upe := { c.upe with rows := BitVec.ofNat 32 f.row, tag := e.tag } }) 0x0003 engUpe f.row
    | .trd .., _ | _, some .mxe =>
      rec' (s.modCore k fun c => { c with mxe := { c.mxe with
          tag := e.tag, valid := true, kind := f.kind.setWidth 2, index := f.index, tile := BitVec.ofNat 3 tile } })
        0x0001 engMxe (2 * (f.kind.toNat % 4) + 8 * f.index.toNat + 1024 * tile)
    | _, _ =>
      rec' (s.modCore k fun c => { c with vxe := { c.vxe with
          tag := e.tag, valid := true, kind := f.kind, lane := f.index.setWidth 6 } })
        0x0002 engVxe (2 * f.kind.toNat + 16 * (f.index.toNat % 64))

/-- Engines whose executions have checkers of their own (R101, R131, R245). -/
def checked (i : Instr) : Bool :=
  match engOf i with | some .mxe | some .vxe | some .upe => true | _ => false

/-- The phase a command takes once its engine has done its work. -/
def phaseAfter (s : State) (e : Ent) : Phase :=
  match e.ins with
  | .wait .. => if s.reached e then .done else .waitObj
  | .commit .. => .waitCommit
  | .xchg _ h c =>
    let single := (s.xgroup (((s.layer c.layer.toNat).map (·.dmask)).getD 0)).length ≤ 1
    if h.tag = e.tag ∧ single then .done else .exchange
  | _ => .done

/-- What COMMIT and a satisfied WAIT tell of themselves (R484). -/
def State.noteDispatch (s : State) (k : CoreId) (e : Ent) : State :=
  match e.ins with
  | .commit .. => s.modCore k fun c => { c.trace k 8 engCmd e.tag e.iter with atCommit := true }
  | .wait _ _ c => if s.reached e then (s.seeWait k c.obj e.target).modCore k fun x => x.trace k 3 engCmd e.tag e.iter else s
  | _ => s

/-- A held UPD has written and released the rows before the failing one (R245). -/
def State.updHeld (s : State) (k : CoreId) (e : Ent) (f : ChkFail) : State × Post :=
  match e.ins with
  | .upd _ h c =>
    if f.conv ∨ f.ecc ∨ s.groupFrozen c.group.val then (s, e.post)
    else
      let m := (s.desc (effHandle h e.iter 0 c.hw)).extent 1
      (s.withRaces k e.iter e.ins fun t => updRows t k e h c 0 (min f.row (m - 1))).getD (s, e.post)
  | _ => (s, e.post)

/-- Is the MOVE `e` one that link buffers make wait (R256, R257). -/
def State.moveWaits (s : State) (e : Ent) : Bool :=
  match e.ins with
  | .move _ h c => ! s.moveReady (effHandle h e.iter 0 c.src) (effHandle h e.iter 1 c.dst)
  | _ => false

/-! Reads in flight that another core's write overtakes (R141). -/

/-- Executions of other cores that are in flight, have read, and whose bytes a command of core `k` writes now. -/
def State.overtaken (s : State) (k : CoreId) (ss : List Span) : List (CoreId × Ent) :=
  if ss.isEmpty then []
  else s.usedCores.flatMap fun j =>
    if s.who j = s.who k then []
    else ((s.core j).inflight.filter fun e => (e.phase = .done || e.phase = .exchange || e.phase = .held)
      && ((s.reads e.iter e.ins).flatMap (·.2)).any fun a => ss.any fun b => ! (meet a b).isEmpty).map fun e => (j, e)

/-- A core's registers with free values where an execution has put what it computed from the bytes it read. -/
def Core.spoil (c : Core) (e : Ent) (s : State) : Core :=
  let n := s.free
  let tile := fun (t : TileId) (m w : Nat) =>
    let x := c.tile t.val
    let y : Tile := { x with els := SMap.upd TEl.zero 16384 (fun i el =>
      if i / 128 < m ∧ i % 128 < w then { el with w := Config.freeTally (n + i), wrap := Config.freeByte (n + i) } else el) x.els }
    c.setTile t.val { y with
      colC := SMap.ofFn 0 128 fun j => BitVec.ofInt 136 (y.colSum j), rowC := SMap.ofFn 0 128 fun i => BitVec.ofInt 136 (y.rowSum i) }
  let ext := fun (h : W16) (i : Nat) => (s.desc h).extent i
  match e.ins with
  | .vld _ _ f =>
    let v := c.vreg f.vd
    c.setVreg f.vd { v with els := SMap.ofFn VEl.zero 4096 fun i => ⟨Config.freeF32 (n + i), Config.freeByte (n + i)⟩ }
  | .mmul _ h f =>
    tile f.tile (ext (effHandle h e.iter 0 f.ha) (if f.ta then 0 else 1)) (ext (effHandle h e.iter 1 f.hb) (if f.tb then 1 else 0))
  | .tfill _ h f | .taccm _ h f => tile f.tile (ext (effHandle h e.iter 0 f.h) 1) (ext (effHandle h e.iter 0 f.h) 0)
  | .ltaddm _ _ f => { c with lt := SMap.upd LtEl.zero 256 (fun i l => if i % 4 = f.ltr.val then { l with w := Config.freeLt (n + i) } else l) c.lt }
  | .ldc _ _ r _ _ => { c with lcnt := SMap.set 0 c.lcnt r.val (Config.freeF32 n) }
  | _ => c

/-- An execution whose read has been overtaken gives free values: what it has put into registers and memory, and what an exchange
has taken of HL (R141; log 17). -/
def State.spoil (s : State) (x : CoreId × Ent) : State :=
  let ws := (s.writes x.2.iter x.2.ins).flatMap (·.2)
  let s1 := (s.modCore x.1 fun c => c.spoil x.2 s).blur ws
  let s2 : State := (spanBlocks ws).foldl (fun t b =>
    let e := chkGet t b
    if entryValid e then { t with chk := SMap.set 0 t.chk b (mkEntry t.mem b (entryCvp e) (entryStep e)) } else t) s1
  { s2 with
    free := s2.free + 16384
    job := { s2.job with xchgs := s2.job.xchgs.map fun y =>
      if y.tag = x.2.tag ∧ y.core = x.1 then { y with acc := y.acc.zipIdx.map fun a => (Config.freeF32 (s.free + a.2)).toInt } else y } }

/-- The hold of a chain that fails its check as its tile leaves the cells for that of command `e` (R101, R104), with what the check
finds: the tile and its readouts are held, and `e` goes on. None where the checks agree, as in every state that a run reaches, or where
`e` is turned away before its engine. -/
def State.departing (s : State) (k : CoreId) (e : Ent) : Option (Ent × ChkFail) :=
  match s.leaves k e.ins with
  | none => none
  | some t =>
    match ((s.core k).tile t.val).chkPoint with
    | none => none
    | some r =>
      if (s.violation k e.iter e.ins).isSome ∨ (s.readFault e).isSome ∨ (s.badWrite (s.writes e.iter e.ins)).isSome then none
      else
        some ({ e with
          ins := .tzero k ⟨e.tag, 0, 0, none, false, none, 0⟩ ⟨t, 0, 0, 0⟩, phase := .held, post := Post.none, target := 0, tried := [],
          chain := true }, ⟨false, false, r.1, r.2, 0⟩)

/-- A dispatched command in its engine: rights, check values of what it reads and writes, its checkers, its effect, with free
values for bytes that race, and for what it overtakes (R141). None for a form that the loader rejects. -/
def State.runEnt (s : State) (k : CoreId) (pre : List Ent) (e : Ent) (post : List Ent) : Option State :=
  match s.violation k e.iter e.ins with
  | some v =>
    let s1 := s.putEnt k pre { e with phase := .bad } post
    some (if engOf e.ins = some .skd then s1.violateSkd k v.1 e.tag e.iter v.2.1 v.2.2
      else s1.violateCmd k v.1 e.tag e.iter v.2.1 v.2.2)
  | none =>
    let ws := s.wrOf k e.tag e.x e.iter e.ins
    if s.moveWaits e then some ((s.addWr ws).putEnt k pre { e with phase := .arrive } post)
    else
      match s.readFault e with
      | some b => some ((s.putEnt k pre { e with phase := .bad } post).cvFail k e b)
      | none =>
        match s.badWrite (s.writes e.iter e.ins) with
        | some b => some ((s.putEnt k pre { e with phase := .bad } post).cvFail k e b)
        | none =>
          match s.found k e.ins, checked e.ins with
          | some f, true =>
            let r := s.updHeld k e f
            some (((r.1.addWr ws).putEnt k pre { e with phase := .held, post := r.2 } post).chkFail (s.runsOn k e.ins) e f)
          | _, _ =>
            (s.withRaces k e.iter e.ins fun t => effect t k e).map fun r =>
              (((s.overtaken k (ws.flatMap (·.spans))).foldl State.spoil (r.1.addWr ws)).putEnt k pre
                { e with phase := phaseAfter s e, post := r.2 } post).noteDispatch k e

/-- The target of a WAIT (R186). -/
def waitTarget (i : Instr) (iter : List W32) : W32 :=
  match i with
  | .wait _ h c => c.target + ixIter h iter * c.tinc.setWidth 32
  | _ => 0

/-- A core's counters and trace at the dispatch of a command (R136, R382, R383, R484). -/
def State.started (s : State) (k : CoreId) (e : Ent) : State :=
  let g := (engOf e.ins).getD .sync
  let rr : Nat := if (hdrOf e.ins).reread then 1 else 0
  s.modCore k fun c =>
    let c1 := (c.count g.source 1).trace k 1 g.code e.tag e.iter
    { (c1.count 0x51 rr).count 0x50 (hdrOf e.ins).ecc with cvu := { c1.cvu with transient := hold16 c1.cvu.transient rr } }

/-- Dispatch a command (R136): counters and trace, the check of a tile that leaves the cells for it, then its engine. -/
def State.dispatchEnt (s : State) (k : CoreId) (pre : List Ent) (e : Ent) (post : List Ent) : Option State :=
  match (s.started k e).departing k e with
  | none => (s.started k e).runEnt k pre e post
  | some x => ((s.started k e).chkFail k x.1 x.2).runEnt k (x.1 :: pre) e post

/-- The answer of an engine: a form that the loader rejects is never issued by the module, and has no effect. -/
def State.answer (s : Option State) : Host.Outcome State Fault Refusal :=
  match s with
  | some t => .next t
  | none => .fault .notAdmitted

/-! Fetch (R142, R143). -/

/-- Words of core code that a stream of `n` Evlux words takes in granules (R203). -/
def granulesOf (n : Nat) : Nat := (256 + 16 * n + 65535) / 65536

/-- The first code granule of logical core `n` (R203). -/
def Program.granule (p : Program) (n : Nat) : Nat := ((p.streams.take n).map fun w => granulesOf w.length).foldl (· + ·) 0

/-- The address of the core code of the command at word `pos` of a core's stream (R138; its layout is the model's, log 111). -/
def State.codeAddr (s : State) (k : CoreId) (pos : Nat) : Option Nat :=
  match s.job.prog, s.logical k with
  | some p, some n => some (codeBase + p.granule n * 65536 + 256 + 16 * pos)
  | _, _ => none

/-- The address of the core code of a command in flight (R138). -/
def State.entAddr (s : State) (k : CoreId) (e : Ent) : Option Nat := s.codeAddr k e.pos

/-- Is a code granule sealed. -/
def State.isSealed (s : State) (g : Nat) : Bool := SMap.get false s.mm.sealed g

/-- The lines of a set, most recently used first. -/
def cacheSet (c : Core) (n : Nat) : List Nat := SMap.get [] c.icache n

/-- A line of code as a core's cache takes it (R142): a line held becomes the most recently used of its set, another fills the
set, whose least recently used line leaves. The set of a line is its number modulo 256 (log 133). -/
def Core.fetch (c : Core) (l : Nat) : Core :=
  let ways := cacheSet c (l % 256)
  if ways.contains l then { c with icache := SMap.set [] c.icache (l % 256) (l :: ways.filter (· ≠ l)) }
  else { c.count 0x04 1 with icache := SMap.set [] c.icache (l % 256) ((l :: ways).take 4) }

/-- A core after the fetch of its next command; a miss and its fill are one with the issue (log 134). -/
def State.fetched (s : State) (k : CoreId) : Core :=
  match s.codeAddr k (s.core k).fpos with
  | some a => (s.core k).fetch ((a - codeBase) / 256)
  | none => s.core k

/-- May a core fetch its next command: its line is held, or lies in a sealed granule (R143). -/
def State.mayFetch (s : State) (k : CoreId) : Bool :=
  match s.codeAddr k (s.core k).fpos with
  | some a =>
    let l := (a - codeBase) / 256
    (cacheSet (s.core k) (l % 256)).contains l || s.isSealed (l / 256)
  | none => true

/-! Issue. -/

/-- Words of a command (R171). -/
def wordsOf : Instr → Nat
  | .mmul .. | .asweep .. | .epi .. | .gpass .. | .vfma .. | .vcmp .. | .vsel .. | .vcvt .. | .vrsum .. | .vrmax .. | .vrmin ..
  | .move .. | .upd .. => 3
  | .vld .. | .vst .. | .ltaddm .. | .ltst .. => 4
  | .tzero .. | .endl .. | .commit .. | .stepend .. => 1
  | _ => 2

/-- The position after the ENDL that closes a body which begins at `pos`, in the words of a stream. -/
def skipBody : Nat → List W64 → Nat → Nat → Nat
  | 0, _, pos, _ => pos
  | n + 1, ws, pos, depth =>
    match ws.drop pos with
    | [] => pos
    | w :: _ =>
      let cls := bitsAt w.toNat 32 4
      let op := bitsAt w.toNat 36 6
      let next := pos + bitsAt w.toNat 42 2 + 1
      if cls = 6 ∧ op = 1 then skipBody n ws next (depth + 1)
      else if cls = 6 ∧ op = 2 then (if depth = 0 then next else skipBody n ws next (depth - 1))
      else skipBody n ws next depth

/-- The words of the stream a core runs. -/
def State.streamOf (s : State) (k : CoreId) : List W64 :=
  match s.job.prog, s.logical k with
  | some p, some n => p.streams.getD n []
  | _, _ => []

/-- The iteration index of each active loop level, outermost first (R183). -/
def iterOf (ls : List LoopLv) : List W32 := ls.map fun l => l.latched - l.remain

/-- Does a core take the next command of its stream. -/
def Core.takes (c : Core) : Bool :=
  c.fetching && ! c.frozen && ! c.inReset && ! c.fetchwait && (! c.halted || c.stepOne)

/-- Does the command have to wait before it issues (R135, R182, R485). -/
def Core.holdsIssue (c : Core) (i : Instr) : Bool :=
  decide (c.inflight.length ≥ 512) || (c.trc.stall && decide (c.trc.fifo.length ≥ 64))
    || (match i with
        | .loop _ _ r _ => c.inflight.any fun e => match e.ins with | .ldc _ _ q _ _ => q = r | _ => false
        | _ => false)

/-- A core's counters and trace at the issue of a command, and its stream past the command's words (R135, R484). -/
def Core.issued (c : Core) (k : CoreId) (i : Instr) : Core :=
  let g := (engOf i).map Eng.code
  let vec : Nat := if engOf i = some .vxe then 1 else 0
  let c1 := ((c.count 0x01 1).count 0x30 vec).trace k 0 (g.getD engCmd) (hdrOf i).tag (iterOf c.loops)
  { c1 with fpos := c.fpos + wordsOf i, stepOne := false }

/-- The entry of the in-flight set that a command gets (R138), with the place of its first word in the stream. -/
def Core.entryOf (c : Core) (i : Instr) : Ent :=
  { ins := i, pos := c.fpos, tag := (hdrOf i).tag, iter := iterOf c.loops, x := SMap.get 0 c.execs (hdrOf i).tag.toNat, phase := .issued,
    post := Post.none, target := waitTarget i (iterOf c.loops), tried := [], chain := false }

/-- A command's entry joins the in-flight set; nothing is fetched after a STEPEND (R189). -/
def State.entered (s : State) (k : CoreId) (i : Instr) : State :=
  let c := (s.fetched k).issued k i
  let last := match i with | .stepend .. => true | _ => false
  s.setCore k { c with
    execs := SMap.set 0 c.execs (hdrOf i).tag.toNat (SMap.get 0 c.execs (hdrOf i).tag.toNat + 1),
    fetching := c.fetching && ! last, inflight := c.inflight ++ [(s.core k).entryOf i] }

/-- LOOP (R183): latched counts, a body skipped where the count is zero, a violation above MAXC. None for a fifth level,
which the loader rejects. -/
def State.loopEnter (s : State) (k : CoreId) (i : Instr) (r : Fin 16) (maxc : W32) : Option State :=
  let c := s.core k
  let c1 := (s.fetched k).issued k i
  let cnt := SMap.get 0 c.lcnt r.val
  let h := hdrOf i
  if c.loops.length ≥ 4 then none
  else if maxc.toNat < cnt.toNat then some ((s.setCore k { c1 with fpos := c.fpos, stepOne := c.stepOne }).violateCmd k 0x30 h.tag (iterOf c.loops) 0 0)
  else if cnt = 0 then
    let ws := s.streamOf k
    some (s.setCore k { c1 with fpos := skipBody ws.length ws c1.fpos 0 })
  else some (s.setCore k { (c1.trace k 5 engCmd h.tag (iterOf c.loops)) with loops := c1.loops ++ [⟨cnt, cnt, c1.fpos⟩] })

/-- ENDL (R183): back to the body's first command, or past the loop. None outside a loop, which the loader rejects. -/
def State.loopEnd (s : State) (k : CoreId) (i : Instr) : Option State :=
  let c1 := (s.fetched k).issued k i
  match c1.loops.getLast? with
  | none => none
  | some l =>
    let up := c1.loops.dropLast
    if l.remain - 1 ≠ 0 then some (s.setCore k { c1 with loops := up ++ [{ l with remain := l.remain - 1 }], fpos := l.body })
    else some (s.setCore k { c1 with loops := up })

/-- Issue of a command that the scoreboard takes. -/
def State.enter (s : State) (k : CoreId) (i : Instr) : Option State :=
  match i with
  | .loop _ _ r maxc => s.loopEnter k i r maxc
  | .endl .. => s.loopEnd k i
  | .setc _ _ r v =>
    let c := (s.fetched k).issued k i
    some (s.setCore k { c with lcnt := SMap.set 0 c.lcnt r.val v })
  | _ =>
    let e := (s.core k).entryOf i
    let pre := (s.core k).inflight
    let s1 := s.entered k i
    if s1.clear k pre e [] then s1.dispatchEnt k pre e [] else some s1

/-- Does the fetch of a core's next command wait: its line is not held, and lies in a package under retraining (R155) or in a block
that fails its MAC, of which no data come (R154). -/
def State.fetchStalls (s : State) (k : CoreId) : Bool :=
  match s.codeAddr k (s.core k).fpos with
  | some a =>
    let l := (a - codeBase) / 256
    ! (cacheSet (s.core k) (l % 256)).contains l
      && (s.stalls (codeBase + 256 * l) 256 || s.mm.poisoned.contains ((codeBase + 256 * l) / 512))
  | none => false

/-- Issue of the next command of a core's stream (R135): one that may not issue yet waits, and those after it behind it; a fetch
from an unsealed granule is a violation that freezes the command processor (R143). -/
def State.issue (s : State) (k : CoreId) (i : Instr) : Option State :=
  let c := s.core k
  if ¬ c.takes then some s
  else if ¬ c.waitq.isEmpty ∨ c.holdsIssue i ∨ s.fetchStalls k then some (s.setCore k { c with waitq := c.waitq ++ [i] })
  else if ¬ s.mayFetch k then
    some (s.violateCmd k 0x03 (hdrOf i).tag (iterOf c.loops) 0 ((s.codeAddr k c.fpos).getD codeBase))
  else s.enter k i

/-- Commands that waited to issue, in order. -/
def State.reissue (s : State) (k : CoreId) : Option State :=
  let q := (s.core k).waitq
  q.foldl (fun (a : Option State) i => a.bind fun t => t.issue k i) (some (s.modCore k fun c => { c with waitq := [] }))

/-! Release. -/

/-- What the release of a command's writes brings. -/
def State.applyPost (s : State) (k : CoreId) (e : Ent) (p : Post) : State :=
  let s1 := p.ovf.foldl (fun t h => t.setStatus h ⟨true, false⟩) s
  let s2 := p.nfin.foldl (fun t h => t.setStatus h ⟨false, true⟩) s1
  let s3 := p.amax.foldl (fun t a => t.raiseAmax a.1 a.2) s2
  let s4 := p.grid.foldl (fun t g =>
    t.modCore k fun c =>
      let x := SMap.get GExp.zero c.gexp g.1
      let m := (g.2.1.setWidth 31 : BitVec 31)
      let y : GExp := { x with gmax := if x.gmax.toNat < m.toNat then m else x.gmax, govf := x.govf || g.2.2 }
      { c with gexp := SMap.set GExp.zero c.gexp g.1 y }) s3
  let s5 := p.wrote.foldl (fun t w => t.stampHandle w.1 w.2) s4
  let s6 := s5.bump p.sig
  let s7 := match p.report with
    | none => s6
    | some r => s6.modCore k fun c =>
        { c.count 0x38 1 with upe := { c.upe with rpt := c.upe.rpt ++ [r], done := hold32 c.upe.done 1 } }
  s7.captures e.tag e.iter p.wrote

/-- Moves that waited on link buffers run once those are ready (R256, R257). -/
def State.arrivals (s : State) : State :=
  s.usedCores.foldl (fun t k =>
    (List.range (t.core k).inflight.length).foldl (fun u n =>
      let es := (u.core k).inflight
      match es[n]? with
      | some e =>
        if e.phase = .arrive ∧ ¬ u.moveWaits e then (u.runEnt k (es.take n) e (es.drop (n + 1))).getD u else u
      | none => u) t) s

/-- What the completion of one kind of command brings beside its writes; a MOVE's may let others go on that waited on a link buffer
(R259). -/
def State.noteComplete (s : State) (k : CoreId) (e : Ent) : State :=
  match e.ins with
  | .move _ h c => ((s.modCore k fun x => x.count 0x41 1).moveFrees (effHandle h e.iter 0 c.src) (effHandle h e.iter 1 c.dst)).arrivals
  | .epi .. | .trd .. | .tstore .. => s.modCore k fun x => x.trace k 6 engMxe e.tag e.iter
  | .stepend .. => s.modCore k fun x => { x.trace k 9 engCmd e.tag e.iter with
      fetching := false, ended := true, loops := [], evc := { x.evc with live := false } }
  | .commit .. => s.modCore k fun x => { x with atCommit := false }
  | _ => s

/-- May a command whose engine has done its work complete now: an UPD waits while its core's report FIFO is full
(R244). -/
def mayComplete (c : Core) (e : Ent) : Bool :=
  e.phase = .done && ! (e.post.report.isSome && decide (c.upe.rpt.length ≥ 256))

/-- A command leaves the in-flight set (R137). -/
def State.complete (s : State) (k : CoreId) (pre : List Ent) (e : Ent) (post : List Ent) : State :=
  let g := (engOf e.ins).getD .sync
  let s1 := s.modCore k fun c => { ((c.count 0x02 1).trace k 2 g.code e.tag e.iter) with inflight := pre ++ post }
  ((s1.release k e.tag e.x).applyPost k e e.post).noteComplete k e

/-- Split a list at the first entry that satisfies a test. -/
def splitAt1 (f : Ent → Bool) : List Ent → Option (List Ent × Ent × List Ent)
  | [] => none
  | e :: es => if f e then some ([], e, es) else (splitAt1 f es).map fun r => (e :: r.1, r.2.1, r.2.2)

/-- COMMAND_DISPATCH (R136). -/
def execCommandDispatch (k : CoreId) (tag : W32) (s : State) : Host.Outcome State Fault Refusal :=
  match splitAt1 (fun e => e.tag = tag && e.phase = .issued) (s.core k).inflight with
  | none => .next s
  | some r => if s.clear k r.1 r.2.1 r.2.2 then State.answer (s.dispatchEnt k r.1 r.2.1 r.2.2) else .next s

/-- COMMAND_COMPLETE (R137). -/
def execCommandComplete (k : CoreId) (tag : W32) (s : State) : Host.Outcome State Fault Refusal :=
  match splitAt1 (fun e => e.tag = tag && mayComplete (s.core k) e) (s.core k).inflight with
  | none => .next s
  | some r => State.answer ((s.complete k r.1 r.2.1 r.2.2).reissue k)

/-- WAIT_SATISFIED (R186): the oldest WAIT that holds dispatch is done when its count is there. -/
def execWaitSatisfied (k : CoreId) (s : State) : Host.Outcome State Fault Refusal :=
  match splitAt1 (fun e => e.phase = .waitObj && s.reached e) (s.core k).inflight with
  | none => .next s
  | some r =>
    let s1 := match r.2.1.ins with | .wait _ _ c => s.seeWait k c.obj r.2.1.target | _ => s
    .next ((s1.putEnt k r.1 { r.2.1 with phase := .done } r.2.2).modCore k fun c => c.trace k 3 engCmd r.2.1.tag r.2.1.iter)

end Sys2Proof.Machine
end

