-- ==== Sys2Proof/Machine/Mailbox.lean ====
section
/-! DEFINITION. The mailbox (R422-R428, R440): taking a request, posting replies and notifications, and who signed a
message (R425). -/

namespace Sys2Proof.Machine

open Sys2Proof

/-! Reply statuses (R426). -/

def stOk : Nat := 0
def stVersion : Nat := 1
def stType : Nat := 2
def stState : Nat := 3
def stQuar : Nat := 4
def stDebug : Nat := 5
def stNotRel : Nat := 6
def stSig : Nat := 7
def stRefused : Nat := 8
def stManifest : Nat := 9
def stLoader : Nat := 10
def stActivating : Nat := 11

/-- What a request comes to: a status with its detail and data, or a reply that follows later. -/
inductive Answer where
  | now (status detail : Nat) (data : Payload)
  | later
  deriving DecidableEq, Repr

/-- The answer OK with nothing beside it. -/
def Answer.ok : Answer := .now stOk 0 .none

/-- A refusal with a status. -/
def Answer.no (status : Nat) : Answer := .now status 0 .none

/-- REFUSED with a sub-code (R426). -/
def Answer.refuse (sub : Nat) : Answer := .now stRefused sub .none

/-- Set bits of HIF_IRQ; an enabled bit that was clear raises vector 2 (R421, R431). -/
def State.hifIrq (s : State) (b : BitVec 3) : State :=
  let s1 := { s with hif := { s.hif with irq := s.hif.irq ||| b } }
  if b &&& ~~~ s.hif.irq &&& s.hif.irqEn ≠ 0 then s1.vector 2 else s1

/-- Change PHASE (R431). -/
def State.setPhase (s : State) (p : Nat) : State :=
  if s.hif.phase = p then s else { s with hif := { s.hif with phase := p } }.hifIrq 1

/-! Evidence (R336, R337). -/

/-- The text of a field of ASCII padded with zeros. -/
def padded (bs : List Byte) : List Byte := bs.takeWhile fun b => b ≠ 0

/-- Key 22 of the body. -/
def EvJob.item (j : EvJob) : List Byte :=
  let d := fun (x : Digest) => cborBstr (leBytes 64 x.toNat)
  cborMap [(1, d j.man), (2, d j.image), (3, d j.code), (4, cborBool j.det), (5, cborUint j.s.toNat), (6, cborBstr (leBytes 16 j.nonce.toNat))]

/-- The body of evidence (R337). -/
def Evidence.body (e : Evidence) : List Byte :=
  let d := fun (x : Digest) => cborBstr (leBytes 64 x.toNat)
  let opt := fun (k : Nat) (x : Option (List Byte)) => x.toList.map fun y => (k, y)
  cborMap ([(1, cborUint 1), (2, cborTstr (ascii "TGZ2-M50")), (3, cborTstr (ascii "B1")), (4, cborTstr (padded (leBytes 32 e.serial.toNat))),
      (5, cborBstr (leBytes 16 (deviceIdOf e.seed).toNat)), (6, cborBstr (idKey e.seed)), (7, cborBstr (wrapKey e.seed)),
      (8, cborBstr (sized 1280 e.endorse)), (9, d Config.romDigest)]
    ++ opt 10 (e.kelgil.map fun k => d k.2) ++ opt 11 (e.kelgil.map fun k => cborUint k.1.toNat)
    ++ [(12, d e.blw), (13, cborUint e.bver.toNat), (14, d e.record),
      (15, cborBstr (leBytes 24 (e.fence.foldl (fun a k => a + 2 ^ k) 0))), (16, cborUint e.sstate), (17, cborUint e.dlevel)]
    ++ opt 18 (e.ownh.map d)
    ++ [(19, cborUint e.octr.toNat), (20, cborBstr e.nonce), (21, cborArray (e.pod.map cborUint))]
    ++ opt 22 (e.job.map EvJob.item) ++ opt 23 (if e.qcause = 0 then none else some (cborUint e.qcause)))

/-- Evidence: the array of body and signature (R336). -/
def Evidence.bytes (e : Evidence) : List Byte :=
  cborArray [cborBstr e.body, cborBstr (idSign e.seed (ascii "TGZ2 evidence" ++ e.body))]

/-! Failure signatures (R400). -/

/-- The body of a failure signature; a temperature below zero is told as 0 (log 59). -/
def FailSig.body (f : FailSig) : List Byte :=
  let opt := fun (k : Nat) (x : Option (List Byte)) => x.toList.map fun y => (k, y)
  let r := f.rec'
  cborMap ([(1, cborUint 1), (2, cborTstr (ascii "TGZ2-M50")), (3, cborTstr (ascii "B1")), (4, cborBstr (leBytes 16 (deviceIdOf f.seed).toNat))]
    ++ opt 5 (f.kelgil.map fun k => cborUint k.1.toNat) ++ opt 6 (f.kelgil.map fun k => cborBstr (leBytes 64 k.2.toNat))
    ++ [(7, cborUint f.bver.toNat), (8, cborUint f.sstate), (9, cborUint r.kind), (10, cborUint r.engine)]
    ++ opt 11 (if r.core = noCore then none else some (cborUint r.core.toNat)) ++ opt 12 (if r.tag = 0 then none else some (cborUint r.tag.toNat))
    ++ [(13, cborUint r.s.toNat), (14, cborUint r.attempt.toNat), (15, cborArray (r.iter.map fun i => cborUint i.toNat)), (16, cborUint r.detail.toNat),
      (17, cborArray (f.digests.map fun d => cborArray [cborUint d.1.toNat, cborBstr (leBytes 64 d.2.toNat)]))]
    ++ opt 18 (if f.sstate ≤ 1 then some (cborArray (f.bytes.map cborBstr)) else none)
    ++ [(19, cborUint f.reexec)] ++ opt 20 (f.core.map fun k => cborUint k.val)
    ++ [(21, cborBool f.fenced), (22, cborUint f.die.toNat), (23, cborUint f.rail)])

/-- A failure signature: the array of body and signature. -/
def FailSig.wire (f : FailSig) : List Byte := cborArray [cborBstr f.body, cborBstr (idSign f.seed (ascii "TGZ2 failure" ++ f.body))]

/-! Log entries (R481, R482). -/

/-- Widths in bytes of the numbers of a payload that the spec lays out, each with the zero bytes behind it: the hold record (R374), the
fault record (R390), trace records (R484). -/
def logWidths : Nat → List (Nat × Nat)
  | 0x0005 => [(1, 0), (1, 0), (1, 3), (8, 0), (4, 0), (4, 8)]
  | 0x0008 => [(2, 0), (1, 1), (2, 0), (2, 0), (4, 0), (4, 0), (8, 0), (4, 0), (4, 0), (4, 0), (4, 0), (6, 2), (8, 0), (4, 4)]
  | 0x0010 => ((List.replicate 4 [(4, 0), (4, 0), (4, 0), (4, 0), (4, 0), (1, 0), (1, 0), (2, 0)]).flatten)
  | _ => []

/-- The payload of an entry. Where the spec gives no widths the numbers take four bytes each, those of JOB_LOAD one and of OUTCOME two
(log 47). -/
def LogEnt.body (e : LogEnt) : List Byte :=
  let w := logWidths e.kind
  let head := if e.kind = 0x0005 ∧ e.payload ≠ [] then leBytes 2 0x5248 else []
  if w.isEmpty then e.payload.flatMap (leBytes (if e.kind = 0x0001 then 1 else if e.kind = 0x0004 then 2 else 4))
  else head ++ (e.payload.zip w).flatMap fun x => leBytes x.2.1 x.1 ++ List.replicate x.2.2 0

/-- The 128 bytes of an entry (R481). -/
def LogEnt.bytes (e : LogEnt) : List Byte :=
  leBytes 2 e.kind ++ leBytes 1 e.cls ++ leBytes 1 e.body.length ++ leBytes 8 e.entry.toNat ++ leBytes 8 e.s.toNat ++ leBytes 4 e.a.toNat
    ++ leBytes 8 0 ++ sized 96 e.body

/-- Bytes of a reply's data: log entries of 128 bytes behind the first one's number (R481, R483), fault records of 64 (R390),
record entries (R323), evidence (R336), signatures with the count of those dropped (R400, R401; log 47). -/
def Payload.size : Payload → Nat
  | .none => 0
  | .words ws => 8 * ws.length
  | .bytes bs => bs.length
  | .logs es => 8 + 128 * es.length
  | .faults rs => 64 * rs.length
  | .sigs fs _ => (fs.map fun f => f.wire.length).sum + 4
  | .records rs => (rs.map (·.size)).sum
  | .evidence e => e.bytes.length
  | .installed w e => w.length + e.bytes.length

/-- The bytes of a reply's data where the spec lays them out (R323, R336, R390, R400, R481). -/
def Payload.wire : Payload → List Byte
  | .bytes bs => bs
  | .logs es => leBytes 8 ((es.head?.map fun e => e.entry.toNat).getD 0) ++ es.flatMap LogEnt.bytes
  | .faults rs => rs.flatMap FaultRec.bytes
  | .records rs => rs.flatMap RecEnt.bytes
  | .sigs fs n => (fs.flatMap FailSig.wire) ++ leBytes 4 n
  | .evidence e => e.bytes
  | .installed w e => w ++ e.bytes
  | _ => []

/-- Data of more than 4,080 bytes go by reference (R423): placed once, in the output queue, and the reply says where. -/
def State.byRef (s : State) (r : Reply) : State × Reply :=
  if r.data.size ≤ 4080 ∨ r.ref.isSome then (s, r)
  else (s.refData r.data.size r.data.wire, { r with ref := some (s.refPos, r.data.size) })

/-- Post a reply, or hold it while no driver is attached (R422, R440) and, but for the answer ACTIVATING, during an activation (R436). -/
def State.postReply (s0 : State) (r0 : Reply) : State :=
  let (s, r) := s0.byRef r0
  if s.hif.ver.isSome ∧ (s.hif.activating = true → r.status = stActivating) then
    { s with hif := { s.hif with replies := s.hif.replies ++ [r] } }.vector 0
  else { s with hif := { s.hif with heldRep := (s.hif.heldRep ++ [r]).drop (s.hif.heldRep.length + 1 - 256) } }

/-- A violation of the PCIe requester (R385-R388): it is frozen, a record is written; it is not counted. -/
def State.violatePcie (s : State) (code addr : Nat) : State :=
  { s with sec := { s.sec with pcieFrozen := true } }.raise 0x0030 engPcie noCore 0 0 [] addr code

/-! Requests. -/

/-- Is the header of a request well formed after HELLO (R424). -/
def State.headerOk (s : State) (m : Mb) : Bool :=
  let len := m.length.toNat % 2 ^ 31
  (match s.hif.ver with | some v => v.1 = m.major.toNat | none => false)
    && (if m.length.msb then len = 16 else decide (len ≤ 4080))
    && (match s.hif.lastSeq with | some q => m.seq = q + 1 | none => true)

/-- The 128-bit capability record (R206) as two 64-bit words: ISAMASK, MAXLCORE, MAXHANDLE; KVER, MAXSYNC. -/
def State.capability (s : State) : List Nat :=
  [6 + (192 - s.fenceMap.length) * 2 ^ 16 + 65536 * 2 ^ 32, (s.hif.running.map (·.kver.toNat)).getD 0 + 65535 * 2 ^ 32]

/-- What a reply carries that answers with a status alone: every reply to a job load has the capability record (R206). -/
def State.bare (s : State) (type : Nat) : Payload := if type = 0x0050 then .words s.capability else .none

/-- Take a request of a type: its header, the states that answer everything alike, then its own effect `f` (R422-R427).
With no mailbox, or before a HELLO, a request is not taken. A frozen PCIe requester leaves the window usable, but its doorbell
writes are discarded (R387). `quar`: is it served in QUARANTINE. -/
def State.request (s : State) (m : Mb) (type : Nat) (quar : Bool) (f : State → State × Answer) : State :=
  if ¬ s.hif.mbxUp ∨ s.hif.ver = none ∨ s.hif.open'.length ≥ 256 then s
  else if ¬ s.headerOk m then s.violatePcie 0x34 0
  else
    let s1 := { s with hif := { s.hif with
      lastSeq := some m.seq, open' := s.hif.open' ++ [m.seq],
      doorbell := if s.sec.pcieFrozen then s.hif.doorbell else s.hif.doorbell.set 0 m.seq } }.mcount 0x018 1
    let r := if s.hif.activating then (s1, .now stActivating 0 (s1.bare type))
      else if s.sec.sstate = .quarantine ∧ ¬ quar then (s1, .now stQuar 0 (s1.bare type))
      else f s1
    match r.2 with
    | .now st d p => r.1.postReply ⟨type, m.seq, st, d, p, none⟩
    | .later => r.1

/-- Is an envelope this module's and of a message's type (R425): device id, owner counter, TYPE, zeros. -/
def State.envelopeOk (s : State) (type : Nat) (e : Envelope) : Bool :=
  e.devid = s.devid && e.octr = s.nvm.part.octr && decide (e.type.toNat = type) && e.rsvd = 0

/-- Is an envelope this module's, signed by its owner (R425), whose key the island must hold. -/
def State.ownerOk (s : State) (type : Nat) (e : Envelope) : Bool :=
  s.envelopeOk type e && s.sec.ownerKey.isSome
    && (match e.signer, s.nvm.part.ownh with | some k, some o => k = o | _, _ => false)

/-- Is a message that Tolval signs this module's (R341, R361): what is signed has no TYPE, but a text of its own. -/
def State.vendorOk (s : State) (e : Envelope) : Bool :=
  e.devid = s.devid && e.octr = s.nvm.part.octr && e.signer = some Config.vendorKey

/-- A refused owner message leaves an entry (R482). -/
def State.logRefused (s : State) (type : Nat) (seq : W32) (st : Nat) : State := s.log 0x000D 2 [type, seq.toNat, st]

/-- Has a release or a reclaim been accepted (R342). -/
def State.releasing (s : State) : Bool :=
  let r := fun (t : TransK) => match t with | .release _ | .reclaim _ => true | _ => false
  (match s.sec.trans with | some t => r t | none => false) || s.sec.queue.any r || s.job.unloadReq.any r

/-- Answer a message of an owner: a refusal leaves an entry. -/
def State.ownAnswer (s : State) (m : Mb) (type : Nat) (a : Answer) : State × Answer :=
  match a with
  | .now st _ _ => (if st = stOk then s else s.logRefused type m.seq st, a)
  | .later => (s, a)

/-- The effect of a message with an owner's envelope, accepted in OWNED only, and no more once a release has been. -/
def ownGate (m : Mb) (type : Nat) (e : Envelope) (f : State → State × Answer) (s : State) : State × Answer :=
  if s.sec.sstate ≠ .owned ∨ s.releasing then s.ownAnswer m type (.no stState)
  else if ¬ s.ownerOk type e then s.ownAnswer m type (.no stSig)
  else let r := f s; r.1.ownAnswer m type r.2

/-- A message that waits in P2 for unpark (R370). -/
def State.parkRequest (s : State) (m : Mb) (type : Nat) (quar : Bool) (i : Instr) (f : State → State × Answer) : State :=
  s.request m type quar fun t =>
    if t.sec.pstate = 2 then ({ t with sec := { t.sec with ownMsgs := t.sec.ownMsgs ++ [i] } }, .later) else f t

/-! Accesses that wait (R155, R156, R372). -/

/-- Does an access to pieces of LPDDR5X wait: during a scrub, for a package under retraining, or behind one that waits (log 97). -/
def State.waits (s : State) (ps : List (Nat × Nat)) : Bool :=
  ! ps.isEmpty && (s.sec.scrub || ! s.mm.stalled.isEmpty || ps.any fun p => s.stalls p.1 p.2)

/-- An access waits. -/
def State.wait (s : State) (i : Instr) : State := { s with mm := { s.mm with stalled := s.mm.stalled ++ [i] } }

/-- The effect of a request that reads pieces of LPDDR5X: it may have to wait there, and is answered later. -/
def whenFree (ps : State → List (Nat × Nat)) (i : Instr) (f : State → State × Answer) (s : State) : State × Answer :=
  if s.waits (ps s) then (s.wait i, .later) else f s

/-- The record area (R151), and the staging granules (R146). -/
def recordPiece : Nat × Nat := (recordBase, recArea)
def State.stagePiece (s : State) : Nat × Nat := (lpBase, s.mm.stageg * granSize)

/-- A message that has waited: its effect, and its reply now. -/
def State.lateRequest (s : State) (m : Mb) (type : Nat) (f : State → State × Answer) : State :=
  let r := if s.sec.sstate = .quarantine then (s, .now stQuar 0 (s.bare type)) else f s
  match r.2 with
  | .now st d p => r.1.postReply ⟨type, m.seq, st, d, p, none⟩
  | .later => r.1

end Sys2Proof.Machine
end

