-- ==== Sys2Proof/Machine/Record.lean ====
section
/-! DEFINITION. The record ring (R322-R325): entries, the space they take, and the events that are recorded. -/

namespace Sys2Proof.Machine

open Sys2Proof

/-- Entry types (R324). -/
def recJob : Nat := 1
def recToken : Nat := 2
def recMailbox : Nat := 3
def recChunk : Nat := 4
def recOutcome : Nat := 5
def recArrival : Nat := 6
def recEvent : Nat := 7


/-- Bytes an entry takes: its header and its padded payload (R323). -/
def recSize (n : Nat) : Nat := 32 + (n + 31) / 32 * 32

/-- RMODE of the job; nothing is recorded without one (R322). -/
def State.rmode (s : State) : Nat := (s.job.man.map (·.rmode)).getD 0

/-- Bytes of the ring that undrained entries hold. -/
def State.recHeld (s : State) : Nat :=
  ((s.rings.recs.filter fun r => ! r.read).map (·.size)).foldl (· + ·) 0

/-- Free bytes of the ring: those no undrained entry holds (R325). -/
def State.recFree (s : State) : Nat := recArea - s.recHeld

/-- Drop drained entries, oldest first, until the entries fit the area. -/
def trimRecs : Nat → List RecEnt → List RecEnt
  | 0, rs => rs
  | n + 1, rs =>
    match rs with
    | [] => []
    | r :: xs => if recArea < (rs.map (·.size)).foldl (· + ·) 0 ∧ r.read then trimRecs n xs else rs

/-- Write an entry, where the job's RMODE records its type (R322). An undrained entry is never overwritten (R325): one that
finds no room is not made (log 136). -/
def State.record (s : State) (type : Nat) (payload : List Byte) : State :=
  if s.rmode = 0 ∨ (type = recArrival ∧ s.rmode ≠ 2) ∨ s.recFree < recSize payload.length then s
  else
    let e : RecEnt :=
      { type := type, s := s.stepField, a := s.attemptField, entry := s.rings.recNext, payload := payload,
        pos := (match s.rings.recs.getLast? with | some r => (r.pos + r.size) % recArea | none => 0)
        size := recSize payload.length, read := false }
    let rs := s.rings.recs ++ [e]
    { s with rings := { s.rings with
        recs := trimRecs rs.length rs, recNext := s.rings.recNext + 1 } }

/-- Events an EVENT entry tells (R324): the codes of the model (log 23), with the core or port. -/
def evFence : Nat := 0
def evRestore : Nat := 1
def evRetune : Nat := 2
def evAdopt : Nat := 3
def evActivate : Nat := 4

/-- Record an event. -/
def State.event (s : State) (code n : Nat) : State := s.record recEvent (leBytes 2 code ++ leBytes 2 n)

end Sys2Proof.Machine
end

