-- ==== Sys2Proof/Machine/Fault.lean ====
section
/-! DEFINITION. What Kelgil does with faults: charges and fences (R392-R394), re-execution (R104, R132, R245), failure
signatures (R400, R401), and the reading of a fault record (R389). -/

namespace Sys2Proof.Machine

open Sys2Proof

/-! Fences. -/

/-- Logical columns the loaded job uses: those of its streams. -/
def State.jobColumns (s : State) : List Nat :=
  match s.job.prog with | none => [] | some p => s.mm.colmap.take p.ncol

/-- The lowest-numbered free core (R392): not fenced, not under test, no column of the job on it. -/
def State.freeCore (s : State) : Option CoreId :=
  allCores.find? fun k =>
    ! (s.core k).fenced && ! s.jobColumns.contains k.val && s.tst.running ≠ some k
      && ! SMap.get false s.mm.oos k.val

/-- An entry whose check value no contents of the block have. -/
def spoilEntry (e : W64) : W64 := e ^^^ 1

/-- The entry that a moved block gets (R381): the value of its new address, with its WSTEP. A block that fails its CRC where it is read
stays bad, and so does one without a valid entry. -/
def movedEntry (s : State) (m : List Host.Cell) (blk at' : Nat) (e : W64) : W64 :=
  if ¬ entryValid e then e
  else
    let n := mkEntry m at' (entryCvp e) (entryStep e)
    if entryCrv e = (crvOf (entryCvp e) (checkMsg s.mem blk (entryStep e))).toNat then n else spoilEntry n

/-- Copy the tensor area of one column into another: bytes, and entries for the new addresses that keep each block's
WSTEP (R381, R393). -/
def State.copyColumn (s : State) (x f : CoreId) : State :=
  let bx := x.val * colStride
  let bf := f.val * colStride
  let got := (s.mem.filter fun e => bx ≤ e.1 ∧ e.1 < bx + colTensor).map fun e => (e.1 - bx + bf, e.2)
  let m := (s.mem.filter fun e => e.1 < bf) ++ got ++ s.mem.filter fun e => bf + colTensor ≤ e.1
  let lo := bf / 4096
  let n := colTensor / 4096
  let old := (s.chk.filter fun e => bx / 4096 ≤ e.1 ∧ e.1 < bx / 4096 + n).map fun e =>
    (e.1 - bx / 4096 + lo, movedEntry s m e.1 (e.1 - bx / 4096 + lo) e.2)
  { s with mem := m, chk := (s.chk.filter fun e => e.1 < lo) ++ old ++ s.chk.filter fun e => lo + n ≤ e.1 }

/-- The blocks of a column's tensor area that fail their CRC. -/
def State.badColumn (s : State) (x : CoreId) : List Nat :=
  let lo := x.val * colStride / 4096
  ((s.chk.filter fun e => lo ≤ e.1 ∧ e.1 < lo + colTensor / 4096 ∧ entryValid e.2
    ∧ entryCrv e.2 ≠ (crvOf (entryCvp e.2) (checkMsg s.mem e.1 (entryStep e.2))).toNat)).map (·.1)

/-- The Skidder of core `f` meets the bad blocks of a column that it copies (R382): its unit's registers and a record for each. -/
def State.copyFaults (s : State) (x f : CoreId) : State :=
  (s.badColumn x).foldl (fun t b =>
    (t.modCore f fun c => c.cvBad b 0).raise (cvKind 0) engCvu (coreField f) 0 0 [] (b * 4096) 0) s

/-- What of a core belongs to the stream that runs on it, taken over by core `f`. -/
def Core.adopt (f x : Core) : Core :=
  { f with
    tiles := x.tiles, vregs := x.vregs, lt := x.lt, vecOn := x.vecOn, gexp := x.gexp, inflight := x.inflight, waitq := x.waitq,
    fetching := x.fetching, fpos := x.fpos, loops := x.loops, lcnt := x.lcnt, lcntRec := x.lcntRec, execs := x.execs, atCommit := x.atCommit,
    ended := x.ended, upe := { f.upe with rows := x.upe.rows, tag := x.upe.tag, rpt := x.upe.rpt, gscal := x.upe.gscal, lslot := x.upe.lslot },
    evc := { f.evc with live := x.evc.live } }

/-- What remains on the core that a stream has left. -/
def Core.leave (x : Core) : Core :=
  { x with
    tiles := [], vregs := [], lt := [], vecOn := none, gexp := [], inflight := [], waitq := [], fetching := false, fetchwait := false,
    loops := [], lcnt := [], lcntRec := [], execs := [], atCommit := false, ended := false,
    upe := { x.upe with rpt := [], gscal := [], lslot := [] }, evc := { x.evc with live := false } }

/-- Move a logical column and its stream from core `x` onto core `f` (R393 steps 2 and 3); an exchange handed over by its
stream stays with it. -/
def State.moveCore (s : State) (x f : CoreId) : State :=
  let s1 := (s.copyFaults x f).copyColumn x f
  let cx := s1.core x
  let s2 := (s1.setCore f ((s1.core f).adopt cx)).setCore x cx.leave
  let here := fun (p : Nat × Nat) => if x.val * colStride ≤ p.1 ∧ p.1 < x.val * colStride + colTensor then (p.1 - x.val * colStride + f.val * colStride, p.2) else p
  { s2 with
    race := { s2.race with wr := s2.race.wr.map fun w => { w with spans := w.spans.map here } },
    mm := { s2.mm with colmap := s2.mm.colmap.map (fun k => if k = x.val then f.val else k), oos := SMap.set false s2.mm.oos x.val true },
    job := { s2.job with xchgs := s2.job.xchgs.map fun y => if y.core = x then { y with core := f } else y } }

/-! In-field tests: the queue. -/

/-- Is a core drained (R144). -/
def Core.drained (c : Core) : Bool := c.inflight.isEmpty && c.waitq.isEmpty && ! c.fetching

/-- Is the module between steps, where a core may be moved for its test (R397). -/
def State.atBoundary (s : State) : Bool := s.job.st ≠ .loaded || (s.stp.phase = .between && s.stp.a = 0)

/-- Start the oldest test that can start: a core that runs no job, or one that a free core can stand in for at a boundary.
At D2 only drained cores are tested (R399). -/
def State.startTests (s : State) : State :=
  if s.tst.running.isSome ∨ ¬ s.hif.mbxUp ∨ s.sec.pstate ≥ 2 then s
  else
    match s.tst.queue with
    | [] => s
    | k :: rest =>
      let go := fun (t : State) => { t with tst := ⟨rest, some k⟩ }
      if ¬ (s.core k).drained ∨ (s.core k).inReset then s
      else if ¬ s.jobColumns.contains k.val then go s
      else if ¬ s.atBoundary then s
      else match s.freeCore with | some f => go (s.moveCore k f) | none => s

/-- Ask for an in-field test of a core (R396): requests are taken in order, each core's once. -/
def State.queueTest (s : State) (k : CoreId) : State :=
  (if s.tst.queue.contains k ∨ s.tst.running = some k then s
   else { s with tst := { s.tst with queue := s.tst.queue ++ [k] } }).startTests

/-! A fence. -/

/-- A fence changes the fence map: a record, entries, and the authenticated write that runs beside the job (R393). The EVENT
entry names the core by its logical index, all ones for one that runs nothing (R17; log 23). -/
def State.noteFence (s : State) (x : CoreId) (f l : Option Nat) (write : Bool) : State :=
  let s1 := s.raise 0x0041 engCtrl (coreField x) 0 0 [] 0 (f.getD 0xFFFF)
  let s2 := (s1.event evFence (l.getD 0xFFFF)).log 0x000B 2 [x.val, f.getD 0xFFFF, l.getD 0xFFFF]
  if write then { s2 with nvm := { s2.nvm with writes := s2.nvm.writes ++ [.fence s2.fenceMap] } } else s2

/-- Vector instructions of other streams that ran on core `x` go on on another core (R18, R132). -/
def State.vecAway (s : State) (x : CoreId) (f : Option CoreId) : State :=
  { s with cores := SMap.mapVals Core.zero (fun (_ : Nat) (c : Core) => if c.vecOn = some x then { c with vecOn := f } else c) s.cores }

/-- The own test of a core that has been fenced (R395). -/
def State.testFenced (s : State) (x : CoreId) : State := if (s.core x).failed then s else s.queueTest x

/-- Fence core `x` (R393); its column goes out of service (R149), and Kelgil tests the core once it is drained, unless a test is what fences it (R395). With no free core
nothing can take its work over: a step fault in every attempt (R394). A core fenced for the job alone is fenced for good where the boot
record is to hold it (R396). -/
def State.fence (s : State) (x : CoreId) (write : Bool) : State :=
  if (s.core x).fenced ∧ ¬ ((s.core x).jobFence ∧ write = true) then s
  else if (s.core x).fenced then (s.modCore x fun c => { c with jobFence := false }).noteFence x none none true
  else
    let s1 := s.modCore x fun c => { c with fenced := true, jobFence := ! write }
    if ¬ s.jobColumns.contains x.val then
      (({ s1 with mm := { s1.mm with oos := SMap.set false s1.mm.oos x.val true } }.vecAway x s1.freeCore).noteFence x none none write).testFenced x
    else
      match s1.freeCore with
      | none => ({ s1 with stp := { s1.stp with fault := true } }.vecAway x none).noteFence x none (s1.logical x) write
      | some f => (((s1.moveCore x f).vecAway x (some f)).noteFence x (some f.val) (s1.logical x) write).testFenced x

/-- The job stops (R217, R428): nothing of it is dispatched any more, its last committed state stays. -/
def State.stopJob (s : State) (reason ordinal : Nat) : State :=
  if s.job.st ≠ .loaded then s
  else
    let s1 := s.stopCores
    let s2 := { s1 with
      job := { s1.job with st := .stopped, stop := reason, xchgs := [], xreps := [] }, stp := { s1.stp with phase := .between },
      scc := { s1.scc with stop := if reason ≤ 3 then reason else s1.scc.stop } }
    s2.notify 0x0001 [reason, s.stp.s.toNat, ordinal]

/-! Charges. -/

/-- Mismatches charged to a core since its last passing test (R104, R132, R245). -/
def Core.mismatches (c : Core) : Nat := c.charged

/-- Charge a mismatch to a core in the register of the engine that found it; the second fences it. -/
def State.charge (s : State) (k : CoreId) (eng : Nat) : State :=
  let s1 := s.modCore k fun c0 =>
    let c := { c0 with charged := c0.charged + 1 }
    if eng = engVxe then { c.count 0x33 1 with vxe := { c.vxe with mismatch := hold16 c.vxe.mismatch 1 } }
    else if eng = engUpe then { c with upe := { c.upe with mismatch := hold16 c.upe.mismatch 1 } }
    else { c.count 0x17 1 with mxe := { c.mxe with mismatch := hold16 c.mxe.mismatch 1 } }
  if (s1.core k).mismatches ≥ 2 then s1.fence k true else s1

/-- Count a re-execution on a core for another. -/
def State.countReexec (s : State) (k : CoreId) (eng : Nat) : State :=
  s.modCore k fun c =>
    if eng = engVxe then { c with vxe := { c.vxe with reexec := hold16 c.vxe.reexec 1 } }
    else if eng = engUpe then { c with upe := { c.upe with reexec := hold16 c.upe.reexec 1 } }
    else { c.count 0x16 1 with mxe := { c.mxe with reexec := hold16 c.mxe.reexec 1 } }

/-- Cores on which a chain may be executed again, lowest first: not fenced, none that has tried (log 24). -/
def State.otherCores (s : State) (tried : List CoreId) : List CoreId :=
  allCores.filter fun k => ! (s.core k).fenced && ! tried.contains k

/-- Raise a step fault of this module (R301). -/
def State.stepFault (s : State) : State := if s.job.st = .none then s else { s with stp := { s.stp with fault := true } }

/-! Re-execution. -/

/-- Flags and maxima of two parts of an UPD. -/
def Post.join (a b : Post) : Post :=
  let top := fun (x y : Rpt) => if x.dmax.toNat < y.dmax.toNat then y else { y with dmax := x.dmax }
  { ovf := a.ovf ++ b.ovf, nfin := a.nfin ++ b.nfin, amax := a.amax ++ b.amax, grid := a.grid ++ b.grid,
    wrote := a.wrote ++ b.wrote, sig := b.sig,
    report := match a.report, b.report with | some x, some y => some (top x y) | _, y => y }

/-- A bad block among the inputs of work that is to be done again (R399): the step fault of R382, with its record. -/
def State.redoBad (s : State) (e : Ent) : Option (W16 × Nat × Nat) :=
  (s.badRead (s.reads e.iter e.ins)) <|> (s.badWrite (s.writes e.iter e.ins))

/-- The work of a held command of the stream on core `k`, done elsewhere: the bits it should have given (R104, R132),
the rows from the failing one on for an UPD (R245). -/
def State.redone (s : State) (k : CoreId) (e : Ent) : Option (State × Post) :=
  match e.ins with
  | .upd _ h c =>
    if s.groupFrozen c.group.val then effect s k e
    else
      let m := (s.desc (effHandle h e.iter 0 c.hw)).extent 1
      let lo := if (s.core k).upe.tag = e.tag ∧ (h.chk.map (·.conv)).getD false = false then (s.core k).upe.rows.toNat else 0
      (updRows s k e h c (min lo m) m).map fun r => (r.1, e.post.join r.2)
  | _ => effect s k e

/-- The core whose stream has the held command of a mismatch on core `k`: the stream may have moved, or the mismatch be that of
a further execution. -/
def State.heldOn (s : State) (tag : W32) (k : CoreId) : CoreId :=
  let here := fun (x : CoreId) => (s.core x).inflight.any fun e => e.tag = tag && e.phase = .held
  if here k then k else (allCores.find? here).getD k

/-- The held command of a tag in a stream. -/
def State.heldEnt (s : State) (tag : W32) (k : CoreId) : Option (List Ent × Ent × List Ent) :=
  splitAt1 (fun e => e.tag = tag && e.phase = .held) (s.core k).inflight

/-- A held command goes on with the result of its re-execution on core `f`; the later vector instructions of its stream are
executed there too (R132). The hold of a chain ends: exact, the chain has the bits its tile holds (R104). A bad block among the inputs
holds the command for good (R399). -/
def State.unhold (s : State) (k : CoreId) (tag : W32) (f : CoreId) : State :=
  match s.heldEnt tag k with
  | none => s
  | some r =>
    if r.2.1.chain then s.modCore k fun c => { c with inflight := r.1 ++ r.2.2 }
    else match s.redoBad r.2.1 with
    | some b => (s.putEnt k r.1 { r.2.1 with phase := .bad } r.2.2).cvFail f r.2.1 b
    | none =>
    match s.withRaces k r.2.1.iter r.2.1.ins fun t => t.redone k r.2.1 with
    | none => s
    | some q =>
      let s1 := (q.1.putEnt k r.1 { r.2.1 with phase := phaseAfter s r.2.1, post := q.2 } r.2.2).noteDispatch k r.2.1
      match r.2.1.ins, engOf r.2.1.ins with
      | .trd .., _ => s1
      | _, some .vxe => s1.modCore k fun c => { c with vecOn := if f = k then none else some f }
      | _, _ => s1

/-- This module is lost to its pod (R301): nothing of the job runs here until a replica restores it (R305). -/
def State.moduleLost (s : State) : State :=
  if s.job.st ≠ .loaded then s
  else
    let s1 := s.stopCores
    { s1 with stp := { s1.stp with phase := .restore, lost := (s.lnk.self.toNat :: s.stp.lost).eraseDups } }

/-! Failure signatures. -/

/-- The digest of an operand: keyed with the job seed in OWNED (R347), plain otherwise. -/
def State.opDigest (s : State) (bs : List Byte) : Digest :=
  if s.sec.sstate = .owned then digestOf (leBytes 16 (s.job.seed.getD 0).toNat ++ bs) else digestOf bs

/-- The operands for the failure signature of a record: of the failed command, and of the chain of the tile that the record of a
matrix mismatch names (R104, R390). -/
def State.operands (s : State) (r : FaultRec) : List W16 :=
  match allCores.find? fun k => k.val = r.core.toNat with
  | none => []
  | some k =>
    match (s.core (s.heldOn r.tag k)).inflight.find? fun e => e.tag = r.tag with
    | none => []
    | some e =>
      let chain := if r.kind = 0x0001 then ((s.core (s.heldOn r.tag k)).tile (r.detail.toNat / 1024 % 8)).ops else []
      (chain ++ (s.touches e.iter e.ins).map (·.h)).eraseDups

/-- Queue the failure signature of a record (R400, R401): 256 places, a further one is dropped and logged. -/
def State.sign (s : State) (r : FaultRec) (ops : List W16) (re : Nat) (on : Option CoreId) (fenced : Bool) : State :=
  if s.rings.sigs.length ≥ 256 then
    { s with rings := { s.rings with sigDrop := s.rings.sigDrop + 1 } }.log 0x0009 2 [r.seq.toNat]
  else
    let bytes := ops.map fun h => s.viewBytes (s.desc h)
    let f : FailSig :=
      { rec' := r, reexec := re, core := on, fenced := fenced, digests := ops.zip (bytes.map s.opDigest),
        bytes := if s.sec.sstate = .open' ∨ s.sec.sstate = .factory then bytes.map fun b => b.take 65536 else [],
        sstate := s.sec.sstate.code, kelgil := s.hif.running.map fun x => (x.kver, x.digest), bver := s.blw.bver,
        die := s.blw.tj / 10, rail := s.blw.vcore, seed := s.sec.seed.getD 0 }
    { s with rings := { s.rings with sigs := s.rings.sigs ++ [f] } }

/-! Reading a record. -/

/-- The physical core of a record. -/
def FaultRec.coreId (r : FaultRec) : Option CoreId := allCores.find? fun k => k.val = r.core.toNat

/-- Three different cores have mismatched, or none is left to try (R104 step 5): a module fault; of an UPD, which runs after
GO, the loss of the module (R304). -/
def State.giveUp (s : State) (eng : Nat) : State := if eng = engUpe then s.moduleLost else s.stepFault

/-- The core on which the work of a held command of the stream on core `h` is done again: that core itself where a fence has moved the
stream there (R393 step 4, R399), else the lowest other core (R104). -/
def State.nextCore (s : State) (h : CoreId) (tried : List CoreId) : Option CoreId :=
  if ! (s.core h).fenced && ! tried.contains h then some h else (s.otherCores tried).head?

/-- The work of a held command on the next core (R104, R132, R245): the command goes on with its result, or that core mismatches
too, which is a mismatch of its own. Answers the result code of R400 and that core. -/
def State.tryNext (s : State) (h : CoreId) (tag : W32) (tried : List CoreId) (eng : Nat) (again : Option ChkFail) :
    State × Nat × Option CoreId :=
  match s.heldEnt tag h, s.nextCore h tried with
  | some r, some f =>
    if 3 ≤ tried.length then (s.giveUp eng, 2, none)
    else
      let s1 := s.countReexec f eng
      match again with
      | some c => ((s1.putEnt h r.1 { r.2.1 with tried := tried } r.2.2).chkFail f r.2.1 c, 1, some f)
      | none => (s1.unhold h tag f, 0, some f)
  | _, _ => (s.giveUp eng, 2, none)

/-- A mismatch (R104, R132, R245, R383): charge, and execution elsewhere. -/
def State.actMismatch (s : State) (r : FaultRec) (again : Option ChkFail) : State :=
  match r.coreId with
  | none => s
  | some k =>
    let ops := s.operands r
    let held := (s.heldEnt r.tag (s.heldOn r.tag k)).map fun x => x.2.1
    let eng := if r.kind = 0x0004 then (held.bind fun e => (engOf e.ins).map Eng.code).getD engMxe else r.engine
    let s1 := s.charge k eng
    let fenced := ! (s.core k).fenced && (s1.core k).fenced
    if r.kind = 0x0020 then s1.stepFault.sign r ops 3 none fenced
    else if held.isNone then s1.sign r ops 3 none fenced
    else
      let tried := (((held.map (·.tried)).getD []) ++ [k]).eraseDups
      let t := s1.tryNext (s1.heldOn r.tag k) r.tag tried eng again
      t.1.sign r ops t.2.1 t.2.2 fenced

/-- A bad block (R382): a step fault, and a charge to the core whose column holds it. -/
def State.actBlock (s : State) (r : FaultRec) : State :=
  let ops := s.operands r
  let s1 := s.stepFault
  match regionOf r.addr.toNat with
  | .column c =>
    match allCores.find? fun k => k.val = c with
    | none => s1.sign r ops 3 none false
    | some k =>
      let s2 := s1.modCore k fun x => { x with cvu := { x.cvu with charges := x.cvu.charges + 1 } }
      let s3 := if (s2.core k).cvu.charges ≥ 2 then s2.fence k true else s2
      s3.sign r ops 3 none (! (s.core k).fenced && (s3.core k).fenced)
  | _ => s1.sign r ops 3 none false

/-- A violation (R386, R387): a frozen command processor is a step fault; under VREL 1 its core is fenced for the job; the
same tag in two attempts on end stops the job. -/
def State.actViolation (s : State) (r : FaultRec) : State :=
  if r.engine ≠ engCmd ∧ r.engine ≠ engSkd then s
  else
    let again := r.tag ≠ 0 && s.rings.copies.any fun c =>
      c.kind = 0x0030 && c.tag = r.tag && c.s = r.s && decide (c.attempt + 1 = r.attempt)
    let s1 := if r.engine = engCmd then s.stepFault else s
    let s2 := match r.coreId, s.job.man with
      | some k, some m => if m.vrel then s1.fence k false else s1
      | _, _ => s1
    if again then s2.stopJob 6 0 else s2

/-- What Kelgil does with a record. -/
def State.actRecord (s : State) (r : FaultRec) (again : Option ChkFail) : State :=
  match r.kind with
  | 0x0001 | 0x0002 | 0x0003 | 0x0004 | 0x0020 => s.actMismatch r again
  | 0x0010 | 0x0011 | 0x0012 => s.actBlock r
  | 0x0021 => (match regionOf r.addr.toNat with | .kelgil | .code _ => s.sign r [] 3 none false | _ => s.actBlock r)
  | 0x0030 => s.actViolation r
  | _ => s.sign r [] 3 none (r.kind = 0x0041 || r.kind = 0x0040 || r.kind = 0x0050)

/-- The fields of a record as a FAULT entry tells them. -/
def FaultRec.fields (r : FaultRec) : List Nat :=
  [r.kind, r.engine, r.core.toNat, r.handle.toNat, r.tag.toNat, r.attempt.toNat, r.s.toNat] ++ r.iter.map (·.toNat)
    ++ [r.addr.toNat, r.detail.toNat, r.seq.toNat]

/-- FAULT_RECORD (R389): the oldest record is acted on, logged, copied, and its slot freed for one that waits. -/
def execFaultRecord (e : FaultEnv) (s : State) : Host.Outcome State Fault Refusal :=
  match s.rings.fault with
  | [] => .next s
  | r :: rs =>
    let s1 := (s.actRecord r e.again).log 0x0008 2 r.fields
    let g := s1.rings
    -- records raised while this one was acted on stand behind those that were there
    let left := rs ++ g.fault.drop (rs.length + 1)
    let c := g.copies ++ [r]
    let s2 := { s1 with rings := { g with
      fault := left ++ g.wait.take 1, wait := g.wait.drop 1, copies := (c.reverse.take 16384).reverse } }
    let news := (s2.rings.copies.filter fun x => decide (s2.rings.returned.toNat ≤ x.seq.toNat)).length
    let s3 := s2.notify 0x0004 [news]
    .next (if s3.rings.sigs.length = s.rings.sigs.length then s3 else s3.notify 0x0005 [s3.rings.sigs.length])

end Sys2Proof.Machine
end

