-- ==== Sys2Proof/Machine/CoreRows.lean ====
section
/-! DEFINITION. Commands on one core beside its program: instruction cache and sealing (R142-R144, R166), event counters
(R478, R479), traces (R485), update reports (R244), core reset (R466, R472), in-field tests (R396-R398). -/

namespace Sys2Proof.Machine

open Sys2Proof

/-! Instruction cache and code granules. -/

/-- The 256-byte line of the code area that a core's next word lies in. -/
def State.codeLine (s : State) (k : CoreId) : Nat := (s.codeAddr k (s.core k).fpos).getD codeBase / 256 - codeBase / 256

/-- ICACHE_MISS_FILL (R142, R143, R154): fetch of the line of the next word. A line already held is used; one of an unsealed
granule is a violation; a poisoned one is an integrity failure of firmware; another fills the set, whose least recently used
line leaves. A fill from a package under retraining waits (R155). -/
def execIcacheMissFill (k : CoreId) (poison : Bool) (s : State) : Host.Outcome State Fault Refusal :=
  let c := s.core k
  let l := s.codeLine k
  let ways := cacheSet c (l % 256)
  let a := codeBase + 256 * l
  if ¬ c.fetching ∨ c.frozen ∨ c.inReset then .next s
  else if ¬ ways.contains l ∧ s.stalls a 256 then .next s
  else if ways.contains l then
    .next (s.setCore k { c with fetchwait := false, icache := SMap.set [] c.icache (l % 256) (l :: ways.filter (· ≠ l)) })
  else
    let s1 := s.setCore k (c.count 0x04 1)
    if ¬ s.isSealed (l / 256) then .next (s1.violateCmd k 0x03 0 (iterOf c.loops) 0 a)
    else if poison ∨ s.mm.poisoned.contains (a / 512) then
      .next ((s1.modCore k fun x => { x with fetchwait := true }).macFail a (coreField k))
    else .next (s1.modCore k fun x => { x with fetchwait := false, icache := SMap.set [] x.icache (l % 256) ((l :: ways).take 4) })

/-- Does a core hold a line of a granule. -/
def Core.caches (c : Core) (g : Nat) : Bool := c.icache.any fun e => e.2.any fun l => l / 256 = g

/-- Unseal a granule (R144), or refuse: REFUSED tells of the last request (R165); one of an unsealed granule changes nothing
else. -/
def State.unsealGranule (s : State) (g : Nat) : State :=
  if ¬ s.isSealed g then { s with mm := { s.mm with refused := false } }
  else if allCores.any fun k => ! (s.core k).drained && (s.core k).caches g then { s with mm := { s.mm with refused := true } }
  else
    let drop := fun (_ : Nat) (c : Core) => { c with icache := SMap.mapVals [] (fun _ ls => ls.filter fun l => l / 256 ≠ g) c.icache }
    { s with mm := { s.mm with sealed := SMap.set false s.mm.sealed g false, refused := false },
             cores := SMap.mapVals Core.zero drop s.cores }

/-- A write to MEM_SEAL_CTRL (R165, R166): GRANULE, then SEAL, which wins over UNSEAL; a 1 to REFUSED clears it. -/
def State.sealWrite (s : State) (v : W32) : State :=
  let g : W16 := v.setWidth 16
  let s1 := { s with mm := { s.mm with granule := g, refused := s.mm.refused && ! v.getLsbD 18 } }
  if v.getLsbD 16 then { s1 with mm := { s1.mm with sealed := SMap.set false s1.mm.sealed g.toNat true } }
  else if v.getLsbD 17 then s1.unsealGranule g.toNat
  else s1

/-- SEAL (R143). -/
def execSeal (value : W32) (s : State) : Host.Outcome State Fault Refusal := .next (s.sealWrite (value ||| 0x10000#32))

/-- UNSEAL (R144). -/
def execUnseal (value : W32) (s : State) : Host.Outcome State Fault Refusal := .next (s.sealWrite (value ||| 0x20000#32))

/-! Update reports. -/

/-- Writing POP removes the oldest report (R244, R246). -/
def execUpeRptPop (k : CoreId) (s : State) : Host.Outcome State Fault Refusal :=
  .next (s.modCore k fun c => { c with upe := { c.upe with rpt := c.upe.rpt.drop 1 } })

/-- Take a core's reports into the dmax of their layers (R220, R244). A skipped UPD reports nothing. -/
def State.takeReports (s : State) (k : CoreId) : State :=
  let put := fun (m : SMap W32) (r : Rpt) =>
    if r.skip ∨ r.dmax.toNat ≤ (SMap.get 0 m r.layer.toNat).toNat then m else SMap.set 0 m r.layer.toNat r.dmax
  let s1 := { s with stp := { s.stp with carried := { s.stp.carried with dmax := (s.core k).upe.rpt.foldl put s.stp.carried.dmax } } }
  s1.modCore k fun c => { c with upe := { c.upe with rpt := [] } }

/-- REPORT_FIFO_READ (R244): with 128 reports or more, or at STEPEND. -/
def execReportFifoRead (k : CoreId) (s : State) : Host.Outcome State Fault Refusal :=
  if (s.core k).upe.rpt.length ≥ 128 ∨ (s.core k).ended then .next (s.takeReports k) else .next s

/-! Traces. -/

/-- The values of a trace record. -/
def TraceRec.fields (t : TraceRec) : List Nat :=
  [t.tag.toNat] ++ (iter4 t.iter).map (·.toNat) ++ [t.kind, t.engine, t.core.toNat]

/-- Records a core has dropped since the last TRACE_LOST entry are told (R482). -/
def State.traceLost (s : State) (k : CoreId) : State :=
  let c := s.core k
  if c.trc.lost = c.trc.lostLogged then s
  else
    (s.log 0x0011 2 [k.val, (c.trc.lost - c.trc.lostLogged).toNat]).modCore k fun x =>
      { x with trc := { x.trc with lostLogged := x.trc.lost } }

/-- The oldest `n` trace records of a core into one entry of the log ring. -/
def State.moveTrace (s : State) (k : CoreId) (n : Nat) : State :=
  if n = 0 then s.traceLost k
  else
    let s1 := s.log 0x0010 2 (((s.core k).trc.fifo.take n).flatMap TraceRec.fields)
    (s1.modCore k fun x => { x with trc := { x.trc with fifo := x.trc.fifo.drop n } }).traceLost k

/-- TRACE_DRAIN (R485): four records into one entry, or fewer at STEPEND. A core that a full FIFO had stopped issues again. -/
def execTraceDrain (k : CoreId) (s : State) : Host.Outcome State Fault Refusal :=
  let c := s.core k
  let n := if c.trc.fifo.length ≥ 4 then 4 else if c.ended ∨ ¬ c.fetching then c.trc.fifo.length else 0
  let t := s.moveTrace k n
  if n = 0 then .next t else State.answer (t.reissue k)

/-- Every trace record moved before its attempt ends, also those of a core that has been fenced: the step counter and the attempt of an entry are those of its records
(R181, R484; log 135). -/
def State.moveTraces (s : State) : State :=
  (allCores.filter fun k => ! (s.core k).trc.fifo.isEmpty || (s.core k).trc.lost ≠ (s.core k).trc.lostLogged).foldl (fun t k =>
    (List.range ((t.core k).trc.fifo.length / 4 + 1)).foldl (fun u _ => u.moveTrace k (min 4 (u.core k).trc.fifo.length)) t) s

/-! Event counters. -/

/-- A counter at release of its reset domain (R478, R479). -/
def evcIdle : EvcBlk → EvCnt
  | .core _ => ⟨0xFF, false, false, false, 0, 0⟩
  | .module => ⟨0x1FF, false, false, false, 0, 0⟩

/-- Bits of SRC. -/
def evcBits : EvcBlk → Nat
  | .core _ => 8 | .module => 9

/-- Counters of a block. -/
def evcSize : EvcBlk → Nat
  | .core _ => 16 | .module => 64

/-- The block. -/
def State.evc (s : State) : EvcBlk → Evc
  | .core k => (s.core k).evc
  | .module => s.mon.evc

/-- Replace the block. -/
def State.setEvc (s : State) (b : EvcBlk) (e : Evc) : State :=
  match b with
  | .core k => s.modCore k fun c => { c with evc := e }
  | .module => { s with mon := { s.mon with evc := e } }

/-- One counter. -/
def State.evCnt (s : State) (b : EvcBlk) (n : Nat) : EvCnt := SMap.get (evcIdle b) (s.evc b).cnts n

/-- Change one counter. -/
def State.setCnt (s : State) (b : EvcBlk) (n : Nat) (c : EvCnt) : State :=
  if n < (evcSize b) then s.setEvc b { s.evc b with cnts := SMap.set (evcIdle b) (s.evc b).cnts n c } else s

/-- A write of EVC_SELn (R478, R479): SRC zeroes count and WRAP; a 1 to WRAP clears it. -/
def State.selWrite (s : State) (b : EvcBlk) (n : Nat) (v : W32) : State :=
  let w := (evcBits b)
  s.setCnt b n { src := bitsAt v.toNat 0 w, en := v.getLsbD w, mode := v.getLsbD (w + 1), wrap := false, cnt := 0, hi := 0 }

/-- EVC_SEL_WRITE. -/
def execEvcSelWrite (blk : EvcBlk) (n : Nat) (value : W32) (s : State) : Host.Outcome State Fault Refusal :=
  .next (s.selWrite blk n value)

/-- CLEAR zeroes every count and WRAP of a block. -/
def State.evcZero (s : State) (b : EvcBlk) : State :=
  s.setEvc b { s.evc b with cnts := SMap.mapVals (evcIdle b) (fun _ c => { c with cnt := 0, wrap := false }) (s.evc b).cnts }

/-- EVC_CLEAR (R478). -/
def execEvcClear (blk : EvcBlk) (s : State) : Host.Outcome State Fault Refusal := .next (s.evcZero blk)

/-- EVC_CNT_LO_READ (R478): the high bits are latched. -/
def execEvcCntLoRead (blk : EvcBlk) (n : Nat) (s : State) : Host.Outcome State Fault Refusal :=
  let c := s.evCnt blk n
  .next (s.setCnt blk n { c with hi := (c.cnt >>> 32).setWidth 16 })

/-- The sources Kelgil programs at every start (R476). -/
def coreSources : List Nat :=
  [0x00, 0x01, 0x02, 0x03, 0x04, 0x05, 0x10, 0x30, 0x38, 0x39, 0x40, 0x48, 0x50, 0x58, 0x22, 0x24]

def moduleSources : List Nat :=
  (List.range 48).map (fun n => 0x100 + n)
    ++ [0x000, 0x001, 0x002, 0x003, 0x008, 0x009, 0x00A, 0x00B, 0x010, 0x011, 0x012, 0x013, 0x018, 0x020, 0x030, 0x00C]

/-- Program every counter: enabled, mode 0. -/
def State.evcStart (s : State) : State :=
  let mk := fun (srcs : List Nat) => (srcs.zipIdx.map fun x => (x.2, (⟨x.1, true, false, false, 0, 0⟩ : EvCnt)) : SMap EvCnt)
  let s1 := { s with mon := { s.mon with evc := { s.mon.evc with cnts := mk moduleSources } } }
  allCores.foldl (fun t k => t.modCore k fun c => { c with evc := { c.evc with cnts := mk coreSources } }) s1

/-! Core reset. -/

/-- A core whose domain is reset (R465): its blocks are at their reset values. The trace block lies in the module domain, a frozen master
stays so (R387), and what Kelgil knows of the core stands. -/
def Core.resetDomain (c : Core) : Core :=
  { Core.zero with
    trc := c.trc, frozen := c.frozen, skdFrozen := c.skdFrozen, inReset := true, fenced := c.fenced, jobFence := c.jobFence,
    testDue := c.testDue, marchDue := c.marchDue, passed := c.passed, failed := c.failed, charged := c.charged }

/-- A core reset (R84, R466): what the core held is gone, the core is fenced, and its commands are executed again elsewhere
to the same bits. During an UPD the module fails (R245). As any reset it closes D1 (R364). -/
def State.coreReset (s : State) (k : CoreId) : State :=
  if (s.core k).inReset then s
  else
    let upd := (s.core k).inflight.any fun e => engOf e.ins = some .upe && e.phase ≠ .issued
    let s1 := ((s.raise 0x0040 engCmd (coreField k) 0 0 [] 0 0).modCore k fun c => { c with inReset := true }).fence k true
    let s2 := (s1.modCore k Core.resetDomain).closeD1
    if upd then s2.moduleLost else s2

/-- The core that CORE of RST_CORE names. -/
def State.rstCore (s : State) : CoreId := ⟨min 191 s.rst.core, by omega⟩

/-- A write to RST_CORE (R471, R472): a GO while BUSY is held. -/
def State.rstCoreWrite (s : State) (v : W32) : State :=
  let s1 := { s with rst := { s.rst with core := min 191 (bitsAt v.toNat 0 8) } }
  if ¬ v.getLsbD 8 then s1
  else if s1.rst.busy then { s1 with rst := { s1.rst with heldGo := true } }
  else { s1 with rst := { s1.rst with busy := true } }.coreReset s1.rstCore

/-- RST_CORE_GO (R472). -/
def execRstCoreGo (value : W32) (s : State) : Host.Outcome State Fault Refusal := .next (s.rstCoreWrite (value ||| 0x100#32))

/-- The resynchronisation of a core reset is over (R467; log 25: by the next millisecond): BUSY clears, a held GO takes
effect. -/
def State.resynced (s : State) : State :=
  if ¬ s.rst.busy then s
  else
    let out := fun (_ : Nat) (c : Core) => { c with inReset := false }
    let s1 := { s with rst := { s.rst with busy := false, heldGo := false }, cores := SMap.mapVals Core.zero out s.cores }
    if s.rst.heldGo then { s1 with rst := { s1.rst with busy := true } }.coreReset s1.rstCore else s1.startTests

/-! In-field tests. -/

/-- A queued retraining of an LPDDR5X channel starts at a step boundary (R155). -/
def State.startRetrain (s : State) : State :=
  match s.mm.retrain, s.mm.retrainQ with
  | none, c :: cs => if s.atBoundary then { s with mm := { s.mm with retrain := some c, retrainQ := cs } } else s
  | _, _ => s

/-- TEST (R396): no request is refused; a core number beyond the module's names none (REFUSED). -/
def execTest (m : Mb) (core : W16) (s : State) : Host.Outcome State Fault Refusal :=
  .next (s.request m 0x0063 false fun t =>
    if h : core.toNat < 192 then (t.queueTest ⟨core.toNat, h⟩, .ok) else (t, .refuse 0))

/-- INFIELD_TEST_DUE (R396). -/
def execInfieldTestDue (k : CoreId) (s : State) : Host.Outcome State Fault Refusal :=
  if ¬ s.hif.mbxUp then .next s else .next ((s.modCore k fun c => { c with testDue := true }).queueTest k)

/-- The end of a test of one core (R395, R396): the march leaves its column without contents. -/
def State.tested (s : State) (k : CoreId) (pass : Bool) : State :=
  let b := k.val * colStride
  let s1 := { s with
    mem := memClear s.mem b colTensor,
    chk := s.chk.filter fun e => e.1 < b / 4096 ∨ (b + colTensor) / 4096 ≤ e.1 }
  if pass then
    let s2 := s1.modCore k fun c =>
      { c with testDue := false, marchDue := false, passed := c.fenced && ! c.failed, charged := 0,
               mxe := { c.mxe with mismatch := 0 }, vxe := { c.vxe with mismatch := 0 }, upe := { c.upe with mismatch := 0 },
               cvu := { c.cvu with charges := 0 } }
    if (s2.core k).fenced then s2 else { s2 with mm := { s2.mm with oos := SMap.set false s2.mm.oos k.val false } }
  else
    ((s1.raise 0x0050 engCtrl (coreField k) 0 0 [] 0 1).modCore k fun c => { c with testDue := false, failed := true, passed := false }).fence
      k true

/-- INFIELD_TEST_COMPLETE (R396). -/
def execInfieldTestComplete (pass : Bool) (s : State) : Host.Outcome State Fault Refusal :=
  match s.tst.running with
  | none => .next s
  | some k => .next ({ s.tested k pass with tst := { s.tst with running := none } }.startTests)

/-- The coordinator (R302): the lowest module id that is not lost. -/
def State.coordinator (s : State) : Nat := (s.podIds.find? fun i => ! s.stp.lost.contains i).getD 0

/-- TEST_PAUSE (R398): with no free core at the limit, the core's logic is tested in a pause before the next attempt, its
column stays, and the march follows at job unload. -/
def execTestPause (k : CoreId) (s : State) : Host.Outcome State Fault Refusal :=
  if ¬ (s.core k).testDue ∨ s.freeCore.isSome ∨ ¬ s.jobColumns.contains k.val then .next s
  else
    let s1 := { s with stp := { s.stp with pauseMs := 40 }, tst := { s.tst with queue := s.tst.queue.filter (· ≠ k) } }
    let s2 := s1.modCore k fun c => { c with testDue := false, marchDue := true }
    .next (if s.coordinator = s.lnk.self.toNat then s2
      else s2.sendCtl (BitVec.ofNat 16 s.coordinator) (.testPause s.lnk.self))

end Sys2Proof.Machine
end

