-- ==== Sys2Proof/Machine/Reset.lean ====
section
/-! DEFINITION. Scrubs (R371, R372), job unload, module reset (R413, R465). -/

namespace Sys2Proof.Machine

open Sys2Proof

/-- Is an address stack SRAM: columns and the shared region (R11). -/
def isSram (a : Nat) : Bool := a < lpBase

/-- The module's memory without what a test keeps out. -/
def memKeep (f : Nat → Bool) (m : List Host.Cell) : List Host.Cell := m.filter fun e => f e.1

/-- Is an address in a granule of the usable area that is marked JOB, or in the Kelgil image copy and code areas that a
job scrub zeroes (R346, R371). -/
def State.jobLp (s : State) (a : Nat) : Bool :=
  match regionOf a with
  | .granule g => ! isHostGranule s g
  | .code _ => true
  | _ => false

/-- A core's registers, buffers and tiles cleared by a scrub; its check counters, event counters and traces stay. `vrel`: a
core fenced for the job only is released with it (R387). Counters of telemetry sources return to zero (R474). -/
def Core.scrubbed (vrel : Bool) (c0 : Core) : Core :=
  let c := if vrel then { c0 with frozen := false, skdFrozen := false, fenced := c0.fenced && ! c0.jobFence, jobFence := false } else c0
  let z := fun (_ : Nat) (x : EvCnt) => if 0x20 ≤ x.src ∧ x.src ≤ 0x27 then { x with cnt := 0 } else x
  { c with evc := { c.evc with cnts := SMap.mapVals ⟨0xFF, false, false, false, 0, 0⟩ z c.evc.cnts, live := false }, tiles := [], vregs := [], lt := [], inflight := [], waitq := [], fetching := false, loops := [],
           atCommit := false, ended := false, execs := [], vecOn := none, icache := [], cvu := { c.cvu with failhold := false } }

/-- No job any more (R346, R371, R427); a load under way is answered. The scale controller's registers keep their values until the
next load (R227); the cores are drained and their caches empty as the granules are unsealed (R144). -/
def State.dropJob (s0 : State) : State :=
  let s := match s0.job.load with
    | some l => s0.postReply ⟨0x0050, l.seq, if s0.quarantining then stQuar else stDebug, 0, .words s0.capability, none⟩
    | none => s0
  { s with job := .zero, stp := .zero, race := .zero, scc := { s.scc with nmanaged := 0 }, mm := { s.mm with sealed := [], jobMarks := false, jobKeys := none },
           sec := { s.sec with slots := [], ktDigest := none } }

/-- The job scrub (R371, R372): stack SRAM at zero with no valid check value, every core's registers and engine queues,
the job's keys, the image copy and the code granules; the job is gone. The fault ring and the log ring lie in the SRAM; their numbering goes on (R480). -/
def State.jobScrub (s : State) : State :=
  let cn := SMap.mapVals ⟨0x1FF, false, false, false, 0, 0⟩ (fun _ x => if x.src = 0x30 then { x with cnt := 0 } else x) s.mon.evc.cnts
  let vrel : Bool := match s.job.man with | some m => m.vrel | none => false
  let s1 := { s with
    mem := memKeep (fun a => ! isSram a && ! s.jobLp a) s.mem, chk := [], fws := [], lws := [], stepBase := 0, stepFirst := 0, fwsAt := [],
    cores := SMap.mapVals Core.zero (fun _ c => c.scrubbed vrel) s.cores,
    mm := { s.mm with poisoned := s.mm.poisoned.filter fun b => ! s.jobLp (b * 512) },
    lnk := { s.lnk with held := [], full := [], mirror := [] },
    mon := { s.mon with evc := { s.mon.evc with live := false, cnts := cn } },
    rings := { s.rings with fault := [], wait := [], log := [] } }
  s1.dropJob

/-- The full scrub (R341, R371): the job scrub, every engine register, host and firmware key sets drawn anew, link keys and the owner's key erased. What
lay in HOST granules and in the record area is lost with its keys (R341). -/
def State.fullScrub (s : State) : State :=
  let s1 := s.jobScrub
  let ps := SMap.mapVals Port.zero (fun _ p =>
    { p with keys := none, st := if p.st = .up ∨ p.st = .retune then .keying else p.st, ver := 0 }) s1.lnk.ports
  let eng := fun (_ : Nat) (c : Core) =>
    { c with mxe := .zero, vxe := .zero, upe := .zero, cvu := .zero, gexp := [], lcnt := [], lcntRec := [] }
  let fw := s1.drawSet
  let host := fw.2.drawSet
  let t := host.2
  { t with
    mem := [], cores := SMap.mapVals Core.zero eng s1.cores, outq := .zero,
    mm := { s1.mm with fwKeys := some fw.1, hostKeys := some host.1 },
    rings := { s1.rings with recs := [], copies := [], sigs := [] },
    lnk := { s1.lnk with ports := ps }, sec := { s1.sec with ownerKey := none } }

/-- A module reset (R413, R465, R466): the die at its reset values, everything plain or keyed anew gone. Bellows, the rails,
the NVM and the identity stay. A scrub that ran starts again after it (R372), and a transition that waits for its write
asks for it again; the boot ROM runs when the PLL is locked. -/
def State.moduleReset (s : State) (cause : Nat) : State :=
  let keep : TransK → TransK := fun t => match t with | .debugOpen _ => .jobScrub | x => x
  let tr := s.sec.trans.map keep
  let again : List NvmWrite := if s.sec.scrub then [] else (match tr with | some t => [.trans t] | none => [])
  { s with
    mem := [], chk := [], fws := [], lws := [], stepBase := 0, stepFirst := 0, fwsAt := [], mm := .zero, cores := [], job := .zero, stp := .zero, race := .zero,
    scc := .zero, rings := .zero, lnk := .zero, mon := .zero, outq := .zero,
    sec := { Sec.zero with
      sstate := s.sec.sstate, pstate := 0, seed := s.sec.seed, trans := tr, scrub := s.sec.scrub,
      queue := s.sec.queue.map keep, holdLog := s.sec.holdLog },
    nvm := { s.nvm with writes := again },
    hif := { Hif.zero with perst := s.hif.perst, blwStaged := s.hif.blwStaged },
    rst := { s.rst with dieUp := false, cause := cause, core := 0, busy := false, heldGo := false, wdogOn := false, wdogMs := 0 },
    tst := .zero
    blw := { s.blw with preq := 0, shown := false } }

/-- The next transition in line begins. -/
def State.nextTrans (s : State) : State :=
  let s1 := { s with sec := { s.sec with trans := none, scrub := false } }
  match s1.sec.queue with
  | [] => s1
  | t :: ts => { s1 with sec := { s1.sec with queue := ts } }.beginTrans t

end Sys2Proof.Machine
end

