-- ==== Sys2Proof/Machine/Security.lean ====
section
/-! DEFINITION. The security island: evidence (R336-R338), owners and keys (R339-R345), security transitions, scrubs and
authenticated writes (R361-R363, R371, R372, R408), quarantine causes (R362). -/

namespace Sys2Proof.Machine

open Sys2Proof

/-! Evidence. -/

/-- The manifest digest of key 22: of the body as it was delivered. -/
def State.evJob (s : State) : Option EvJob :=
  match s.job.st, s.job.man, s.job.prog with
  | .loaded, some m, some p | .stopped, some m, some p =>
    some { man := digestOf m.body, image := m.imgDigest, code := p.codeDigest, det := m.det, s := s.stp.s, nonce := s.job.nonce.getD 0 }
  | _, _, _ => none

/-- Evidence for a nonce (R337). -/
def State.evidence (s : State) (nonce : List Byte) : Evidence :=
  { seed := s.sec.seed.getD 0, serial := s.nvm.fac.serial, endorse := s.nvm.fac.endorse, blw := s.blw.bdigest, record := s.sec.recDigest,
    nonce := nonce, sstate := s.sec.sstate.code, dlevel := s.sec.dlevel,
    kelgil := s.hif.running.map fun f => (f.kver, f.digest), bver := s.blw.bver, octr := s.nvm.part.octr, ownh := s.nvm.part.ownh,
    fence := s.fenceMap, pod := s.lnk.self.toNat :: s.lnk.extents,
    qcause := if s.sec.sstate = .quarantine then s.nvm.part.qcause else 0, job := s.evJob }

/-! A negotiation anew (R262). -/

/-- The owner's hash a hello carries: zeros with no owner. -/
def State.ownHash (s : State) : Digest := s.nvm.part.ownh.getD 0

/-- The hello of this module on a port, with evidence for the peer's nonce, signed with the identity key (R262). -/
def State.ownHello (s : State) (p : Nat) (verifier : BitVec 256) : Hello :=
  let h : Hello :=
  { vmin := 1, vmax := 1, id := s.lnk.self, port := p, extents := s.lnk.extents, ownh := s.ownHash,
    kelgil := (s.hif.running.map (·.digest)).getD 0, sstate := BitVec.ofNat 2 s.sec.sstate.code,
    ev := (s.evidence (leBytes 32 verifier.toNat)).bytes, nonce := (s.port p).nonce, verifier := verifier, sig := [], sigOk := true }
  { h with sig := idSign (s.sec.seed.getD 0) (Config.helloBytes h) }

/-- A port begins a negotiation anew (R262): no keys, a nonce of its own for the peer's evidence, and the hello that opens it, before any
of the peer's (log 145). -/
def State.negotiate (s : State) (p : Nat) (st : PortSt) : State :=
  let d := s.draw
  let s1 := d.2.modPort p fun x =>
    { x with keys := none, hello := none, ver := 0, said := none, eph := none, keyMsg := [], nonce := d.1, st := st }
  if st = .keying then s1.modPort p fun x => { x with said := some (s1.ownHello p 0) } else s1

/-- A change of security state or of owner, or of the running Kelgil: every port loses its keys and negotiates again
(R264, R436). A port that retunes does so after it, and one whose map entry breaks R254 stays out. -/
def State.rekey (s : State) : State :=
  let f := fun (t : State) (p : Nat) =>
    t.negotiate p (match (t.port p).st with | .up => .keying | .heldOut => if t.mapOk p then .keying else .heldOut | x => x)
  s.mappedPorts.foldl f s

/-! Evidence to the host. -/

/-- EVIDENCE (R338): a nonce of 16 to 64 bytes, in every state. -/
def execEvidence (m : Mb) (nonce : Digest) (s : State) : Host.Outcome State Fault Refusal :=
  .next (s.request m 0x0010 true fun t =>
    let n := m.length.toNat
    if n < 16 ∨ 64 < n ∨ ¬ t.sec.idOk then (t, .refuse 0)
    else (t, .now stOk 0 (.evidence (t.evidence (leBytes n nonce.toNat)))))

/-- ATTGO (R431): evidence into the attestation buffer, or ATTFAIL for a length that is not one; nothing while PERST# is held (R466). -/
def execAttgo (s : State) : Host.Outcome State Fault Refusal :=
  if ¬ s.rst.dieUp ∨ s.hif.perst ∨ s.sec.pstate ≥ 3 ∨ ¬ s.sec.idOk then .next s
  else
    let n := s.hif.attNlen.toNat
    if n < 16 ∨ 64 < n then .next ({ s with hif := { s.hif with attFail := true, evidence := none, elen := 0 } }.hifIrq 4)
    else
      let e := s.evidence (slice s.hif.attNonce 0 n)
      .next ({ s with hif := { s.hif with attFail := false, evidence := some e, elen := e.bytes.length } }.hifIrq 4)

/-! Transitions. -/

/-- The request type whose reply a transition gives, with its SEQ. -/
def TransK.reply : TransK → Option (Nat × W32)
  | .install _ q => some (0x0041, q)
  | .release q => some (0x0043, q)
  | .reclaim q => some (0x0044, q)
  | .factoryEntry q => some (0x0046, q)
  | .factoryExit q => some (0x0047, q)
  | .jobUnload q => some (0x0051, q)
  | _ => none

/-- Answer the request of a transition. -/
def State.transReply (s : State) (t : TransK) (st : Nat) (p : Payload) : State :=
  match t.reply with | some r => s.postReply ⟨r.1, r.2, st, 0, p, none⟩ | none => s

/-- May a transition still begin from the state the module has come to (R361). -/
def State.transOk (s : State) : TransK → Bool
  | .install .. => s.sec.sstate = .open' && decide (s.sec.dlevel < 2)
  | .release _ | .reclaim _ => s.sec.sstate = .owned || s.sec.sstate = .quarantine
  | .factoryEntry _ => s.sec.sstate = .open'
  | .factoryExit _ => s.sec.sstate = .factory
  | .quarantine _ => s.sec.sstate ≠ .quarantine
  | .debugOpen l => s.sec.sstate ≠ .quarantine && decide (s.sec.pstate < 2) && decide (s.sec.dlevel < l)
  | .jobUnload _ => s.job.st ≠ .none
  | .jobScrub => true

/-- Go on with the transitions in line: one that no longer applies is answered; a later quarantine cause is logged. -/
def State.followTrans : Nat → State → State
  | 0, s => s
  | n + 1, s =>
    let s1 := { s with sec := { s.sec with trans := none, scrub := false } }
    match s1.sec.queue with
    | [] => s1
    | t :: ts =>
      let s2 := { s1 with sec := { s1.sec with queue := ts } }
      if s2.transOk t then s2.beginTrans t
      else
        State.followTrans n (match t with
          | .quarantine c => s2.log 0x0007 2 [c]
          | _ => s2.transReply t (if s2.sec.sstate = .quarantine then stQuar else stState) .none)

/-- May a job that is loaded be unloaded at once: no step of it is under way. -/
def State.idleJob (s : State) : Bool :=
  match s.job.st with
  | .loaded => s.stp.phase = .between || s.stp.phase = .restore || s.stp.phase = .rollback
  | .loading => false
  | _ => true

/-- May a park take effect (R370): with a job loaded, when every core has completed STEPEND of the current step; a step that waits for a
replica or a checkpoint has not been completed. -/
def State.parkIdle (s : State) : Bool := s.job.st ≠ .loaded || s.stp.phase = .between

/-- A park that was asked for takes effect (R370, R375): between steps, with no transition under way. -/
def State.parkDue (s : State) : State :=
  if ¬ s.sec.parkReq ∨ s.sec.trans.isSome ∨ ¬ s.parkIdle then s
  else
    let s1 := { s with sec := { s.sec with parkReq := false } }
    if s.sec.pstate ≥ 2 ∨ s.sec.dlevel ≥ 2 ∨ s.quarantining then s1 else s1.setStates s.sec.sstate s.sec.dlevel 2

/-- What waited for the end of a step takes effect: unloads in order, then a park. -/
def State.settleStep (s : State) : State :=
  if ¬ s.idleJob then s
  else
    let reqs := s.job.unloadReq
    (reqs.foldl State.startTrans { s with job := { s.job with unloadReq := [] } }).parkDue

/-- The transition under way has ended. -/
def State.endTrans (s : State) : State :=
  let t := State.followTrans (s.sec.queue.length + 1) s
  (if t.idleJob then t.parkDue else t).startRetrain

/-- A job that was there has ended with a scrub, which empties the log ring: an entry of why (R480, R482). -/
def State.logUnload (s was : State) (reason : Nat) : State := if was.job.st = .none then s else s.log 0x0002 2 [reason]

/-- Cores whose column march was put off are tested at the unload (R398). -/
def State.marchTests (s : State) : State :=
  (allCores.filter fun k => (s.core k).marchDue).foldl (fun t k => t.queueTest k) s

/-- Does a change advance the owner counter (R408). -/
def NvmWrite.advances (d : DevPart) : NvmWrite → Bool
  | .trans _ => true
  | .cause _ => true
  | .fence _ => false
  | .site c _ => c.factory ≠ d.factory

/-- The device part after a change (R407, R408). -/
def DevPart.change (d : DevPart) (w : NvmWrite) : DevPart :=
  let d1 := { d with gen := d.gen + 1, octr := if w.advances d then d.octr + 1 else d.octr }
  match w with
  | .fence f => { d1 with fence := f }
  | .cause q => { d1 with qcause := q }
  | .site c _ =>
    { d1 with coords := (c.pod.take 4).map (·.toNat), extents := (c.pod.drop 4).map (fun b => b.toNat + 1), linkmap := c.linkmap,
              sitelim := c.limits, factory := c.factory }
  | .trans t =>
    match t with
    | .install k _ => { d1 with ownh := some (digestOf k) }
    | .release _ | .reclaim _ => { d1 with ownh := none, qcause := 0, factory := false }
    | .factoryEntry _ => { d1 with factory := true }
    | .factoryExit _ => { d1 with factory := false }
    | .quarantine c => { d1 with qcause := c }
    | _ => d1

/-- The new device part is in force (R408): written to the slot that does not hold the current part; then counter 1, and counter 0 where
the owner counter advanced. -/
def State.writePart (s : State) (w : NvmWrite) : State :=
  let n := s.nvm
  let p := n.part.change w
  let c1 := n.ctrs.set 1 p.gen
  { s with nvm := { n with
      part := p, slotA := if n.slotA = some n.part then n.slotA else some p, slotB := if n.slotA = some n.part then some p else n.slotB
      ctrs := if w.advances n.part then c1.set 0 p.octr else c1 } }

/-- Type and SEQ of a message that may wait in P2. -/
def parkedMsg : Instr → Option (Nat × W32)
  | .install m _ _ => some (0x0041, m.seq)
  | .ownerKey m _ => some (0x0042, m.seq)
  | .release m _ => some (0x0043, m.seq)
  | .keyTable m _ _ => some (0x0045, m.seq)
  | .jobLoad m _ _ _ => some (0x0050, m.seq)
  | .tokenManifest m _ _ => some (0x0052, m.seq)
  | .groupUpdate m _ _ => some (0x0053, m.seq)
  | .audit m _ _ => some (0x0054, m.seq)
  | .checkpoint m _ => some (0x0055, m.seq)
  | .siteConfig m _ _ => some (0x0030, m.seq)
  | .jobUnload m => some (0x0051, m.seq)
  | _ => none

/-- Every message that waited in P2 is answered QUARANTINED. -/
def State.dropOwnMsgs (s : State) : State :=
  s.sec.ownMsgs.foldl (fun t i => match parkedMsg i with | some q => t.postReply ⟨q.1, q.2, stQuar, 0, t.bare q.1, none⟩ | none => t)
    { s with sec := { s.sec with ownMsgs := [] } }

/-- A security transition takes effect with its write (R361). -/
def State.effectTrans (s : State) (t : TransK) : State :=
  match t with
  | .install k _ =>
    let s1 := { s with sec := { s.sec with ownerKey := some k } }
    let s2 := s1.rekey.setStates .owned s1.sec.dlevel s1.sec.pstate
    (s2.transReply t stOk (.installed (wrapKey (s2.sec.seed.getD 0)) (s2.evidence []))).endTrans
  | .release _ | .reclaim _ =>
    let s1 := { s with sec := { s.sec with ownerKey := none } }
    ((s1.rekey.setStates .open' s1.sec.dlevel s1.sec.pstate).transReply t stOk (.words [s.sec.discarded])).endTrans
  | .factoryEntry _ => ((s.rekey.setStates .factory s.sec.dlevel s.sec.pstate).transReply t stOk .none).endTrans
  | .factoryExit _ =>
    (((s.setStates .open' s.sec.dlevel s.sec.pstate).transReply t stOk .none).endTrans).moduleReset 2
  | .quarantine _ => ((s.holdPorts.setStates .quarantine 0 (if s.sec.pstate = 2 then 0 else s.sec.pstate)).dropOwnMsgs).endTrans
  | _ => s.endTrans

/-- AUTHENTICATED_WRITE_COMPLETE (R408): the increment of counter 1 completes, and the oldest change asked for is in
force. -/
def execAuthenticatedWriteComplete (s : State) : Host.Outcome State Fault Refusal :=
  match s.nvm.writes with
  | [] => .next s
  | w :: ws =>
    if s.sec.pstate ≥ 3 then .next s else
    let s1 := { s with nvm := { s.nvm with writes := ws } }.writePart w
    match w with
    | .trans t => .next (s1.effectTrans t)
    | .site _ q => .next (s1.postReply ⟨0x0030, q, stOk, 0, .none, none⟩)
    | _ => .next s1

/-! Quarantine causes. -/

/-- Does the island watch its monitors: the core rail is up, a hold included (R374), and the die runs. -/
def State.islandUp (s : State) : Bool := decide (s.sec.pstate < 4) && s.rst.dieUp

/-- SUPPLY (R362): not during a ramp that Bellows has announced. -/
def execSupply (s : State) : Host.Outcome State Fault Refusal :=
  if s.blw.ramp ∨ ¬ s.islandUp then .next s else .next (s.quarantine 1)

/-- CLOCK (R362): while the PLL is locked. -/
def execClock (s : State) : Host.Outcome State Fault Refusal :=
  if ¬ s.rst.locked ∨ ¬ s.islandUp then .next s else .next (s.quarantine 2)

/-- SHIELD (R362). -/
def execShield (s : State) : Host.Outcome State Fault Refusal :=
  if ¬ s.islandUp then .next s else .next (s.quarantine 3)

/-! Owner and vendor messages. -/

/-- INSTALL_NONCE (R339): 32 fresh bytes, in OPEN, valid until they are used or the next start. -/
def execInstallNonce (m : Mb) (s : State) : Host.Outcome State Fault Refusal :=
  .next (s.request m 0x0040 false fun t =>
    if t.sec.sstate ≠ .open' then (t, .no stState)
    else
      let d := t.draw
      ({ d.2 with sec := { d.2.sec with instNonces := d.2.sec.instNonces ++ [d.1] } }, .now stOk 0 (.bytes (leBytes 32 d.1.toNat))))

/-- What an install message brings (R339, R340, R368): the signature is the new owner's own, over the next owner counter. -/
def doInstall (m : Mb) (e : Envelope) (c : InstallMsg) (s : State) : State × Answer :=
  if s.sec.dlevel ≥ 2 then s.ownAnswer m 0x0041 (.no stDebug)
  else if s.sec.sstate ≠ .open' then s.ownAnswer m 0x0041 (.no stState)
  else if e.devid ≠ s.devid ∨ e.octr ≠ s.nvm.part.octr + 1 ∨ e.signer ≠ some (digestOf c.key) ∨ ¬ s.sec.instNonces.contains c.nonce then
    s.ownAnswer m 0x0041 (.no stSig)
  else ({ s with sec := { s.sec with instNonces := s.sec.instNonces.erase c.nonce } }.startTrans (.install c.key m.seq), .later)

/-- INSTALL. -/
def execInstall (m : Mb) (e : Envelope) (c : InstallMsg) (s : State) : Host.Outcome State Fault Refusal :=
  .next (s.parkRequest m 0x0041 false (.install m e c) (doInstall m e c))

/-- What OWNER_KEY brings (R339): the key is accepted when its hash is the boot record's. -/
def doOwnerKey (key : List Byte) (s : State) : State × Answer :=
  if s.sec.sstate ≠ .owned then (s, .no stState)
  else if s.nvm.part.ownh ≠ some (digestOf key) then (s, .no stSig)
  else ({ s with sec := { s.sec with ownerKey := some key } }, .ok)

/-- OWNER_KEY. -/
def execOwnerKey (m : Mb) (key : List Byte) (s : State) : Host.Outcome State Fault Refusal :=
  .next (s.parkRequest m 0x0042 false (.ownerKey m key) (doOwnerKey key))

/-- A transition that first unloads the job: at once, or after the current step (R341, R427). -/
def State.unloadFor (s : State) (t : TransK) : State :=
  if s.idleJob then s.startTrans t else { s with job := { s.job with unloadReq := s.job.unloadReq ++ [t] } }

/-- Does the owner in force sign an envelope (R341); a release in QUARANTINE is checked against the boot record. -/
def State.ownSigned (s : State) (e : Envelope) : Bool :=
  e.devid = s.devid && e.octr = s.nvm.part.octr
    && (match e.signer, s.nvm.part.ownh with | some k, some o => k = o | _, _ => false)

/-- What a release brings (R341, R361). -/
def doRelease (m : Mb) (e : Envelope) (s : State) : State × Answer :=
  if (s.sec.sstate ≠ .owned ∧ s.sec.sstate ≠ .quarantine) ∨ s.releasing then s.ownAnswer m 0x0043 (.no stState)
  else if ¬ s.ownSigned e then s.ownAnswer m 0x0043 (.no stSig)
  else (s.unloadFor (.release m.seq), .later)

/-- RELEASE. -/
def execRelease (m : Mb) (e : Envelope) (s : State) : Host.Outcome State Fault Refusal :=
  .next (s.parkRequest m 0x0043 true (.release m e) (doRelease m e))

/-! The key table (R344). -/

/-- Its bytes [87:0]. -/
def ktHead (c : KeyTableMsg) : List Byte :=
  leBytes 4 c.magic.toNat ++ leBytes 2 c.nent.toNat ++ leBytes 2 c.rsvd.toNat ++ leBytes 16 c.devid.toNat ++ leBytes 64 c.ownh.toNat

/-- The whole message. -/
def ktBytes (c : KeyTableMsg) : List Byte :=
  let ent := fun (e : KeyEntry) => leBytes 1 e.slot.toNat ++ leBytes 1 e.role.toNat ++ leBytes 2 e.rsvd.toNat ++ e.iv ++ e.wrapped ++ e.tag
  ktHead c ++ c.kemct ++ c.entries.flatMap ent ++ c.sig

/-- The table key of a message in a module of an identity. -/
def tableKey (c : KeyTableMsg) (seed : BitVec 256) : List Byte :=
  shake256 32 (ascii "TGZ2 keytable" ++ leBytes 32 (Config.kemOpen (wrapSeed seed) c.kemct).toNat ++ ktHead c)

/-- The key of an entry under a table key. -/
def entryKey (e : KeyEntry) (key : List Byte) : Option (BitVec 256) :=
  (gcmOpen key e.iv [e.slot, e.role] e.wrapped e.tag).map fun b => BitVec.ofNat 256 (leNat b)

/-- Does a table keep its layout: MAGIC, the number of entries, reserved bytes at zero. -/
def ktFormOk (c : KeyTableMsg) : Bool :=
  c.magic = 0x4241544B#32 && c.rsvd = 0 && decide (c.nent.toNat = c.entries.length) && c.entries.all fun e => e.rsvd = 0

/-- The staged block that fails its MAC as a table passed by reference is read (R154, R423). -/
def State.tableBad (s : State) (c : KeyTableMsg) (poison : Option Nat) : Option Nat :=
  if (ktBytes c).length ≤ 4080 then none
  else poison.filter fun b => decide (lpBase ≤ 512 * b ∧ 512 * b < lpBase + s.mm.stageg * granSize)

/-- What a key table brings (R344, R345). One that cannot be read has no signature that verifies (R154; log 156). -/
def doKeyTable (m : Mb) (c : KeyTableMsg) (poison : Option Nat) (s : State) : State × Answer :=
  let slots := c.entries.map (·.slot)
  let role := fun (r : Nat) => (c.entries.filter fun x => x.role.toNat = r).length
  let key := tableKey c (s.sec.seed.getD 0)
  if s.sec.dlevel ≥ 2 then s.ownAnswer m 0x0045 (.no stDebug)
  else if s.sec.sstate ≠ .owned ∨ s.releasing ∨ s.job.st ≠ .none then s.ownAnswer m 0x0045 (.no stState)
  else if (s.tableBad c poison).isSome then
    (s.macFail (512 * (s.tableBad c poison).getD 0) noCore).ownAnswer m 0x0045 (.no stSig)
  else if c.devid ≠ s.devid ∨ c.signer ≠ s.nvm.part.ownh ∨ s.nvm.part.ownh ≠ some c.ownh ∨ s.sec.ownerKey = none then
    s.ownAnswer m 0x0045 (.no stSig)
  else if ¬ ktFormOk c ∨ c.entries.isEmpty ∨ c.entries.length > 255 ∨ slots.eraseDups.length ≠ slots.length
      ∨ c.entries.any (fun x => x.slot = 0 || decide (x.role.toNat = 0 ∨ 4 < x.role.toNat) || (entryKey x key).isNone) ∨ role 1 = 0 ∨ role 3 ≠ 1 then
    s.ownAnswer m 0x0045 (.refuse 0)
  else
    let t := c.entries.foldl (fun (a : SMap KeySlot) x => SMap.set .zero a x.slot.toNat ⟨x.role.toNat, (entryKey x key).getD 0⟩) []
    ({ s with sec := { s.sec with slots := t, ktDigest := some (digestOf (ktBytes c)) } }, .ok)

/-- KEY_TABLE where the read of a table passed by reference may have to wait. -/
def keyTableAt (m : Mb) (c : KeyTableMsg) (poison : Option Nat) : State → State × Answer :=
  whenFree (fun t => if (ktBytes c).length ≤ 4080 then [] else [t.stagePiece]) (.keyTable m c poison) (doKeyTable m c poison)

/-- KEY_TABLE. -/
def execKeyTable (m : Mb) (c : KeyTableMsg) (poison : Option Nat) (s : State) : Host.Outcome State Fault Refusal :=
  .next (s.parkRequest m 0x0045 false (.keyTable m c poison) (keyTableAt m c poison))

/-- What JOB_UNLOAD brings (R427): the job goes after the current step. -/
def doJobUnload (m : Mb) (s : State) : State × Answer :=
  if s.sec.sstate ≠ .owned ∨ s.job.st = .none ∨ s.job.st = .loading then (s, .no stState)
  else (s.unloadFor (.jobUnload m.seq), .later)

/-- JOB_UNLOAD. In P2 it waits for unpark: a scrub always runs at the full STACK clock (R372; log 162). -/
def execJobUnload (m : Mb) (s : State) : Host.Outcome State Fault Refusal :=
  .next (s.parkRequest m 0x0051 false (.jobUnload m) (doJobUnload m))

/-! The NVM bus. -/

/-- NVM_REQ (R495): the switch closes only with the core rail down; until then the low pin has no effect. -/
def execNvmReq (s : State) : Host.Outcome State Fault Refusal :=
  .next { s with nvm := { s.nvm with req := true, lent := s.sec.pstate = 4 } }

/-- NVM_REQ_RELEASE. -/
def execNvmReqRelease (s : State) : Host.Outcome State Fault Refusal := .next { s with nvm := { s.nvm with req := false, lent := false } }

end Sys2Proof.Machine
end

