-- ==== Sys2Proof/Machine/Start.lean ====
section
/-! DEFINITION. Start-up and resets (R333, R357, R404-R417, R431, R439, R460, R465, R470), the hold sequence and power
states (R369-R374, R453, R454). -/

namespace Sys2Proof.Machine

open Sys2Proof

/-! Phases of the boot ROM. -/

/-- Failure codes of HIF_STATUS (R431). -/
def failIdentity : Nat := 1
def failBootrec : Nat := 2
def failFormat : Nat := 3
def failSig : Nat := 4
def failRange : Nat := 5
def failRollback : Nat := 6
def failKelgil : Nat := 7

/-- Halt at the emulated registers with a code. -/
def State.halt (s : State) (code : Nat) : State := { s with hif := { s.hif with fail := code } }.setPhase 6

/-- The security state that the boot record gives (R357). -/
def DevPart.sstate (d : DevPart) : SState :=
  if d.qcause ≠ 0 then .quarantine else if d.factory then .factory else if d.ownh.isSome then .owned else .open'

/-- The hold ring at a start (R409): an odd counter 4 means a record to be applied once, where its slot reads back (`ok`) and its check
bytes verify. -/
def State.readHold (s : State) (ok : Bool) : State :=
  let c4 : W64 := s.nvm.ctrs.getD 4 0
  if c4.getLsbD 0 = false then s
  else
    let n := c4.toNat / 2 % 2048
    let h := SMap.get HoldRec.zero s.nvm.hold n
    let r := if ok ∧ SMap.get 0 s.nvm.holdChk n = holdCheck (s.sec.seed.getD 0) h (c4 - 1) then some h else none
    let s1 := (match r with | some h => if h.qcause = 0 then s else s.writePart (.cause h.qcause) | none => s)
    { s1 with nvm := { s1.nvm with ctrs := s1.nvm.ctrs.set 4 (c4 + 1) }, sec := { s1.sec with holdLog := s1.sec.holdLog ++ [r] } }

/-- A change takes force in a start: state, pod coordinates, link map, fenced cores (R253, R357, R395). -/
def State.applyPart (s : State) : State :=
  let d := s.nvm.part
  let s1 := { s with
    sec := { s.sec with sstate := d.sstate, dlevel := 0 },
    lnk := { s.lnk with map := d.linkmap, extents := d.extents, self := BitVec.ofNat 16 (idOf d.coords) } }
  (allCores.filter fun k => d.fence.contains k.val).foldl (fun t k =>
    { t.modCore k fun c => { c with fenced := true } with mm := { t.mm with oos := SMap.set false t.mm.oos k.val true } }) s1

/-! The boot record in bytes (R405-R407, R444). -/

/-- A limits block. -/
def limitsBytes (l : Limits) : List Byte :=
  sized 256 ([l.pinMax, l.pPeak, l.pPeakT, l.iinMax, l.rampUp, l.grantLead, l.tjSet, l.tj1, l.tj2, l.tj3, l.tinMax, l.toutMax, l.flowMin,
    l.kFlow, l.vMin, l.slew, l.kp, l.ti, l.rlIn, l.rlOut].flatMap (leBytes 2))

/-- The factory part (R406). -/
def Nvm.factory (n : Nvm) : List Byte :=
  leBytes 4 0x52424754 ++ leBytes 2 1 ++ leBytes 2 0 ++ leBytes 32 n.fac.serial.toNat ++ leBytes 4 n.fac.step.toNat
    ++ sized 20 (n.fac.ctrids.flatMap fun x => leBytes 4 x.toNat) ++ limitsBytes n.faclim ++ sized 8192 n.fac.helper
    ++ sized 1280 n.fac.endorse ++ sized 1280 n.fac.sig

/-- Bytes 0x0000 to 0x023F of a device part (R407). -/
def DevPart.bytes (d : DevPart) : List Byte :=
  let ent := fun (e : LinkEntry) => leBytes 4 (e.peer.toNat + e.port % 64 * 2 ^ 16 + (if e.valid then 2 ^ 22 else 0))
  leBytes 4 0x52444754 ++ leBytes 2 1 ++ leBytes 1 (if d.factory then 1 else 0) ++ leBytes 1 d.qcause ++ leBytes 8 d.gen.toNat
    ++ leBytes 8 d.octr.toNat ++ (d.coords.flatMap (leBytes 1)) ++ (d.extents.flatMap fun x => leBytes 1 (x - 1))
    ++ sized 192 (d.linkmap.flatMap ent) ++ limitsBytes d.sitelim ++ leBytes 64 (d.ownh.getD 0).toNat
    ++ leBytes 24 (d.fence.foldl (fun a k => a + 2 ^ k) 0) ++ leBytes 8 0

/-- The digest of the boot record as a start reads it (R337): the factory part and the device part in force, signed by the identity
(log 146). -/
def Nvm.digest (n : Nvm) (seed : BitVec 256) : Digest :=
  digestOf (n.factory ++ n.part.bytes ++ idSign seed n.part.bytes)

/-- The slot that a start uses (R408): the one whose GEN is counter 1 and whose signature verifies. -/
def Nvm.pick (n : Nvm) (e : BootEnv) : Option DevPart :=
  let good := fun (p : Option DevPart) (ok : Bool) => if ok then p.filter fun d => decide (d.gen = n.ctrs.getD 1 0) else none
  (good n.slotA e.slotAOk).or (good n.slotB e.slotBOk)

/-- Step 5 of the cold start (R411): the factory part, the identity, which a module reset keeps (R413), the device part, the
hold ring, the security state, the key sets; then the boot ROM waits for firmware. -/
def State.bootRom (s : State) (e : BootEnv) : State :=
  let id := s.sec.seed.or (if s.rst.cause = 0 then s.regenerate e.reads else none)
  match e.factoryOk, id with
  | false, _ => s.halt failBootrec
  | true, none => s.halt failIdentity
  | true, some seed =>
    let s1 := { s with sec := { s.sec with seed := some seed } }
    match s.nvm.pick e with
    | none => s1.halt failBootrec
    | some d =>
      let n := { s1.nvm with part := d, ctrs := s1.nvm.ctrs.set 0 d.octr }
      let c0 := { s1 with nvm := n, sec := { s1.sec with recDigest := n.digest seed } }
      let s2 := (c0.readHold e.holdOk).applyPart
      let fw := s2.drawSet
      let host := fw.2.drawSet
      { host.2 with mm := { s2.mm with fwKeys := some fw.1, hostKeys := some host.1 } }.setPhase 1

/-- PLL_LOCK (R460): the root PLL locks, the die's reset is released and the boot ROM runs. -/
def execPllLock (e : BootEnv) (s : State) : Host.Outcome State Fault Refusal :=
  if s.sec.pstate ≥ 3 ∨ s.rst.dieUp then .next s
  else
    let s1 := { s with rst := { s.rst with locked := true, dieUp := true }, blw := { s.blw with shown := false } }
    .next (s1.bootRom e)

/-- PLL_LOCK_LOSS (R460): the root clocks stop and the die is held in module reset; a hold goes on to its end (R369; log 163). -/
def execPllLockLoss (s : State) : Host.Outcome State Fault Refusal :=
  if ¬ s.rst.locked then .next s
  else if s.sec.pstate = 4 then .next { s with rst := { s.rst with locked := false } }
  else
    let s1 := s.moduleReset 5
    .next { s1 with
      rst := { s1.rst with locked := false }
      sec := if s.sec.pstate = 3 then { s1.sec with pstate := 3, hold := s.sec.hold } else s1.sec }

/-! Input power. -/

/-- Combine a limit of the site with the factory's (R444). -/
def combine (how : Nat) (fac site : Nat) : Nat :=
  if site = 0 then fac else if how = 0 then min fac site else if how = 1 then max fac site else site

/-- The limits that apply (R444): lower 0, higher 1, site 2. -/
def siteOver (f s : Limits) : Limits :=
  { pinMax := combine 0 f.pinMax s.pinMax, pPeak := combine 0 f.pPeak s.pPeak, pPeakT := combine 0 f.pPeakT s.pPeakT,
    iinMax := combine 0 f.iinMax s.iinMax, rampUp := combine 0 f.rampUp s.rampUp, grantLead := combine 1 f.grantLead s.grantLead,
    tjSet := combine 0 f.tjSet s.tjSet, tj1 := combine 0 f.tj1 s.tj1, tj2 := combine 0 f.tj2 s.tj2, tj3 := combine 0 f.tj3 s.tj3,
    tinMax := combine 0 f.tinMax s.tinMax, toutMax := combine 0 f.toutMax s.toutMax, flowMin := combine 1 f.flowMin s.flowMin,
    kFlow := combine 2 f.kFlow s.kFlow, vMin := combine 1 f.vMin s.vMin, slew := combine 0 f.slew s.slew, kp := combine 2 f.kp s.kp,
    ti := combine 2 f.ti s.ti, rlIn := combine 2 f.rlIn s.rlIn, rlOut := combine 2 f.rlOut s.rlOut }

/-- The limits of the NVM as Bellows reads them. -/
def Nvm.limits (n : Nvm) : Limits := siteOver n.faclim n.part.sitelim

/-- Level of a cause of Bellows (R451). -/
def causeLevel (c : Nat) : Nat :=
  if c = 1 ∨ c = 4 ∨ c = 5 ∨ c = 8 then 1 else if c = 3 ∨ c = 10 ∨ c = 11 ∨ c = 13 ∨ c = 14 then 3 else 2

/-- The level in force. -/
def Blw.level (b : Blw) : Nat := (b.causes.map causeLevel).foldl max 0

/-- Above this input, in 0.01 V, the module's behaviour is undefined (R441). -/
def vinRating : Nat := 7200

/-- STANDBY_START (R441): Bellows and the NVM run; Bellows starts from its reset values with the image bank it has. -/
def execStandbyStart (vin : Nat) (s : State) : Host.Outcome State Fault Refusal :=
  if vin > vinRating then .fault .overRating
  else if s.blw.powered ∨ vin ≤ 2000 then .next s
  else
    .next { s with blw := { Blw.zero with powered := true, vin := vin, lim := s.nvm.limits, bank := s.blw.bank, bver := s.blw.bver, bsvn := s.blw.bsvn, bdigest := s.blw.bdigest } }

/-- The Bellows image at a cold start (R437): a staged bank that passes Bellows' own check runs, the old one otherwise. -/
def State.blwBank (s : State) (ok : Bool) : State :=
  match s.hif.blwStaged with
  | none => s
  | some f =>
    let s1 := { s with hif := { s.hif with blwStaged := none } }
    if ok then { s1 with blw := { s1.blw with bank := ! s1.blw.bank, bver := f.kver, bsvn := f.svn, bdigest := f.digest } } else s1

/-- The bank voltage, in mV, at which it holds 25 J (R452). -/
def vbankStart : Nat := 11662

/-- Steps 1 to 3 of the cold start (R411, R452, R495): the limits are read, the bank is charged to 25 J, the switch closes and the rails
rise, unless the NVM is lent or the bank has too little capacity. No level-3 cause is in force any more: its emergency ends here. -/
def State.coldStart (s : State) (vin capacity : Nat) (bankOk : Bool) : State :=
  if ¬ s.blw.powered ∨ s.sec.pstate ≠ 4 ∨ s.nvm.lent ∨ vin < 4000 ∨ vin > 6000 then s
  else
    let s1 := s.blwBank bankOk
    let b := { s1.blw with vin := vin, lim := s1.nvm.limits, worn := decide (capacity < 3000), noStart := decide (capacity < 2500) }
    if capacity < 2500 then { s1 with blw := b }
    else
      let ended := b.causes.any fun c => decide (causeLevel c = 3)
      { s1 with blw := { b with switch := true, ramp := true, lock3 := none, causes := b.causes.filter fun c => decide (causeLevel c < 3),
                                vbank := max b.vbank vbankStart, emergEnd := if ended then some b.ms else b.emergEnd }, sec := { s1.sec with pstate := 0 },
                rst := { s1.rst with cause := 0 } }

/-- INPUT_VALID (R411). After a level-3 cause the switch stays open (R451). -/
def execInputValid (e : ColdEnv) (s : State) : Host.Outcome State Fault Refusal :=
  if e.vin > vinRating then .fault .overRating
  else if s.blw.lock3.isSome then .next s
  else .next (s.coldStart e.vin e.capacity e.bankOk)

/-! Kelgil. -/

/-- MAGIC of a Kelgil image and of a Bellows image (R414). -/
def kelgilMagic : Nat := 0x4C474B54
def bellowsMagic : Nat := 0x574C4254

/-- The checks of R415 of an image of a kind against its security-version counter: the code of the first that fails. -/
def fwCheck (magic : Nat) (f : FwImage) (svn : W64) : Option Nat :=
  if f.magic ≠ magic ∨ f.fmt ≠ 1 ∨ ¬ f.laidOut then some failFormat
  else if ¬ f.sigOk then some failSig
  else if ¬ f.mask.getLsbD 3 ∨ f.romMin > 0x100 ∨ f.romMax < 0x100 then some failRange
  else if f.svn.toNat < svn.toNat then some failRollback
  else none

/-- Bytes of an owner's public key (R343). -/
def ownKeyLen : Nat := 1793

/-- The image that the host has left in window 0 (R431, R433): HIF_FW_LEN bytes from offset 0. -/
def State.fwImage (s : State) (sigOk : Bool) : FwImage := ⟨memRange s.mem lpBase s.hif.fwLen.toNat, sigOk⟩

/-- The owner's public key in window 0 (R431): at HIF_FW_OWNK, or none. -/
def State.fwOwnKey (s : State) : Option (List Byte) :=
  if s.hif.fwOwnk = 0 then none else some (memRange s.mem (lpBase + s.hif.fwOwnk.toNat) ownKeyLen)

/-- The block of an image or of a key that fails its MAC as it is read from window 0 (R154). -/
def State.fwBad (s : State) (poison : Option Nat) : Option Nat :=
  (s.macBad lpBase s.hif.fwLen.toNat poison).or
    (if s.hif.fwOwnk = 0 then none else s.macBad (lpBase + s.hif.fwOwnk.toNat) ownKeyLen poison)

/-- A load of Kelgil ends with a failure code (R415). -/
def State.fwFailed (s : State) (c : Nat) : State :=
  ({ s with hif := { s.hif with fwFail := c, fwDone := false, fwBusy := false } }.halt c).hifIrq 2

/-- FWGO (R415, R433): a load of Kelgil from window 0, with the owner's public key beside it (R339); `sigOk` tells whether the image's
signature verifies, `poison` a block that fails its MAC: what cannot be read has no signature that verifies (R154; log 160). -/
def execFwgo (sigOk : Bool) (poison : Option Nat) (s : State) : Host.Outcome State Fault Refusal :=
  if ¬ s.rst.dieUp ∨ s.hif.perst ∨ s.sec.pstate ≥ 3 ∨ ¬ (s.hif.phase = 1 ∨ (s.hif.phase = 6 ∧ s.hif.fail ≥ failFormat)) then .next s
  else
    let s0 := s.setPhase 2
    match s.fwBad poison with
    | some b => .next ((s0.macFail (512 * b) noCore).fwFailed failSig)
    | none =>
      let f := s.fwImage sigOk
      match fwCheck kelgilMagic f (s.nvm.ctrs.getD 2 0) with
      | some c => .next (s0.fwFailed c)
      | none =>
        let own := if s.sec.sstate = .owned ∧ s.nvm.part.ownh = s.fwOwnKey.map digestOf then s.fwOwnKey else none
        let s1 := { s0 with
          hif := { s0.hif with running := some f, fail := 0, fwFail := 0, fwBusy := true, fwDone := false },
          sec := { s0.sec with ownerKey := s0.sec.ownerKey.or own }, rst := { s0.rst with wdogOn := true, wdogMs := 0 } }
        .next (s1.setPhase 3)

/-- The log entries of the hold records handed over by the boot ROM (R374, R409). -/
def State.logHolds (s : State) : State :=
  let f := fun (t : State) (r : Option HoldRec) =>
    t.log 0x0005 2 (match r with | some h => [h.sstate, h.flags, h.qcause, h.s.toNat, h.a.toNat, h.scyc.toNat] | none => [])
  { s.sec.holdLog.foldl f s with sec := { s.sec with holdLog := [] } }

/-- Is the Bellows image within the running Kelgil's range (R416). -/
def State.blwInRange (s : State) : Bool :=
  match s.hif.running with
  | some f => decide (f.blwMin ≤ s.blw.bver.toNat ∧ s.blw.bver.toNat ≤ f.blwMax)
  | none => false

/-- Step 8 of the cold start (R411, R416, R417, R476): ranges, the stack scrubbed, with the rings that lie in it (R480), every core
tested, the mailbox up, counter 3 raised at a cold start; a block of its area that fails its MAC is poisoned and quarantines the module (R154, R362), and the start goes on
(log 147); then every mapped port trains, but is held out in QUARANTINE (R264). -/
def State.kelgilStart (s : State) (e : InitEnv) (train : Bool) : State :=
  let pass := fun (c : Core) =>
    { c with testDue := false, marchDue := false, passed := c.fenced && ! c.failed, charged := 0, mxe := { c.mxe with mismatch := 0 },
             vxe := { c.vxe with mismatch := 0 }, upe := { c.upe with mismatch := 0 }, cvu := { c.cvu with charges := 0 } }
  let s0 := match e.poison with | some b => (match regionOf (512 * b) with | .kelgil => s.macFail (512 * b) noCore | _ => s) | none => s
  let s1 := { s0 with mem := memKeep (fun a => ! isSram a) s0.mem, chk := [], rings := { s0.rings with fault := [], wait := [], log := [] } }
  let tested := fun (k : CoreId) (c : Core) => if k ∈ e.failing then { c with failed := true, passed := false } else pass c
  let s2 : State := (allCores.foldl (fun t k => t.modCore k (tested k)) s1).evcStart.logHolds
  let s3 : State := e.failing.eraseDups.foldl (fun t k => (t.raise 0x0050 engCtrl (coreField k) 0 0 [] 0 1).fence k true) s2
  let inr := s3.blwInRange
  let c3 : W64 := s3.nvm.ctrs.getD 3 0
  let up : Bool := inr && train && decide (s3.rst.cause = 0) && decide (c3.toNat < s3.blw.bsvn.toNat)
  let s4 := { s3 with
    hif := { s3.hif with mbxUp := true, blwRange := ! inr, fwBusy := false, fwDone := true, fail := 0 },
    nvm := { s3.nvm with ctrs := if up then s3.nvm.ctrs.set 3 (s3.blw.bsvn.setWidth 64) else s3.nvm.ctrs },
    rst := { s3.rst with wdogOn := true, wdogMs := 0 } }
  let s5 := if train then s4.mappedPorts.foldl (fun t p => t.modPort p fun x =>
    { x with st := if t.mapOk p ∧ t.sec.sstate ≠ .quarantine then .training else .heldOut, fails := 0 }) s4 else s4
  (s5.setPhase 4).hifIrq 2

/-! Resets. -/

/-- HIF_RESET (R431): the key resets the module, but for a hold, which goes to its end (R369), and while PERST# is held (R466). -/
def execHifReset (value : W32) (s : State) : Host.Outcome State Fault Refusal :=
  if value = 0x0000D0E5#32 ∧ s.rst.dieUp ∧ ¬ s.hif.perst ∧ s.sec.pstate < 3 then .next (s.moduleReset 1) else .next s

/-- RESET (R413). -/
def execReset (m : Mb) (s : State) : Host.Outcome State Fault Refusal :=
  .next (s.request m 0x0065 true fun t => (t.moduleReset 2, .later))

/-- RST_WDOG (R470). -/
def execRstWdog (value : W32) (s : State) : Host.Outcome State Fault Refusal :=
  if value = 0x00005A17#32 then .next { s with rst := { s.rst with wdogMs := 0 } } else .next s

/-- WDOG (R470): 1 s without a write, counted in the model by the millisecond ticks of Bellows (log 26). -/
def execWdog (s : State) : Host.Outcome State Fault Refusal :=
  if s.rst.wdogOn ∧ s.hif.phase ≥ 3 ∧ s.sec.pstate < 2 ∧ s.rst.wdogMs ≥ 1000 then .next (s.moduleReset 3) else .next s

/-- DEBUG_RESET_REQUEST (R465). -/
def execDebugResetRequest (s : State) : Host.Outcome State Fault Refusal :=
  if s.sec.dlevel ≥ 2 ∧ ¬ s.sec.dbgFrozen then .next (s.moduleReset 4) else .next s

/-- Detach the mailbox: replies not acknowledged are held (R427, R439). -/
def State.detach (s : State) : State :=
  let h := s.hif.heldRep ++ s.hif.replies
  { s with hif := { s.hif with ver := none, lastSeq := none, open' := [], replies := [], heldRep := h.drop (h.length - 256) } }

/-- HOST_INTERFACE_RESET (R439): the registers that the host writes, and what an evidence request left, return to their reset
values (R431), the MSI-X table with them; D1 closes, as at any reset (R364; log 148). -/
def execHostInterfaceReset (src : HifReset) (s : State) : Host.Outcome State Fault Refusal :=
  let s1 := s.detach.closeD1
  .next { s1 with
    hif := { s1.hif with notifs := [], noteAck := s1.hif.noteNext, doorbell := [0, 0, 0], msix := [], msixTab := msixReset, pba := 0, rdata := [],
                         fwLen := 0, fwOwnk := 0, attNlen := 16, attFail := false, elen := 0, irq := 0, irqEn := 0,
                         perst := s1.hif.perst || src = .perst },
    sec := { s1.sec with pcieFrozen := false } }

/-- PERST_DEASSERT (R492); PCIe drives its reference clock before PERST# is released (log 46). -/
def execPerstDeassert (s : State) : Host.Outcome State Fault Refusal :=
  .next { s with hif := { s.hif with perst := false }, rst := { s.rst with pcieRef := true } }

/-! Hold. -/

/-- The quarantine cause of a transition that has not been written. -/
def State.causeDue (s : State) : Nat :=
  ((s.sec.trans.toList ++ s.sec.queue).findSome? fun t => match t with | .quarantine c => some c | _ => none).getD 0

/-- The input is declared lost (R373, R453): the switch opens, P3 and D0, nothing is issued, plaintext and keys go, and the
hold record is made, which tells that step 2 was completed (R373, R374). The mailbox serves no more, a Bellows bank that is being
staged is marked invalid (R437, R455), and changes of the boot record that have not been written stay unwritten (R342). -/
def State.inputLost (s : State) : State :=
  if s.sec.pstate ≥ 3 then s
  else
    let job := s.job.st = .loaded || s.job.st = .stopped
    let scrub := s.sec.sstate = .owned || s.sec.sstate = .quarantine || s.job.st ≠ .none
    let rec' : HoldRec :=
      { sstate := s.sec.sstate.code, flags := 1 + (if job then 2 else 0) + (if s.sec.pstate = 2 then 4 else 0),
        qcause := s.causeDue, s := s.stepField, a := s.stp.a, scyc := Config.freeF32 s.free }
    let s0 := { s with free := s.free + 1, blw := { s.blw with switch := false } }
    let s1 := (s0.setStates s0.sec.sstate 0 3).stopCores
    let s2 := if scrub then s1.jobScrub else s1
    let ps := SMap.mapVals Port.zero (fun _ p => { p with keys := none }) s2.lnk.ports
    { s2 with
      mem := memKeep isSram s2.mem, outq := .zero, rings := { s2.rings with recs := [] }, lnk := { s2.lnk with ports := ps },
      mm := { s2.mm with fwKeys := none, hostKeys := none, jobKeys := none, stalled := [] },
      sec := { s2.sec with hold := some rec', trans := none, scrub := false, queue := [], ownMsgs := [] },
      hif := { s2.hif with mbxUp := false, blwStaged := if s.hif.blwWriting then none else s2.hif.blwStaged, blwWriting := false },
      nvm := { s2.nvm with writes := [] }, tst := .zero }

/-- INPUT_LOSS (R453). -/
def execInputLoss (s : State) : Host.Outcome State Fault Refusal := .next s.inputLost

/-- The die without power: all of it at its reset values; Bellows announces the ramp of the core rail (R443, R454) and runs on, and its
staged bank stays. -/
def State.dieOff (s : State) : State :=
  let s1 := s.moduleReset 0
  { s1 with
    sec := { Sec.zero with sstate := s1.nvm.part.sstate, pstate := 4 }, nvm := { s1.nvm with writes := [], lent := s1.nvm.req },
    rst := Rst.zero,
    blw := { s1.blw with switch := false, ramp := true, duty := 64, grant := 0, preq := 0, preqWas := 0, preqOk := 0, lead := 0, frac := 0, overMs := 0, lowMs := 0 } }

/-- Bellows and the NVM without input (R441): Bellows keeps only its image banks. -/
def State.standbyGone (s : State) : State :=
  { s with blw := { Blw.zero with bank := s.blw.bank, bver := s.blw.bver, bsvn := s.blw.bsvn, bdigest := s.blw.bdigest, vin := 0 } }

/-- HOLD_COMPLETE (R373, R409, R454): the record stands in the hold ring, the core rail goes, P4. -/
def execHoldComplete (s : State) : Host.Outcome State Fault Refusal :=
  if s.sec.pstate ≠ 3 then .next s
  else
    let c4 : W64 := s.nvm.ctrs.getD 4 0
    let n := c4.toNat / 2 % 2048
    let s1 : State := (match s.sec.hold with
      | none => s
      | some r => { s with nvm := { s.nvm with
          hold := SMap.set HoldRec.zero s.nvm.hold n r,
          holdChk := SMap.set 0 s.nvm.holdChk n (holdCheck (s.sec.seed.getD 0) r c4), ctrs := s.nvm.ctrs.set 4 (c4 + 1) } })
    let due : Nat := (s.sec.hold.map (·.qcause)).getD 0
    let s0 := s1.dieOff
    let s2 := if due = 0 then s0 else { s0 with sec := { s0.sec with sstate := .quarantine } }
    .next (if s.blw.vin ≤ 2000 then s2.standbyGone else s2)

/-- STANDBY_OFF (R441): below 20 V Bellows and the NVM go off; a module that runs declares the input lost first, and a hold
completes on the bank (R453, R455). -/
def execStandbyOff (s : State) : Host.Outcome State Fault Refusal :=
  if s.sec.pstate = 4 then .next s.standbyGone
  else
    let s1 := s.inputLost
    .next { s1 with blw := { s1.blw with vin := 0 } }

end Sys2Proof.Machine
end

