-- ==== Sys2Proof/Machine/Host.lean ====
section
/-! DEFINITION. The mailbox catalogue but for jobs and owners (R419-R428, R433-R440), BAR2 (R420), the debug port
(R364-R368) and the JTAG instructions. -/

namespace Sys2Proof.Machine

open Sys2Proof

/-! Attach and detach. -/

/-- Put a reply among others in SEQ order. -/
def insReply (r : Reply) : List Reply → List Reply
  | [] => [r]
  | x :: xs => if r.seq.toNat < x.seq.toNat then r :: x :: xs else x :: insReply r xs

/-- Post every held reply in SEQ order (R440). -/
def State.repost (s : State) : State :=
  let h := s.hif.heldRep.foldl (fun l r => insReply r l) []
  h.foldl (fun t r => t.postReply r) { s with hif := { s.hif with heldRep := [], open' := s.hif.open' ++ h.map (·.seq) } }

/-- Does the host's range hold a major version that the running Kelgil supports: the module supports major 1 alone. The body
of HELLO gives the host's lowest and highest major version (log 27). -/
def State.commonMajor (s : State) (body : List Byte) : Bool :=
  (match s.hif.running with | some f => decide (f.mbxMin ≤ 1 ∧ 1 ≤ f.mbxMax) | none => false)
    && decide (leAt body 0 1 ≤ 1 ∧ 1 ≤ leAt body 1 1)

/-- HELLO (R424). While an activation is under way it is a new request, which is answered ACTIVATING (R436) and changes nothing else.
DESIGN CHOICE (log 164): one that names no common major version has detached the mailbox too, and the version agreed
before is agreed no more. -/
def execHello (m : Mb) (body : List Byte) (s : State) : Host.Outcome State Fault Refusal :=
  if ¬ s.hif.mbxUp ∨ s.hif.perst then .next s
  else if s.hif.activating then
    let t := s.mcount 0x018 1
    let r : Reply := ⟨0x0001, m.seq, stActivating, 0, .none, none⟩
    .next ({ t with hif := { t.hif with replies := t.hif.replies ++ [r] } }.vector 0)
  else
    let s0 := s.detach.mcount 0x018 1
    if ¬ s.commonMajor body then
      let r : Reply := ⟨0x0001, m.seq, stVersion, 0, .none, none⟩
      .next ({ s0 with hif := { s0.hif with replies := s0.hif.replies ++ [r] } }.vector 0)
    else
      let n := s0.hif.heldRep.length
      let s1 := { s0 with hif := { s0.hif with
        ver := some (1, 0), lastSeq := some m.seq, open' := [m.seq], doorbell := if s.sec.pcieFrozen then s0.hif.doorbell else s0.hif.doorbell.set 0 m.seq } }
      let s2 := (s1.postReply ⟨0x0001, m.seq, stOk, 0, .words ([1, 0] ++ s1.capability ++ [n]), none⟩).repost
      .next (State.postNotes s2.hif.notePend.length s2)

/-- GOODBYE (R427): a request that is taken is answered and detaches. -/
def execGoodbye (m : Mb) (s : State) : Host.Outcome State Fault Refusal :=
  .next (s.request m 0x0002 true fun t => ((t.postReply ⟨0x0002, m.seq, stOk, 0, .none, none⟩).detach, .later))

/-! Status, logs and records. -/

/-- Is the module pod-ready (R8, R431). -/
def State.podReady (s : State) : Bool := s.hif.phase = 5

/-- Code of a job state (R432). -/
def JobSt.code : JobSt → Nat
  | .none => 0 | .loading => 1 | .loaded => 2 | .stopped => 3

/-- Ports that are UP, and that are LOST or HELD_OUT (R432). -/
def State.portsUp (s : State) : Nat := ((List.range 48).filter fun p => (s.port p).st = .up).length
def State.portsOut (s : State) : Nat := ((List.range 48).filter fun p => (s.port p).st = .lost || (s.port p).st = .heldOut).length

/-- STATUS (R427): security, debug, power and job state, step counter, pod state. -/
def execStatus (m : Mb) (s : State) : Host.Outcome State Fault Refusal :=
  .next (s.request m 0x0011 true fun t =>
    (t, .now stOk 0 (.words (t.states ++ [t.job.st.code, t.stepField.toNat, if t.podReady then 1 else 0, t.portsUp, t.portsOut]))))

/-- Is a group of telemetry released to the host (R348): by TELREL in OWNED, always without customer data. -/
def State.released (s : State) (bit : Nat) : Bool :=
  s.sec.sstate ≠ .owned || (match s.job.man with | some m => m.telrel.getLsbD bit | none => false)

/-- LOG_READ (R483): from the named entry, or the oldest held, PUBLIC or released. -/
def execLogRead (m : Mb) (entry : W64) (count : W32) (s : State) : Host.Outcome State Fault Refusal :=
  .next (s.request m 0x0012 true fun t =>
    let es := t.rings.log.filter fun e => decide (entry.toNat ≤ e.entry.toNat) && (e.cls = 2 || t.released 3)
    (t, .now stOk 0 (.logs (es.take count.toNat))))

/-- FAULT_READ (R389): copies in SEQ order from a given SEQ. -/
def execFaultRead (m : Mb) (seq count : W32) (s : State) : Host.Outcome State Fault Refusal :=
  .next (s.request m 0x0013 false fun t =>
    let rs := (t.rings.copies.filter fun r => decide (seq.toNat ≤ r.seq.toNat)).take count.toNat
    let upto := rs.foldl (fun a r => max a (r.seq.toNat + 1)) t.rings.returned.toNat
    ({ t with rings := { t.rings with returned := BitVec.ofNat 32 upto } }, .now stOk 0 (.faults rs)))

/-- SIG_FETCH (R401). -/
def execSigFetch (m : Mb) (count : W32) (s : State) : Host.Outcome State Fault Refusal :=
  .next (s.request m 0x0014 false fun t => (t, .now stOk 0 (.sigs (t.rings.sigs.take count.toNat) t.rings.sigDrop)))

/-- SIG_ACK (R401): the signatures of records up to a SEQ leave the queue. -/
def execSigAck (m : Mb) (upTo : W32) (s : State) : Host.Outcome State Fault Refusal :=
  .next (s.request m 0x0015 false fun t =>
    ({ t with rings := { t.rings with sigs := t.rings.sigs.filter fun f => decide (upTo.toNat < f.rec'.seq.toNat) } }, .ok))

/-- OUTQ_DRAIN (R427, R433). -/
def execOutqDrain (m : Mb) (tail : W32) (s : State) : Host.Outcome State Fault Refusal :=
  .next (s.request m 0x0018 false fun t => (t.outDrain (t.tailOf tail), .ok))

/-- HIF_OUTQ_TAIL_WRITE (R433), once Kelgil serves the register (R432). -/
def execHifOutqTailWrite (value : W32) (s : State) : Host.Outcome State Fault Refusal :=
  if s.hif.mbxUp ∧ ¬ s.hif.perst then .next (s.outDrain (s.tailOf value)) else .next s

/-! Firmware. -/

/-- FW_STAGE (R434). -/
def execFwStage (m : Mb) (f : FwImage) (s : State) : Host.Outcome State Fault Refusal :=
  .next (s.request m 0x0020 false fun t =>
    match fwCheck kelgilMagic f (t.nvm.ctrs.getD 2 0) with
    | some c => (t, .refuse c)
    | none => ({ t with hif := { t.hif with staged := some f } }, .ok))

/-- FW_ACTIVATE (R435). -/
def execFwActivate (m : Mb) (s : State) : Host.Outcome State Fault Refusal :=
  .next (s.request m 0x0021 false fun t =>
    if t.sec.dlevel ≥ 2 then (t, .no stDebug)
    else if t.hif.staged.isNone then (t, .refuse 3)
    else ({ t with hif := { t.hif with activate := t.hif.activate ++ [m.seq] } }, .later))

/-- Do the conditions of R435 hold: no job, no emergency now or in the last 60 s, P0 or P1. -/
def State.mayActivate (s : State) : Bool :=
  s.job.st = .none && decide (s.blw.level < 2) && (match s.blw.emergEnd with | some t => decide (t + 60000 ≤ s.blw.ms) | none => true)
    && decide (s.sec.pstate < 2)

/-- KELGIL_ACTIVATION (R436), first part: the staged image takes control; new requests are answered ACTIVATING until it has
started (KELGIL_INIT), and the replies of those in hand are held. The log entry is written once the new Kelgil has scrubbed the log
ring (R480). -/
def execKelgilActivation (s : State) : Host.Outcome State Fault Refusal :=
  match s.hif.activate, s.hif.staged with
  | _ :: _, some f =>
    if ¬ s.mayActivate ∨ s.hif.phase < 4 ∨ s.hif.phase > 5 then .next s
    else
      let old := (s.hif.running.map (·.kver.toNat)).getD 0
      let s1 := s.event evActivate 0
      .next ({ s1 with hif := { s1.hif with running := some f, staged := none, activating := true, oldKver := old } }.setPhase 7)
  | _, _ => .next s

/-- KELGIL_INIT (R411, R436): step 8 for a Kelgil that was loaded, or one that an activation has put in control: its ports
stay trained and are keyed anew, and the mailbox starts detached. After a start that fails no activation waits, and the mailbox is
detached. -/
def execKelgilInit (e : InitEnv) (s : State) : Host.Outcome State Fault Refusal :=
  if ¬ s.rst.dieUp ∨ ¬ (s.hif.phase = 3 ∨ s.hif.phase = 7) then .next s
  else if ¬ e.ok then
    .next (({ s.detach with hif := { s.detach.hif with
      fwFail := failKelgil, fwBusy := false, activate := [], activating := false, mbxUp := false } }.halt failKelgil).hifIrq 2)
  else if s.hif.phase = 3 then .next (s.kelgilStart e true)
  else
    let qs := s.hif.activate
    let s1 := { s.detach with hif := { s.detach.hif with activating := false, activate := [] } }
    let s2 := { s1.rekey with lnk := { s1.rekey.lnk with formed := false, podFormed := false, formedBy := [] } }
    let s3 := s2.kelgilStart e false
    let new := (s.hif.running.map (·.kver.toNat)).getD 0
    let s4 := qs.foldl (fun t q => t.postReply ⟨0x0021, q, stOk, 0, .none, none⟩) (s3.log 0x000C 2 [s.hif.oldKver, new])
    .next (s4.notify 0x0007 [new])

/-- BLW_STAGE (R437). The staging goes on until Bellows' next millisecond (log 165). -/
def execBlwStage (m : Mb) (f : FwImage) (s : State) : Host.Outcome State Fault Refusal :=
  .next (s.request m 0x0022 false fun t =>
    match fwCheck bellowsMagic f (t.nvm.ctrs.getD 3 0) with
    | some c => (t, .refuse c)
    | none => ({ t with hif := { t.hif with blwStaged := some f, blwWriting := true } }, .ok))

/-! Site configuration. -/

/-- Do the limits of a site configuration fit the two bytes of each field (R410, R444). -/
def limitsFit (l : Limits) : Bool :=
  [l.pinMax, l.pPeak, l.pPeakT, l.iinMax, l.rampUp, l.grantLead, l.tjSet, l.tj1, l.tj2, l.tj3, l.tinMax, l.toutMax, l.flowMin, l.kFlow,
    l.vMin, l.slew, l.kp, l.ti, l.rlIn, l.rlOut].all fun x => x < 65536

/-- The rules of R445. -/
def soundLimits (l : Limits) : Bool :=
  decide (l.tjSet < l.tj1 ∧ l.tj1 < l.tj2 ∧ l.tj2 < l.tj3 ∧ l.pinMax ≤ l.pPeak ∧ l.vMin < 10000)

/-- What SITE_CONFIG brings (R410, R445). -/
def doSiteConfig (m : Mb) (e : Envelope) (c : SiteCfg) (s : State) : State × Answer :=
  if s.job.st ≠ .none ∨ s.releasing then (s, .no stState)
  else if s.sec.sstate = .owned ∧ ¬ s.ownerOk 0x0030 e then s.ownAnswer m 0x0030 (.no stSig)
  else if ¬ limitsFit c.limits ∨ ¬ soundLimits (siteOver s.nvm.faclim c.limits) then (s, .refuse 4)
  else ({ s with nvm := { s.nvm with writes := s.nvm.writes ++ [.site c m.seq] } }, .later)

/-- SITE_CONFIG. -/
def execSiteConfig (m : Mb) (e : Envelope) (c : SiteCfg) (s : State) : Host.Outcome State Fault Refusal :=
  .next (s.parkRequest m 0x0030 false (.siteConfig m e c) (doSiteConfig m e c))

/-! BAR2. -/

/-- BAR2_MAP (R420, R427). -/
def execBar2Map (m : Mb) (first : Nat) (entries : List W16) (s : State) : Host.Outcome State Fault Refusal :=
  .next (s.request m 0x0031 false fun t =>
    if first + entries.length > 64 ∨ entries.any (fun g => ! isHostGranule t g.toNat) then (t, .refuse 1)
    else
      let old := t.hif.bar2
      ({ t with hif := { t.hif with
          bar2 := old.take first ++ entries.map (fun g => some g.toNat) ++ old.drop (first + entries.length) } }, .ok))

/-- The granule a BAR2 window opens on (R420): before Kelgil runs, window 0 alone on granule 0; none in QUARANTINE. -/
def State.window (s : State) (i : Nat) : Option Nat :=
  if s.sec.sstate = .quarantine then none
  else if ¬ s.hif.mbxUp then (if i = 0 then some 0 else none)
  else match s.hif.bar2.getD i none with | some g => if isHostGranule s g then some g else none | none => none

/-- The pieces of a BAR2 access in device memory: address and length, in the order of its bytes; none where a window is closed or two
windows do not open on neighbouring granules. -/
def State.bar2Pieces (s : State) (off n : Nat) : Option (List (Nat × Nat)) :=
  match s.window (off / granSize), s.window ((off + n - 1) / granSize) with
  | some g, some g' =>
    let a := lpBase + g * granSize + off % granSize
    let k := granSize - off % granSize
    if off / granSize = (off + n - 1) / granSize ∨ g' = g + 1 then some [(a, n)]
    else some [(a, k), (lpBase + g' * granSize, n - k)]
  | _, _ => none

/-- What RECORD_READ brings (R325): entries from a number on, which are then drained. A block of the record area that fails its MAC ends
the read before the entry that it is of (R154; log 166). -/
def doRecordRead (entry : W64) (count : W32) (s : State) : State × Answer :=
  let all := (s.rings.recs.filter fun r => decide (entry.toNat ≤ r.entry.toNat)).take count.toNat
  let bad := fun (r : RecEnt) => s.macBad (recordBase + r.pos) r.size none
  let es := all.takeWhile fun r => (bad r).isNone
  let ns := es.map (·.entry)
  let s1 := { s with rings := { s.rings with recs := s.rings.recs.map fun r => if ns.contains r.entry then { r with read := true } else r } }
  ((match all.findSome? bad with | some b => s1.macFail (512 * b) noCore | none => s1), .now stOk 0 (.records es))

/-- RECORD_READ where its read may have to wait. -/
def recordReadAt (m : Mb) (entry : W64) (count : W32) : State → State × Answer :=
  whenFree (fun _ => [recordPiece]) (.recordRead m entry count) (doRecordRead entry count)

/-- RECORD_READ. -/
def execRecordRead (m : Mb) (entry : W64) (count : W32) (s : State) : Host.Outcome State Fault Refusal :=
  .next (s.request m 0x0016 false (recordReadAt m entry count))

/-- What a BAR2 read returns. -/
def State.barData (s : State) (bs : List Byte) : State := { s with hif := { s.hif with rdata := bs } }

/-- A BAR2 access that nothing keeps waiting: a block read that fails its MAC, now or before, gives an error and a record, no data, and
nothing is written (R153, R154). -/
def State.bar2 (s : State) (ps : List (Nat × Nat)) (write : Option (List Byte)) (poison : Option Nat) : State :=
  match (readBlocks ps write.isSome).find? fun b => poison = some b || s.mm.poisoned.contains b with
  | some b => (if write.isNone then s.barData [] else s).macFail (512 * b) noCore
  | none =>
    match write with
    | none => s.barData (ps.flatMap fun p => memRange s.mem p.1 p.2)
    | some bs =>
      let rs := (ps.foldl (fun (a : List Run × List Byte) p => (a.1 ++ [(p.1, a.2.take p.2)], a.2.drop p.2)) (([] : List Run), bs)).1
      { s with mem := rs.foldl (fun m r => memWrite m r.1 r.2) s.mem, mm := s.mm.rewritten rs }

/-- How many bytes a BAR2 access reaches. -/
def barLen (write : Option (List Byte)) (e : BarEnv) : Nat := match write with | some b => b.length | none => e.len

/-- BAR2_ACCESS (R420): a write of bytes, or a read, whose data the host receives: all ones in P2 and of a frozen requester, which
discard writes (R387). An access to a package under retraining, or during a scrub, waits (R155, R372). -/
def execBar2Access (off : Nat) (write : Option (List Byte)) (e : BarEnv) (s : State) : Host.Outcome State Fault Refusal :=
  let n := barLen write e
  if s.hif.perst ∨ ¬ s.rst.dieUp ∨ s.sec.pstate ≥ 3 ∨ n = 0 then .next s
  else if s.sec.pcieFrozen ∨ s.sec.pstate = 2 then .next (if write.isNone then s.barData (List.replicate n 0xFF#8) else s)
  else
    match s.bar2Pieces off n with
    | none => .next ((if write.isNone then s.barData [] else s).violatePcie 0x05 0)
    | some ps => if s.waits ps then .next (s.wait (.bar2Access off write e)) else .next (s.bar2 ps write e.poison)

/-! Doorbells. -/

/-- May a doorbell write take effect (R387). -/
def State.bellOk (s : State) : Bool := s.hif.mbxUp && ! s.hif.perst && ! s.sec.pcieFrozen

/-- A write of a reply's SEQ to doorbell 1. -/
def State.ackReply (s : State) (seq : W32) : State :=
  if ¬ s.bellOk then s
  else { s with hif := { s.hif with
    replies := s.hif.replies.filter (fun r => r.seq ≠ seq), open' := s.hif.open'.filter (· ≠ seq), doorbell := s.hif.doorbell.set 1 seq } }

/-- REPLY_ACK (R422). -/
def execReplyAck (seq : W32) (s : State) : Host.Outcome State Fault Refusal := .next (s.ackReply seq)

/-- A write to doorbell 2 acknowledges notifications; those that waited follow. -/
def State.ackNote (s : State) (v : W32) : State :=
  if ¬ s.bellOk then s
  else
    let s1 := { s with hif := { s.hif with
      notifs := s.hif.notifs.filter (fun x => decide (v.toNat < x.n.toNat)), noteAck := v, doorbell := s.hif.doorbell.set 2 v } }
    State.postNotes s1.hif.notePend.length s1

/-- NOTIFICATION_ACK (R422). -/
def execNotificationAck (value : W32) (s : State) : Host.Outcome State Fault Refusal := .next (s.ackNote value)

/-- A TYPE outside the catalogue (R427). -/
def execUnassignedType (m : Mb) (type : W16) (s : State) : Host.Outcome State Fault Refusal :=
  .next (s.request m type.toNat false fun t => (t, .no stType))

/-! The debug port. -/

/-- A violation of the debug port: it is frozen until a module reset, and counts (R363, R366, R367). -/
def State.violateDebug (s : State) (code addr : Nat) : State :=
  ({ s with sec := { s.sec with dbgFrozen := true } }.raise 0x0030 engDebug noCore 0 0 [] addr code).countViol

/-- Is the debug port served: the die is up and the port not frozen. -/
def State.dbgUp (s : State) : Bool := s.rst.dieUp && ! s.sec.dbgFrozen && decide (s.sec.pstate < 3)

/-- A debug request by the mailbox's DEBUG message, or by the debug port. -/
def State.debugReq (s : State) (via : Option Mb) (f : State → State × Answer) : State :=
  match via with
  | some m => s.request m 0x0062 true f
  | none => if s.dbgUp then (f s).1 else s

/-- DBG_OPEN1 (R364): D0 to D1. -/
def execDbgOpen1 (via : Option Mb) (s : State) : Host.Outcome State Fault Refusal :=
  .next (s.debugReq via fun t =>
    if t.sec.dlevel = 0 then (t.setStates t.sec.sstate 1 t.sec.pstate, .ok) else (t, if t.sec.dlevel = 1 then .ok else .no stState))

/-- DEBUG_CLOSE (R364): D1 to D0; a close of D2 or D3 is refused. -/
def execDebugClose (via : Option Mb) (s : State) : Host.Outcome State Fault Refusal :=
  .next (s.debugReq via fun t =>
    if t.sec.dlevel ≥ 2 then (t, .no stDebug)
    else if t.sec.dlevel = 1 then ((t.setStates t.sec.sstate 0 t.sec.pstate).clearMasks, .ok) else (t, .ok))

/-- DEBUG_NONCE (R365). -/
def execDebugNonce (via : Option Mb) (s : State) : Host.Outcome State Fault Refusal :=
  .next (s.debugReq via fun t =>
    let d := t.draw
    ({ d.2 with sec := { d.2.sec with dbgNonce := some d.1 } }, .now stOk 0 (.bytes (leBytes 32 d.1.toNat))))

/-- The key that the state requires of a token (R366); none where no token is accepted. -/
def State.tokenKey (s : State) (level : Nat) : Option Digest :=
  match s.sec.sstate, level with
  | .factory, _ => some Config.vendorKey
  | .open', 2 => some Config.vendorKey
  | .owned, 2 => s.nvm.part.ownh
  | _, _ => none

/-- Is a token valid (R366). -/
def State.tokenOk (s : State) (t : DbgToken) : Bool :=
  t.magicOk && t.rsvdOk && (t.level = 2 || t.level = 3) && t.devid = s.devid && t.ctr = s.nvm.part.octr
    && s.sec.dbgNonce = some t.nonce && (match s.tokenKey t.level.toNat with | some k => t.key = some k | none => false)

/-- DEBUG_TOKEN (R366): D2 after a job scrub, D3 at once in FACTORY; a valid token that the state does not allow is refused and
its nonce stays. -/
def execDebugToken (t : DbgToken) (s : State) : Host.Outcome State Fault Refusal :=
  if ¬ s.dbgUp then .next s
  else if ¬ s.tokenOk t then .next (s.violateDebug 0x33 0)
  else if s.sec.pstate ≥ 2 ∨ s.sec.dlevel ≥ t.level.toNat then .next s
  else
    let s1 := { s with sec := { s.sec with dbgNonce := none } }
    if t.level = 2 then .next (s1.startTrans (.debugOpen 2)) else .next (s1.setStates s1.sec.sstate 3 s1.sec.pstate)

/-- Set or clear the halt of a unit. -/
def State.setHalt (s : State) (u : DbgUnit) (on : Bool) : State :=
  match u with
  | .core k => s.modCore k fun c => { c with halted := on, stepOne := false }
  | .ctrl n =>
    let l := s.sec.ctrlHalted.filter (· ≠ n.val)
    { s with sec := { s.sec with ctrlHalted := if on then l ++ [n.val] else l } }

/-- A request of the debug agent that needs a level: beyond it, an access-control violation. -/
def State.atLevel (s : State) (level : Nat) (f : State → State) : State :=
  if ¬ s.dbgUp then s else if s.sec.dlevel < level then s.violateDebug 0x04 0 else f s

/-- DEBUG_HALT (R367). -/
def execDebugHalt (u : DbgUnit) (s : State) : Host.Outcome State Fault Refusal := .next (s.atLevel 2 fun t => t.setHalt u true)

/-- DEBUG_SINGLE_STEP (R367): a halted core takes one command. -/
def execDebugSingleStep (u : DbgUnit) (s : State) : Host.Outcome State Fault Refusal :=
  .next (s.atLevel 2 fun t =>
    match u with
    | .core k => t.modCore k fun c => { c with stepOne := c.halted }
    | .ctrl _ => t)

/-- DEBUG_RESUME (R367). -/
def execDebugResume (u : DbgUnit) (s : State) : Host.Outcome State Fault Refusal := .next (s.atLevel 2 fun t => t.setHalt u false)

/-- A JTAG instruction that needs a level. -/
def State.jtag (s : State) (level : Nat) (j : Jtag) : State :=
  s.atLevel level fun t => { t with sec := { t.sec with jtag := j } }

/-- JTAG_IDCODE (R367), at every level. -/
def execJtagIdcode (s : State) : Host.Outcome State Fault Refusal := .next (s.jtag 0 .idcode)

/-- JTAG_BYPASS (R367), at every level. -/
def execJtagBypass (s : State) : Host.Outcome State Fault Refusal := .next (s.jtag 0 .bypass)

/-- JTAG_SAMPLE_PRELOAD (R367), from D1. -/
def execJtagSamplePreload (s : State) : Host.Outcome State Fault Refusal := .next (s.jtag 1 .samplePreload)

/-- JTAG_EXTEST (R367), at D3. -/
def execJtagExtest (s : State) : Host.Outcome State Fault Refusal := .next (s.jtag 3 .extest)

/-- JTAG_INTEST (R367), at D3. -/
def execJtagIntest (s : State) : Host.Outcome State Fault Refusal := .next (s.jtag 3 .intest)

end Sys2Proof.Machine
end

