-- ==== Sys2Proof/Machine/Votes.lean ====
section
/-! DEFINITION. The vote of an attempt (R214, R215, R301, R302): what a module contributes, how votes combine up the
broadcast tree, and the question a new coordinator asks (R304). -/

namespace Sys2Proof.Machine

open Sys2Proof

/-! Outcome codes (R326; log 31 for those that R326 does not number). -/

def outGo : Nat := 0x00
def outSkip : Nat := 0x10
def outStop : Nat := 0x20
def outRetry : Nat := 0x30
def outRestore : Nat := 0x40
def outRollback : Nat := 0x50

/-! Combination: bits by OR, words by maximum, charged ids by minimum (R215, R302). -/

/-- The larger of two words. -/
def maxW (a b : W32) : W32 := if a.toNat < b.toNat then b else a

/-- The vote timeout of the attempt: extended for a test pause, and for the lowest DUTY reported (R398, R448). -/
def State.timeout (s : State) : Nat :=
  let v := match s.job.man with | some m => m.pipe.vto | none => 0
  let d := s.stp.duties.foldl min 64
  (v + s.stp.pauseMs) * 64 / max d 1

/-- A DUTY or a test pause reported after the module's own vote changes the timeout of the same attempt (R448). -/
def State.retime (s : State) : State := if s.stp.own.isSome then { s with stp := { s.stp with vto := s.timeout } } else s

/-- Combine a scale's values into a list that rises by scale handle. -/
def putScale (v : ScaleVote) : List ScaleVote → List ScaleVote
  | [] => [v]
  | x :: xs =>
    if v.sh < x.sh then v :: x :: xs
    else if v.sh = x.sh then ⟨x.sh, maxW x.amax v.amax, x.ovf || v.ovf, maxW x.campx v.campx, x.cpost || v.cpost⟩ :: xs
    else x :: putScale v xs

/-- Combine a layer's values into a list that rises by layer. -/
def putLayer (v : LayerVote) : List LayerVote → List LayerVote
  | [] => [v]
  | x :: xs =>
    if v.layer < x.layer then v :: x :: xs
    else if v.layer = x.layer then ⟨x.layer, maxW x.dmax v.dmax, maxW x.gmax v.gmax, x.govf || v.govf⟩ :: xs
    else x :: putLayer v xs

/-- Combine two votes. -/
def voteJoin (a b : Vote) : Vote :=
  { ovf := a.ovf || b.ovf, nfin := a.nfin || b.nfin, fault := a.fault || b.fault, charged := min a.charged b.charged,
    scales := b.scales.foldl (fun l v => putScale v l) a.scales, layers := b.layers.foldl (fun l v => putLayer v l) a.layers,
    cnfin := a.cnfin || b.cnfin, members := a.members ++ b.members.filter fun m => ! a.members.contains m }

/-! This module's contribution. -/

/-- Has a core nothing left to do before the vote (R215): it is at COMMIT, and every earlier command has completed. -/
def Core.voteReady (c : Core) : Bool :=
  c.atCommit && (match c.inflight.head? with | some e => (match e.ins with | .commit .. => true | _ => false) | none => true)

/-- May the module read its status words and maxima for the vote (R213, R215, R228, R289). -/
def State.voteReady (s : State) : Bool := s.usedCores.all fun k => (s.core k).voteReady

/-- Handles of the loaded program. -/
def State.handles (s : State) : List W16 :=
  match s.job.prog with | none => [] | some p => (List.range' 1 (p.nhandle - 1)).map fun h => BitVec.ofNat 16 h

/-- What this module says of a managed scale: the largest amax word and the overflow bit over the handles that name it, and
in the first vote of a step the values carried from the step before. -/
def State.scaleVote (s : State) (m : MScale) : ScaleVote :=
  let hs := s.handles.filter fun h => (s.desc h).scale = m.sh
  let amax := hs.foldl (fun (a : W32) h => maxW a (SMap.get 0 s.scc.amax h.toNat)) 0
  let ovf := hs.any fun h => (s.status h).ovf || (s.scc.policy && (s.status h).nfin)
  let c := if s.stp.first then s.stp.carried.scales.find? fun x => x.1 = m.sh else none
  match c with
  | some x => ⟨m.sh, amax, ovf, x.2.1, x.2.2⟩
  | none => ⟨m.sh, amax, ovf, 0, false⟩

/-- The grid slots of a layer on this module's cores. -/
def State.layerSlots (s : State) (l : Nat) : List GExp :=
  s.usedCores.filterMap fun k => (s.slotOf k l).map fun i => SMap.get GExp.zero (s.core k).gexp i

/-- What this module says of a layer (R220, R279). -/
def State.layerVote (s : State) (l : GLayer) : LayerVote :=
  let gs := s.layerSlots l.num
  let hrs : List (Nat × W16) := match s.job.prog with | none => [] | some p => p.hrs.filter fun h => h.1 = l.num
  { layer := l.num, dmax := if s.stp.first then SMap.get 0 s.stp.carried.dmax l.num else 0,
    gmax := gs.foldl (fun (a : W32) g => maxW a (g.gmax.setWidth 32)) 0,
    govf := gs.any (·.govf) || hrs.any fun h => (s.status h.2).ovf }

/-- Has a tile register of a core of the job a sticky bit that no store has carried yet (R63, R111). -/
def State.sticky (s : State) (f : VReg → Bool) : Bool := s.usedCores.any fun k => (s.core k).vregs.any fun v => f v.2

/-- The module's own vote (R63, R215, R218): tensor status words and the sticky bits of tile registers. -/
def State.ownVote (s : State) : Vote :=
  { ovf := (s.handles.any fun h => (s.status h).ovf) || s.sticky (·.ovf),
    nfin := (s.handles.any fun h => (s.status h).nfin) || s.sticky (·.nfin),
    cnfin := s.stp.first && s.stp.carried.nfin, fault := s.stp.fault,
    charged := if s.stp.fault then s.lnk.self.toNat else 0xFFFF,
    scales := (s.job.scales.map s.scaleVote).foldl (fun l v => putScale v l) [],
    layers := (s.job.layers.map s.layerVote).foldl (fun l v => putLayer v l) [], members := [s.lnk.self.toNat] }

/-! The tree (R260, R302). -/

/-- The neighbour in the direction of a bundle. -/
def State.neighbour (s : State) (b : Nat) : Nat :=
  let d := b / 2
  let n := s.lnk.extents.getD d 1
  let p := s.coords.getD d 0
  idOf (s.coords.set d (if b % 2 = 0 then (p + 1) % n else (p + n - 1) % n))

/-- The modules this one delivers the coordinator's broadcast to. -/
def State.children (s : State) : List Nat := (s.treeBundles s.coordinator).map s.neighbour

/-- The module this one receives it from: a step back in the last dimension in which it differs from the root. -/
def State.parent (s : State) : Nat :=
  let c := s.coords
  let o := coordsOf s.coordinator
  match ((List.range 4).filter fun d => c.getD d 0 ≠ o.getD d 0).getLast? with
  | none => s.lnk.self.toNat
  | some d =>
    let n := s.lnk.extents.getD d 1
    let off := (c.getD d 0 + n - o.getD d 0) % n
    s.neighbour (if off ≤ n / 2 then 2 * d + 1 else 2 * d)

/-- Votes received for the attempt. -/
def State.votesNow (s : State) : List VoteRec := s.stp.votes.filter fun r => r.s = s.stp.s && r.a = s.stp.a

/-- The module's vote with those it has received. -/
def State.gather (s : State) (own : Vote) : Vote := (s.votesNow.map (·.v)).foldl voteJoin own

/-- Send the combined vote up once every child that is not lost has voted; a module whose parent is lost sends it to the
coordinator. -/
def State.voteUp (s : State) : State :=
  match s.stp.own with
  | none => s
  | some own =>
    let v := s.gather own
    let waiting := s.children.any fun c => ! s.stp.lost.contains c && ! s.votesNow.any fun r => r.src = c
    if s.coordinator = s.lnk.self.toNat then
      (if s.stp.decided.isSome then s else { s with stp := { s.stp with comb := some v } })
    else if s.stp.voteSent ∨ waiting then s
    else
      let up := if s.stp.lost.contains s.parent then s.coordinator else s.parent
      let s1 := { s with stp := { s.stp with comb := some v, voteSent := true } }
      s1.sendCtl (BitVec.ofNat 16 up) (.vote s.stp.s s.stp.a v)

/-- A vote arrives. -/
def State.heardVote (s : State) (src : Nat) (st : W64) (a : W32) (v : Vote) : State :=
  let old := s.stp.votes.filter fun r => ! (r.src = src && r.s = st && r.a = a)
  let r : VoteRec := ⟨src, st, a, v⟩
  { s with stp := { s.stp with votes := old ++ [r] } }.voteUp

/-- The attempt whose outcome is open on some module: this one's, or where it has applied an outcome, that outcome's. -/
def State.openAt (s : State) : W64 × W32 :=
  match s.stp.phase, s.stp.lastOut with
  | .between, some o | .redo, some o | .restore, some o | .rollback, some o => (o.s, o.a)
  | _, _ => (s.stp.s, s.stp.a)

/-- Has the module applied an outcome other than GO and not gone on since. -/
def StepPh.after : StepPh → Bool
  | .redo | .restore | .rollback => true
  | _ => false

/-- An outcome reaches the module; the combined values travel with it. Of an attempt whose outcome it has applied it takes only
the loss of modules, while it has not gone on (R304); the same outcome again changes nothing. -/
def State.heardOutcome (s : State) (st : W64) (a : W32) (code : Nat) (lost : List Nat) (v : Vote) : State :=
  let put := { s with stp := { s.stp with decided := some ⟨st, a, code, lost⟩ } }
  if s.stp.s = st ∧ s.stp.a = a then { put with stp := { put.stp with comb := some v } }
  else if s.stp.phase.after ∧ s.openAt = (st, a) ∧ code = outRestore then put
  else s

/-- The coordinator broadcasts the outcome of an attempt. -/
def State.announceAt (s : State) (st : W64) (a : W32) (code : Nat) (lost : List Nat) (v : Vote) : State :=
  (s.heardOutcome st a code lost v).sendCtl 0xFFFF#16 (.outcome st a code lost v)

/-- The coordinator broadcasts the outcome of the attempt under way. -/
def State.announce (s : State) (code : Nat) (lost : List Nat) (v : Vote) : State := s.announceAt s.stp.s s.stp.a code lost v

/-! A new coordinator (R304). -/

/-- A vote of nobody. -/
def noVote : Vote := ⟨false, false, false, 0xFFFF, [], [], [], false⟩

/-- What this module last received for an attempt; 0xFF for nothing. -/
def State.lastFor (s : State) (st : W64) (a : W32) : Nat :=
  let same := fun (o : OutcomeMsg) => if o.s = st ∧ o.a = a then some o.code else none
  match s.stp.decided.bind same, s.stp.lastOut.bind same with
  | some c, _ => c
  | none, some c => c
  | none, none => 0xFF

/-- Answer the question of a new coordinator. -/
def State.answerLast (s : State) (who : W16) (st : W64) (a : W32) : State :=
  s.sendCtl who (.lastOutcome s.lnk.self st a (some (s.lastFor st a)) s.stp.comb)

/-- Close the question: a GO that any module reports stands and is broadcast again; when all have answered without one, the
outcome is RESTORE with the old coordinators among the lost. -/
def State.closeAsk (s : State) : State :=
  if s.stp.asking.isEmpty then s
  else
    let done := { s with stp := { s.stp with asking := [] } }
    let v := s.stp.comb.getD noVote
    let x := s.openAt
    if s.stp.asking.any fun x => x.2 = some outGo then done.announceAt x.1 x.2 outGo [] v
    else if s.stp.asking.all fun x => x.2.isSome then done.announceAt x.1 x.2 outRestore s.stp.lost v
    else s

/-- An answer arrives. -/
def State.heardLast (s : State) (m : Nat) (code : Nat) (v : Option Vote) : State :=
  if ¬ s.stp.asking.any (fun x => x.1 = m) then s
  else
    let put := fun (x : Nat × Option Nat) => if x.1 = m then (m, some code) else x
    let s1 := { s with stp := { s.stp with
      asking := s.stp.asking.map put,
      comb := if code = outGo ∧ v.isSome then v else s.stp.comb } }
    s1.closeAsk

end Sys2Proof.Machine
end

