-- ==== Sys2Proof/Machine/Control.lean ====
section
/-! DEFINITION. What Kelgil computes for a vote and a step: scale controller (R212), grid exponents (R279), update shifts
(R220), per-step scalars (R234), the slot table (R294-R297), the step fingerprint (R326). -/

namespace Sys2Proof.Machine

open Sys2Proof

/-! Words. -/

/-- The exact value of a finite FP32 word; 0 for others. -/
def ratOf (w : W32) : ℚ := match f32 w with | .fin sg a => (FV.fin sg a).toRat | _ => 0

/-- floor(log2) of an FP32 magnitude code. -/
def log2W (w : W32) : Int := floorLog2 (ratOf w)

/-- The largest of a ring of words. -/
def maxOf (h : List W32) : W32 := h.foldl maxW 0

/-- A ring of `n` words takes a word, dropping its oldest. -/
def pushRing (n : Nat) (h : List W32) (w : W32) : List W32 := (h ++ [w]).drop (h.length + 1 - n)

/-- Clamp to a range. -/
def clampI (v lo hi : Int) : Int := max lo (min hi v)

/-- The word of 2^t. -/
def powWord (t : Int) : W32 := toF32 (.fin false (pow2 t))

/-! Scales (R212). -/

/-- One update of a managed scale: the new record, whether the scale was lowered, and whether its record is written. The pending
overflow bit stands from the vote that carries it to the committed one, whose fall it holds up (log 137). -/
def sccUpdate (hold : Nat) (m : MScale) (v : ScaleVote) (committed : Bool) : MScale × Bool × Bool :=
  match m.pinned, m.lexp with
  | false, some l =>
    let pend := maxW m.pend v.campx
    let bad := v.ovf || v.cpost
    let held := m.pendOvf || v.cpost
    let low := bad && decide (m.t + 2 ≤ m.tmax)
    let t := if low then m.t + 2 else m.t
    let h := if bad then hold else m.hold
    if ¬ committed then ({ m with pend := pend, pendOvf := held, t := t, hold := h }, low, low)
    else
      let hist := pushRing m.len m.hist (maxW v.amax pend)
      let h1 := h - 1
      let est := maxOf hist
      let tt := clampI (log2W est + 1 + m.head - l) m.tmin m.tmax
      let t1 := if est = 0 then t else if t < tt then tt else if tt < t ∧ h1 = 0 ∧ ¬ bad ∧ ¬ held then t - 1 else t
      ({ m with pend := 0, pendOvf := false, t := t1, hold := h1, hist := hist }, low, low || decide (t1 ≠ t))
  | _, _ => (m, false, false)

/-- Write a scale record: TS = 2^t, RTS = 2^-t. -/
def State.putScaleRec (s : State) (sh : Nat) (t : Int) : State :=
  { s with mem := memWrite s.mem (scaleTable + 16 * sh) (leBytes 4 (powWord t).toNat ++ leBytes 4 (powWord (-t)).toNat) }

/-- The controller writes a scale record, which no longer holds its initial value then (R212). -/
def State.writeScale (s : State) (sh : Nat) (t : Int) : State :=
  { s.putScaleRec sh t with job := { s.job with scales := s.job.scales.map fun x => if x.sh = sh then { x with written := true } else x } }

/-- The values of a vote for a scale. -/
def scaleOf (v : Vote) (sh : Nat) : ScaleVote := (v.scales.find? fun x => x.sh = sh).getD ⟨sh, 0, false, 0, false⟩

/-- The values of a vote for a layer. -/
def layerOf (v : Vote) (l : Nat) : LayerVote := (v.layers.find? fun x => x.layer = l).getD ⟨l, 0, 0, false⟩

/-! Grid exponents (R279) and update shifts (R220). -/

/-- ceil(log2 n). -/
def ceilLog2 (n : Nat) : Nat := if n ≤ 1 then 0 else Nat.log2 (n - 1) + 1

/-- One update of a layer's grid exponent: the new record, and whether the exponent was raised. -/
def gridUpdate (hold : Nat) (l : GLayer) (v : LayerVote) (committed : Bool) : GLayer × Bool :=
  let up := v.govf && decide (l.e + 2 ≤ l.emax)
  let e := if up then l.e + 2 else l.e
  let h := if v.govf then hold else l.hold
  if ¬ committed then ({ l with e := e, hold := h }, up)
  else
    let hist := pushRing l.len l.hist v.gmax
    let h1 := h - 1
    let est := maxOf hist
    let top : Int := if l.wide then 63 else 31
    let tt := clampI (log2W est + 1 + l.g + ceilLog2 l.m - top) l.emin l.emax
    let e1 := if est = 0 then e else if e < tt then tt else if tt < e ∧ h1 = 0 ∧ ¬ v.govf then e - 1 else e
    ({ l with e := e1, hold := h1, hist := hist }, up)

/-- The address of a layer record (R235). -/
def layerRec (l : Nat) : Nat := updTable + 0x41000 + 8 * l

/-- The pending dmax of a layer takes the vote's; a committed vote consumes it: the new record, and LS with DMAX where they
change. -/
def shiftUpdate (ring : Nat) (l : GLayer) (v : LayerVote) (committed : Bool) : GLayer × Option (Nat × W32) :=
  let p := maxW l.dpend v.dmax
  if ¬ committed ∨ p = 0 then ({ l with dpend := p }, none)
  else
    let h := pushRing ring l.dhist p
    ({ l with dpend := 0, dhist := h }, some ((clampI (-2 - log2W (maxOf h)) 0 100).toNat, p))

/-! A vote applied. -/

/-- What a signed number is in a log payload. -/
def logInt (v : Int) : Nat := (BitVec.ofInt 32 v).toNat

/-- Are entries of kinds 0x0020 and 0x0021 made (R483). -/
def State.telLogs (s : State) : Bool := match s.job.man with | some m => m.telrel.getLsbD 3 | none => false

/-- Would a vote lower a scale (R212). -/
def State.lowers (s : State) (v : Vote) : Bool := s.job.scales.any fun m => (sccUpdate s.scc.hold m (scaleOf v m.sh) false).2.1

/-- Would a vote raise a grid exponent (R279). -/
def State.raises (s : State) (v : Vote) : Bool := s.job.layers.any fun l => (gridUpdate s.scc.hold l (layerOf v l.num) false).2

/-- One scale of a vote. -/
def State.stepScale (v : Vote) (committed : Bool) (s : State) (m : MScale) : State :=
  let r := sccUpdate s.scc.hold m (scaleOf v m.sh) committed
  let s1 := { s with job := { s.job with scales := s.job.scales.map fun x => if x.sh = m.sh then r.1 else x } }
  let s2 := if r.2.2 then s1.writeScale m.sh r.1.t else s1
  if s.telLogs ∧ r.1.t ≠ m.t then s2.log 0x0020 3 [m.sh, logInt m.t, logInt r.1.t, if r.2.1 then 1 else 0] else s2

/-- One layer of a vote. -/
def State.stepLayer (v : Vote) (committed : Bool) (s : State) (l : GLayer) : State :=
  let r := gridUpdate s.scc.hold l (layerOf v l.num) committed
  let q := shiftUpdate s.scc.hist r.1 (layerOf v l.num) committed
  let s1 := { s with job := { s.job with layers := s.job.layers.map fun x => if x.num = l.num then q.1 else x } }
  let s2 := match q.2 with
    | some x => { s1 with mem := memWrite s1.mem (layerRec l.num) (leBytes 4 x.1 ++ leBytes 4 x.2.toNat) }
    | none => s1
  if s.telLogs ∧ r.1.e ≠ l.e then s2.log 0x0021 3 [l.num, logInt l.e, logInt r.1.e] else s2

/-- A vote applied to every managed scale and every layer (R212, R220, R279). -/
def State.applyVote (s : State) (v : Vote) (committed : Bool) : State :=
  let s1 := s.job.scales.foldl (State.stepScale v committed) s
  s1.job.layers.foldl (State.stepLayer v committed) s1

/-- Write the E field of every grid slot (R280). -/
def State.writeGexp (s : State) : State :=
  s.usedCores.foldl (fun t k => s.job.layers.foldl (fun u l =>
    match u.slotOf k l.num with
    | none => u
    | some i => u.modCore k fun c =>
        { c with gexp := SMap.set GExp.zero c.gexp i { SMap.get GExp.zero c.gexp i with e := BitVec.ofInt 16 l.e } }) t) s

/-- Why a skip would stop the job instead (R217): the STOP code, 0 for a skip. Of several conditions the first row of R217 gives
the code; "nothing lowered" of its second row is of scales (log 84). -/
def State.stopCode (s : State) (v : Vote) : Nat :=
  if v.ovf ∧ ¬ s.lowers v ∧ ¬ s.raises v then 1
  else if v.nfin ∧ ((¬ s.scc.policy ∧ ¬ v.ovf) ∨ (s.scc.policy ∧ ¬ s.lowers v)) then 2
  else if s.scc.consec + 1 ≥ s.scc.skipmax then 3
  else 0

/-! Per-step scalars (R234, R237). -/

/-- A group record as a number. -/
def State.groupRec (s : State) (g : Nat) : Nat := memLe s.mem (updTable + 64 * g) 64

/-- Knot `k` of a group: SK, LR, WD. -/
def State.knot (s : State) (g k : Nat) : Nat × W32 × W32 :=
  let v := memLe s.mem (updTable + 0x1000 + 4096 * g + 16 * k) 16
  (bitsAt v 0 64, BitVec.ofNat 32 (bitsAt v 64 32), BitVec.ofNat 32 (bitsAt v 96 32))

/-- A field of the schedule at step counter `S` (R237). -/
def schedAt (ks : List (Nat × W32)) (st : Nat) : W32 :=
  match ks.head?, ks.getLast? with
  | some a, some z =>
    if st ≤ a.1 then a.2
    else if z.1 ≤ st then z.2
    else
      let i := (ks.filter fun k => k.1 ≤ st).length - 1
      let x := ks.getD i a
      let y := ks.getD (i + 1) z
      let f := ratOf x.2 + (ratOf y.2 - ratOf x.2) * ((st - x.1 : Nat) : ℚ) / ((y.1 - x.1 : Nat) : ℚ)
      toF32 (FV.ofRat f)
  | _, _ => 0

/-- LR and WD of a group at the current step. -/
def State.schedule (s : State) (g : Nat) : W32 × W32 :=
  let n := bitsAt (s.groupRec g) 2 8 + 1
  let ks := (List.range n).map (s.knot g)
  (schedAt (ks.map fun k => (k.1, k.2.1)) s.stp.s.toNat, schedAt (ks.map fun k => (k.1, k.2.2)) s.stp.s.toNat)

/-- Product of two words, rounded once. -/
def mulW (a b : W32) : W32 := toF32 ((f32 a).mul (f32 b))

/-- Advance a valid group: GSTEP, BP1, BP2. -/
def State.advanceGroup (s : State) (g : Nat) : State :=
  let v := s.groupRec g
  if ¬ bitAt v 0 then s
  else
    let w := fun (lo : Nat) => BitVec.ofNat 32 (bitsAt v lo 32)
    let a := updTable + 64 * g
    let m := memWrite s.mem (a + 24) (leBytes 4 (mulW (w 192) (w 32)).toNat ++ leBytes 4 (mulW (w 224) (w 96)).toNat
      ++ leBytes 8 (bitsAt v 256 64 + 1))
    { s with mem := m }

/-- rne32(1 / (1 - bp)), from the exact difference; for bp = 1 the spec states no value: a free one. -/
def biasCorr (free : Nat) (bp : W32) : W32 :=
  if ratOf bp = 1 then Config.freeF32 free else toF32 (FV.ofRat (1 / (1 - ratOf bp)))

/-- The scalars of a group. -/
def State.scalars (s : State) (g : Nat) : GScal :=
  let v := s.groupRec g
  let w := fun (lo : Nat) => BitVec.ofNat 32 (bitsAt v lo 32)
  let x := s.schedule g
  ⟨x.1, x.2, biasCorr (s.free + 2 * g) (w 192), biasCorr (s.free + 2 * g + 1) (w 224)⟩

/-- Write the scalars and layer slots that a core's stream needs. -/
def State.coreScalars (s : State) (k : CoreId) : State :=
  match s.job.prog, s.logical k with
  | some p, some n =>
    let gs := p.groups.getD n []
    let s1 : State := (gs.map (·.2)).eraseDups.foldl (fun t g =>
      t.modCore k fun c => { c with upe := { c.upe with gscal := SMap.set GScal.zero c.upe.gscal g (s.scalars g) } }) s
    (p.slots.getD n []).zipIdx.foldl (fun t x =>
      let ls := memLe s.mem (layerRec x.1) 1 % 128
      let e : Int := match s.layer x.1 with | some l => l.e | none => 0
      let lr : W32 := match gs.find? fun y => y.1 = x.1 with | some y => (s.schedule y.2).1 | none => 0
      let slot : LSlot := ⟨BitVec.ofNat 7 ls, BitVec.ofInt 16 e, toF32 ((f32 lr).mul (.fin false (pow2 ls)))⟩
      t.modCore k fun c => { c with upe := { c.upe with lslot := SMap.set LSlot.zero c.upe.lslot x.2 slot } }) s1
  | _, _ => s

/-- What Kelgil does before any UPD of a committed step (R234). -/
def State.commitScalars (s : State) : State :=
  let s1 : State := (List.range 64).foldl State.advanceGroup s
  let s2 : State := s1.usedCores.foldl State.coreScalars s1
  { s2 with free := s2.free + 128 }

/-! Slots (R294-R297). -/

/-- A segment of a run: position, tokens; none for the position of a rank whose two shards are empty. -/
abbrev Seg := Option Nat × Nat

/-- A shard in segments of `b` tokens. -/
def segsOf (b lo hi : Nat) : List Seg :=
  (List.range ((hi - lo + b - 1) / max b 1)).map fun i => (some (lo + i * b), min b (hi - lo - i * b))

/-- The run of a micro-batch of `len` tokens on context rank `r` of `c`. -/
def runOf (c r b len : Nat) : List Seg :=
  if c ≤ 1 then segsOf b 0 len
  else
    let z := 128 * ((len + 256 * c - 1) / (256 * c))
    let shard := fun (i : Nat) => segsOf b (min (i * z) len) (min ((i + 1) * z) len)
    let g := shard r ++ shard (2 * c - 1 - r)
    if g.isEmpty then [(none, 0)] else g

/-- The slot length (R290). -/
def Pipe.slotLen (p : Pipe) : Nat := match p.budgets with | [] => 1 | b :: bs => bs.foldl min b

/-- Put a micro-batch among others by number. -/
def insMb (e : TokEntry) : List TokEntry → List TokEntry
  | [] => [e]
  | x :: xs => if e.mb.toNat < x.mb.toNat then e :: x :: xs else x :: insMb e xs

/-- The runs of a replica's micro-batches, in ascending MB (R295). -/
def runsOf (p : Pipe) (c r rank : Nat) (es : List TokEntry) : List (W32 × List Seg) :=
  ((es.filter fun e => e.rank.toNat = rank).foldl (fun a e => insMb e a) []).map fun e => (e.mb, runOf c r p.slotLen e.len)

/-- The slots that runs fill, eight words each; the slot of a rank whose two shards are empty has a free POS (log 36). -/
def slotWords (st : W64) : List (W32 × List Seg) → Nat → List (List W32)
  | [], _ => []
  | (mb, g) :: rs, n =>
    let len := g.length
    let one := fun (x : Seg × Nat) =>
      let pos : W32 := match x.1.1 with | some v => BitVec.ofNat 32 v | none => (Config.emptyPos st mb).setWidth 32
      let fl := (if x.2 = 0 then 1 else 0) + (if x.2 + 1 = len then 2 else 0) + x.2 * 65536
      [mb, pos, BitVec.ofNat 32 x.1.2, BitVec.ofNat 32 fl, BitVec.ofNat 32 (n + len - 1 - x.2), BitVec.ofNat 32 n,
        BitVec.ofNat 32 len, 0]
    g.zipIdx.map one ++ slotWords st rs (n + len)

/-- The words of the slot table of this module (R294). -/
def State.slotTable (s : State) (p : Pipe) (t : TokMan) : List (List W32) :=
  let rs := runsOf p (s.maskCount p.cpmask) (s.maskRank p.cpmask) (s.maskRank p.repmask) t.entries
  let ws := slotWords t.s rs 0
  ws ++ List.replicate (p.nslot - ws.length) [0xFFFFFFFF#32, 0, 0, 0, 0, 0, 0, 0]

/-- Write the slot table into its handle (R294); a handle of another shape or class than the rule gives takes none (log 36). -/
def State.writeSlots (s : State) (p : Pipe) (t : TokMan) : State :=
  let d := s.desc p.sloth
  if p.sloth = 0 ∨ d.fmt ≠ some .g32 ∨ d.ext ≠ [8, p.nslot, 1, 1, 1, 1] ∨ d.cls ≠ 2 then s
  else
    let ws := (s.slotTable p t).flatten
    let codes := ws.zipIdx.map fun w => (d.at w.2, w.1.toNat)
    (writeRuns s d.cvp (codeRuns s.mem (s.basePhys d) d codes)).stampHandle p.sloth true

/-! Fingerprint (R326). -/

/-- The step fingerprint of an outcome; zeros for one that failures decide. -/
def State.fingerprint (s : State) (code : Nat) (v : Vote) : List Byte :=
  if code ≠ outGo ∧ code ≠ outSkip ∧ code ≠ outStop then List.replicate 32 0
  else
    let b := fun (x : Bool) => if x then 1 else 0
    shake256 32 (leBytes 16 (s.job.seed.getD 0).toNat ++ leBytes 8 s.stp.s.toNat ++ leBytes 1 code
      ++ leBytes 1 (b v.ovf + 2 * b v.nfin)
      ++ (v.scales.flatMap fun x => leBytes 4 x.amax.toNat ++ leBytes 1 (b x.ovf))
      ++ v.layers.flatMap fun x => leBytes 4 x.dmax.toNat ++ leBytes 4 x.gmax.toNat ++ leBytes 1 (b x.govf))

end Sys2Proof.Machine
end

