-- ==== Sys2Proof/Machine/Manifest.lean ====
section
/-! DEFINITION. The job manifest (R429, R430): its fixed fields, its sections, and what Kelgil takes from them. -/

namespace Sys2Proof.Machine

open Sys2Proof

/-- A finding of the loader (R200): reason, stage, logical core, handle, tag, detail, offset in the image. -/
structure Rej where
  reason : Nat
  stage  : Nat
  lcore  : Nat
  handle : Nat
  tag    : Nat
  detail : Nat
  off    : Nat
  deriving DecidableEq, Repr

/-- A finding that involves no stream. -/
def Rej.plain (reason stage off : Nat) : Rej := ⟨reason, stage, 0xFFFF, 0, 0, 0, off⟩

/-- A finding about a handle. -/
def Rej.ofHandle (reason stage h detail off : Nat) : Rej := ⟨reason, stage, 0xFFFF, h, 0, detail, off⟩

/-- The 32-byte rejection record (R200) as four 64-bit words: REASON, STAGE, LCORE and HANDLE; TAG and DETAIL; OFFSET; zero. -/
def Rej.words (r : Rej) : List Nat :=
  [r.reason % 2 ^ 16 + r.stage % 2 ^ 8 * 2 ^ 16 + r.lcore % 2 ^ 16 * 2 ^ 32 + r.handle % 2 ^ 16 * 2 ^ 48,
    r.tag % 2 ^ 32 + r.detail % 2 ^ 32 * 2 ^ 32, r.off % 2 ^ 64, 0]

/-- The first finding of a list of checks. -/
def firstRej (l : List (Option Rej)) : Option Rej := l.findSome? id

/-- A finding where a condition holds. -/
def rejIf (c : Bool) (r : Rej) : Option Rej := if c then some r else none

/-! Fixed fields (R429). -/

/-- Bytes of the fixed fields and DIR. -/
def manFixed : Nat := 0x140

/-- Flags of a manifest body. -/
def manFlag (b : List Byte) (i : Nat) : Bool := bitAt (leAt b 4 2) i

/-- STAGEG and OUTG; 0 selects 64. -/
def manGran (b : List Byte) (off : Nat) : Nat := let v := leAt b off 2; if v = 0 then 64 else v

/-- A byte field where 0 selects a reset value. -/
def manByte (b : List Byte) (off dflt : Nat) : Nat := let v := leAt b off 1; if v = 0 then dflt else v

/-- The job's HIST, HEAD, HOLD and SKIPMAX as the scale controller holds them (R227). -/
def manHist (b : List Byte) : Nat := min 64 (manByte b 0x0A 16)
def manHead (b : List Byte) : Nat := manByte b 0x0B 1 % 8
def manHold (b : List Byte) : Nat := manByte b 0x0C 64
def manSkip (b : List Byte) : Nat := manByte b 0x0D 16

/-- Do the fixed fields break R429. `seedOk`: the seed's tag checks under a JOB slot. -/
def manFixedBad (b : List Byte) (seedOk : Bool) : Bool :=
  b.length < manFixed || leAt b 0 4 ≠ 0x464D4A54 || bitsAt (leAt b 4 2) 7 9 ≠ 0 || bitsAt (leAt b 4 2) 4 2 = 3
    || bitsAt (leAt b 6 1) 4 4 ≠ 0 || 600 < leAt b 8 2 || 480 < manGran b 0x0E + manGran b 0x10 || ! seedOk
    || leAt b 0x13 5 ≠ 0 || leAt b 0x68 24 ≠ 0

/-! Sections. -/

/-- Offset and length of section `i`. -/
def manDir (b : List Byte) (i : Nat) : Nat × Nat := (leAt b (0x100 + 8 * i) 4, leAt b (0x104 + 8 * i) 4)

/-- The bytes of section `i`. -/
def manSec (b : List Byte) (i : Nat) : List Byte := let d := manDir b i; (b.drop d.1).take d.2

/-- Does a section lie outside the body or share a byte with another one. -/
def manDirBad (b : List Byte) (i : Nat) : Bool :=
  let d := manDir b i
  decide (d.2 ≠ 0) && (decide (b.length < d.1 + d.2)
    || (List.range 8).any fun j =>
      let e := manDir b j
      decide (j ≠ i) && decide (e.2 ≠ 0) && decide (d.1 < e.1 + e.2) && decide (e.1 < d.1 + d.2))

/-- The entries of `n` bytes of a section. -/
def entriesOf (n : Nat) (bs : List Byte) : List Nat := (chunksOf n (bs.length / n) bs).map leNat

/-- The pipeline record of section 0 (R290); 0 selects the values R290 names. -/
def pipeOf (bs : List Byte) : Pipe :=
  let v := leAt bs 0 16
  let z := fun (x d : Nat) => if x = 0 then d else x
  { pdim := bitsAt v 0 3, v := bitsAt v 3 4 + 1, cpmask := bitsAt v 8 4, repmask := bitsAt v 12 4, nslot := bitsAt v 16 16,
    sloth := BitVec.ofNat 16 (bitsAt v 32 16), runmax := bitsAt v 48 8, fretry := z (bitsAt v 56 4) 2, vto := z (bitsAt v 64 32) 1000,
    mbatch := bitsAt v 96 32, budgets := entriesOf 4 (bs.drop 16) }

/-- Physical stages: the pod extent of PDIM. -/
def State.stages (s : State) (p : Pipe) : Nat := if p.pdim = 0 then 1 else s.lnk.extents.getD (p.pdim - 1) 1

/-- Does section 0 break R290. -/
def State.pipeBad (s : State) (bs : List Byte) : Bool :=
  let p := pipeOf bs
  let w := leAt bs 0 16
  let own := if p.pdim = 0 then 0 else 2 ^ (p.pdim - 1)
  let vto := bitsAt w 64 32
  decide (bs.length ≠ 16 + 4 * (s.stages p * p.v)) || decide (4 < p.pdim) || bitAt w 7 || bitsAt w 60 4 ≠ 0
    || (p.cpmask ||| p.repmask) &&& own ≠ 0 || p.cpmask &&& p.repmask ≠ 0 || decide (p.nslot = 0) || decide (p.runmax = 0)
    || decide (vto ≠ 0 ∧ (vto < 10 ∨ 60000 < vto)) || decide (p.mbatch = 0) || decide (1 < p.v ∧ p.nslot % s.stages p ≠ 0)
    || p.budgets.any fun b => decide (b % 128 ≠ 0 ∨ b < 128 ∨ 2097152 < b)

/-- Bytes of section 3: none, or 64 group records and then the knots of each valid group in ascending number (log 38). -/
def groupBytes (bs : List Byte) : Nat :=
  let n := fun (g : Nat) => let v := leAt bs (64 * g) 64; if bitAt v 0 then 16 * (bitsAt v 2 8 + 1) else 0
  4096 + ((List.range 64).map n).foldl (· + ·) 0

/-! The section of a replay (R327, log 32). -/

/-- Entries of a record ring: type, step counter, attempt, payload; none where they do not fill the bytes. -/
def recEntries : Nat → List Byte → Option (List (Nat × Nat × Nat × List Byte))
  | 0, bs => if bs.isEmpty then some [] else none
  | n + 1, bs =>
    if bs.isEmpty then some []
    else
      let len := leAt bs 4 4
      let size := recSize len
      if bs.length < size then none
      else (recEntries n (bs.drop size)).map fun r => (leAt bs 0 2, leAt bs 8 8, leAt bs 16 4, (bs.drop 32).take len) :: r

/-- Bytes of a JOB entry's payload after the manifest body. -/
def jobTail : Nat := 1280 + 4 * 64 + 24 + 4 + 2

/-- The payload of a JOB entry (R324; log 32): the manifest with its envelope and signature, image digest, digests of Kelgil, Bellows
and the boot record, fence map, pod extents, own module id. -/
def State.jobEntry (s : State) (e : Envelope) (body : List Byte) (img : Digest) : List Byte :=
  let fm := s.fenceMap.foldl (fun a k => a + 2 ^ k) 0
  envBytes e ++ body ++ sized 1280 e.sig ++ leBytes 64 img.toNat
    ++ leBytes 64 ((s.hif.running.map (·.digest.toNat)).getD 0) ++ leBytes 64 s.blw.bdigest.toNat ++ leBytes 64 s.sec.recDigest.toNat
    ++ leBytes 24 fm ++ (s.lnk.extents.map fun x => BitVec.ofNat 8 (x - 1)) ++ leBytes 2 s.lnk.self.toNat

/-- The manifest body that a JOB entry's payload holds. -/
def bodyOfJob (p : List Byte) : List Byte := (p.drop 32).take (p.length - 32 - jobTail)

/-- Does a new manifest fix every item of R308 that the recorded one does: DET, POLICY, the controller's settings, S0, the
seed, the image, and sections 0 to 3. The seeds are equal where the island opens both to one value, or they are wrapped alike. -/
def State.sameJob (s : State) (a b : List Byte) : Bool :=
  let eq := fun (off n : Nat) => leAt a off n = leAt b off n
  manFlag a 0 = manFlag b 0 && manFlag a 6 = manFlag b 6 && eq 0x0A 4 && eq 0x18 8 && eq 0x80 64 && (eq 0x20 44 || (s.openSeed a).isSome && s.openSeed a = s.openSeed b)
    && manSec a 0 = manSec b 0 && manSec a 1 = manSec b 1 && manSec a 2 = manSec b 2 && manSec a 3 = manSec b 3

/-- The entries of section 6. -/
def manReplay (b : List Byte) : Option (List (Nat × Nat × Nat × List Byte)) := let x := manSec b 6; recEntries x.length x

/-- Does section 6 break R327. -/
def State.replayBad (s : State) (b : List Byte) : Bool :=
  match manReplay b with
  | some ((t, _, _, p) :: xs) =>
    t ≠ recJob || p.length < 32 + jobTail || ! s.sameJob (bodyOfJob p) b || xs.any fun x => x.1 ≠ recOutcome && x.1 ≠ recChunk && x.1 ≠ recMailbox
  | _ => true

/-- The recorded outcomes GO, SKIP and STOP (R326): code, then attempt, lost ids and fingerprint. -/
def replayOuts (b : List Byte) : List ReplayEnt :=
  ((manReplay b).getD []).filterMap fun x =>
    let code := leAt x.2.2.2 0 1 / 16 * 16
    if x.1 = recOutcome ∧ code ≤ outStop then
      some ⟨BitVec.ofNat 64 x.2.1, code, x.2.2.2.drop (x.2.2.2.length - 32)⟩
    else none

/-- The recorded chunk digests. -/
def replayChunks (b : List Byte) : List (W64 × Nat × Digest) :=
  ((manReplay b).getD []).filterMap fun x =>
    if x.1 = recChunk then some (BitVec.ofNat 64 x.2.1, leAt x.2.2.2 0 4, BitVec.ofNat 512 (leAt x.2.2.2 4 64)) else none

/-- The recorded messages: the step counter at which each takes effect, then its TYPE and fields. -/
def replayMails (b : List Byte) : List (W64 × List Byte) :=
  ((manReplay b).getD []).filterMap fun x =>
    let p := x.2.2.2
    if x.1 = recMailbox then some (BitVec.ofNat 64 (leAt p 0 8), slice p 32 2 ++ (p.drop 40).take (p.length - 40 - 1280)) else none

/-- Does a group record have a reserved bit set (R236, R430). -/
def groupRsvd (v : Nat) : Bool := bitsAt v 10 22 ≠ 0 || bitsAt v 320 192 ≠ 0

/-! The order of R430. -/

/-- Does the structure of section `i` break its chapter's rules. -/
def State.secBad (s : State) (b : List Byte) (i : Nat) : Bool :=
  let bs := manSec b i
  let n := bs.length
  match i with
  | 0 => s.pipeBad bs
  | 1 => decide (n % 8 ≠ 0 ∨ 4096 < n / 8) || (entriesOf 8 bs).any fun v => bitsAt v 27 5 ≠ 0 || bitsAt v 48 16 ≠ 0
  | 2 => decide (n % 16 ≠ 0 ∨ 65536 < n / 16) || (entriesOf 16 bs).any fun v => bitAt v 31 || bitsAt v 112 16 ≠ 0
  | 3 => decide (n ≠ 0) && (decide (n < 4096 ∨ n ≠ groupBytes bs) || (List.range 64).any fun g => groupRsvd (leAt bs (64 * g) 64))
  | 4 => decide (n % 8 ≠ 0 ∨ 1024 < n / 8) || (entriesOf 8 bs).any fun v => bitsAt v 24 8 ≠ 0 || bitsAt v 32 32 = 0
  | 5 => decide (n % 2 ≠ 0)
  | 6 => manFlag b 1 && s.replayBad b
  | _ => decide (n ≠ 0)

/-- The detail of MANIFEST_BAD for a body, if it is refused (R430). -/
def State.manifestBad (s : State) (b : List Byte) (seedOk : Bool) : Option Nat :=
  if manFixedBad b seedOk then some 0x0100
  else ((List.range 8).find? fun i => manDirBad b i || s.secBad b i).map fun i => 0x0200 + i

/-! What Kelgil takes from a body. -/

/-- The manifest as held. -/
def manifestOf (b : List Byte) : Manifest :=
  let out := fun (v : Nat) => OutEnt.mk (BitVec.ofNat 16 (bitsAt v 0 16)) (BitVec.ofNat 8 (bitsAt v 16 8)) (BitVec.ofNat 32 (bitsAt v 32 32))
  { det := manFlag b 0, replay := manFlag b 1, encimg := manFlag b 2, vrel := manFlag b 3, rmode := bitsAt (leAt b 4 2) 4 2,
    policy := manFlag b 6, telrel := BitVec.ofNat 8 (leAt b 6 1), wdog := (let w := leAt b 8 2; if w = 0 then 60 else w),
    stageg := manGran b 0x0E, outg := manGran b 0x10, s0 := BitVec.ofNat 64 (leAt b 0x18 8),
    imgDigest := BitVec.ofNat 512 (leAt b 0x80 64), ktDigest := BitVec.ofNat 512 (leAt b 0xC0 64), pipe := pipeOf (manSec b 0),
    outputs := (entriesOf 8 (manSec b 4)).map out,
    stateList := (entriesOf 2 (manSec b 5)).map fun v => BitVec.ofNat 16 v,
    replays := if manFlag b 1 then replayOuts b else [], chunks := if manFlag b 1 then replayChunks b else [],
    mails := if manFlag b 1 then replayMails b else [], body := b }

/-- A signed field. -/
def signedAt (v lo n : Nat) : Int := (BitVec.ofNat n (bitsAt v lo n)).toInt

/-- Causes of an IGNORED entry (log 41): a handle outside the table, a repeat, a value outside its range, an initial scale
that is zero, infinite or NaN. -/
def ignHandle : Nat := 0
def ignRepeat : Nat := 1
def ignValue : Nat := 2
def ignScale : Nat := 3

/-- ⌈log2⌉ of a positive exact value. -/
def ceilLog2Q (a : ℚ) : Int := let e := floorLog2 a; if pow2 e = a then e else e + 1

/-- floor(log2 L) of a managed scale (R210): over the formats of the descriptors that name it, but BX16. -/
def lexpOf (ds : List Desc) (sh : Nat) : Option Int :=
  let ls := (ds.filter fun d => d.scale = sh && d.fmt ≠ some .bx16).filterMap fun d => d.fmt.map fun f => f.maxFin
  match ls with | [] => none | x :: xs => some (floorLog2 (xs.foldl min x))

/-- The scale control table (R209, R212): managed scales in ascending handle, ignored entries, and the records that are
written at job load. `scales` is the scale image. -/
def sctabOf (b : List Byte) (nscale : Nat) (scales : List Byte) (ds : List Desc) :
    List MScale × List (Nat × Nat × Nat) × List (Nat × Int) :=
  let r := (entriesOf 8 (manSec b 1)).zipIdx.foldl
    (fun (a : List MScale × List (Nat × Nat × Nat) × List (Nat × Int)) x =>
      let v := x.1
      let sh := bitsAt v 0 16
      if sh = 0 ∨ nscale ≤ sh then (a.1, a.2.1 ++ [(1, x.2, ignHandle)], a.2.2)
      else if a.1.any fun m => m.sh = sh then (a.1, a.2.1 ++ [(1, x.2, ignRepeat)], a.2.2)
      else
        let lo := max (signedAt v 32 8) (-126)
        let hi := min (signedAt v 40 8) 127
        let h := bitsAt v 16 7
        let pin := decide (hi < lo)
        let ts := scaleOk (BitVec.ofNat 32 (leAt scales (16 * sh) 4))
        let t0 : Int := match ts with | some q => ceilLog2Q |q| | none => 0
        let t := if pin then t0 else clampI t0 lo hi
        let m : MScale :=
          { sh := sh, len := if h = 0 then manHist b else min h 64, head := if bitAt v 23 then bitsAt v 24 3 else manHead b,
            tmin := lo, tmax := hi, pinned := pin, lexp := lexpOf ds sh, t := t, hold := 0, hist := [], pend := 0, pendOvf := false, written := false }
        if ts = none ∧ ¬ pin then (a.1 ++ [m], a.2.1 ++ [(1, x.2, ignScale)], a.2.2 ++ [(sh, t)]) else (a.1 ++ [m], a.2.1, a.2.2))
    ([], [], [])
  (r.1.mergeSort fun x y => decide (x.sh ≤ y.sh), r.2)

/-- A layer with no valid entry (R275). -/
def State.dfltLayer (s : State) (b : List Byte) (l : Nat) : GLayer :=
  let mask := ((List.range 4).map fun i => if 1 < s.lnk.extents.getD i 1 then 2 ^ i else 0).foldl (· + ·) 0
  { num := l, dmask := mask, wide := false, g := 1, len := manHist b, m := 65536, e := -32, emin := -200, emax := 120, hold := 0,
    hist := [], dhist := [], dpend := 0 }

/-- The layer exchange table (R275): layers in ascending number, and ignored entries. -/
def layersOf (b : List Byte) : List GLayer × List (Nat × Nat × Nat) :=
  (entriesOf 16 (manSec b 2)).zipIdx.foldl
    (fun (a : List GLayer × List (Nat × Nat × Nat)) x =>
      let v := x.1
      let l := bitsAt v 0 16
      let e := signedAt v 64 16
      let lo := signedAt v 80 16
      let hi := signedAt v 96 16
      if bitsAt v 32 32 = 0 ∨ hi < lo ∨ e < lo ∨ hi < e then (a.1, a.2 ++ [(2, x.2, ignValue)])
      else if ((entriesOf 16 (manSec b 2)).take x.2).any fun y => bitsAt y 0 16 = l then (a.1, a.2 ++ [(2, x.2, ignRepeat)])
      else
        let g := bitsAt v 21 3
        let h := bitsAt v 24 7
        let y : GLayer :=
          { num := l, dmask := bitsAt v 16 4, wide := bitAt v 20, g := if g = 0 then 1 else g, len := if h = 0 then manHist b else min h 64,
            m := bitsAt v 32 32, e := e, emin := lo, emax := hi, hold := 0, hist := [], dhist := [], dpend := 0 }
        (a.1 ++ [y], a.2))
    ([], [])

end Sys2Proof.Machine
end

