-- ==== Sys2Proof/Machine/Image.lean ====
section
/-! DEFINITION. The program image (R167, R168): the loader's stages 2 and 3 (R193): header, tables, descriptors, the output
table. -/

namespace Sys2Proof.Machine

open Sys2Proof

/-- The header of an image (R167). -/
structure ImgHdr where
  isa     : Nat
  nlcore  : Nat
  nalias  : Nat
  nhandle : Nat
  nscale  : Nat
  nsync   : Nat
  len     : Nat
  offS    : Nat
  offA    : Nat
  offD    : Nat
  offC    : Nat
  deriving DecidableEq, Repr

/-- The header as the image's first bytes give it. -/
def hdrAt (img : List Byte) : ImgHdr :=
  { isa := leAt img 4 1, nlcore := leAt img 8 2, nalias := leAt img 0x0A 2, nhandle := leAt img 0x0C 4, nscale := leAt img 0x10 4,
    nsync := leAt img 0x14 2, len := leAt img 0x18 8, offS := leAt img 0x20 4, offA := leAt img 0x24 4, offD := leAt img 0x28 4,
    offC := leAt img 0x2C 4 }

/-- The first nonzero byte among `n` from `off` on. -/
def nonzeroAt (img : List Byte) (off n : Nat) : Option Nat := (List.range' off n).find? fun i => leAt img i 1 ≠ 0

/-! Stage 2. -/

/-- Places of the sections: offset and size, the header first. -/
def ImgHdr.places (h : ImgHdr) : List (Nat × Nat) :=
  [(0, 64), (h.offS, 16 * h.nlcore), (h.offA, 4 * h.nalias), (h.offD, 64 * h.nhandle), (h.offC, 16 * h.nscale)]

/-- Do two places share a byte. -/
def clash (a b : Nat × Nat) : Bool := decide (0 < a.2) && decide (0 < b.2) && decide (a.1 < b.1 + b.2) && decide (b.1 < a.1 + a.2)

/-- Is the offset of section `i` (1 to 4) bad (R167): no multiple of 64, outside LEN, or shared with the header or an earlier
section. Of two that overlap it is the later one that is told (DESIGN CHOICE, log 172). -/
def ImgHdr.offBad (h : ImgHdr) (i : Nat) : Bool :=
  let p := h.places.getD i (0, 0)
  p.1 % 64 ≠ 0 || decide (h.len < p.1 + p.2) || (h.places.take i).any fun q => clash p q

/-- The header fields in ascending offset (R193, R201), a count out of range in DETAIL (R200); `len` is the length the request names. -/
def headerRej (img : List Byte) (len : Nat) : Option Rej :=
  let h := hdrAt img
  let rsv := fun (off n : Nat) => (nonzeroAt img off n).map fun i => Rej.plain 0x0206 2 i
  firstRej [rejIf (leAt img 0 4 ≠ 0x584C5645) (.plain 0x0201 2 0), rejIf (h.isa ≠ 1 && h.isa ≠ 2) (.plain 0x0202 2 4), rsv 5 3,
    rejIf (decide (h.nlcore < 1 ∨ 192 < h.nlcore)) { Rej.plain 0x0205 2 8 with detail := h.nlcore },
    rejIf (decide (h.nhandle < 1 ∨ 65536 < h.nhandle)) { Rej.plain 0x0205 2 0x0C with detail := h.nhandle },
    rejIf (decide (65536 < h.nscale)) { Rej.plain 0x0205 2 0x10 with detail := h.nscale }, rsv 0x16 2,
    rejIf (decide (2 ^ 30 < h.len ∨ h.len ≠ len)) (.plain 0x0203 2 0x18),
    rejIf (h.offBad 1) (.plain 0x0204 2 0x20), rejIf (h.offBad 2) (.plain 0x0204 2 0x24),
    rejIf (h.offBad 3) (.plain 0x0204 2 0x28), rejIf (h.offBad 4) (.plain 0x0204 2 0x2C), rsv 0x30 16]

/-- Offset and words of the stream of logical core `n`. -/
def streamEnt (img : List Byte) (h : ImgHdr) (n : Nat) : Nat × Nat :=
  (leAt img (h.offS + 16 * n) 4, leAt img (h.offS + 16 * n + 4) 4)

/-- An entry of the stream table (R168). Of two streams that overlap it is the first that is told (DESIGN CHOICE, log 172). -/
def streamRej (img : List Byte) (h : ImgHdr) (n : Nat) : Option Rej :=
  let place := fun (m : Nat) => let e := streamEnt img h m; (e.1, 8 * e.2)
  let p := place n
  let bad := p.1 % 8 ≠ 0 || decide (h.len < p.1 + p.2) || h.places.any (fun q => clash p q)
    || (List.range h.nlcore).any fun m => m ≠ n && clash p (place m)
  let r := fun (off : Nat) => (⟨0x0207, 2, n, 0, 0, 0, off⟩ : Rej)
  if bad then some (r (h.offS + 16 * n)) else (nonzeroAt img (h.offS + 16 * n + 8) 8).map r

/-- Handle and group of entry of the list of aliases `i`. -/
def aliasEnt (img : List Byte) (h : ImgHdr) (i : Nat) : Nat × Nat := (leAt img (h.offA + 4 * i) 2, leAt img (h.offA + 4 * i + 2) 2)

/-- An entry of the list of aliases (R168). -/
def aliasRej (img : List Byte) (h : ImgHdr) (i : Nat) : Option Rej :=
  let e := aliasEnt img h i
  let bad := decide (h.nhandle ≤ e.1) || e.2 = 0 || (List.range i).any fun j => (aliasEnt img h j).1 = e.1
  rejIf bad (.ofHandle 0x0208 2 e.1 0 (h.offA + 4 * i))

/-- Stage 2: the header, then the tables in ascending offset. -/
def stage2 (img : List Byte) (len : Nat) : Option Rej :=
  match headerRej img len with
  | some r => some r
  | none =>
    let h := hdrAt img
    let st := (List.range h.nlcore).map (streamRej img h)
    let al := (List.range h.nalias).map (aliasRej img h)
    firstRej (if h.offS ≤ h.offA then st ++ al else al ++ st)

/-- The groups of aliases of the handles that the table lists. -/
def aliasMap (img : List Byte) (h : ImgHdr) : SMap Nat :=
  (List.range h.nalias).foldl (fun m i => let e := aliasEnt img h i; SMap.set 0 m e.1 e.2) []

/-! Stage 3. -/

/-- The descriptors of an image, by handle. -/
def imgDescs (img : List Byte) (h : ImgHdr) : List Desc :=
  (List.range h.nhandle).map fun i => Desc.ofNat (leAt img (h.offD + 64 * i) 64)

/-- Where the loader stands: the state with the job's granules and descriptor table in it, the columns of the map at load
(the cores not fenced, in order), the image's descriptors and groups of aliases. -/
structure Ldr where
  st    : State
  ncol  : Nat
  isa   : Nat
  nhandle : Nat
  nscale : Nat
  offD  : Nat
  ds    : List Desc
  aliasTab : SMap Nat
  xchg  : Bool
  deriving DecidableEq, Repr

/-- The descriptor of a handle. -/
def Ldr.desc (l : Ldr) (h : Nat) : Desc := l.ds.getD h (Desc.ofNat 0)

/-- The fields of a descriptor (R178): first bit and width. -/
def descFields : List (Nat × Nat) :=
  [(0, 48), (48, 6), (54, 2), (56, 2), (58, 3), (61, 3), (64, 1), (65, 1), (66, 1), (67, 1), (68, 4), (72, 1), (73, 7), (80, 16),
    (96, 16), (112, 8)] ++ ((List.range 6).map fun d => (120 + 32 * d, 32)) ++ (List.range 5).map fun d => (312 + 40 * d, 40)

/-- The byte in which the first nonzero field of a descriptor starts. -/
def Desc.firstByte (d : Desc) : Nat := ((descFields.find? fun f => bitsAt d.raw f.1 f.2 ≠ 0).map fun f => f.1 / 8).getD 0

/-- Bytes of `n` elements along dimension 0. -/
def Desc.rowBytes (d : Desc) (n : Nat) : Nat := (n * d.ebits + 7) / 8

/-- Room for whole blocks (R179). -/
def Desc.strideBad (d : Desc) : Bool :=
  let str := fun (i : Nat) => d.str.getD i 0
  let p := d.nb * d.bs
  let k := d.kdim
  d.blocked &&
    (if k = 0 then [1, 2, 3, 4, 5].any fun i => decide (1 < d.extent i) && decide (str i < d.rowBytes p)
    else decide (str k < d.rowBytes (d.extent 0)) || [1, 2, 3, 4, 5].any fun i =>
      decide (i ≠ k) && decide (1 < d.extent i) && decide (str k < str i) && decide (str i < p * str k))

/-- SHAPE_BAD (R178, R179). -/
def Desc.shapeBad (d : Desc) : Bool :=
  decide (d.ndim < 1 ∨ 6 < d.ndim) || decide (d.ndim ≤ d.kdim)
    || (List.range 6).any (fun i => if i < d.ndim then d.extent i = 0 else d.extent i ≠ 1 || d.str.getD i 0 ≠ 0) || d.strideBad

/-- Is a descriptor that of the block scales or exponents of another (R40, R42). -/
def Desc.isScaleOf (b d : Desc) : Bool :=
  b.fmtc = (if d.fmt = some .bx16 then 6 else 5) && b.ndim = 1 && b.extent 0 = d.blocks && b.scale = 0 && b.bscale = 0 && ! b.bsz
    && ! b.sr && ! b.nsat && ! b.bem && b.befix = 0

/-- SCALE_RULE (R38, R40, R42). -/
def Ldr.scaleBad (l : Ldr) (d : Desc) : Bool :=
  (d.bsz && d.fmt ≠ some .e2m1) || (d.scale ≠ 0 && (! d.scaled || decide (l.nscale ≤ d.scale)))
    || (if d.bscale = 0 then d.fmt = some .bx16
      else ! d.blocked || decide (l.nhandle ≤ d.bscale) || ! (l.desc d.bscale).isScaleOf d)

/-- Is a region one whose descriptors are refused with REGION_BAD: outside R11, or a check-value array (R147). -/
def badRegion (r : Region) : Bool :=
  match r with | .outside | .columnCheck _ | .sharedCheck | .lpCheck => true | _ => false

/-- The rows of a view in the link buffers: each in the half of the first, none on a block of the exchange where the image
has one (R255, R286). -/
def Ldr.linkBad (l : Ldr) (d : Desc) : Bool :=
  inLink d.base &&
    d.rows.any fun p =>
      let b := 8 * d.base + d.bitOff p
      let e0 := if d.blocked ∧ d.kdim = 0 then d.nb * d.bs else d.extent 0
      let lo := b / 8
      let n := (b % 8 + e0 * d.ebits + 7) / 8
      ! sameRegion l.st d.base lo || ! sameRegion l.st d.base (lo + n - 1)
        || (blocksOf lo n).any fun k =>
          let o := (k * 4096 - linkBase) % linkSize
          ! sameRegion l.st d.base (k * 4096) || (l.xchg && decide (o % (linkSize / 2) < 128 * 4096))

/-- REGION_BAD (R11, R147, R255, R286). -/
def Ldr.regionBad (l : Ldr) (d : Desc) : Bool :=
  badRegion (regionOf d.base) || badRegion (regionOf (d.base + d.hull - 1)) || ! sameRegion l.st d.base (d.base + d.hull - 1)
    || l.linkBad d

/-- Alignment of R82: 16 bytes for T128, 8 for LT320. -/
def Desc.align (d : Desc) : Nat := if d.alay then 1 else match d.fmt with | some .t128 => 16 | some .lt320 => 8 | _ => 1

/-- The byte of the descriptor whose field breaks its alignment, if one does: R82 aligns the base. -/
def Desc.alignBad (d : Desc) : Option Nat := if d.base % d.align ≠ 0 then some 0 else none

/-- Are two handles members of one group of aliases. -/
def Ldr.aliased (l : Ldr) (a b : Nat) : Bool := a = b || (SMap.has l.aliasTab a && SMap.find l.aliasTab a = SMap.find l.aliasTab b)

/-- ALIAS_MISSING (R139, R195): overlap with an earlier handle outside its group, or an earlier member of its group of
another class. Of the two handles it is the later one that is told (DESIGN CHOICE, log 172). -/
def Ldr.aliasBad (l : Ldr) (h : Nat) : Bool :=
  let d := l.desc h
  (List.range' 1 (h - 1)).any fun k =>
    let e := l.desc k
    if l.aliased h k then d.cls ≠ e.cls else decide (d.base < e.base + e.hull) && decide (e.base < d.base + d.hull)

/-- CLASS_REGION (R195): may a descriptor of its class lie in the region of its base. -/
def Ldr.classBad (l : Ldr) (d : Desc) : Bool :=
  match regionOf d.base with
  | .granule g => if isHostGranule l.st g then d.cls ≠ 1 else d.cls = 1
  | .landing => d.cls ≠ 0
  | .column _ | .link _ | .spill => d.cls = 1
  | _ => true

/-- OWNER_SLOT (R195): a slot of the key table for LANDING and SEALED, slot 0 for the others. -/
def Ldr.ownerBad (l : Ldr) (d : Desc) : Bool :=
  if d.cls = 0 ∨ d.cls = 1 then d.owner = 0 || ! SMap.has l.st.sec.slots d.owner else d.owner ≠ 0

/-- The limits of an EV1 image on a descriptor (R190). -/
def Desc.evOneBad (d : Desc) : Bool :=
  (match d.fmt with | some .e4m3 | some .e5m2 | some .bf16 | some .fp16 | some .fp32 => false | _ => true)
    || d.bscale ≠ 0 || d.bem || d.befix ≠ 0

/-- One descriptor (R193, R201). -/
def Ldr.descRej (l : Ldr) (h : Nat) : Option Rej :=
  let d := l.desc h
  let r := fun (reason byte : Nat) => (.ofHandle reason 3 h 0 (l.offD + 64 * h + byte) : Rej)
  if h = 0 then rejIf (d.raw ≠ 0) (r 0x0301 d.firstByte)
  else
    let unmapped : Bool := match regionOf d.base with | .column k => decide (l.ncol ≤ k) | _ => false
    firstRej [rejIf d.fmt.isNone (r 0x0302 6), rejIf (d.cvp = 3) (r 0x0303 7),
      rejIf (d.rsvd ≠ 0 || (d.alay && d.fmtc ≠ 0x10)) (r 0x0303 9), rejIf d.shapeBad (r 0x0304 0), rejIf (l.scaleBad d) (r 0x0305 0),
      rejIf (l.regionBad d) (r 0x0306 0), rejIf unmapped (r 0x0307 0), d.alignBad.map (r 0x0308), rejIf (l.aliasBad h) (r 0x0309 0),
      rejIf (l.classBad d) (r 0x030A 0), rejIf (l.ownerBad d) (r 0x030B 14), rejIf (l.isa = 1 && d.evOneBad) (r 0x0405 0)]

/-- An entry of the output table (R352). -/
def Ldr.outRej (l : Ldr) (e : OutEnt × Nat) : Option Rej :=
  let h := e.1.handle.toNat
  let d := l.desc h
  let slot := e.1.slot.toNat
  let ok := h ≠ 0 && decide (h < l.nhandle) && (SMap.get KeySlot.zero l.st.sec.slots slot).role = 2
    && ((d.cls = 0 && d.owner = slot) || d.cls = 2)
  rejIf (! ok) (.ofHandle 0x030B 3 h e.2 0)

/-- Does the image hold an XCHG: a word of CLASS 7 and OP 1 at a command's first word in some stream (R286). -/
def hasXchg : Nat → List W64 → Bool
  | 0, _ => false
  | n + 1, ws =>
    match ws with
    | [] => false
    | w :: _ => (bitsAt w.toNat 32 4 = 7 && bitsAt w.toNat 36 6 = 1) || hasXchg n (ws.drop (bitsAt w.toNat 42 2 + 1))

/-- The words of a stream. -/
def streamWords (img : List Byte) (h : ImgHdr) (n : Nat) : List W64 :=
  let e := streamEnt img h n
  (List.range e.2).map fun i => BitVec.ofNat 64 (leAt img (e.1 + 8 * i) 8)

/-- The cores a job load may use: those not fenced, and those whose fence ends with it because they have passed a test
(R395). -/
def State.usableCores (s : State) : List Nat := (allCores.filter fun k => ! (s.core k).fenced || (s.core k).passed).map (·.val)

/-- The loader's view of an image that has passed stage 2. -/
def State.ldr (s : State) (m : Manifest) (img : List Byte) (streams : List (List W64)) : Ldr :=
  let h := hdrAt img
  let st := { s with mm := { s.mm with stageg := m.stageg, outg := m.outg, colmap := s.usableCores },
                     mem := memWrite s.mem descTable (slice img h.offD (64 * h.nhandle)) }
  { st := st, ncol := st.mm.colmap.length, isa := h.isa, nhandle := h.nhandle, nscale := h.nscale, offD := h.offD,
    ds := imgDescs img h, aliasTab := aliasMap img h, xchg := streams.any fun ws => hasXchg ws.length ws }

/-- Stage 3: every descriptor, then the output table. -/
def Ldr.stage3 (l : Ldr) (m : Manifest) : Option Rej :=
  firstRej ((List.range l.nhandle).map l.descRej ++ m.outputs.zipIdx.map l.outRej)

end Sys2Proof.Machine
end

