-- ==== Sys2Proof/Machine/Code.lean ====
section
/-! DEFINITION. Command words (R169-R176, R501) and the loader's stages 4 and 5 (R193): decoding of the streams, loops, step
commands, indexing, synchronisation objects, handle ranges. -/

namespace Sys2Proof.Machine

open Sys2Proof

/-- An operation of R171: class, operation, words, lowest ISA level, and the bits its fields use beyond TAG, CLASS, OP, LEN,
IXL and IXM: word, first bit, width. -/
structure OpRow where
  cls   : Nat
  op    : Nat
  words : Nat
  level : Nat
  used  : List (Nat × Nat × Nat)
  deriving DecidableEq, Repr

/-- Fields of vector commands (R174): VIEW, VD, IMM32, SRCA, SRCB, SE. -/
def useView : Nat × Nat × Nat := (0, 51, 2)
def useVd : Nat × Nat × Nat := (0, 53, 4)
def useImm : Nat × Nat × Nat := (1, 0, 32)
def useA : Nat × Nat × Nat := (1, 32, 12)
def useB : Nat × Nat × Nat := (1, 44, 12)
def useSe : Nat × Nat × Nat := (1, 56, 8)
def useLtr : Nat × Nat × Nat := (0, 57, 2)
def useTile : Nat × Nat × Nat := (0, 51, 3)

/-- Fields of an operation with one source, and with two. -/
def use1 : List (Nat × Nat × Nat) := [useView, useVd, useImm, useA, useSe]
def use2 : List (Nat × Nat × Nat) := useB :: use1

/-- H, ROW0 and COL0. -/
def useMem : List (Nat × Nat × Nat) := [(2, 0, 48), (3, 0, 32)]

/-- Matrix commands. -/
def rowsMatrix : List OpRow :=
  [⟨1, 1, 3, 1, [useTile, (0, 54, 8), (1, 0, 48), (2, 0, 64)]⟩, ⟨1, 2, 3, 2, [(0, 59, 2), (1, 0, 48), (2, 0, 64)]⟩,
    ⟨1, 3, 1, 1, [useTile, (0, 55, 2)]⟩, ⟨1, 4, 2, 1, [useTile, (0, 55, 2), (1, 0, 32)]⟩, ⟨1, 5, 2, 2, [useTile, (1, 0, 32)]⟩,
    ⟨1, 6, 2, 1, [useTile, (1, 0, 32)]⟩, ⟨1, 7, 3, 1, [useTile, (0, 62, 1), (1, 0, 48), (2, 0, 52)]⟩,
    ⟨1, 8, 3, 2, [(0, 62, 1), (1, 0, 48), (2, 32, 16), (2, 50, 2)]⟩]

/-- Elementwise vector commands. -/
def rowsVector : List OpRow :=
  ([1, 2, 3, 5, 6].map fun o => ⟨2, o, 2, 1, use2⟩) ++ ([7, 8].map fun o => ⟨2, o, 2, 1, use1⟩)
    ++ [⟨2, 4, 3, 1, (2, 0, 12) :: use2⟩, ⟨2, 9, 3, 1, (2, 24, 3) :: use2⟩, ⟨2, 0x0A, 3, 1, (2, 0, 12) :: use2⟩]
    ++ ([0x0B, 0x0C].map fun o => ⟨2, o, 2, 2, use2⟩) ++ [⟨2, 0x0D, 3, 2, (2, 24, 3) :: use1⟩]
    ++ [0x10, 0x11, 0x12, 0x13, 0x14, 0x15].map fun o => ⟨2, o, 2, 1, use1⟩

/-- Reductions, Long Tally commands, loads and stores. -/
def rowsReduce : List OpRow :=
  [⟨2, 0x18, 3, 1, [useLtr, (0, 59, 2), (0, 61, 2), (2, 12, 12)] ++ use1⟩]
    ++ ([0x19, 0x1A].map fun o => ⟨2, o, 3, 1, [(0, 59, 2), (2, 12, 12)] ++ use1⟩)
    ++ ([0x20, 0x22].map fun o => ⟨2, o, 2, 2, [useLtr]⟩)
    ++ [⟨2, 0x21, 2, 2, [useView, useLtr, useA, useSe]⟩, ⟨2, 0x24, 2, 2, [useView, useVd, useLtr, useA, useSe]⟩]
    ++ ([0x23, 0x25].map fun o => ⟨2, o, 4, 2, useLtr :: useMem⟩)
    ++ ([0x30, 0x31].map fun o => ⟨2, o, 4, 1, [useView, useVd, useSe] ++ useMem⟩)
    ++ [⟨2, 0x32, 2, 1, [useView, useVd, (1, 0, 7)]⟩]

/-- The other classes. -/
def rowsOther : List OpRow :=
  [⟨3, 1, 3, 1, [(0, 51, 1), (1, 0, 50), (2, 0, 16)]⟩, ⟨4, 1, 3, 2, [(0, 51, 6), (1, 0, 64), (2, 0, 64)]⟩,
    ⟨5, 1, 2, 1, [(1, 0, 16)]⟩, ⟨5, 2, 2, 1, [(1, 0, 64)]⟩, ⟨6, 1, 2, 1, [(0, 51, 4), (1, 0, 32)]⟩, ⟨6, 2, 1, 1, []⟩,
    ⟨6, 3, 2, 1, [(0, 51, 4), (1, 0, 32)]⟩, ⟨6, 4, 2, 2, [(0, 51, 4), (1, 0, 48)]⟩, ⟨7, 1, 2, 2, [(0, 51, 1), (1, 0, 64)]⟩,
    ⟨7, 2, 1, 1, []⟩, ⟨7, 3, 1, 1, []⟩]

/-- Every operation. -/
def opRows : List OpRow := rowsMatrix ++ rowsVector ++ rowsReduce ++ rowsOther

/-! Fields. -/

/-- A source field. -/
def srcAt (v : Nat) : Src :=
  ⟨BitVec.ofNat 2 (bitsAt v 0 2), ⟨bitsAt v 2 4, Nat.mod_lt _ (by decide)⟩, ⟨bitsAt v 6 6, Nat.mod_lt _ (by decide)⟩⟩

/-- A half at a bit of a word. -/
def w16At (v lo : Nat) : W16 := BitVec.ofNat 16 (bitsAt v lo 16)

/-- A word at a bit of a word. -/
def w32At (v lo : Nat) : W32 := BitVec.ofNat 32 (bitsAt v lo 32)

/-- The common fields (R169); an IXL of 5 to 7 is refused at stage 5. -/
def hdrWord (w : Nat) : Hdr :=
  ⟨w32At w 0, ⟨min (bitsAt w 44 3) 4, by omega⟩, BitVec.ofNat 4 (bitsAt w 47 4), none, false, none, 0⟩

/-- The fields of a vector command. -/
def vecAt (a b c : Nat) : VecF :=
  { view := BitVec.ofNat 2 (bitsAt a 51 2), vd := ⟨bitsAt a 53 4, Nat.mod_lt _ (by decide)⟩,
    ltr := ⟨bitsAt a 57 2, Nat.mod_lt _ (by decide)⟩, axis := BitVec.ofNat 2 (bitsAt a 59 2), acc := BitVec.ofNat 2 (bitsAt a 61 2),
    imm := w32At b 0, srca := srcAt (bitsAt b 32 12), srcb := srcAt (bitsAt b 44 12), se := BitVec.ofNat 8 (bitsAt b 56 8),
    srcc := srcAt (bitsAt c 0 12), nm1 := BitVec.ofNat 12 (bitsAt c 12 12), fn := BitVec.ofNat 3 (bitsAt c 24 3) }

/-- The fields of a load or store. -/
def vmemAt (a b c d : Nat) : VmemF :=
  { view := BitVec.ofNat 2 (bitsAt a 51 2), vd := ⟨bitsAt a 53 4, Nat.mod_lt _ (by decide)⟩,
    ltr := ⟨bitsAt a 57 2, Nat.mod_lt _ (by decide)⟩, se := BitVec.ofNat 8 (bitsAt b 56 8), h := w16At c 0, row0 := w32At c 16,
    col0 := w32At d 0 }

/-- A Tally tile at a bit. -/
def tileAt (v lo : Nat) : TileId := ⟨bitsAt v lo 3, Nat.mod_lt _ (by decide)⟩

/-- A count register. -/
def cregAt (v : Nat) : Fin 16 := ⟨bitsAt v 51 4, Nat.mod_lt _ (by decide)⟩

/-- A matrix command. -/
def matrixAt (op : Nat) (h : Hdr) (a b c : Nat) : Option Instr :=
  let k : CoreId := 0
  let t := tileAt a 51
  let kind : BitVec 2 := BitVec.ofNat 2 (bitsAt a 55 2)
  match op with
  | 1 => some (.mmul k h ⟨t, bitAt a 54, kind, BitVec.ofNat 2 (bitsAt a 57 2), bitAt a 59, bitAt a 60, bitAt a 61, w16At b 0, w16At b 16,
      w16At b 32, w32At c 0, w32At c 32⟩)
  | 2 => some (.asweep k h ⟨bitAt a 59, bitAt a 60, w16At b 0, w16At b 16, w16At b 32, w32At c 0, w32At c 32⟩)
  | 3 => some (.tzero k h ⟨t, kind, 0, 0⟩)
  | 4 => some (.tfill k h ⟨t, kind, w16At b 0, w16At b 16⟩)
  | 5 => some (.taccm k h ⟨t, 0, w16At b 0, w16At b 16⟩)
  | 6 => some (.tstore k h ⟨t, 0, w16At b 0, w16At b 16⟩)
  | 7 => some (.epi k h ⟨t, bitAt a 62, w16At b 0, w16At b 16, w16At b 32, w16At c 0, w16At c 16, w16At c 32,
      BitVec.ofNat 2 (bitsAt c 48 2), bitAt c 50, bitAt c 51⟩)
  | 8 => some (.gpass k h ⟨w16At b 0, w16At b 16, w16At b 32, w16At c 32, bitAt c 50, bitAt c 51⟩)
  | _ => none

/-- A vector command. -/
def vectorAt (op : Nat) (h : Hdr) (a b c d : Nat) : Option Instr :=
  let k : CoreId := 0
  let f := vecAt a b c
  let m := vmemAt a b c d
  match op with
  | 0x01 => some (.vadd k h f)
  | 0x02 => some (.vsub k h f)
  | 0x03 => some (.vmul k h f)
  | 0x04 => some (.vfma k h f)
  | 0x05 => some (.vmax k h f)
  | 0x06 => some (.vmin k h f)
  | 0x07 => some (.vabs k h f)
  | 0x08 => some (.vneg k h f)
  | 0x09 => some (.vcmp k h f)
  | 0x0A => some (.vsel k h f)
  | 0x0B => some (.viadd k h f)
  | 0x0C => some (.visub k h f)
  | 0x0D => some (.vcvt k h f)
  | 0x10 => some (.vexp2 k h f)
  | 0x11 => some (.vlog2 k h f)
  | 0x12 => some (.vrcp k h f)
  | 0x13 => some (.vrsqrt k h f)
  | 0x14 => some (.vtanh k h f)
  | 0x15 => some (.verf k h f)
  | 0x18 => some (.vrsum k h f)
  | 0x19 => some (.vrmax k h f)
  | 0x1A => some (.vrmin k h f)
  | 0x20 => some (.ltclr k h f)
  | 0x21 => some (.ltaddf k h f)
  | 0x22 => some (.ltaddt k h f)
  | 0x23 => some (.ltaddm k h m)
  | 0x24 => some (.ltrd k h f)
  | 0x25 => some (.ltst k h m)
  | 0x30 => some (.vld k h m)
  | 0x31 => some (.vst k h m)
  | 0x32 => some (.trd k h ⟨f.vd, tileAt b 0, ⟨bitsAt b 3 1, Nat.mod_lt _ (by decide)⟩, ⟨bitsAt b 4 3, Nat.mod_lt _ (by decide)⟩⟩)
  | _ => none

/-- A command of another class. -/
def otherAt (cls op : Nat) (h : Hdr) (a b c : Nat) : Option Instr :=
  let k : CoreId := 0
  match cls, op with
  | 3, 1 => some (.move k h ⟨bitAt a 51, w16At b 0, w16At b 16, BitVec.ofNat 18 (bitsAt b 32 18), w16At c 0⟩)
  | 4, 1 => some (.upd k h ⟨⟨bitsAt a 51 6, Nat.mod_lt _ (by decide)⟩, w16At b 0, w16At b 16, w16At b 32, w16At b 48, w16At c 0, w16At c 16,
      w16At c 32, w16At c 48⟩)
  | 5, 1 => some (.signal k h (w16At b 0))
  | 5, 2 => some (.wait k h ⟨w16At b 0, w16At b 16, w32At b 32⟩)
  | 6, 1 => some (.loop k h (cregAt a) (w32At b 0))
  | 6, 2 => some (.endl k h)
  | 6, 3 => some (.setc k h (cregAt a) (w32At b 0))
  | 6, 4 => some (.ldc k h (cregAt a) (w16At b 0) (w32At b 16))
  | 7, 1 => some (.xchg k h ⟨bitAt a 51, w16At b 0, w16At b 16, w16At b 32, w16At b 48⟩)
  | 7, 2 => some (.commit k h)
  | 7, 3 => some (.stepend k h)
  | _, _ => none

/-- The command that words spell. -/
def instrAt (ws : List W64) : Option Instr :=
  let w := fun (i : Nat) => (ws.getD i 0).toNat
  let cls := bitsAt (w 0) 32 4
  let op := bitsAt (w 0) 36 6
  if cls = 1 then matrixAt op (hdrWord (w 0)) (w 0) (w 1) (w 2)
  else if cls = 2 then vectorAt op (hdrWord (w 0)) (w 0) (w 1) (w 2) (w 3)
  else otherAt cls op (hdrWord (w 0)) (w 0) (w 1) (w 2)

/-- The row of a first word. -/
def rowOf (w : W64) : Option OpRow := opRows.find? fun r => r.cls = bitsAt w.toNat 32 4 && r.op = bitsAt w.toNat 36 6

/-! Stage 4. -/

/-- A command of a stream: itself, its IXL as it stands, its place in the image and in the stream's words, and the enclosing
loops, outermost first: position and MAXC. -/
structure LCmd where
  ins   : Instr
  ixl   : Nat
  off   : Nat
  loops : List (Nat × Nat)
  deriving DecidableEq, Repr

/-- Its tag. -/
def LCmd.tag (c : LCmd) : Nat := (hdrOf c.ins).tag.toNat

/-- The lowest nonzero bit that the row leaves reserved (R170), among the words that are there. -/
def reservedBit (r : Option OpRow) (ws : List W64) : Option Nat :=
  let n := match r with | some x => min x.words ws.length | none => 1
  let used := (0, 0, 51) :: (match r with | some x => x.used | none => [(0, 51, 12)])
  (List.range (64 * n)).find? fun b =>
    bitAt (ws.getD (b / 64) 0).toNat (b % 64) && ! used.any fun u => u.1 = b / 64 && decide (u.2.1 ≤ b % 64) && decide (b % 64 < u.2.1 + u.2.2)

/-- The first bit of a field that is not zero. -/
def lowBit (v : Nat) : Nat := ((List.range 64).find? fun i => bitAt v i).getD 0

/-- The lowest nonzero bit of fields, given by their first bits in ascending order. -/
def lowField (fs : List (Nat × Nat)) : Option Nat := (fs.find? fun f => f.2 ≠ 0).map fun f => f.1 + lowBit f.2

/-- The lowest bit of a command in a field that must be zero and is not, or that holds a reserved value (R119, R122, R170, R172,
R501). A field that a command uses only under another field's value counts as unused under the others: HANC of an MMUL with ANS 0, what an
EPI with STAT 0 says of statistics, NM1 without AXIS 3; IMM32 and the parts of a source field are the operation's in any case (DESIGN
CHOICE, log 169). Whether an EPI's destination is a grid word is told by HD itself, before loops are looked at (DESIGN CHOICE, log 170). -/
def Ldr.condReserved (l : Ldr) (i : Instr) : Option Nat :=
  let b := fun (x : Bool) => if x then 1 else 0
  let count := fun (c : VecF) => if c.axis = 3 then 0 else c.nm1.toNat
  match i with
  | .mmul _ _ c => if c.ans then none else lowField [(96, c.hanc.toNat)]
  | .epi _ _ c =>
    let f := (l.desc c.hd.toNat).fmt
    let grid := f = some .g32 || f = some .g64
    let off := fun (x : Nat) => if c.stat then 0 else x
    lowField [(80, off c.hsr.toNat), (96, off c.hsc.toNat), (160, if grid then 0 else c.gslot.toNat),
      (176, if grid then (if c.gmode = 3 then 1 else 0) else c.gmode.toNat), (178, off (b c.radd)), (179, off (b c.cadd))]
  | .vrsum _ _ c => lowField [(57, if c.acc ≠ 0 || c.view ≠ 0 then c.ltr.val else 0), (140, count c)]
  | .vrmax _ _ c | .vrmin _ _ c => lowField [(140, count c)]
  | .ltrd _ _ c => lowField [(98, c.srca.reg.val)]
  | .gpass .. => none
  | .vcmp _ _ c => if 6 ≤ c.fn.toNat then some (152 + lowBit (c.fn.toNat)) else none
  | .vcvt _ _ c => if 3 ≤ c.fn.toNat then some (152 + lowBit (c.fn.toNat)) else none
  | _ => none

/-- The lowest of the reserved bits of the row and of the fields that must be zero, where both are known (R503). -/
def lowestBit (a b : Option Nat) : Option Nat :=
  match a, b with | some x, some y => some (min x y) | some x, none => some x | none, y => y

/-- Is a command above the level of the image (R171, R190). -/
def Ldr.levelBad (l : Ldr) (r : OpRow) (i : Instr) : Bool :=
  let lvl := match i with | .vrsum _ _ c => if c.acc = 2 then 1 else 2 | _ => r.level
  decide (l.isa < lvl) || (l.isa = 1 && (match i with
    | .mmul _ _ c => c.acc ≠ 3
    | .epi _ _ c => let f := (l.desc c.hd.toNat).fmt; c.stat || f = some .g32 || f = some .g64
    | _ => false))

/-- The first command of words at offset `off`: a finding, or the command with its number of words. Within one command the reserved bits of
the row come first, with those fields whose words are there by a right LEN; then class and operation, LEN, the end of the stream, and a GPASS
with STAT 0, which has no nonzero bit for OFFSET to point at: it points at the byte of STAT (DESIGN CHOICE, log 171). -/
def Ldr.cmdAt (l : Ldr) (lc off : Nat) (ws : List W64) (seen : List Nat) : Rej ⊕ (LCmd × Nat) :=
  let w0 := ws.getD 0 0
  let tag := bitsAt w0.toNat 0 32
  let rej := fun (reason byte : Nat) => (⟨reason, 4, lc, 0, tag, 0, off + byte⟩ : Rej)
  let fields := match rowOf w0 with
    | some r => if ws.length < r.words ∨ bitsAt w0.toNat 42 2 + 1 ≠ r.words then none else (instrAt ws).bind l.condReserved
    | none => none
  match lowestBit (reservedBit (rowOf w0) ws) fields with
  | some b => .inl (rej 0x0401 (b / 8))
  | none =>
    match rowOf w0, instrAt ws with
    | some r, some i =>
      if bitsAt w0.toNat 42 2 + 1 ≠ r.words then .inl (rej 0x0403 5)
      else if ws.length < r.words then .inl (rej 0x0404 0)
      else if (match i with | .gpass .. => ! bitAt w0.toNat 62 | _ => false) then .inl (rej 0x0401 7)
      else if l.levelBad r i then .inl (rej 0x0405 0)
      else if tag = 0 ∨ 0xFFFF0000 ≤ tag then .inl (rej 0x0406 0)
      else if seen.contains tag then .inl (rej 0x0407 0)
      else .inr (⟨i, bitsAt w0.toNat 44 3, off, []⟩, r.words)
    | _, _ => .inl (rej 0x0402 4)

/-- The commands of a stream, with the tags seen so far; `fuel` bounds its words. -/
def Ldr.cmdsFrom (l : Ldr) (lc : Nat) : Nat → Nat → List W64 → List Nat → Rej ⊕ (List LCmd × List Nat)
  | 0, _, _, seen => .inr ([], seen)
  | n + 1, off, ws, seen =>
    if ws.isEmpty then .inr ([], seen)
    else
      match l.cmdAt lc off ws seen with
      | .inl r => .inl r
      | .inr c =>
        match l.cmdsFrom lc n (off + 8 * c.2) (ws.drop c.2) (c.1.tag :: seen) with
        | .inl r => .inl r
        | .inr x => .inr (c.1 :: x.1, x.2)

/-- Stage 4: the streams in ascending logical core. -/
def Ldr.decodeAll (l : Ldr) : List (Nat × Nat × List W64) → List Nat → Rej ⊕ List (List LCmd)
  | [], _ => .inr []
  | (lc, off, ws) :: rest, seen =>
    match l.cmdsFrom lc ws.length off ws seen with
    | .inl r => .inl r
    | .inr x =>
      match l.decodeAll rest x.2 with
      | .inl r => .inl r
      | .inr y => .inr (x.1 :: y)

/-! Stage 5. -/

/-- The tensor handle fields of a command in order, and whether its operation needs a tensor there (R172-R177). -/
def handleFields : Instr → List (W16 × Bool)
  | .mmul _ _ c => [(c.ha, true), (c.hb, true), (c.hanc, false)]
  | .asweep _ _ c => [(c.ha, true), (c.hb, true), (c.hanc, false)]
  | .tfill _ _ c | .taccm _ _ c | .tstore _ _ c => [(c.h, true), (c.hanc, false)]
  | .epi _ _ c => [(c.hd, true), (c.hsr, c.stat), (c.hsc, c.stat)]
  | .gpass _ _ c => [(c.hg, true), (c.hsr, true), (c.hsc, true)]
  | .ltaddm _ _ c | .ltst _ _ c | .vld _ _ c | .vst _ _ c => [(c.h, true)]
  | .move _ _ c => [(c.src, true), (c.dst, true)]
  | .upd _ _ c =>
    [(c.hw, true), (c.hp, false), (c.hg, true), (c.hm, false), (c.hsr, true), (c.hsc, true), (c.hvr, true), (c.hvc, true)]
  | .ldc _ _ _ h _ => [(h, true)]
  | .xchg _ _ c => [(c.hl, true), (c.hr, true)]
  | _ => []

/-- The enclosing loops of every command of a stream; `up` are the open ones. -/
def withLoops : List LCmd → Nat → List (Nat × Nat) → List LCmd
  | [], _, _ => []
  | c :: cs, pos, up =>
    let next := match c.ins with
      | .loop _ _ _ m => up ++ [(pos, m.toNat)]
      | .endl .. => up.dropLast
      | _ => up
    { c with loops := up } :: withLoops cs (pos + 1) next

/-- The loop that an ENDL at a position closes, for a LOOP: is there one. -/
def closes : List LCmd → Nat → Bool
  | [], _ => false
  | c :: cs, d =>
    match c.ins with
    | .loop .. => closes cs (d + 1)
    | .endl .. => if d = 0 then true else closes cs (d - 1)
    | _ => closes cs d

/-- A finding about a command of a stream. -/
def LCmd.rej (c : LCmd) (lc reason stage handle detail : Nat) : Rej := ⟨reason, stage, lc, handle, c.tag, detail, c.off⟩

/-- LOOP_NEST, LOOP_UNMATCHED, STEP_IN_LOOP, STEP_SHAPE (R183, R189): `before` and `after` are the stream's other commands. -/
def shapeRej (lc : Nat) (before : List LCmd) (c : LCmd) (after : List LCmd) : Option Rej :=
  let isCommit := fun (x : LCmd) => match x.ins with | .commit .. => true | _ => false
  let isEnd := fun (x : LCmd) => match x.ins with | .stepend .. => true | _ => false
  let r := fun (reason : Nat) => c.rej lc reason 5 0 0
  let shape := match c.ins with
    | .commit .. => before.any isCommit || before.any isEnd
    | .stepend .. => before.any isEnd || ! after.isEmpty || (before.filter isCommit).length ≠ 1
    | .upd .. => ! before.any isCommit || before.any isEnd
    | _ => false
  let noEnd := after.isEmpty && ! (c :: before).any isEnd
  firstRej [
    rejIf (match c.ins with | .loop .. => decide (4 ≤ c.loops.length) | _ => false) (r 0x0501),
    rejIf (match c.ins with | .loop .. => ! closes after 0 | .endl .. => c.loops.isEmpty | _ => false) (r 0x0502),
    rejIf (match c.ins with | .commit .. | .stepend .. | .xchg .. => ! c.loops.isEmpty | _ => false) (r 0x0503),
    rejIf (shape || noEnd) (r 0x0504)]

/-- INDEX_BAD (R184, R172). -/
def Ldr.indexRej (l : Ldr) (lc : Nat) (c : LCmd) : Option Rej :=
  let fs := handleFields c.ins
  let ixm := (hdrOf c.ins).ixm
  let g2 := match c.ins with | .epi _ _ e => e.gmode = 2 && c.ixl = 0 | _ => false
  if decide (c.loops.length < c.ixl) || ((List.range 4).any fun f => ixm.getLsbD f && decide (fs.length ≤ f)) || g2 then
    some (c.rej lc 0x0505 5 0 0)
  else if c.ixl = 0 then none
  else
    let maxc := (c.loops.getD (c.ixl - 1) (0, 0)).2
    (fs.zipIdx.find? fun f => decide (f.2 < 4) && ixm.getLsbD f.2 && decide (l.nhandle < f.1.1.toNat + maxc)).map fun f =>
      c.rej lc 0x0505 5 f.1.1.toNat f.2

/-- SYNC_RANGE and HANDLE_RANGE (R177, R185). -/
def Ldr.rangeRej (l : Ldr) (nsync lc : Nat) (c : LCmd) : Option Rej :=
  let sync := match c.ins with
    | .signal _ _ o => o = 0 || decide (nsync < o.toNat)
    | .wait _ _ w => w.obj = 0 || decide (nsync < w.obj.toNat)
    | .move _ _ m => decide (nsync < m.sig.toNat)
    | .xchg _ _ x => decide (nsync < x.sig.toNat)
    | _ => false
  firstRej [rejIf sync (c.rej lc 0x0506 5 0 0),
    ((handleFields c.ins).zipIdx.find? fun f => decide (l.nhandle ≤ f.1.1.toNat) || (f.1.2 && f.1.1 = 0)).map fun f =>
      c.rej lc 0x0507 5 f.1.1.toNat f.2]

/-- Stage 5 over the commands of a stream in order. -/
def Ldr.stage5At (l : Ldr) (nsync lc : Nat) : List LCmd → List LCmd → Option Rej
  | _, [] => none
  | before, c :: cs =>
    match firstRej [shapeRej lc before c cs, l.indexRej lc c, l.rangeRej nsync lc c] with
    | some r => some r
    | none => l.stage5At nsync lc (c :: before) cs

/-- Stage 5: a stream without a command has no STEPEND. -/
def Ldr.stage5 (l : Ldr) (nsync : Nat) (ss : List (List LCmd)) : Option Rej :=
  firstRej (ss.zipIdx.map fun x =>
    if x.1.isEmpty then some ⟨0x0504, 5, x.2, 0, 0, 0, 0⟩ else l.stage5At nsync x.2 [] x.1)

end Sys2Proof.Machine
end

