-- ==== Sys2Proof/Machine/Check.lean ====
section
/-! DEFINITION. What the loader checks of single commands at stage 6 (R193): operand pairs, modes, ranges, shapes, views,
moves, updates, exchanges. What depends on the flow of a stream stands in Flow.lean. -/

namespace Sys2Proof.Machine

open Sys2Proof

/-- What stage 6 needs beside one command: the manifest's sections, every stream, the layers, scales and groups. -/
structure Chk where
  ldr     : Ldr
  streams : List (List LCmd)
  layers  : List GLayer
  scales  : List MScale
  groups  : List Byte
  deriving DecidableEq, Repr

/-! Handles of a command. -/

/-- MAXC of the loop a command is indexed by; 1 where none of its fields is. -/
def LCmd.iters (c : LCmd) : Nat :=
  if c.ixl = 0 ∨ (hdrOf c.ins).ixm = 0 then 1 else max 1 (c.loops.getD (c.ixl - 1) (0, 1)).2

/-- The handle that field `f` of value `h` names in iteration `i` (R184). -/
def LCmd.at' (c : LCmd) (i f : Nat) (h : W16) : Nat :=
  if c.ixl ≠ 0 ∧ (hdrOf c.ins).ixm.getLsbD f then h.toNat + i else h.toNat

/-- Every handle that field `f` may name. -/
def LCmd.all (c : LCmd) (f : Nat) (h : W16) : List Nat :=
  (if c.ixl ≠ 0 ∧ (hdrOf c.ins).ixm.getLsbD f then (List.range c.iters).map fun i => h.toNat + i else [h.toNat]).filter fun x => x ≠ 0

/-- The alias group of a handle as one number. -/
def Ldr.grp (l : Ldr) (h : Nat) : Nat := match SMap.find l.aliasTab h with | some g => 65536 + g | none => h

/-- Does a descriptor lie in the column of logical core `lc`. -/
def Desc.own (d : Desc) (lc : Nat) : Bool := match regionOf d.base with | .column k => k = lc | _ => false

/-- Are the extents those of a tile or a vector: `n` along dimension 0, `m` along dimension 1. -/
def Desc.is2 (d : Desc) (m n : Nat) : Bool := d.ext = [n, m, 1, 1, 1, 1]

/-- Has a tile tensor extents that fit a tile. -/
def Desc.fitsTile (d : Desc) : Bool := decide (d.extent 0 ≤ 128 ∧ d.extent 1 ≤ 128) && (d.ext.drop 2).all fun e => e = 1

/-- A finding of stage 6 about a command: reason, handle, detail. -/
abbrev Find := Nat × Nat × Nat

/-- A finding where a condition holds, with no handle. -/
def find (c : Bool) (reason : Nat) : List Find := if c then [(reason, 0, 0)] else []

/-- One about the handle in field `f` (R200). -/
def hfind (c : Bool) (reason handle f : Nat) : List Find := if c then [(reason, handle, f)] else []

/-- Can a format stand as an operand of a product in some pair of R61. -/
def Desc.operand (d : Desc) : Bool :=
  match d.fmt with
  | some .fp32 | some .t128 | some .lt320 | some .g32 | some .g64 | none => false
  | _ => true

/-- Layer numbers and the WIDE of their entries; WIDE 0 without one. -/
def Chk.wideOf (k : Chk) (l : Nat) : Bool := match k.layers.find? fun x => x.num = l with | some x => x.wide | none => false

/-- The XCHGs of the image. -/
def Chk.xchgs (k : Chk) : List XchgF := k.streams.flatMap fun s => s.filterMap fun c => match c.ins with | .xchg _ _ x => some x | _ => none

/-- The layer of an UPD whose HG is `h` (R230): that of the one XCHG whose HR it is. -/
def Chk.layerOfHr (k : Chk) (h : W16) : Option Nat :=
  match k.xchgs.filter fun x => x.hr = h with | [x] => some x.layer.toNat | _ => none

/-! Matrix commands. -/

/-- Operands of MMUL and ASWEEP (R61, R67, R93, R173), the anchor tensor's extents with them. -/
def Ldr.prodFind (l : Ldr) (sweep : Bool) (acc csz : BitVec 2) (ta tb : Bool) (ha hb hc : Nat) (k0 k1 : Nat) : List Find :=
  let a := l.desc ha
  let b := l.desc hb
  let ka := if ta then 1 else 0
  let kb := if tb then 0 else 1
  let m := a.extent (1 - ka)
  let n := b.extent (1 - kb)
  let an := l.desc hc
  let narrow := fun (e : Nat) => decide (e < k1 - k0)
  match pairFam a b with
  | none => if a.operand ∧ ¬ b.operand then hfind true 0x0601 hb 1 else hfind true 0x0601 ha 0
  | some f =>
    hfind (sweep && f ≠ .bx) 0x0601 ha 0 ++ find (! sweep && ! modeOk f acc csz) 0x0602
      ++ find (decide (k1 ≤ k0)) 0x0603 ++ hfind (narrow (a.extent ka)) 0x0603 ha 0 ++ hfind (narrow (b.extent kb)) 0x0603 hb 1
      ++ hfind (decide (m < 1 ∨ 128 < m)) 0x0604 ha 0 ++ hfind (decide (n < 1 ∨ 128 < n)) 0x0604 hb 1
      ++ hfind (hc ≠ 0 && an.alay && ! (decide (n ≤ an.extent 0 ∧ m ≤ an.extent 1) && (an.ext.drop 2).all fun e => e = 1)) 0x0604 hc 2
      ++ hfind (ta && a.fmt = some .bx16) 0x0605 ha 0 ++ hfind (tb && b.fmt = some .bx16) 0x0605 hb 1

/-- A statistic vector of `n` elements in field `f` (R98). -/
def Ldr.vecFind (l : Ldr) (h n f : Nat) : List Find := let d := l.desc h; hfind (d.fmt ≠ some .lt320 || ! d.is2 1 n) 0x0604 h f

/-- Matrix commands in one iteration. -/
def Ldr.matFind (l : Ldr) (c : LCmd) (i : Nat) : List Find :=
  match c.ins with
  | .mmul _ _ f =>
    l.prodFind false f.acc f.csz f.ta f.tb (c.at' i 0 f.ha) (c.at' i 1 f.hb) (c.at' i 2 f.hanc) f.k0.toNat f.k1.toNat
  | .asweep _ _ f => l.prodFind true 0 0 f.ta f.tb (c.at' i 0 f.ha) (c.at' i 1 f.hb) (c.at' i 2 f.hanc) f.k0.toNat f.k1.toNat
  | .tzero _ _ f => find (f.kind = 3) 0x0602
  | .tfill _ _ f | .taccm _ _ f | .tstore _ _ f =>
    let h := c.at' i 0 f.h
    let a := c.at' i 1 f.hanc
    let d := l.desc h
    find (f.kind = 3) 0x0602 ++ hfind (d.fmt ≠ some .t128 || d.alay || ! d.fitsTile) 0x0604 h 0
      ++ hfind (a ≠ 0 && (l.desc a).alay && (l.desc a).ext ≠ d.ext) 0x0604 a 1
  | .epi _ _ f =>
    let h := c.at' i 0 f.hd
    let d := l.desc h
    hfind (d.fmt ≠ some .g64 && (f.gmode = 1 || f.gmode = 2)) 0x0602 h 0
      ++ hfind (d.fmt = some .lt320 || d.alay || ! d.fitsTile) 0x0604 h 0
      ++ (if f.stat then l.vecFind (c.at' i 1 f.hsr) (d.extent 1) 1 ++ l.vecFind (c.at' i 2 f.hsc) (d.extent 0) 2 else [])
  | .gpass _ _ f =>
    let h := c.at' i 0 f.hg
    let d := l.desc h
    hfind (! (d.fmt = some .g32 || d.fmt = some .g64) || ! d.fitsTile) 0x0604 h 0 ++ l.vecFind (c.at' i 1 f.hsr) (d.extent 1) 1
      ++ l.vecFind (c.at' i 2 f.hsc) (d.extent 0) 2
  | _ => []

/-! Vector commands. -/

/-- The view, SE and the source fields that a vector command uses (R174), and the views that R502 allows. -/
structure VUse where
  view : BitVec 2
  se   : Byte
  srcs : List Src
  ok   : List Nat
  deriving DecidableEq, Repr

/-- What a command on registers uses; none for the commands whose VIEW is not used and for those of other classes. -/
def vuseOf : Instr → Option VUse
  | .vadd _ _ c | .vsub _ _ c | .vmul _ _ c | .vmax _ _ c | .vmin _ _ c => some ⟨c.view, c.se, [c.srca, c.srcb], [0]⟩
  | .vfma _ _ c => some ⟨c.view, c.se, [c.srca, c.srcb, c.srcc], [0]⟩
  | .vabs _ _ c | .vneg _ _ c | .vexp2 _ _ c | .vlog2 _ _ c | .vrcp _ _ c | .vrsqrt _ _ c | .vtanh _ _ c | .verf _ _ c
  | .vrmax _ _ c | .vrmin _ _ c => some ⟨c.view, c.se, [c.srca], [0]⟩
  | .vcmp _ _ c => some ⟨c.view, c.se, [c.srca, c.srcb], [0, 1]⟩
  | .vsel _ _ c => some ⟨c.view, c.se, [c.srca, c.srcb, c.srcc], [0, 1]⟩
  | .viadd _ _ c | .visub _ _ c => some ⟨c.view, c.se, [c.srca, c.srcb], [1, 2, 3]⟩
  | .vcvt _ _ c => some ⟨c.view, c.se, [c.srca], if c.fn = 0 then [0] else [1]⟩
  | .vrsum _ _ c => some ⟨c.view, c.se, [c.srca], if c.acc = 0 then [0, 1, 2, 3] else [0]⟩
  | .ltaddf _ _ c => some ⟨c.view, c.se, [], [0]⟩
  | .ltrd _ _ c => some ⟨c.view, c.se, [], [0]⟩
  | _ => none

/-- VIEW of a load or store of a format (R502). -/
def vmemViews (store : Bool) (d : Desc) : List Nat :=
  match d.fmt with
  | some .lt320 | none => []
  | some .g32 => 1 :: (if store then [0] else [])
  | some .g64 => 2 :: (if store then [0] else [])
  | some .t128 => if d.alay then [] else [3]
  | _ => [0]

/-- A store with AUTO or into BX16 that does not cover whole blocks (R58). A region wholly outside the view stores nothing and is
not rejected (R175). -/
def coverBad (d : Desc) (c : VmemF) : Bool :=
  d.blocked && decide (c.col0.toNat < d.extent 0 ∧ c.row0.toNat < d.extent 1) && (d.bem || d.fmt = some .bx16) &&
    (if d.kdim = 0 then c.col0.toNat % d.bs ≠ 0 else if d.kdim = 1 then c.row0.toNat % d.bs ≠ 0 else decide (1 < d.extent d.kdim))

/-- Vector commands in one iteration (R114, R115, R122, R502, R58). -/
def Ldr.vecCmdFind (l : Ldr) (c : LCmd) (i : Nat) : List Find :=
  let regs := match vuseOf c.ins with
    | none => []
    | some u =>
      find (u.view ≠ 0 && u.se ≠ 0) 0x0609 ++ find (! u.ok.contains u.view.toNat) 0x0609
        ++ find (u.srcs.any fun s => s.kind = 2 && decide (viewCols u.view ≤ s.index.val)) 0x0604
  regs ++ (match c.ins with
    | .vrsum _ _ f => find (f.acc = 1 || f.acc = 3) 0x0602
    | .ltaddf _ _ f | .ltrd _ _ f => find (f.srca.kind = 0 || f.srca.kind = 3) 0x0604
    | .ltaddm _ _ f | .ltst _ _ f => let h := c.at' i 0 f.h; hfind ((l.desc h).fmt ≠ some .lt320) 0x0604 h 0
    | .vld _ _ f =>
      let h := c.at' i 0 f.h
      find (f.view ≠ 0 && f.se ≠ 0) 0x0609 ++ hfind (! (vmemViews false (l.desc h)).contains f.view.toNat) 0x0609 h 0
    | .vst _ _ f =>
      let h := c.at' i 0 f.h
      find (f.view ≠ 0 && f.se ≠ 0) 0x0609 ++ hfind (! (vmemViews true (l.desc h)).contains f.view.toNat) 0x0609 h 0
        ++ hfind (coverBad (l.desc h) f) 0x0606 h 0
    | _ => [])

/-- The VIEW of TRD is no field of the command as held: it must be T128 (R502); `w` is the command's first word. -/
def trdFind (i : Instr) (w : Nat) : List Find := match i with | .trd .. => find (bitsAt w 51 2 ≠ 3) 0x0609 | _ => []

/-! Moves, updates, exchanges, LDC. -/

/-- May a move write a descriptor (R158, R255): no RX half, and a LANDING view only where R158 names. -/
def moveDstBad (d : Desc) : Bool :=
  (inLink d.base && (linkPlace d.base).2.1)
    || (d.cls = 0 && (match regionOf d.base with | .column _ | .link _ | .spill | .granule _ => false | _ => true))

/-- A group record of section 3: its number, and where its knots start. -/
def groupKnots (b : List Byte) (g : Nat) : Nat :=
  4096 + ((List.range g).map fun i => let v := leAt b (64 * i) 64; if bitAt v 0 then 16 * (bitsAt v 2 8 + 1) else 0).foldl (· + ·) 0

/-- Knot `k` of a group in section 3: SK, LR, WD. -/
def knotAt (b : List Byte) (g k : Nat) : Nat × W32 × W32 :=
  let v := leAt b (groupKnots b g + 16 * k) 16
  (bitsAt v 0 64, BitVec.ofNat 32 (bitsAt v 64 32), BitVec.ofNat 32 (bitsAt v 96 32))

/-- A finite value from `lo` to `hi`, by a test. -/
def inRange (w : W32) (f : ℚ → Bool) : Bool := match f32 w with | .fin sg a => f (FV.fin sg a).toRat | _ => false

/-- Do the conditions of R239 hold of a group record and its knots. -/
def groupOk (v : Nat) (ks : List (Nat × W32 × W32)) : Bool :=
  let w := fun (lo : Nat) => BitVec.ofNat 32 (bitsAt v lo 32)
  let dec := fun (x : W32) => inRange x fun q => decide (0 ≤ q ∧ q < 1)
  let inp := fun (x : W32) => inRange x fun q => decide (0 < q ∧ q ≤ 1)
  let prod := fun (x : W32) => inRange x fun q => decide (0 ≤ q ∧ q ≤ 1)
  let nn := fun (x : W32) => inRange x fun q => decide (0 ≤ q)
  bitAt v 0 && dec (w 32) && inp (w 64) && dec (w 96) && inp (w 128) && inRange (w 160) (fun q => decide (pow2 (-126) ≤ q))
    && prod (w 192) && prod (w 224) && ((List.zipWith (fun a b => decide (a.1 < b.1)) ks ks.tail).all id)
    && ks.all fun k => nn k.2.1 && nn k.2.2

/-- A group of section 3 that an UPD names (R239). -/
def groupBad (b : List Byte) (g : Nat) : Bool :=
  let v := leAt b (64 * g) 64
  b.isEmpty || ! groupOk v ((List.range (bitsAt v 2 8 + 1)).map (knotAt b g))

/-- The operands of an UPD (R229, R230): the first handle field that breaks the rules, with its number and handle; of fields that are at odds
with one another the later. -/
def Chk.updBad (k : Chk) (lc : Nat) (c : LCmd) (f : UpdF) (i : Nat) : Option (Nat × Nat) :=
  let hs := [c.at' i 0 f.hw, c.at' i 1 f.hp, c.at' i 2 f.hg, c.at' i 3 f.hm, f.hsr.toNat, f.hsc.toNat, f.hvr.toNat, f.hvc.toNat]
  let d := fun (n : Nat) => k.ldr.desc (hs.getD n 0)
  let w := d 0
  let m := w.extent 1
  let n := w.extent 0
  let like := fun (x : Desc) => x.ndim = w.ndim && x.ext = w.ext
  let vec := fun (x : Desc) (e : Nat) => x.ndim = 1 && x.extent 0 = e
  let fits := fun (j : Nat) => match j with
    | 0 => w.fmt = some .fp32 && ! w.sr && w.ndim = 2 && decide (n ≤ 32768)
    | 1 => (match (d 1).fmt with | some .t128 | some .lt320 | some .g32 | some .g64 | none => false | _ => true) && like (d 1)
    | 2 => ((d 2).fmt = some .g32 || (d 2).fmt = some .g64) && like (d 2) && (k.layerOfHr (BitVec.ofNat 16 (hs.getD 2 0))).isSome
    | 3 => ((d 3).fmt = some .bf16 || (d 3).fmt = some .fp32) && like (d 3)
    | 4 => (d 4).fmt = some .lt320 && vec (d 4) m
    | 5 => (d 5).fmt = some .lt320 && vec (d 5) n
    | 6 => (d 6).fmt = some .fp32 && ! (d 6).sr && vec (d 6) m
    | _ => (d 7).fmt = some .fp32 && ! (d 7).sr && vec (d 7) n
  let bad := fun (x : Nat × Nat) =>
    if x.1 = 0 then x.2 ≠ 1 && x.2 ≠ 3
    else ! fits x.2 || ! (k.ldr.desc x.1).own lc || (hs.take x.2).any fun y => y ≠ 0 && k.ldr.grp y = k.ldr.grp x.1
  (hs.zipIdx.find? bad).map fun x => (x.2, x.1)

/-- The operands of an XCHG (R281, R275): likewise; none of its handles where it is the layer that is at odds. -/
def Chk.xchgBad (k : Chk) (lc : Nat) (x : XchgF) : Option (Nat × Nat) :=
  let a := k.ldr.desc x.hl.toNat
  let b := k.ldr.desc x.hr.toNat
  if ¬ (a.fmt = some .g64 ∧ a.own lc) then some (0, x.hl.toNat)
  else if ¬ (b.fmt = (if x.wide then some .g64 else some .g32) ∧ a.ndim = b.ndim ∧ a.ext = b.ext ∧ b.own lc
      ∧ k.ldr.grp x.hl.toNat ≠ k.ldr.grp x.hr.toNat) then some (1, x.hr.toNat)
  else if ¬ (k.wideOf x.layer.toNat = x.wide ∧ k.xchgs.all fun y => y.layer ≠ x.layer || y.wide = x.wide) then some (0, 0)
  else none

/-- Moves, updates, exchanges and LDC in one iteration. -/
def Chk.otherFind (k : Chk) (lc : Nat) (c : LCmd) (i : Nat) : List Find :=
  let at' := fun (o : Option (Nat × Nat)) (reason : Nat) => match o with | some x => hfind true reason x.2 x.1 | none => []
  match c.ins with
  | .move _ _ f =>
    let d := k.ldr.desc (c.at' i 1 f.dst)
    let bad := ! moveOk (k.ldr.desc (c.at' i 0 f.src)) d f.perm || moveDstBad d
    if permOk f.perm then hfind bad 0x0607 (c.at' i 1 f.dst) 1 else find bad 0x0607
  | .upd _ _ f =>
    at' (k.updBad lc c f i) 0x060B ++ (if groupBad k.groups f.group.val then [(0x060B, 0, f.group.val)] else [])
  | .xchg _ _ f => at' (k.xchgBad lc f) 0x0604
  | .ldc _ _ _ h _ =>
    let n := c.at' i 0 h
    let d := k.ldr.desc n
    hfind (d.cls ≠ 2 || d.fmt ≠ some .g32) 0x060A n 0
  | _ => []

/-- Every finding of stage 6 about one command but the flow's; `w` is its first word. -/
def Chk.static (k : Chk) (lc w : Nat) (c : LCmd) : List Find :=
  trdFind c.ins w
    ++ (List.range c.iters).flatMap fun i => k.ldr.matFind c i ++ k.ldr.vecCmdFind c i ++ k.otherFind lc c i

/-! Layers and slots (R230, R246, R288). -/

/-- The handles that an UPD reads its gradient from, over its iterations (R184), with the layer of each (R230). -/
def Chk.updLayers (k : Chk) (c : LCmd) (f : UpdF) : List (Nat × Nat) :=
  (c.all 2 f.hg).filterMap fun h => (k.layerOfHr (BitVec.ofNat 16 h)).map fun l => (h, l)

/-- The layers a command names by GSLOT, XCHG or UPD, over its iterations. -/
def Chk.layersNamed (k : Chk) (c : LCmd) : List Nat :=
  match c.ins with
  | .gpass _ _ f => [f.gslot.toNat]
  | .epi _ _ f =>
    if (c.all 0 f.hd).any fun h => (k.ldr.desc h).fmt = some .g32 || (k.ldr.desc h).fmt = some .g64 then [f.gslot.toNat] else []
  | .xchg _ _ f => [f.layer.toNat]
  | .upd _ _ f => (k.updLayers c f).map (·.2)
  | _ => []

/-- The layers of a stream in ascending number. -/
def Chk.slotsOf (k : Chk) (s : List LCmd) : List Nat := ((s.flatMap k.layersNamed).eraseDups).mergeSort fun a b => decide (a ≤ b)

/-- UPD_OPERAND for the command that names a stream's 257th layer (R246). -/
def Chk.slotFind (k : Chk) (before : List LCmd) (c : LCmd) : List Find :=
  let ls := (before.flatMap k.layersNamed).eraseDups
  let all := ((before ++ [c]).flatMap k.layersNamed).eraseDups
  if ls.length < all.length ∧ 256 < all.length then [(0x060B, 0, all.length)] else []

end Sys2Proof.Machine
end

