-- ==== Sys2Proof/Machine/Flow.lean ====
section
/-! DEFINITION. What the loader follows through a stream (R196-R198): the class and derivation of values in tile registers,
Long Tally registers, Tally tiles and handles, over every path through the loops, and the checks of stages 6 to 9 that rest
on it. -/

namespace Sys2Proof.Machine

open Sys2Proof

/-- What the loader knows of a value: the rank of its class (R196), whether it comes from a COMP sum, and the tags of the F32
sums in loops that it comes from; of a raw partial in a tile register, the chains it is of, by tile and start, and the groups that it was
loaded from (R197). -/
structure AVal where
  rank : Nat
  comp : Bool
  sums : List Nat
  raws : List (Nat × Nat)
  grps : List Nat
  deriving DecidableEq, Repr

/-- A value from nothing. -/
def AVal.none : AVal := ⟨0, false, [], [], []⟩

/-- The first list with what the second adds to it. -/
def unionL {α : Type} [DecidableEq α] (a b : List α) : List α := b.foldl (fun r x => if r.contains x then r else r ++ [x]) a

/-- A value derived from both. -/
def AVal.join (a b : AVal) : AVal := ⟨max a.rank b.rank, a.comp || b.comp, unionL a.sums b.sums, unionL a.raws b.raws, unionL a.grps b.grps⟩

/-- What the loader knows of a Tally tile: the kinds and shapes it may have, its last accumulations since its last OVW (is
it ZACC, tag), the groups of its chain's inputs, its value, the writers of its inputs, and where its chain may start: after
an OVW at a position (counted from 1) or at the start of the attempt (0). -/
structure ATile where
  kinds  : List Nat
  shapes : List (Nat × Nat)
  lasts  : List (Bool × Nat)
  ins    : List Nat
  val    : AVal
  taint  : List Nat
  starts : List Nat
  deriving DecidableEq, Repr

/-- A tile at the start of an attempt (R84). -/
def ATile.start : ATile := ⟨[0], [], [], [], AVal.none, [], [0]⟩

/-- What holds where two paths meet. -/
def ATile.join (a b : ATile) : ATile :=
  ⟨unionL a.kinds b.kinds, unionL a.shapes b.shapes, unionL a.lasts b.lasts, unionL a.ins b.ins, a.val.join b.val,
    unionL a.taint b.taint, unionL a.starts b.starts⟩

/-- A readout that later commands may not wait for (R103): its tag, the groups of its chain's inputs, and what makes a later
command wait for it or for a command that waits for it: groups read and written, tiles and how they are accessed, whether vector
commands and moves are among them, count registers that an LDC of them loads, objects that a SIGNAL of them counts. -/
structure AOpen where
  tag   : Nat
  ins   : List Nat
  rd    : List Nat
  wr    : List Nat
  tiles : List (TileId × TAccK)
  vec   : Bool
  mv    : Bool
  cregs : List Nat
  sigs  : List Nat
  deriving DecidableEq, Repr

/-- What both lists hold. -/
def bothL {α : Type} [DecidableEq α] (a b : List α) : List α := a.filter b.contains

/-- What holds of a readout where two paths meet: inputs of either, waits of both. -/
def AOpen.join (a b : AOpen) : AOpen :=
  ⟨a.tag, unionL a.ins b.ins, bothL a.rd b.rd, bothL a.wr b.wr, bothL a.tiles b.tiles, a.vec && b.vec, a.mv && b.mv, bothL a.cregs b.cregs,
    bothL a.sigs b.sigs⟩

/-- Readouts of two paths, one entry a tag. -/
def joinOpens (a b : List AOpen) : List AOpen :=
  (a.map fun x => match b.find? fun y => y.tag = x.tag with | some y => x.join y | none => x)
    ++ b.filter fun y => ! a.any fun x => x.tag = y.tag

/-- What the loader knows before a command: registers, Long Tally registers, tiles, handles by alias group, which count
registers are known to be nonzero, and the readouts that may still be in flight. -/
structure FSt where
  vregs : List AVal
  lts   : List AVal
  tiles : List ATile
  hs    : SMap AVal
  cnt   : List Bool
  opens : List AOpen
  deriving DecidableEq, Repr

/-- The start of a step. -/
def FSt.start : FSt :=
  ⟨List.replicate 16 AVal.none, List.replicate 4 AVal.none, List.replicate 8 ATile.start, [], List.replicate 16 false, []⟩

/-- A value derived from several. -/
def joinAll (l : List AVal) : AVal := l.foldl AVal.join AVal.none

/-- What holds where two paths meet. -/
def FSt.join (a b : FSt) : FSt :=
  { vregs := List.zipWith AVal.join a.vregs b.vregs, lts := List.zipWith AVal.join a.lts b.lts,
    tiles := List.zipWith ATile.join a.tiles b.tiles,
    hs := b.hs.foldl (fun m e => SMap.set AVal.none m e.1 ((SMap.get AVal.none m e.1).join e.2)) a.hs,
    cnt := List.zipWith (fun x y => x && y) a.cnt b.cnt, opens := joinOpens a.opens b.opens }

/-! What a command reads and writes. -/

/-- The handle fields a command draws on, with their field numbers (R196). -/
def srcFields : Instr → List (Nat × W16)
  | .mmul _ _ c => [(0, c.ha), (1, c.hb)] ++ (if c.ans then [(2, c.hanc)] else [])
  | .asweep _ _ c => [(0, c.ha), (1, c.hb)]
  | .tfill _ _ c | .taccm _ _ c => [(0, c.h), (1, c.hanc)]
  | .gpass _ _ c => [(0, c.hg)]
  | .ltaddm _ _ c | .vld _ _ c => [(0, c.h)]
  | .move _ _ c => [(0, c.src)]
  | .upd _ _ c => [(0, c.hw), (1, c.hp), (2, c.hg), (3, c.hm), (4, c.hsr), (5, c.hsc), (6, c.hvr), (7, c.hvc)]
  | .ldc _ _ _ h _ => [(0, h)]
  | .xchg _ _ c => [(0, c.hl)]
  | _ => []

/-- The handle fields a command writes. -/
def dstFields : Instr → List (Nat × W16)
  | .asweep _ _ c => [(2, c.hanc)]
  | .tstore _ _ c => [(0, c.h), (1, c.hanc)]
  | .epi _ _ c => (0, c.hd) :: (if c.stat then [(1, c.hsr), (2, c.hsc)] else [])
  | .gpass _ _ c => [(1, c.hsr), (2, c.hsc)]
  | .ltst _ _ c | .vst _ _ c => [(0, c.h)]
  | .move _ _ c => [(1, c.dst)]
  | .upd _ _ c => [(0, c.hw), (1, c.hp), (3, c.hm), (6, c.hvr), (7, c.hvc)]
  | .xchg _ _ c => [(1, c.hr)]
  | _ => []

/-- The handle fields a command adds into, which it reads besides its sources. -/
def addFields : Instr → List (Nat × W16)
  | .epi _ _ c =>
    (if c.gmode ≠ 0 then [(0, c.hd)] else []) ++ (if c.stat ∧ c.radd then [(1, c.hsr)] else [])
      ++ (if c.stat ∧ c.cadd then [(2, c.hsc)] else [])
  | .gpass _ _ c => (if c.radd then [(1, c.hsr)] else []) ++ (if c.cadd then [(2, c.hsc)] else [])
  | _ => []

/-- The handles that fields name, the block-scale and exponent tensors with them but for a MOVE (R157). -/
def Ldr.named (l : Ldr) (c : LCmd) (fs : List (Nat × W16)) : List Nat :=
  let hs := fs.flatMap fun f => c.all f.1 f.2
  match c.ins with
  | .move .. => hs
  | _ => hs.flatMap fun h => h :: (let b := (l.desc h).bscale; if b ≠ 0 then [b] else [])

/-- The first handle named by fields that a test finds, with the number of its field (R200). -/
def Ldr.firstField (l : Ldr) (c : LCmd) (fs : List (Nat × W16)) (bad : Nat → Bool) : Option (Nat × Nat) :=
  fs.findSome? fun f => ((l.named c [f]).find? bad).map fun h => (f.1, h)

/-- The tile registers a command reads. -/
def regReads (i : Instr) : List Nat :=
  match i with
  | .ltaddf _ _ c => [c.srca.reg.val]
  | .vst _ _ c => [c.vd.val]
  | _ => match vuseOf i with
    | some u => (u.srcs.filter fun s => s.kind ≠ 3).map fun s => s.reg.val
    | none => []

/-- The tile register a command writes, and whether it leaves elements of it unchanged (R119, R122). -/
def regWrite : Instr → Option (Nat × Bool)
  | .vadd _ _ c | .vsub _ _ c | .vmul _ _ c | .vfma _ _ c | .vmax _ _ c | .vmin _ _ c | .vabs _ _ c | .vneg _ _ c
  | .vcmp _ _ c | .vsel _ _ c | .viadd _ _ c | .visub _ _ c | .vcvt _ _ c | .vexp2 _ _ c | .vlog2 _ _ c | .vrcp _ _ c
  | .vrsqrt _ _ c | .vtanh _ _ c | .verf _ _ c => some (c.vd.val, false)
  | .vrsum _ _ c | .vrmax _ _ c | .vrmin _ _ c | .ltrd _ _ c => some (c.vd.val, true)
  | .vld _ _ c => some (c.vd.val, false)
  | .trd _ _ c => some (c.vd.val, false)
  | _ => none

/-- The Long Tally register a command reads. -/
def ltSource : Instr → Option Nat
  | .ltaddf _ _ c | .ltaddt _ _ c | .ltrd _ _ c => some c.ltr.val
  | .ltaddm _ _ c | .ltst _ _ c => some c.ltr.val
  | _ => none

/-- The Long Tally register a command adds to or writes in part. -/
def ltDest : Instr → Option Nat
  | .ltaddf _ _ c | .ltaddt _ _ c => some c.ltr.val
  | .ltaddm _ _ c => some c.ltr.val
  | .vrsum _ _ c => if c.acc = 0 ∧ c.view = 0 then some c.ltr.val else none
  | _ => none

/-- Is a command an F32 sum that R197 follows. -/
def isSum : Instr → Bool
  | .vadd .. | .vsub .. | .vfma .. => true
  | _ => false

/-- The rank of a class (R196). -/
def classRank (c : Nat) : Nat := if c = 0 then 2 else if c = 1 then 3 else if c = 2 then 0 else 1

/-- What is known of a handle. -/
def Ldr.hval (l : Ldr) (st : FSt) (h : Nat) : AVal := { SMap.get AVal.none st.hs (l.grp h) with rank := classRank (l.desc h).cls }

/-- The rank of a scale handle: a managed one that is not pinned ranks as DATA-DEPENDENT TELEMETRY. -/
def Chk.scaleRank (k : Chk) (h : W16) : Nat := if k.scales.any fun m => m.sh = h.toNat && ! m.pinned then 1 else 0

/-- The tile of a command. -/
def FSt.tile (st : FSt) (t : TileId) : ATile := st.tiles.getD t.val ATile.start

/-- What a command's sources give (R196, R197), a COMP sum and an F32 sum of its own included. -/
def Chk.srcVal (k : Chk) (c : LCmd) (st : FSt) : AVal :=
  let hs := (k.ldr.named c (srcFields c.ins)).map (k.ldr.hval st)
  let rs := (regReads c.ins).map fun r => st.vregs.getD r AVal.none
  let ls := match ltSource c.ins with | some r => [st.lts.getD r AVal.none] | none => []
  let ts := match c.ins with
    | .epi _ _ f => [(st.tile f.tile).val, ⟨max (k.scaleRank f.sa) (k.scaleRank f.sb), false, [], [], []⟩]
    | .tstore _ _ f => [(st.tile f.tile).val]
    | .trd _ _ f => [(st.tile f.tile).val]
    | _ => []
  joinAll (hs ++ rs ++ ls ++ ts)

/-- The raw partials in the result of a command (R110, R113, R117, R502): those of a tile that TRD reads, those of a T128 tensor that VLD
loads, and those that VIADD, VISUB and VSEL pass on. -/
def Chk.rawOut (k : Chk) (c : LCmd) (st : FSt) (v : AVal) : AVal :=
  match c.ins with
  | .trd _ _ f => { v with raws := (st.tile f.tile).starts.map fun p => (f.tile.val, p), grps := [] }
  | .vld _ _ f =>
    { v with raws := [], grps := (((c.all 0 f.h).filter fun x => (k.ldr.desc x).fmt = some .t128).map k.ldr.grp).eraseDups }
  | .viadd .. | .visub .. | .vsel .. => v
  | _ => { v with raws := [], grps := [] }

/-- The value a command produces. -/
def Chk.outVal (k : Chk) (c : LCmd) (st : FSt) : AVal :=
  let v := k.rawOut c st (k.srcVal c st)
  match c.ins with
  | .vrsum _ _ f => if f.acc = 2 then { v with comp := true } else v
  | i => if isSum i && ! c.loops.isEmpty then { v with sums := unionL v.sums [c.tag] } else v

/-- The shape and kind of a product command (R80, R83, R173), over its iterations. -/
def Ldr.product (l : Ldr) (c : LCmd) (f : MmulF) : List (Nat × Nat) × List Nat :=
  let one := fun (i : Nat) =>
    let a := l.desc (c.at' i 0 f.ha)
    let b := l.desc (c.at' i 1 f.hb)
    ((a.extent (if f.ta then 0 else 1), b.extent (if f.tb then 1 else 0)),
      match pairFam a b with | some x => (mmulKind x f.acc).toNat | none => 0)
  let xs := (List.range c.iters).map one
  ((xs.map (·.1)).eraseDups, (xs.map (·.2)).eraseDups)

/-- The tile after a command that writes it. -/
def Chk.tileAfter (k : Chk) (pos : Nat) (c : LCmd) (st : FSt) : Option (TileId × ATile) :=
  let v := k.srcVal c st
  let ins := ((k.ldr.named c (srcFields c.ins)).map k.ldr.grp).eraseDups
  let fresh := fun (kinds : List Nat) (shapes : List (Nat × Nat)) => (⟨kinds, shapes, [], ins, v, [], [pos + 1]⟩ : ATile)
  let more := fun (t : ATile) (z : Bool) =>
    ({ t with lasts := [(z, c.tag)], ins := unionL t.ins ins, val := t.val.join v } : ATile)
  match c.ins with
  | .mmul _ _ f =>
    let p := k.ldr.product c f
    some (f.tile, if f.ovw then fresh p.2 p.1 else more (st.tile f.tile) (p.2.contains 2))
  | .tzero _ _ f => some (f.tile, fresh [f.kind.toNat] [])
  | .tfill _ _ f => some (f.tile, fresh [f.kind.toNat] [])
  | .taccm _ _ f => some (f.tile, more (st.tile f.tile) false)
  | _ => none

/-! Readouts in flight (R103, R140). -/

/-- The group of a handle field that names one group in every iteration. -/
def Ldr.oneGroup (l : Ldr) (c : LCmd) (f : Nat × W16) : List Nat :=
  match ((c.all f.1 f.2).map l.grp).eraseDups with | [g] => [g] | _ => []

/-- The groups that a command surely reads, and surely writes. -/
def Ldr.sureReads (l : Ldr) (c : LCmd) : List Nat := ((srcFields c.ins ++ addFields c.ins).flatMap (l.oneGroup c)).eraseDups
def Ldr.sureWrites (l : Ldr) (c : LCmd) : List Nat := ((dstFields c.ins).flatMap (l.oneGroup c)).eraseDups

/-- Does a command wait until a readout has completed (R118, R135, R140, R185). -/
def Ldr.behind (l : Ldr) (c : LCmd) (o : AOpen) : Bool :=
  let rd := l.sureReads c
  let wr := l.sureWrites c
  (rd.any o.wr.contains) || (wr.any fun g => o.rd.contains g || o.wr.contains g)
    || (match tileOf c.ins with | some t => o.tiles.any fun x => ordT x t | none => false)
    || (o.vec && engOf c.ins = some .vxe)
    || (match c.ins with | .move _ _ f => f.fence && o.mv | .signal .. | .stepend .. => true | _ => false)

/-- A readout with a command that waits for it. -/
def Ldr.behindMore (l : Ldr) (c : LCmd) (o : AOpen) : AOpen :=
  { o with
    rd := unionL o.rd (l.sureReads c), wr := unionL o.wr (l.sureWrites c)
    tiles := match tileOf c.ins with | some t => unionL o.tiles [t] | none => o.tiles
    vec := o.vec || engOf c.ins = some .vxe
    mv := o.mv || engOf c.ins = some .skd
    cregs := match c.ins with | .ldc _ _ r _ _ => unionL o.cregs [r.val] | _ => o.cregs
    sigs := match c.ins with | .signal _ _ x => unionL o.sigs [x.toNat] | _ => o.sigs }

/-- Commands that count an object, with whether a loop encloses them. -/
def Chk.signallers (k : Chk) (o : W16) : List Bool :=
  k.streams.flatMap fun s => s.filterMap fun c =>
    let at' := fun (x : W16) => if x = o then some (! c.loops.isEmpty) else none
    match c.ins with | .signal _ _ x => at' x | .move _ _ f => at' f.sig | .xchg _ _ f => at' f.sig | _ => none

/-- Does a command hold every later one until a readout has completed: COMMIT (R215), a LOOP whose count an LDC loads that waits
for the readout (R182), a WAIT for the one addition to an object, by a SIGNAL that waits for it (R185, R186). -/
def Chk.closes (k : Chk) (c : LCmd) (o : AOpen) : Bool :=
  match c.ins with
  | .commit .. => true
  | .loop _ _ r _ => o.cregs.contains r.val
  | .wait _ h f => h.ixl = 0 && decide (0 < f.target.toInt) && o.sigs.contains f.obj.toNat && k.signallers f.obj = [false]
  | _ => false

/-- The readouts that may be in flight after a command, its own among them. -/
def Chk.opensAfter (k : Chk) (c : LCmd) (st : FSt) : List AOpen :=
  let old := (st.opens.filter fun o => ! k.closes c o).map fun o => if k.ldr.behind c o then k.ldr.behindMore c o else o
  match tileOf c.ins with
  | some (t, .rd) =>
    let ins := unionL (st.tile t).ins ((old.find? fun o => o.tag = c.tag).map (·.ins) |>.getD [])
    let mine := k.ldr.behindMore c ⟨c.tag, ins, [], [], [], false, false, [], []⟩
    old.filter (fun o => o.tag ≠ c.tag) ++ [mine]
  | _ => old

/-- Writes of a chain's inputs that may start before a readout of the chain has completed, by the readout itself or by a later
command of the stream (R103, log 132). -/
def Chk.openFind (k : Chk) (c : LCmd) (st : FSt) : List Nat :=
  let wr := (k.ldr.named c (dstFields c.ins)).map k.ldr.grp
  let hit := fun (ins : List Nat) => wr.any ins.contains
  let own := match tileOf c.ins with | some (t, .rd) => if hit (st.tile t).ins then [c.tag] else [] | _ => []
  own ++ ((st.opens.filter fun o => hit o.ins && ! k.ldr.behind c o && ! k.closes c o).map (·.tag))

/-- What is known after a command (before its place in a loop is looked at). -/
def Chk.after (k : Chk) (pos : Nat) (c : LCmd) (st : FSt) : FSt :=
  let v := k.outVal c st
  let wr := k.ldr.named c (dstFields c.ins)
  let gs := (wr.map k.ldr.grp).eraseDups
  let hs := gs.foldl (fun m g => SMap.set AVal.none m g ((SMap.get AVal.none m g).join { v with rank := 0, raws := [], grps := [] })) st.hs
  let tiles := match k.tileAfter pos c st with | some x => st.tiles.set x.1.val x.2 | none => st.tiles
  let tiles := tiles.map fun (t : ATile) => if gs.any fun g => t.ins.contains g then { t with taint := unionL t.taint [pos] } else t
  let vregs := match regWrite c.ins with
    | some (r, part) => st.vregs.set r (if part then (st.vregs.getD r AVal.none).join v else v)
    | none => st.vregs
  let lts := match c.ins with
    | .ltclr _ _ f => st.lts.set f.ltr.val AVal.none
    | i => match ltDest i with | some r => st.lts.set r ((st.lts.getD r AVal.none).join v) | none => st.lts
  let cnt := match c.ins with
    | .setc _ _ r n => st.cnt.set r.val (n ≠ 0)
    | .ldc _ _ r _ _ => st.cnt.set r.val false
    | _ => st.cnt
  ⟨vregs, lts, tiles, hs, cnt, k.opensAfter c st⟩

/-! Paths (R183). -/

/-- The position of the ENDL that matches a LOOP: `cs` are the commands from `pos` on. -/
def endlAfter : List LCmd → Nat → Nat → Nat
  | [], pos, _ => pos
  | c :: cs, pos, d =>
    match c.ins with
    | .loop .. => endlAfter cs (pos + 1) (d + 1)
    | .endl .. => if d = 0 then pos else endlAfter cs (pos + 1) (d - 1)
    | _ => endlAfter cs (pos + 1) d

/-- Where a command may go on: the next one; after an ENDL the loop's first command too; at a LOOP whose count is not known
to be nonzero the command after its ENDL too. -/
def nextsOf (s : List LCmd) (pos : Nat) (c : LCmd) (st : FSt) : List Nat :=
  match c.ins with
  | .loop _ _ r _ => (pos + 1) :: (if st.cnt.getD r.val false then [] else [endlAfter (s.drop (pos + 1)) (pos + 1) 0 + 1])
  | .endl .. => (pos + 1) :: (match c.loops.getLast? with | some l => [l.1 + 1] | none => [])
  | _ => [pos + 1]

/-- What is known before each command; none where no path has come yet. -/
abbrev Flow := List (Option FSt)

/-- Knowledge that reaches a position. -/
def flowTo (fl : Flow) (pos : Nat) (st : FSt) : Flow :=
  match fl[pos]? with
  | some (some old) => fl.set pos (some (old.join st))
  | some none => fl.set pos (some st)
  | none => fl

/-- One pass over a stream. -/
def Chk.flowPass (k : Chk) (s : List LCmd) (fl : Flow) : Flow :=
  s.zipIdx.foldl (fun (a : Flow) x =>
    match a.getD x.2 none with
    | none => a
    | some st =>
      let out := k.after x.2 x.1 st
      (nextsOf s x.2 x.1 st).foldl (fun b p => flowTo b p out) a) fl

/-- Passes until nothing changes. -/
def Chk.flowFix (k : Chk) (s : List LCmd) : Nat → Flow → Flow
  | 0, fl => fl
  | n + 1, fl => let f := k.flowPass s fl; if f = fl then fl else k.flowFix s n f

/-- What is known before each command of a stream: the fixed point. A pass that changes nothing ends the work, and every fact
crosses the end of a loop at most once for each place it can stand in. -/
def Chk.flow (k : Chk) (s : List LCmd) : List FSt :=
  let n := s.length
  (k.flowFix s ((n + 2) * (n + 64)) (some FSt.start :: List.replicate (n - 1) none)).map fun o => o.getD FSt.start

/-! Findings. -/

/-- A finding of the flow: stage, position, reason, handle, detail. -/
structure FFind where
  stage  : Nat
  pos    : Nat
  reason : Nat
  handle : Nat
  detail : Nat
  deriving DecidableEq, Repr

/-- One where a condition holds. -/
def ffind (c : Bool) (stage pos reason handle detail : Nat) : List FFind := if c then [⟨stage, pos, reason, handle, detail⟩] else []

/-- Is a handle no anchor tensor (R74, R82). -/
def Ldr.notAnchor (l : Ldr) (h : Nat) : Bool := let d := l.desc h; d.fmt ≠ some .t128 || ! d.alay

/-- ANCHOR_BAD for a command (R74, R501). -/
def Chk.anchorFind (k : Chk) (pos : Nat) (c : LCmd) (st : FSt) : List FFind :=
  let bad := fun (f : Nat) (h : W16) => match (c.all f h).find? k.ldr.notAnchor with | some x => ffind true 7 pos 0x0704 x f | none => []
  let r := fun (b : Bool) (f : Nat) (h : W16) => if b then ffind true 7 pos 0x0704 h.toNat f else bad f h
  let has := fun (h : W16) => h ≠ 0
  match c.ins with
  | .mmul _ _ f => r (f.ans && ! has f.hanc) 2 f.hanc
  | .asweep _ _ f => r (! has f.hanc) 2 f.hanc
  | .tfill _ _ f => r (has f.hanc ≠ (f.kind = 1)) 1 f.hanc
  | .taccm _ _ f => r ((st.tile f.tile).kinds.any fun x => has f.hanc ≠ (x = 1)) 1 f.hanc
  | .tstore _ _ f => r ((st.tile f.tile).kinds.any fun x => has f.hanc ≠ (x = 1)) 1 f.hanc
  | _ => []

/-- TILE_MIX and TILE_KIND (R78, R80). -/
def Chk.tileFind (k : Chk) (pos : Nat) (c : LCmd) (st : FSt) : List FFind :=
  let chk := fun (t : ATile) (z : Bool) (ok : Nat → Bool) =>
    match t.lasts.find? fun x => x.1 ≠ z with
    | some x => ffind true 7 pos 0x0701 0 x.2
    | none => ffind (t.kinds.any fun x => ! ok x) 7 pos 0x0702 0 0
  match c.ins with
  | .mmul _ _ f =>
    let ks := (k.ldr.product c f).2
    if f.ovw then ffind (decide (1 < ks.length)) 7 pos 0x0702 0 0
    else chk (st.tile f.tile) (ks.contains 2) fun x => ks.all fun y => x = y
  | .taccm _ _ f => chk (st.tile f.tile) false fun x => x ≠ 2
  | _ => []

/-- What a readout finds: writes to its chain's inputs (R103), a Z1 tile read raw (R197), a destination that is not the tile's M x N
(R95, R172, R201). -/
def Chk.readFind (k : Chk) (pos : Nat) (c : LCmd) (st : FSt) : List FFind :=
  let late := fun (t : ATile) => t.taint.map fun p => (⟨7, p, 0x0703, 0, c.tag⟩ : FFind)
  let raw := fun (t : ATile) => ffind (t.kinds.contains 2) 8 pos 0x0804 0 0
  let off := fun (t : ATile) (h : W16) =>
    match (c.all 0 h).find? fun x => t.shapes.any fun s => ! (k.ldr.desc x).is2 s.1 s.2 with
    | some x => ffind true 6 pos 0x0604 x 0
    | none => []
  match c.ins with
  | .tstore _ _ f => let t := st.tile f.tile; late t ++ off t f.h ++ raw t
  | .trd _ _ f => let t := st.tile f.tile; late t ++ raw t
  | .epi _ _ f =>
    let t := st.tile f.tile
    late t ++ off t f.hd
  | _ => []

/-- Class flow (R195, R196) and the DET constructs that show at one command (R197). -/
def Chk.valueFind (k : Chk) (pos : Nat) (c : LCmd) (st : FSt) : List FFind :=
  let v := k.srcVal c st
  let wr := k.ldr.firstField c (dstFields c.ins)
  let low := wr fun h => decide (classRank (k.ldr.desc h).cls < v.rank)
  -- no command may name a SEALED handle, in a field it does not use either (R195)
  let fields := (handleFields c.ins).zipIdx.map fun x => (x.2, x.1.1)
  let sealed := k.ldr.firstField c fields fun h => (k.ldr.desc h).cls = 1
  let landing := wr fun h => regionOf (k.ldr.desc h).base = .landing
  let at6 := fun (o : Option (Nat × Nat)) (reason : Nat) => match o with | some x => ffind true 6 pos reason x.2 x.1 | none => []
  at6 sealed 0x030A ++ at6 landing 0x030A ++ at6 low 0x0608 ++ (match c.ins with
    | .mmul _ _ f =>
      let z := (k.ldr.product c f).2.contains 2
      ffind (f.acc = 1 && f.k0.toNat % chunkLen f.csz ≠ 0) 8 pos 0x0801 0 0 ++ ffind (z && f.k0.toNat % 32 ≠ 0) 8 pos 0x0804 0 0
    | .xchg _ _ f => ffind v.comp 8 pos 0x0802 f.hl.toNat 0
    | i => ffind (isSum i && ! c.loops.isEmpty && v.sums.contains c.tag) 8 pos 0x0807 0 0)

/-- Every finding at a command that its own flow shows. -/
def Chk.flowFind (k : Chk) (pos : Nat) (c : LCmd) (st : FSt) : List FFind :=
  ((k.openFind c st).map fun t => ⟨7, pos, 0x0703, 0, t⟩) ++ k.valueFind pos c st ++ k.readFind pos c st ++ k.anchorFind pos c st ++ k.tileFind pos c st

/-! DET checks over the whole image (R197, R198). -/

/-- A command with its stream, its position and what is known before it. -/
structure FCmd where
  lc  : Nat
  pos : Nat
  cmd : LCmd
  st  : FSt
  deriving DecidableEq, Repr

/-- Every command of the image. -/
def Chk.fcmds (k : Chk) : List FCmd :=
  k.streams.zipIdx.flatMap fun s =>
    (List.zipWith (fun (c : LCmd) (st : FSt) => (c, st)) s.1 (k.flow s.1)).zipIdx.map fun x => ⟨s.2, x.2, x.1.1, x.1.2⟩

/-- A chain: stream, tile, where it starts. -/
abbrev ChainId := Nat × Nat × Nat

/-- The chains of the tile a command names. -/
def FCmd.chains (x : FCmd) : List ChainId :=
  match x.cmd.ins, tileOf x.cmd.ins with
  | _, some (t, .ovw) => [(x.lc, t.val, x.pos + 1)]
  | _, some (t, _) => (x.st.tile t).starts.map fun p => (x.lc, t.val, p)
  | _, none => []

/-- Groups of the handles of T128 that a raw store or an EPI into T128 writes (R82, R95). -/
def Ldr.rawGroups (l : Ldr) (c : LCmd) : List Nat :=
  let g := fun (f : Nat) (h : W16) => ((c.all f h).filter fun x => (l.desc x).fmt = some .t128).map l.grp
  match c.ins with | .tstore _ _ f => g 0 f.h | .epi _ _ f => g 0 f.hd | _ => []

/-- Handles that a TACCM adds. -/
def accHandles (c : LCmd) : List Nat := match c.ins with | .taccm _ _ f => c.all 0 f.h | _ => []

/-- Groups of the handles of T128 that a VST stores raw words into, and what the loader knows of its register. -/
def FCmd.vstore (x : FCmd) (l : Ldr) : List Nat × AVal :=
  match x.cmd.ins with
  | .vst _ _ f => (((x.cmd.all 0 f.h).filter fun y => (l.desc y).fmt = some .t128).map l.grp, x.st.vregs.getD f.vd.val AVal.none)
  | _ => ([], AVal.none)

/-- The groups from which and into which a command copies raw T128 words: a MOVE, or a VST of what a VLD has loaded. -/
def Ldr.copyPairs (l : Ldr) (x : FCmd) : List (Nat × Nat) :=
  let c := x.cmd
  match c.ins with
  | .move _ _ f =>
    (List.range c.iters).filterMap fun i =>
      let a := c.at' i 0 f.src
      let b := c.at' i 1 f.dst
      if (l.desc a).fmt = some .t128 ∧ (l.desc b).fmt = some .t128 then some (l.grp a, l.grp b) else none
  | _ => let v := x.vstore l; v.1.flatMap fun g => v.2.grps.map fun a => (a, g)

/-- Groups whose words may reach those given by copies, in `n` rounds. -/
def copiedFrom (es : List (Nat × Nat)) : Nat → List Nat → List Nat
  | 0, gs => gs
  | n + 1, gs => copiedFrom es n (unionL gs ((es.filter fun e => gs.contains e.2).map (·.1)))

/-- The chains whose raw words a group may hold: stored there, read by TRD and stored there by VST, or copied there (R197, R198). -/
def Ldr.storedIn (l : Ldr) (xs : List FCmd) (g : Nat) : List ChainId :=
  let es := (xs.flatMap l.copyPairs).eraseDups
  let gs := copiedFrom es es.length [g]
  let read := fun (x : FCmd) => let v := x.vstore l; if v.1.any gs.contains then v.2.raws.map fun r => ((x.lc, r.1, r.2) : ChainId) else []
  ((xs.filter fun x => (l.rawGroups x.cmd).any gs.contains).flatMap FCmd.chains ++ xs.flatMap read).eraseDups

/-- The pairs of chains of which the first adds the raw store of the second. -/
def Chk.added (k : Chk) (xs : List FCmd) : List (ChainId × ChainId) :=
  (xs.flatMap fun x => (accHandles x.cmd).flatMap fun h => (k.ldr.storedIn xs (k.ldr.grp h)).flatMap fun b => x.chains.map fun a => (a, b)).eraseDups

/-- Chains joined to those given, in `n` rounds. -/
def joined (es : List (ChainId × ChainId)) : Nat → List ChainId → List ChainId
  | 0, cs => cs
  | n + 1, cs =>
    joined es n (unionL cs (es.flatMap fun e => (if cs.contains e.1 then [e.2] else []) ++ (if cs.contains e.2 then [e.1] else [])))

/-- The chains of a program. -/
def chainsOf (xs : List FCmd) : List ChainId := (xs.flatMap FCmd.chains).eraseDups

/-- The anchored MMULs that reach some of the chains. -/
def Chk.anchored (k : Chk) (xs : List FCmd) (cs : List ChainId) : List FCmd :=
  xs.filter fun x => (match x.cmd.ins with | .mmul _ _ f => (k.ldr.product x.cmd f).2.contains 1 | _ => false)
    && x.chains.any cs.contains

/-- Loops around a command that do not enclose the start of its chain. -/
def Chk.freeLoops (k : Chk) (x : FCmd) (ch : ChainId) : List (Nat × Nat) :=
  let up := if ch.2.2 = 0 then [] else (((k.streams.getD x.lc [])[ch.2.2 - 1]?).map (·.loops)).getD []
  x.cmd.loops.filter fun l => ! up.any fun u => u.1 = l.1

/-- The anchor tensors that an MMUL names in one run of its chain: handles, each with the loop that indexes it where that loop encloses
the start of the chain, so that each run of the chain meets one of them (R184). -/
def Chk.anchorsOf (k : Chk) (x : FCmd) (ch : ChainId) : List (Nat × Option Nat) :=
  match x.cmd.ins with
  | .mmul _ h f =>
    let c := x.cmd
    let by' := if c.ixl ≠ 0 ∧ h.ixm.getLsbD 2 then (c.loops[c.ixl - 1]?).map (·.1) else none
    match by' with
    | some l => if (k.freeLoops x ch).any fun y => y.1 = l then (c.all 2 f.hanc).map fun y => (y, none) else [(f.hanc.toNat, some l)]
    | none => (c.all 2 f.hanc).map fun y => (y, none)
  | _ => []

/-- DET_ 0x0803: an anchored reduction in parts whose MMULs do not all name one anchor tensor. In a reduction of several chains, whose
runs the loader does not match, every handle of a loop-indexed field counts. -/
def Chk.det3 (k : Chk) (xs : List FCmd) : List (Nat × FFind) :=
  let es := k.added xs
  let all := chainsOf xs
  all.flatMap fun ch =>
    let comp := joined es all.length [ch]
    let ms := k.anchored xs comp
    let ans := fun (x : FCmd) => match x.cmd.ins with | .mmul _ _ f => f.ans | _ => false
    let anc := fun (x : FCmd) => if comp.length = 1 then k.anchorsOf x ch
      else match x.cmd.ins with | .mmul _ _ f => (x.cmd.all 2 f.hanc).map fun y => (y, none) | _ => []
    let names := ((ms.filter ans).flatMap anc).eraseDups
    let again := ms.any fun x => x.chains.any fun c => comp.contains c && ! (k.freeLoops x c).isEmpty
    if ms.isEmpty ∨ (ms.length < 2 ∧ comp.length < 2 ∧ ¬ again) then []
    else (ms.filter fun x => ! ans x || decide (1 < names.length)).map fun x => (x.lc, ⟨8, x.pos, 0x0803, 0, 0⟩)

/-- The guaranteed count of a pair (R61). -/
def guaranteed (a b : Option Fmt) : Nat :=
  let is := fun (x y : Fmt) => (a = some x && b = some y) || (a = some y && b = some x)
  if is .e5m2 .e5m2 then 2 ^ 23
  else if is .e4m3 .e5m2 then 2 ^ 30
  else if is .e4m3 .e4m3 then 2 ^ 37
  else if is .int8 .int8 then 2 ^ 40
  else if is .e3m2 .e3m2 then 2 ^ 45
  else if is .e3m2 .e2m3 || is .e3m2 .e2m1 then 2 ^ 47
  else if is .e2m3 .e2m3 || is .e2m3 .e2m1 || is .e2m1 .e2m1 then 2 ^ 49
  else 2 ^ 37

/-- Executions of a command in one run of its chain, the loop `but` left out. -/
def Chk.times (k : Chk) (x : FCmd) (ch : ChainId) (but : Option Nat) : Nat :=
  ((k.freeLoops x ch).filter fun l => some l.1 ≠ but).foldl (fun a l => a * max 1 l.2) 1

/-- Products that a chain's own MMULs add, and the smallest guaranteed count among their pairs (R77, R198). -/
def Chk.own (k : Chk) (xs : List FCmd) (ch : ChainId) : Nat × Option Nat :=
  xs.foldl (fun a x =>
    match x.cmd.ins with
    | .mmul _ _ f =>
      if f.acc = 3 ∨ ¬ x.chains.contains ch then a
      else
        let gs := (List.range x.cmd.iters).map fun i =>
          guaranteed (k.ldr.desc (x.cmd.at' i 0 f.ha)).fmt (k.ldr.desc (x.cmd.at' i 1 f.hb)).fmt
        (a.1 + (f.k1.toNat - f.k0.toNat) * k.times x ch none, gs.foldl (fun o g => some (min g (o.getD g))) a.2)
    | _ => a) (0, none)

/-- What a chain adds from raw stores: chain and how often. -/
def Chk.parts (k : Chk) (xs : List FCmd) (ch : ChainId) : List (ChainId × Nat) :=
  xs.flatMap fun x =>
    if ! x.chains.contains ch then []
    else
      let c := x.cmd
      let idx := if c.ixl ≠ 0 ∧ (hdrOf c.ins).ixm.getLsbD 0 then (c.loops[c.ixl - 1]?).map (·.1) else none
      (accHandles c).flatMap fun h => (k.ldr.storedIn xs (k.ldr.grp h)).map fun b => (b, k.times x ch idx)

/-- A chain with its own count, its parts, and the totals as far as they are known. -/
structure Cnt where
  ch    : ChainId
  own   : Nat
  parts : List (ChainId × Nat)
  tot   : Nat
  guar  : Option Nat
  deriving DecidableEq, Repr

/-- One round of adding the parts' totals. -/
def cntRound (cs : List Cnt) : List Cnt :=
  let find := fun (c : ChainId) => cs.find? fun x => x.ch = c
  cs.map fun x =>
    let ps := x.parts.filterMap fun p => (find p.1).map fun y => (y, p.2)
    { x with tot := x.own + (ps.map fun p => p.1.tot * p.2).foldl (· + ·) 0
             guar := ps.foldl (fun o p => match o, p.1.guar with | some a, some b => some (min a b) | none, g => g | g, none => g) x.guar }

/-- `n` rounds. -/
def cntRounds : Nat → List Cnt → List Cnt
  | 0, cs => cs
  | n + 1, cs => cntRounds n (cntRound cs)

/-- DET_ 0x0805: product counts. A total that still grows after as many rounds as there are chains grows without end. -/
def Chk.det5 (k : Chk) (xs : List FCmd) : List (Nat × FFind) :=
  let cs := (chainsOf xs).map fun ch => let o := k.own xs ch; (⟨ch, o.1, k.parts xs ch, o.1, o.2⟩ : Cnt)
  let a := cntRounds cs.length cs
  let b := cntRound a
  (List.zipWith (fun (x y : Cnt) => (x, y)) a b).flatMap fun p =>
    let x := p.2
    let endless := decide (p.1.tot < x.tot)
    let g := x.guar.getD 0
    if x.guar.isNone ∨ (¬ endless ∧ x.tot ≤ g) then []
    else
      let mine := xs.filter fun c => c.chains.contains x.ch
      let first := (mine.find? fun c => match c.cmd.ins with | .mmul _ _ f => f.acc ≠ 3 | _ => false)
        <|> (mine.find? fun c => ! (accHandles c.cmd).isEmpty)
      match first with
      | some c => [(c.lc, ⟨8, c.pos, 0x0805, 0, if endless then 0xFFFFFFFF else min x.tot 0xFFFFFFFF⟩)]
      | none => []

/-- DET_ 0x0802 at a write: a COMP result in a link buffer, or in a handle that another logical core reads. -/
def Chk.det2 (k : Chk) (xs : List FCmd) : List (Nat × FFind) :=
  let rd := fun (x : FCmd) => (k.ldr.named x.cmd (srcFields x.cmd.ins ++ addFields x.cmd.ins)).map k.ldr.grp
  xs.flatMap fun x =>
    if ! (k.outVal x.cmd x.st).comp then []
    else
      let bad := k.ldr.firstField x.cmd (dstFields x.cmd.ins) fun h =>
        inLink (k.ldr.desc h).base || xs.any fun y => y.lc ≠ x.lc && (rd y).contains (k.ldr.grp h)
      match bad with | some h => [(x.lc, ⟨8, x.pos, 0x0802, h.2, h.1⟩)] | none => []

/-- DET_ 0x0806: an LDC of a handle that a command writes. -/
def Chk.det6 (k : Chk) (xs : List FCmd) : List (Nat × FFind) :=
  let wr := xs.flatMap fun x => (k.ldr.named x.cmd (dstFields x.cmd.ins)).map k.ldr.grp
  xs.flatMap fun x =>
    match x.cmd.ins with
    | .ldc _ _ _ h _ =>
      (match (x.cmd.all 0 h).find? fun n => wr.contains (k.ldr.grp n) with
      | some n => [(x.lc, ⟨8, x.pos, 0x0806, n, 0⟩)]
      | none => [])
    | _ => []

/-! Stages 6 to 9. -/

/-- The least finding by logical core, position and reason. -/
def leastFind (fs : List (Nat × FFind)) : Option (Nat × FFind) :=
  let lt := fun (a b : Nat × FFind) =>
    decide (a.1 < b.1 ∨ (a.1 = b.1 ∧ (a.2.pos < b.2.pos ∨ (a.2.pos = b.2.pos ∧ a.2.reason < b.2.reason))))
  fs.foldl (fun o x => match o with | some y => if lt x y then some x else some y | none => some x) none

/-- Findings of stage 6 about single commands: `words` gives the first word of the command at an offset. -/
def Chk.statics (k : Chk) (words : Nat → Nat) : List (Nat × FFind) :=
  k.streams.zipIdx.flatMap fun s => s.1.zipIdx.flatMap fun x =>
    ((k.static s.2 (words x.1.off) x.1) ++ k.slotFind (s.1.take x.2) x.1).map fun f => (s.2, ⟨6, x.2, f.1, f.2.1, f.2.2⟩)

/-- A finding as the loader reports it. -/
def Chk.rejOf (k : Chk) (f : Nat × FFind) : Rej :=
  let c := (k.streams.getD f.1 [])[f.2.pos]?
  ⟨f.2.reason, f.2.stage, f.1, f.2.handle, (c.map LCmd.tag).getD 0, f.2.detail, (c.map (·.off)).getD 0⟩

/-- Stages 6, 7 and, where `det`, 8. -/
def Chk.stages678 (k : Chk) (det : Bool) (words : Nat → Nat) : Option Rej :=
  let st := k.statics words
  match leastFind st with
  | some f =>
    -- an earlier command may still break a rule of stage 6 that the flow shows
    let fl := (k.fcmds.flatMap fun x => (k.flowFind x.pos x.cmd x.st).map fun y => (x.lc, y)).filter fun y => y.2.stage = 6
    (leastFind (f :: fl)).map k.rejOf
  | none =>
    let xs := k.fcmds
    let fl := xs.flatMap fun x => (k.flowFind x.pos x.cmd x.st).map fun y => (x.lc, y)
    let at' := fun (n : Nat) => (leastFind (fl.filter fun y => y.2.stage = n)).map k.rejOf
    let eight := if det then
        (leastFind ((fl.filter fun y => y.2.stage = 8) ++ k.det2 xs ++ k.det3 xs ++ k.det5 xs ++ k.det6 xs)).map k.rejOf
      else none
    firstRej [at' 6, at' 7, eight]

/-- The bytes of the job's Tally spill space (R150). -/
def Ldr.spill (l : Ldr) : List Nat :=
  ((l.ds.filter fun d => d.raw ≠ 0 && regionOf d.base = .spill).flatMap fun d => blocksOf d.base d.hull).eraseDups

/-- Stage 9 (R146, R150). -/
def Ldr.stage9 (l : Ldr) (nlcore : Nat) : Option Rej :=
  firstRej [rejIf (decide (656 * 2 ^ 20 < 4096 * l.spill.length)) { Rej.plain 0x0901 9 0 with detail := 4096 * l.spill.length },
    rejIf (decide (l.ncol < nlcore)) { Rej.plain 0x0902 9 0 with detail := nlcore }]

end Sys2Proof.Machine
end

