-- ==== Sys2Proof/Machine/Loader.lean ====
section
/-! DEFINITION. JOB_LOAD and JOB_LOAD_COMPLETE (R191-R206, R429, R430): admission, signature, the stages in order, and the
job declared loaded. -/

namespace Sys2Proof.Machine

open Sys2Proof

/-! Stages 0 and 1. -/

/-- Admission (R191, R342). -/
def State.loadRej (s : State) : Option Rej :=
  firstRej [rejIf (s.sec.sstate ≠ .owned || s.releasing) (.plain 0x0001 0 0), rejIf (s.job.st ≠ .none) (.plain 0x0002 0 0),
    rejIf (! s.blwInRange) (.plain 0x0003 0 0)]

/-- Offset and length of the staged image. -/
def manImg (b : List Byte) : Nat × Nat := (leAt b 0x60 8, leAt b 0x58 8)

/-- The image in the clear, from the staging granules (R192, R351): none where it lies outside them, its digest differs from
the manifest's, or it does not open under the IMAGE slot; the tag stands behind the ciphertext (log 141). -/
def State.clearImage (s : State) (b : List Byte) : Option (List Byte) :=
  let p := manImg b
  if s.mm.stageg * granSize < p.1 + p.2 then none
  else
    let staged := memRange s.mem (lpBase + p.1) p.2
    if digestOf staged ≠ BitVec.ofNat 512 (leAt b 0x80 64) then none
    else if manFlag b 2 then
      if s.roleOf (leAt b 7 1) = 4 ∧ 16 ≤ p.2 then
        gcmOpen (s.slotKey (leAt b 7 1)) (slice b 0x4C 12) [] (staged.take (p.2 - 16)) (staged.drop (p.2 - 16))
      else none
    else some staged

/-- Does the owner's signature of a manifest verify, and does it name the key table held (R339, R344). -/
def State.manOk (s : State) (e : Envelope) (b : List Byte) : Bool :=
  s.ownerOk 0x0050 e && s.sec.ktDigest = some (BitVec.ofNat 512 (leAt b 0xC0 64))

/-- The staged block that fails its MAC as a load reads its image (R154). -/
def State.imageBad (s : State) (e : Envelope) (b : List Byte) (poison : Option Nat) : Option Nat :=
  let p := manImg b
  if s.loadRej.isSome ∨ ¬ s.manOk e b ∨ s.mm.stageg * granSize < p.1 + p.2 then none else s.macBad (lpBase + p.1) p.2 poison

/-- Stage 1 (R193, R339, R344): the owner's signature and the key table, then the image. -/
def State.stage1 (s : State) (e : Envelope) (b : List Byte) : Rej ⊕ List Byte :=
  if ¬ s.manOk e b then .inl (.plain 0x0101 1 0)
  else match s.clearImage b with
    | none => .inl (.plain 0x0102 1 0)
    | some img => .inr img

/-! The later stages. -/

/-- The first failure of stages 3 to 9, or the commands of the streams with what was needed to check them. -/
def State.stages3to9 (s : State) (m : Manifest) (img : List Byte) : Rej ⊕ (Ldr × Chk) :=
  let h := hdrAt img
  let ents := (List.range h.nlcore).map fun n => (n, (streamEnt img h n).1, streamWords img h n)
  let l := s.ldr m img (ents.map fun x => x.2.2)
  match l.stage3 m with
  | some r => .inl r
  | none =>
    match l.decodeAll ents [] with
    | .inl r => .inl r
    | .inr ss0 =>
      let ss := ss0.map fun cs => withLoops cs 0 []
      match l.stage5 h.nsync ss with
      | some r => .inl r
      | none =>
        let sc := sctabOf m.body h.nscale (slice img h.offC (16 * h.nscale)) l.ds
        let k : Chk := ⟨l, ss, (layersOf m.body).1, sc.1, manSec m.body 3⟩
        match firstRej [k.stages678 m.det fun off => leAt img off 8, l.stage9 h.nlcore] with
        | some r => .inl r
        | none => .inr (l, k)

/-- Logical columns that the image uses: those of its streams and of its descriptors. -/
def Ldr.columnsUsed (l : Ldr) (nlcore : Nat) : List Nat :=
  (List.range nlcore ++ l.ds.filterMap fun d => match regionOf d.base with | .column k => if d.raw = 0 then none else some k | _ => none).eraseDups

/-- The program that the loader accepted (R168, R202, R230, R246). -/
def Chk.program (k : Chk) (kver : W32) (img : List Byte) : Program :=
  let h := hdrAt img
  let all := k.streams.flatten
  let upds := fun (cs : List LCmd) => cs.filterMap fun c =>
    match c.ins with | .upd _ _ f => some ((k.updLayers c f).map fun x => (x.1, x.2, f.group.val)) | _ => none
  { isa := h.isa, nlcore := h.nlcore, cols := k.ldr.columnsUsed h.nlcore, ncol := (k.ldr.columnsUsed h.nlcore).foldl (fun a n => max a (n + 1)) 0, nhandle := h.nhandle, nscale := h.nscale, nsync := h.nsync,
    streams := (List.range h.nlcore).map fun n => streamWords img h n
    aliasTab := k.ldr.aliasTab
    slots := k.streams.map k.slotsOf
    updLayer := (upds all).flatten.foldl (fun m x => SMap.set 65536 m x.1 x.2.1) []
    groups := k.streams.map fun cs => (upds cs).flatten.map fun x => (x.2.1, x.2.2)
    hrs := k.xchgs.map fun x => (x.layer.toNat, x.hr)
    hasXchg := k.ldr.xchg
    codeDigest := Config.codeDigest kver (digestOf img) }

/-- The layers of the job: valid entries, then the defaults of those that the program names without one (R275). -/
def Chk.jobLayers (k : Chk) (s : State) (b : List Byte) : List GLayer :=
  let named := ((k.streams.flatten.flatMap k.layersNamed).eraseDups).mergeSort fun x y => decide (x ≤ y)
  k.layers ++ (named.filter fun l => ! k.layers.any fun y => y.num = l).map (s.dfltLayer b)

/-- The scale image with the records that are written at job load (R212). -/
def putScales (bs : List Byte) (ws : List (Nat × Int)) : List Byte :=
  ws.foldl (fun a w => a.take (16 * w.1) ++ leBytes 4 (powWord w.2).toNat ++ leBytes 4 (powWord (-w.2)).toNat ++ a.drop (16 * w.1 + 8)) bs

/-- How a load request comes out. -/
inductive LoadOut where
  | rej (r : Rej)
  | manifest (detail : Nat)
  | ok (l : Loading)
  deriving DecidableEq, Repr

/-- A load request, in the order of R193 and R430. -/
def State.tryLoad (s : State) (seq : W32) (e : Envelope) (b : List Byte) : LoadOut :=
  match s.loadRej with
  | some r => .rej r
  | none =>
    match s.stage1 e b with
    | .inl r => .rej r
    | .inr img =>
      match s.manifestBad b (s.openSeed b).isSome with
      | some d => .manifest d
      | none =>
        let m := manifestOf b
        match stage2 img ((manImg b).2 - (if m.encimg then 16 else 0)) with
        | some r => .rej r
        | none =>
          match s.stages3to9 m img with
          | .inl r => .rej r
          | .inr (l, k) =>
            let h := hdrAt img
            let sc := sctabOf b h.nscale (slice img h.offC (16 * h.nscale)) l.ds
            .ok { seq := seq, cols := s.usableCores, man := m, prog := k.program ((s.hif.running.map (·.kver)).getD 0) img,
                  descs := slice img h.offD (64 * h.nhandle),
                  scales := putScales (slice img h.offC (16 * h.nscale)) sc.2.2
                  sctab := sc.1, layers := k.jobLayers s b, groups := manSec b 3, seed := (s.openSeed b).getD 0, env := e
                  ignored := sc.2.1 ++ (layersOf b).2 }

/-- A digest as eight 64-bit words, the first bytes first. -/
def digestWords (d : Digest) : List Nat := (List.range 8).map fun i => bitsAt d.toNat (64 * i) 64

/-- The answer that a rejection gets: the rejection record (R200) and the capability record (R206). -/
def State.rejected (s : State) (r : Rej) : Answer := .now stLoader 0 (.words (r.words ++ s.capability))

/-- What JOB_LOAD comes to: refused at D2 and above (R368); NOT_OWNED once a release has been accepted (R342); refused while the output
queue of the last job holds undrained records.
An image that cannot be read has no digest, so its load is rejected as one whose digest differs (R154; log 156). -/
def doJobLoad (m : Mb) (e : Envelope) (body : List Byte) (poison : Option Nat) (s : State) : State × Answer :=
  if s.sec.dlevel ≥ 2 then s.ownAnswer m 0x0050 (.now stDebug 0 (.words s.capability))
  else if s.releasing then s.ownAnswer m 0x0050 (s.rejected (.plain 0x0001 0 0))
  else if s.sec.sstate = .owned ∧ ¬ s.outq.undrained.isEmpty ∧ s.job.st = .none then s.ownAnswer m 0x0050 (.now stState 0 (.words s.capability))
  else match s.imageBad e body poison with
  | some x => (s.macFail (512 * x) noCore).ownAnswer m 0x0050 (s.rejected (.plain 0x0102 1 0))
  | none =>
    match s.tryLoad m.seq e body with
    | .rej r => s.ownAnswer m 0x0050 (s.rejected r)
    | .manifest d => s.ownAnswer m 0x0050 (.now stManifest d (.words s.capability))
    | .ok l => ({ s with job := { s.job with st := .loading, load := some l } }, .later)

/-- JOB_LOAD where the read of its image may have to wait. -/
def jobLoadAt (m : Mb) (e : Envelope) (body : List Byte) (poison : Option Nat) : State → State × Answer :=
  whenFree (fun t => [t.stagePiece]) (.jobLoad m e body poison) (doJobLoad m e body poison)

/-- JOB_LOAD. -/
def execJobLoad (m : Mb) (e : Envelope) (body : List Byte) (poison : Option Nat) (s : State) : Host.Outcome State Fault Refusal :=
  .next (s.parkRequest m 0x0050 false (.jobLoad m e body poison) (jobLoadAt m e body poison))

/-! JOB_LOAD_COMPLETE. -/

/-- Code granules of a stream of `n` words (R203). -/
def codeGranules (n : Nat) : Nat := (256 + 16 * n + 65535) / 65536

/-- A core at job load: what is scoped to the job returns to its reset values (R84, R106, R111, R133, R182, R246,
R288, R402). A fenced core that has passed its test returns to service (R395). -/
def Core.loaded (c0 : Core) : Core :=
  let c := if c0.fenced && c0.passed then { c0 with fenced := false, passed := false } else c0
  { c with
    tiles := [], lcnt := [], lcntRec := [], execs := [], gexp := []
    vregs := SMap.mapVals VReg.zero (fun _ v => { v with ovf := false, nfin := false }) c.vregs
    mxe := { c.mxe with reexec := 0, wtile := 0, wvalid := false }
    vxe := { c.vxe with reexec := 0, mismatch := 0 }
    upe := { Upe.zero with rows := c.upe.rows, tag := c.upe.tag }
    vecOn := none
    cvu := { c.cvu with transient := 0, bad := 0 } }

/-- A group record as job load writes it: BP1 and BP2 of a group that the manifest does not define are 1.0 (R236, log 38). -/
def groupImage (r : List Byte) : List Byte :=
  if bitAt (leNat r) 0 then r else r.take 24 ++ leBytes 4 0x3F800000 ++ leBytes 4 0x3F800000 ++ r.drop 32

/-- The group records and knots of section 3 in their tables (R235, R236). -/
def putGroups (m : List Host.Cell) (b : List Byte) : List Host.Cell :=
  if b.isEmpty then m
  else
    (List.range 64).foldl (fun a g =>
      let v := leAt b (64 * g) 64
      let n := if bitAt v 0 then 16 * (bitsAt v 2 8 + 1) else 0
      memWrite a (updTable + 0x1000 + 4096 * g) (slice b (groupKnots b g) n))
        (memWrite m updTable ((List.range 64).flatMap fun g => groupImage (slice b (64 * g) 64)))

/-- The slots of every core of the job (R288): E, WIDE and BMAX of its layers. -/
def State.slotTables (s : State) : State :=
  s.usedCores.foldl (fun t k => t.job.layers.foldl (fun u l =>
    match u.slotOf k l.num with
    | none => u
    | some i =>
      let b := (2 ^ (if l.wide then 63 else 31) - 1) / l.m
      let x : GExp := { GExp.zero with e := BitVec.ofInt 16 l.e, wide := l.wide, bmaxlo := BitVec.ofNat 32 b, bmaxhi := BitVec.ofNat 32 (b / 2 ^ 32) }
      u.modCore k fun c => { c with gexp := SMap.set GExp.zero c.gexp i x }) t) s

/-- The memory that the loader writes (R204): descriptors, scale records, status words, update tables. -/
def loadMem (mem : List Host.Cell) (l : Loading) : List Host.Cell :=
  let m1 := memClear (memClear mem statusTable 0x40000) updTable 0x100000
  putGroups (memWrite (memWrite m1 descTable l.descs) scaleTable l.scales) l.groups

/-- The job declared loaded (R84, R152, R185, R204, R227, R235, R346, R380). -/
def State.loaded (s : State) (l : Loading) : State :=
  let m := l.man
  let b := m.body
  let nonce := s.draw
  let keys := nonce.2.drawSet
  let s1 := keys.2
  let gs := (l.prog.streams.map fun ws => codeGranules ws.length).foldl (· + ·) 0
  let fence := s1.cores.any fun c => c.2.fenced && c.2.passed
  let s2 := { s1 with
    cores := SMap.mapVals Core.zero (fun _ c => c.loaded) s1.cores
    mem := loadMem s1.mem l
    mm := { s1.mm with sealed := SMap.ofFn false gs (fun _ => true), stageg := m.stageg, outg := m.outg, jobMarks := true, jobKeys := some keys.1,
                       granule := if gs = 0 then s1.mm.granule else BitVec.ofNat 16 (gs - 1), refused := false, colmap := l.cols, oos := s1.mm.oos.filter fun e => ! s.usableCores.contains e.1 }
    fws := [], lws := [], stepBase := m.s0.setWidth 16, stepFirst := m.s0, fwsAt := []
    job := { Job.zero with st := .loaded, man := some m, prog := some l.prog, nonce := some (nonce.1.setWidth 128), seed := some l.seed,
                           scaleImg := l.scales, scales := l.sctab, layers := l.layers, unloadReq := s1.job.unloadReq }
    stp := { Stp.zero with s := m.s0 }
    race := .zero
    scc := { Scc.zero with hist := manHist b, head := manHead b, hold := manHold b, policy := m.policy, skipmax := manSkip b,
                           nmanaged := l.sctab.length }
    lnk := { s1.lnk with residue := 0 }
    rings := { s1.rings with recs := [], recNext := 0 } }
  let s3 := { s2 with hif := { s2.hif with bar2 := s2.hif.bar2.map fun o => match o with | some g => if isHostGranule s2 g then some g else none | none => none },
                      nvm := { s2.nvm with writes := if fence then s2.nvm.writes ++ [NvmWrite.fence s2.fenceMap] else s2.nvm.writes } }
  let s4 := s3.slotTables
  let s5 := s4.record recJob (s4.jobEntry l.env b m.imgDigest)
  let s6 := s5.log 0x0001 2 ([if m.det then 1 else 0, m.rmode, m.telrel.toNat] ++ ((leBytes 64 m.imgDigest.toNat).take 32).map fun (y : Byte) => y.toNat)
  l.ignored.foldl (fun t x => t.log 0x0003 2 [x.1, x.2.1, x.2.2]) s6

/-- JOB_LOAD_COMPLETE: the columns that the program uses are looked at again (R205), then the code is sealed and the job declared loaded. A
transition that has begun meanwhile ends the load. -/
def execJobLoadComplete (s : State) : Host.Outcome State Fault Refusal :=
  match s.job.load with
  | none => .next s
  | some l =>
    if s.sec.trans.isSome ∨ 3 ≤ s.sec.pstate then .next s
    else if l.prog.cols.any fun n => ! s.usableCores.contains (l.cols.getD n 192) then
      let s1 := { s with job := { s.job with st := .none, load := none } }
      let r : Reply := ⟨0x0050, l.seq, stLoader, 0, .words ((Rej.plain 0x0903 9 0).words ++ s1.capability), none⟩
      .next ((s1.logRefused 0x0050 l.seq stLoader).postReply r).settleStep
    else
      let s1 := s.loaded l
      let r : Reply := ⟨0x0050, l.seq, stOk, 0, .words (digestWords l.prog.codeDigest ++ s1.capability), none⟩
      .next (s1.postReply r).settleStep

end Sys2Proof.Machine
end

