-- ==== Sys2Proof/Machine/Wire.lean ====
section
/-! DEFINITION. What goes over a link (R250, R251, R260, R262, R263, R268): headers, protected frames, the packet of a control
frame, a resync, and the messages of a negotiation. -/

namespace Sys2Proof.Machine

open Sys2Proof

/-- The 64-bit header of a frame (R250). -/
def frameWord (h : FrameHdr) : W64 :=
  BitVec.ofNat 64 (h.type.toNat + h.buf.toNat * 2 ^ 2 + h.blk.toNat * 2 ^ 5 + h.seq.toNat * 2 ^ 13 + h.ack.toNat * 2 ^ 29
    + (if h.nak then 2 ^ 45 else 0) + (if h.freev then 2 ^ 46 else 0) + h.freeBuf.toNat * 2 ^ 47 + h.freeBlk.toNat * 2 ^ 50
    + (if h.rtx then 2 ^ 58 else 0) + h.rsvd.toNat * 2 ^ 59)

/-- The fields of a header (R250). -/
def frameHdr (w : W64) : FrameHdr :=
  let v := w.toNat
  { type := BitVec.ofNat 2 (bitsAt v 0 2), buf := BitVec.ofNat 3 (bitsAt v 2 3), blk := BitVec.ofNat 8 (bitsAt v 5 8),
    seq := BitVec.ofNat 16 (bitsAt v 13 16), ack := BitVec.ofNat 16 (bitsAt v 29 16), nak := bitAt v 45, freev := bitAt v 46,
    freeBuf := BitVec.ofNat 3 (bitsAt v 47 3), freeBlk := BitVec.ofNat 8 (bitsAt v 50 8), rtx := bitAt v 58, rsvd := BitVec.ofNat 5 (bitsAt v 59 5) }

/-- The header of a frame that has arrived. -/
def arrHdr (a : Arrival) : FrameHdr := frameHdr a.word

/-- The IV of frame number `n` of a direction (R251; the order of its bytes is log 140's). -/
def frameIv (salt : W32) (n : Nat) : List Byte := leBytes 4 salt.toNat ++ leBytes 8 n

/-- A frame protected under a direction's key and salt (R251): the header is additional data, the packets are encrypted, and the
first 64 bits of the tag end it. -/
def sealFrame (key : BitVec 256) (salt : W32) (n : Nat) (word : W64) (packets : List Byte) : Frame :=
  let r := gcmSeal (leBytes 32 key.toNat) (frameIv salt n) (leBytes 8 word.toNat) packets
  ⟨word, r.1, BitVec.ofNat 64 (leAt r.2 0 8)⟩

/-- The packet of a control frame (R260): route header and message. -/
def ctlPacket (c : CtlPacket) : List Byte :=
  leBytes 2 c.dest.toNat ++ leBytes 2 c.src.toNat ++ leBytes 1 c.vc.toNat ++ [Config.ctlType c.msg] ++ leBytes 10 0
    ++ sized 240 (Config.ctlBody c.msg)

/-- A resync as one packet (R268; its layout is log 143's). -/
def resyncPacket (r : Resync) : List Byte := sized 256 (leBytes 1 r.buf.toNat ++ leBytes 8 r.last.toNat ++ leBytes 32 r.empty.toNat)

/-- The packets of a link frame: none without a resync (R250). -/
def linkPackets (rs : Option Resync) : List Byte := match rs with | some r => resyncPacket r | none => []

/-- The transcript digest of a negotiation (R263): both hellos, the initiator's first, and both signed messages. -/
def transcript (first second : Hello) (msg1 msg2 : List Byte) : Digest :=
  digestOf (Config.helloBytes first ++ Config.helloBytes second ++ msg1 ++ msg2)

/-- The keys of R263 from a shared secret and a transcript digest. -/
def linkKeys (secret : BitVec 256) (transcript : Digest) (initiator : Bool) : PortKeys :=
  let b := shake256 72 (leBytes 32 secret.toNat ++ leBytes 64 transcript.toNat)
  let k := fun (o : Nat) => BitVec.ofNat 256 (leAt b o 32)
  let z := fun (o : Nat) => BitVec.ofNat 32 (leAt b o 4)
  if initiator then ⟨k 0, k 32, z 64, z 68, 0, 0⟩ else ⟨k 32, k 0, z 68, z 64, 0, 0⟩

end Sys2Proof.Machine
end

