-- ==== Sys2Proof/Machine/Ports.lean ====
section
/-! DEFINITION. A link port's service: adoption of buffers (R267-R269), keys and epochs (R262-R264), the queue of retunes
(R266, R274), violations of a peer (R270). -/

namespace Sys2Proof.Machine

open Sys2Proof

/-! Adoption (R267). -/

/-- The buffers a port carries: its own, unless another port carries it, and those it has adopted. -/
def State.carries (s : State) (q : Nat) : List Nat :=
  (if s.carrier q = q ∧ (s.port q).st = .up then [q] else []) ++ (s.port q).adoptees

/-- Is a buffer to be adopted: its port is LOST, RETUNE, HELD_OUT, FROZEN, or DOWN with a peer named. -/
def State.outOfService (s : State) (p : Nat) : Bool :=
  (s.peer p).isSome &&
    ((s.port p).frozen || (match (s.port p).st with | .lost | .retune | .heldOut | .down => true | _ => false))

/-- Cyclic distance of a port from the one after `p` in its bundle. -/
def after (p q : Nat) : Nat := (q + 5 - p % 6) % 6

/-- The port that adopts the buffer of `p`: among active four-lane ports, else among two-lane ports, the one that carries
the fewest buffers; among equals the first after `p`. -/
def State.adopter (s : State) (p : Nat) : Option Nat :=
  let act := (bundlePorts (p / 6)).filter fun q => q ≠ p && (s.port q).st = .up && ! (s.port q).frozen
  let four := act.filter fun q => (s.port q).width = 2
  let best := fun (a : Option Nat) (q : Nat) =>
    match a with
    | none => some q
    | some b =>
      let n := (s.carries q).length
      let m := (s.carries b).length
      if n < m ∨ (n = m ∧ after (p % 6) (q % 6) < after (p % 6) (b % 6)) then some q else a
  (if four.isEmpty then act else four).foldl best none

/-- Have a buffer adopted, with a resync to the peer (R268) that names what has been accepted before `last` from the port that carried it; the adopter starts with the lowest of its buffers (R267). -/
def State.adopt (s : State) (p last : Nat) : State :=
  match s.adopter p with
  | none => s
  | some q =>
    (s.modPort q fun x => { x with adoptees := x.adoptees ++ [p], resyncs := x.resyncs ++ [(p % 6, last)], turn := 0 }).event evAdopt p

/-- Bring a bundle in order after one of its ports has left or entered service: a port that is not active carries no buffer
of another, and every buffer to be adopted is. A bundle left with no active port is a step fault (R269). -/
def State.settle (s : State) (b : Nat) : State :=
  let ps := bundlePorts b
  let s1 : State := ps.foldl (fun t p => if (t.port p).st = .up then t else t.modPort p fun x => { x with adoptees := [], resyncs := [] }) s
  let s2 : State := ps.foldl (fun t p => if t.outOfService p ∧ t.carrier p = p then t.adopt p (s.port (s.carrier p)).rxSeq else t) s1
  if s2.bundlePeer b ∧ ¬ ps.any (fun p => (s2.port p).st = .up) then s2.stepFault else s2

/-- A port enters UP: its counters restart, and its buffer comes back to it once its first frame has been acknowledged. -/
def State.portUp (s : State) (p : Nat) : State :=
  (s.modPort p fun x =>
    { x with st := .up, ver := 1, frozen := false, corr := 0, unc := 0, nak := 0, tagfail := 0, fails := 0,
             returning := if s.carrier p = p then none else some x.txSeq }).settle (p / 6)

/-- A port leaves service. -/
def State.portOut (s : State) (p : Nat) (st : PortSt) : State :=
  (s.modPort p fun x => { x with st := st, ver := 0, returning := none }).settle (p / 6)

/-- A violation of a link peer (R270): the port discards its keys, accepts nothing but hello frames, and its buffer is
adopted; a record is written, and it is not counted (R363). -/
def State.violatePeer (s : State) (p : Nat) : State :=
  (((s.negotiate p .keying).modPort p fun x => { x with frozen := true }).portOut p .keying).raise 0x0030 engLink noCore
    0 0 [] 0 0x32

/-! Hellos and keys (R262, R263). -/

/-- Does a hello fit the link map, the pod and the versions (R254, R262). -/
def State.helloFits (s : State) (p : Nat) (m : Hello) : Bool :=
  s.mapOk p &&
    (match s.peer p with
    | some e => decide (m.id = e.peer ∧ m.port = e.port ∧ m.extents = s.lnk.extents ∧ m.vmin.toNat ≤ 1 ∧ 1 ≤ m.vmax.toNat)
    | none => false)

/-- Do a hello and its evidence pass the checks of R263: made for the nonce that this end has drawn. -/
def State.helloPasses (s : State) (nonce : BitVec 256) (m : Hello) : Bool :=
  m.sigOk && m.verifier = nonce && m.ownh = s.ownHash && m.sstate.toNat = s.sec.sstate.code
    && (match s.hif.running with | some f => f.digest = m.kelgil | none => false)

/-- The identity signs a message of a negotiation. -/
def State.signed (s : State) (bs : List Byte) : List Byte := bs ++ idSign (s.sec.seed.getD 0) bs

/-- Answer a good hello with this module's own; the initiator, the module with the lower id, draws an ephemeral pair and sends its
encapsulation key (R263). -/
def State.greet (s : State) (p : Nat) (m : Hello) : State :=
  let s1 := s.modPort p fun x => { x with hello := some m, said := some (s.ownHello p m.nonce) }
  if s.lnk.self.toNat < m.id.toNat then
    let a := s1.draw
    let b := a.2.draw
    let pair : BitVec 512 := b.1 ++ a.1
    b.2.modPort p fun x => { x with eph := some pair, keyMsg := s.signed (Config.kemPub pair) }
  else s1

/-- A hello that opens a negotiation (log 145): its sender has no nonce of this end yet. This end, which begins anew unless it is in
KEYING, answers with its own, for the sender's nonce. -/
def State.answerHello (s : State) (p : Nat) (m : Hello) : State :=
  let s1 := if (s.port p).st = .keying then s else (s.negotiate p .keying).portOut p .keying
  s1.modPort p fun x => { x with said := some (s1.ownHello p m.nonce) }

/-- HELLO_FRAME: a good hello begins a negotiation, also on a port that is up or held out; a bad one holds the port out, or,
once keying has begun, is a violation of the peer. -/
def execHelloFrame (p : PortId) (m : Hello) (s : State) : Host.Outcome State Fault Refusal :=
  let x := s.port p.val
  match x.st with
  | .keying | .up | .heldOut =>
    if (s.peer p.val).isNone ∨ s.sec.sstate = .quarantine then .next s
    else if s.helloFits p.val m ∧ m.sigOk ∧ m.verifier = 0 then .next (s.answerHello p.val m)
    else if s.helloFits p.val m ∧ s.helloPasses x.nonce m then
      .next (((s.modPort p.val fun y => { y with keys := none }).portOut p.val .keying).greet p.val m)
    else if x.hello.isSome ∨ x.frozen then .next (s.violatePeer p.val)
    else .next ((s.modPort p.val fun y => { y with keys := none }).portOut p.val .heldOut)
  | _ => .next s

/-- What a port sent in frames numbered `n` and later, and its peer has not acknowledged, is to be sent again in its order, and the
RX blocks of it are still empty (R252, R264). -/
def State.unsend (s : State) (p n : Nat) : State :=
  let hit := fun (t : TxBlk) => match t.sent with | some (q, m) => q = p && decide (n ≤ m) | none => false
  let mir := (s.lnk.held.filter hit).foldl (fun m t => SMap.set [] m t.port ((SMap.get [] m t.port).filter (· ≠ t.blk))) s.lnk.mirror
  let s1 := { s with lnk := { s.lnk with held := s.lnk.held.map fun t => if hit t then { t with sent := none } else t, mirror := mir } }
  s1.modPort p fun x =>
    { x with frees := x.freeSent.map (·.2) ++ x.frees, freeSent := [], ctl := x.ctlSent.map (·.2) ++ x.ctl, ctlSent := [],
             resyncs := x.resyncSent.map (·.2) ++ x.resyncs, resyncSent := [] }

/-- Install keys: the sequence numbers begin at 0, and what has not been acknowledged is sent again. -/
def State.keyed (s : State) (p : Nat) (k : PortKeys) : State :=
  ((s.unsend p 0).modPort p fun x =>
    { x with keys := some k, txSeq := 0, rxSeq := 0, acked := 0, owesNak := false, rtxNext := false }).portUp p

/-- A key message on a port: as the initiator or the responder must take it, it keys the port with the secret that `secret` finds; a
bad one, one out of turn, or one on a port that is up, is a violation of the peer (R263, R270; log 78). The responder signs its own
message over the transcript. -/
def State.keyMessage (s : State) (p : Nat) (initiator ok : Bool) (msg sig : List Byte) : State :=
  let x := s.port p
  match s.peer p, x.hello, x.said with
  | some e, some h, some own =>
    if x.st = .up then s.violatePeer p
    else if x.st ≠ .keying then s
    else if ¬ ok ∨ initiator ≠ decide (s.lnk.self.toNat < e.peer.toNat) then s.violatePeer p
    else if initiator then
      s.keyed p (linkKeys (Config.kemOpen (x.eph.getD 0) msg) (transcript own h x.keyMsg (msg ++ sig)) true)
    else
      let d := s.draw
      let r := Config.kemSeal msg d.1
      let mine := r.1 ++ idSign (s.sec.seed.getD 0) (Config.helloBytes h ++ Config.helloBytes own ++ msg ++ sig ++ r.1)
      (d.2.modPort p fun y => { y with keyMsg := mine }).keyed p (linkKeys r.2 (transcript h own (msg ++ sig) mine) false)
  | _, _, _ => s

/-- KEY_ENCAPSULATION: the responder's step. -/
def execKeyEncapsulation (p : PortId) (ok : Bool) (key sig : List Byte) (s : State) : Host.Outcome State Fault Refusal :=
  .next (s.keyMessage p.val false ok key sig)

/-- KEY_CIPHERTEXT: the initiator's step. -/
def execKeyCiphertext (p : PortId) (ok : Bool) (cipher sig : List Byte) (s : State) : Host.Outcome State Fault Refusal :=
  .next (s.keyMessage p.val true ok cipher sig)

/-- The key of the next epoch. -/
def nextKey (k : BitVec 256) (epoch : Nat) : BitVec 256 :=
  BitVec.ofNat 256 (leNat (shake256 32 (leBytes 32 k.toNat ++ leBytes 4 epoch)))

/-- KEY_EPOCH (R264): a direction whose number has reached a multiple of 2^32 takes its next key. -/
def execKeyEpoch (p : PortId) (s : State) : Host.Outcome State Fault Refusal :=
  let x := s.port p.val
  match x.keys with
  | none => .next s
  | some k =>
    let k1 := if k.epTx < x.txSeq / 2 ^ 32 then { k with tx := nextKey k.tx (k.epTx + 1), epTx := k.epTx + 1 } else k
    let k2 := if k1.epRx < x.rxSeq / 2 ^ 32 then { k1 with rx := nextKey k1.rx (k1.epRx + 1), epRx := k1.epRx + 1 } else k1
    .next (s.modPort p.val fun y => { y with keys := some k2 })

/-! Training (R265, R271). -/

/-- The width that whole lanes allow: 2 four lanes, 1 two lanes, 0 none. -/
def laneWidth (l : Byte) : Nat :=
  if l.toNat % 16 = 15 then 2 else if l.toNat % 4 = 3 ∨ l.toNat / 4 % 4 = 3 then 1 else 0

/-- LANE_LOCK_LOSS: the port goes down and trains, a reset of its domain, which closes D1 as any reset does (R364, R465). -/
def execLaneLockLoss (p : PortId) (lanes : Byte) (s : State) : Host.Outcome State Fault Refusal :=
  match (s.port p.val).st with
  | .up | .keying =>
    .next ((s.modPort p.val fun x => { x with lock := lanes, width := 0, fails := 0 }).portOut p.val .training).closeD1
  | _ => .next s

/-- LINK_TRAINING_COMPLETE: with a whole pair of lanes the port goes on, keyed or to be keyed (R466). Lanes that lock
without a whole pair make it LOST (R265); so does the third training in a row in which no lane locks. -/
def execLinkTrainingComplete (p : PortId) (lanes : Byte) (s : State) : Host.Outcome State Fault Refusal :=
  let x := s.port p.val
  let w := laneWidth lanes
  if x.st ≠ .training then .next s
  else if 0 < w then
    let s1 := s.modPort p.val fun y => { y with lock := lanes, width := w, fails := 0 }
    .next (if x.keys.isSome then s1.portUp p.val else s1.negotiate p.val .keying)
  else
    let s1 := s.modPort p.val fun y => { y with lock := lanes, width := 0, fails := y.fails + 1 }
    .next (if lanes.toNat % 16 ≠ 0 ∨ 3 ≤ x.fails + 1 then s1.portOut p.val .lost else s1)

/-! Retunes (R266, R274). -/

/-- Code of a port's state (R273). -/
def PortSt.code : PortSt → Nat
  | .down => 0 | .training => 1 | .keying => 2 | .up => 3 | .retune => 4 | .heldOut => 5 | .lost => 6

/-- Ask for a retune. -/
def State.queueRetune (s : State) (p : Nat) : State :=
  let x := s.port p
  if s.lnk.retQ.contains p ∨ s.lnk.retCur = some p then s
  else if (x.st = .down ∧ (s.peer p).isNone) ∨ x.st = .heldOut then s.log 0x000A 2 [p, x.st.code]
  else { s with lnk := { s.lnk with retQ := s.lnk.retQ ++ [p] } }

/-- PORT_ERROR_THRESHOLD. -/
def execPortErrorThreshold (p : PortId) (s : State) : Host.Outcome State Fault Refusal := .next (s.queueRetune p.val)

/-- RETUNE, the mailbox request; a port above 47 is taken as 47, as LNK_RETUNE does (log 30). -/
def execRetune (m : Mb) (port : W16) (s : State) : Host.Outcome State Fault Refusal :=
  .next (s.request m 0x0064 false fun t => (t.queueRetune (min 47 port.toNat), .ok))

/-- A write of LNK_RETUNE (R273, R274). -/
def State.retuneWrite (s : State) (v : W32) : State :=
  let p := min 47 (v.toNat % 64)
  let s1 := { s with lnk := { s.lnk with retPort := p } }
  if v.getLsbD 6 then s1.queueRetune p else s1

/-- LNK_RETUNE_REQ. -/
def execLnkRetuneReq (value : W32) (s : State) : Host.Outcome State Fault Refusal := .next (s.retuneWrite (value ||| 0x40#32))

/-- May a port retune: another port of its bundle stays active (R266). -/
def State.mayRetune (s : State) (p : Nat) : Bool :=
  ((s.port p).st = .lost || (s.port p).st = .up) && (bundlePorts (p / 6)).any fun q => q ≠ p && (s.port q).st = .up

/-- A retune begins here: the port has no lanes until it ends (R273); its domain is reset (R364, R465). -/
def State.startRetune (s : State) (p : Nat) : State :=
  let s1 := { s with lnk := { s.lnk with
    retCur := some p, retQ := s.lnk.retQ.filter (· ≠ p), announced := s.lnk.announced.filter (· ≠ p) } }
  ((s1.modPort p fun x => { x with width := 0, lock := 0 }).portOut p .retune).event evRetune p |>.closeD1

/-- RETUNE_START: the end with the lower module id starts its oldest request and announces it; the other end asks it to
(log 29), but starts one at once that has been announced. -/
def execRetuneStart (s : State) : Host.Outcome State Fault Refusal :=
  match s.lnk.retCur, s.lnk.retQ with
  | none, p :: _ =>
    match s.peer p with
    | none => .next { s with lnk := { s.lnk with retQ := s.lnk.retQ.drop 1 } }
    | some e =>
      if (s.port p).st = .heldOut then .next ({ s with lnk := { s.lnk with retQ := s.lnk.retQ.drop 1 } }.queueRetune p)
      else if s.lnk.announced.contains p then .next (s.startRetune p)
      else if ¬ s.mayRetune p then .next s
      else
        let s1 := s.sendCtl e.peer (.retune p)
        .next (if s.lnk.self.toNat < e.peer.toNat then s1.startRetune p else s1)
  | _, _ => .next s

/-- A peer announces a retune, or asks for one: the port at this end. -/
def State.peerRetune (s : State) (src port : Nat) : State :=
  match s.mappedPorts.find? fun p => (match s.peer p with | some e => e.peer.toNat = src && e.port = port | none => false) with
  | none => s
  | some p =>
    if s.lnk.self.toNat < src then s.queueRetune p
    else if s.lnk.retCur.isSome then
      (if s.lnk.retCur = some p then s
      else { s with lnk := { s.lnk with retQ := p :: s.lnk.retQ.filter (· ≠ p), announced := (p :: s.lnk.announced).eraseDups } })
    else if (s.port p).st = .up ∨ (s.port p).st = .lost then s.startRetune p
    else s

/-- RETUNE_COMPLETE: a retune that ended clean, with the lanes that lock, brings the port back; any other makes it LOST (R266). -/
def execRetuneComplete (e : RetuneEnd) (s : State) : Host.Outcome State Fault Refusal :=
  match s.lnk.retCur with
  | none => .next s
  | some p =>
    let s1 := { s with lnk := { s.lnk with retCur := none } }
    let x := s1.port p
    if x.st ≠ .retune then .next s1
    else
      let w := laneWidth e.lanes
      let s2 := s1.modPort p fun y => { y with width := w, lock := e.lanes }
      .next (if ¬ e.ok ∨ w = 0 then s2.portOut p .lost else if x.keys.isSome then s2.portUp p else s2.negotiate p .keying)

/-- LOST_PORT_RETRY: every LOST port asks for a retune. -/
def execLostPortRetry (s : State) : Host.Outcome State Fault Refusal :=
  .next ((s.mappedPorts.filter fun p => (s.port p).st = .lost).foldl State.queueRetune s)

end Sys2Proof.Machine
end

