-- ==== Sys2Proof/Machine/Frames.lean ====
section
/-! DEFINITION. Frames (R250-R252, R255-R261, R268, R270), what Kelgil makes of a message, and pod formation (R271). -/

namespace Sys2Proof.Machine

open Sys2Proof

/-! Pod formation. -/

/-- Pod-ready (R8): PHASE, and counter 2 raised to the SVN of the running Kelgil (R417). -/
def State.ready (s : State) : State :=
  let c : W64 := s.nvm.ctrs.getD 2 0
  let svn : Nat := match s.hif.running with | some f => f.svn.toNat | none => 0
  let ctrs := if c.toNat < svn then s.nvm.ctrs.set 2 (BitVec.ofNat 64 svn) else s.nvm.ctrs
  { s with lnk := { s.lnk with podFormed := true }, nvm := { s.nvm with ctrs := ctrs } }.setPhase 5

/-- The coordinator has a module's report; with all of them the pod is formed, and every module is told. -/
def State.noteFormed (s : State) (m : Nat) : State :=
  let s1 := { s with lnk := { s.lnk with formedBy := (m :: s.lnk.formedBy).eraseDups } }
  if s1.podIds.all (fun i => s1.lnk.formedBy.contains i) ∧ ¬ s1.lnk.podFormed then (s1.sendCtl 0xFFFF#16 .formation).ready else s1

/-- POD_FORMATION (R254, R271, R411 step 11): every named port is UP, LOST or HELD_OUT. The neighbours' extents have been
checked with their hellos. -/
def execPodFormation (s : State) : Host.Outcome State Fault Refusal :=
  let out := fun (p : Nat) => match (s.port p).st with | .up | .lost | .heldOut => true | _ => false
  if s.hif.phase ≠ 4 ∨ s.lnk.formed ∨ ¬ s.mappedPorts.all out then .next s
  else
    let s1 := { s with lnk := { s.lnk with formed := true } }
    .next (if s.coordinator = s.lnk.self.toNat then s1.noteFormed s.lnk.self.toNat
      else s1.sendCtl (BitVec.ofNat 16 s.coordinator) (.formed s.lnk.self))

/-! Receiving. -/

/-- Have the moves and exchanges that wait for link buffers go on. -/
def State.linkMoved (s : State) : State := s.arrivals.xAll

/-- A 16-bit field extended to the first number from `base` on that ends in it. -/
def extend (base : Nat) (v : W16) : Nat := base + (v - BitVec.ofNat 16 base).toNat

/-- A frame is discarded, and a NAK is due (R252). -/
def State.discard (s : State) (p : Nat) : State := s.modPort p fun x => { x with owesNak := true }

/-- Is a header one that its type allows (R270): TYPE 3, reserved bits, BUF above 5 or BUF and BLK of another type, and a
buffer that this port does not carry, are not. -/
def State.hdrOk (s : State) (p : Nat) (h : FrameHdr) : Bool :=
  h.type ≠ 3 && h.rsvd = 0 &&
    (if h.type = 0 then decide (h.buf.toNat < 6)
      && (let q := p / 6 * 6 + h.buf.toNat; q = p || (s.port p).adoptees.contains q)
    else h.buf = 0 && h.blk = 0)

/-- The peer has received everything below `n`: what those frames carried is done (R252, R256, R267). -/
def State.acked (s : State) (p n : Nat) : State :=
  let gone := fun (t : TxBlk) => match t.sent with | some (q, m) => q = p && decide (m < n) | none => false
  let back := match (s.port p).returning with | some f => decide (f < n) | none => false
  let s1 := { s with lnk := { s.lnk with held := s.lnk.held.filter fun t => ! gone t } }
  let s2 := s1.modPort p fun x =>
    { x with acked := n, freeSent := x.freeSent.filter fun f => n ≤ f.1, ctlSent := x.ctlSent.filter fun f => n ≤ f.1,
             resyncSent := x.resyncSent.filter fun f => n ≤ f.1 }
  if back then
    let q := s2.carrier p
    (s2.modPort q fun x => { x with adoptees := x.adoptees.filter (· ≠ p) }).modPort p fun x => { x with returning := none }
  else s2

/-- A NAK: what was sent from `n` on is to be sent again. -/
def State.naked (s : State) (p n : Nat) : State := (s.unsend p n).modPort p fun x => { x with rtxNext := true }

/-- A FREE: the peer's RX block is empty (R256). -/
def State.freed (s : State) (p : Nat) (h : FrameHdr) : State :=
  if ¬ h.freev ∨ 6 ≤ h.freeBuf.toNat then s
  else
    let q := p / 6 * 6 + h.freeBuf.toNat
    { s with lnk := { s.lnk with mirror := SMap.set [] s.lnk.mirror q ((SMap.get [] s.lnk.mirror q).filter (· ≠ h.freeBlk.toNat)) } }

/-- The receiving key of an epoch: the key in place, or the next where the number has reached it (R264). -/
def PortKeys.rxAt (k : PortKeys) (epoch : Nat) : BitVec 256 := if k.epRx < epoch then nextKey k.rx (k.epRx + 1) else k.rx

/-- Does the tag of a frame with these packets check, as the frame of its number under the receiving key of that number's epoch (R251,
R264). -/
def State.tagOk (s : State) (p : Nat) (a : Arrival) (packets : List Byte) : Bool :=
  let x := s.port p
  match x.keys with
  | some k =>
    let n := extend x.rxSeq (arrHdr a).seq
    (sealFrame (k.rxAt (n / 2 ^ 32)) k.saltRx n a.word packets).tag = a.tag
  | none => false

/-- Take a frame of a type into its sequence (R252, R270): none where nothing is received or the frame is discarded, with
the state that leaves. -/
def State.receive (s : State) (p : Nat) (a : Arrival) (type : BitVec 2) (packets : List Byte) : State × Option Nat :=
  let x := s.port p
  let h := arrHdr a
  let s0 := s.modPort p fun y => { y with corr := hold32 y.corr a.corr }
  if x.st ≠ .up ∨ x.keys.isNone then (s, none)
  else if a.unc ≠ 0 then ((s0.modPort p fun y => { y with unc := hold32 y.unc a.unc }).discard p, none)
  else
    let n := extend x.rxSeq h.seq
    if n ≠ x.rxSeq ∧ ¬ (h.rtx ∧ n < x.rxSeq + 2 ^ 15) then (s0.discard p, none)
    else if ¬ s.tagOk p a packets then
      let s1 := (s0.modPort p fun y => { y with tagfail := hold32 y.tagfail 1 }).discard p
      (if a.fourth then s1.violatePeer p else s1, none)
    else if ¬ s.hdrOk p h ∨ h.type ≠ type then (s0.violatePeer p, none)
    else
      let s1 := s0.modPort p fun y => { y with rxSeq := n + 1 }
      let k := extend x.acked h.ack
      let s2 := if k ≤ x.txSeq then s1.acked p k else s1
      let s3 := if h.nak ∧ k ≤ x.txSeq then s2.naked p k else s2
      (s3.freed p h, some n)

/-- DATA_FRAME_RECEIVE (R257, R270, R381): the block goes to the RX half with a new entry, and is full. During a scrub it waits, as every
master but the scrub does (R372). -/
def execDataFrameReceive (p : PortId) (a : Arrival) (block : List Byte) (s : State) : Host.Outcome State Fault Refusal :=
  let data := sized 4096 block
  let h := arrHdr a
  let r := s.receive p.val a 0 data
  if s.sec.scrub then .next (s.wait (.dataFrameReceive p a block))
  else match r.2 with
  | none => .next r.1
  | some n =>
    let q := p.val / 6 * 6 + h.buf.toNat
    let b := h.blk.toNat
    if r.1.rxFull q b then .next (r.1.violatePeer p.val)
    else
      let s1 := writeRuns r.1 0 [(linkAddr q true b, data)]
      let s2 := { s1 with lnk := { s1.lnk with full := SMap.set [] s1.lnk.full q (SMap.get [] s1.lnk.full q ++ [b]) } }
      let item := BitVec.ofNat 64 (h.buf.toNat + b * 8 + n % 2 ^ 53 * 2 ^ 11)
      let s3 := if s2.rmode = 2 then s2.modPort p.val fun x => { x with arrived := x.arrived ++ [item] } else s2
      .next (s3.mcount (0x140 + p.val) 1).linkMoved

/-- What Kelgil makes of a message (R260). A piece of a restore is kept for the row that tells of the whole, REPLICA_RESTORE. -/
def State.deliver (s : State) (pkt : CtlPacket) : State :=
  let src := pkt.src.toNat
  match pkt.msg with
  | .vote st a v => s.heardVote src st a v
  | .outcome st a code lost v => s.heardOutcome st a code lost v
  | .lastOutcome m st a code v =>
    match code with
    | some c => s.heardLast m.toNat c v
    | none => s.answerLast pkt.src st a
  | .xchgReport m st a tag g => s.xReport m.toNat st a tag g
  | .xchgSerial st a tag g n => s.xSerial st a tag g n
  | .formed m => s.noteFormed m.toNat
  | .formation => if s.lnk.podFormed then s else s.ready
  | .testPause _ => { s with stp := { s.stp with pauseMs := 40 } }.retime
  | .duty _ d => { s with stp := { s.stp with duties := s.stp.duties ++ [d] } }.retime
  | .retune port => s.peerRetune src port
  | .restore _ => s
  | .other _ => s

/-- A control frame of another module goes on by a bundle (R260): on channel 0 again where it turns. -/
def State.passOn (s : State) (p : Nat) (pkt : CtlPacket) (b : Nat) : State :=
  (s.castTo (if p / 12 = b / 2 then pkt else { pkt with vc := 0 }) b).mcount 0x020 1

/-- CONTROL_FRAME_RECEIVE (R260). -/
def execControlFrameReceive (p : PortId) (a : Arrival) (pkt : CtlPacket) (s : State) : Host.Outcome State Fault Refusal :=
  let r := s.receive p.val a 1 (ctlPacket pkt)
  match r.2 with
  | none => .next r.1
  | some _ =>
    let s1 := r.1.linkMoved
    if pkt.dest = 0xFFFF#16 then
      .next (((s1.treeBundles pkt.src.toNat).foldl (fun t b => t.passOn p.val pkt b) s1).deliver pkt)
    else if pkt.dest = s1.lnk.self then .next (s1.deliver pkt)
    else
      match s1.routeOn p.val pkt.dest.toNat with
      | none => .next s1
      | some b => .next (s1.passOn p.val pkt b)

/-- A resync (R268): what the peer has accepted of a buffer (all ones where it is nothing, log 143) is done, the rest of it is to be sent by its adopter, and the
mirror is the map of empty blocks. -/
def State.resync (s : State) (p : Nat) (r : Resync) : State :=
  if 6 ≤ r.buf.toNat then s
  else
    let q := p / 6 * 6 + r.buf.toNat
    let from' := fun (t : TxBlk) => match t.sent with | some (x, m) => if t.port = q ∧ x ≠ p then some m else none | none => none
    let keep := fun (t : TxBlk) => match from' t with | some m => decide ((r.last + 1).toNat ≤ m) | none => true
    let held := (s.lnk.held.filter keep).map fun t => if (from' t).isSome then { t with sent := none } else t
    let full := (List.range 256).filter fun b => ! r.empty.getLsbD b
    { s with lnk := { s.lnk with held := held, mirror := SMap.set [] s.lnk.mirror q full } }

/-- LINK_FRAME_RECEIVE (R250, R268). -/
def execLinkFrameReceive (p : PortId) (a : Arrival) (rs : Option Resync) (s : State) : Host.Outcome State Fault Refusal :=
  let r := s.receive p.val a 2 (linkPackets rs)
  match r.2, rs with
  | none, _ => .next r.1
  | some _, none => .next r.1.linkMoved
  | some _, some x => .next (r.1.resync p.val x).linkMoved

/-! Sending. -/

/-- May a port send: it is up and keyed, the key is that of the number's epoch, and fewer than 2^15 frames are
unacknowledged (R252, R264). -/
def Port.maySend (x : Port) : Bool :=
  x.st = .up && (match x.keys with | some k => k.epTx = x.txSeq / 2 ^ 32 | none => false) && decide (x.txSeq < x.acked + 2 ^ 15)

/-- A frame goes out (R250, R251, R256): it takes the next number, the acknowledgement, a NAK that is due, one FREE, and RTX after a
NAK, and is protected under the port's sending key. -/
def State.sent (s : State) (p : Nat) (type : BitVec 2) (buf : BitVec 3) (blk : Byte) (packets : List Byte) : State :=
  s.modPort p fun x =>
    let f := (x.frees.head?).getD (0, 0)
    let h : FrameHdr :=
      { type := type, buf := buf, blk := blk, seq := BitVec.ofNat 16 x.txSeq, ack := BitVec.ofNat 16 x.rxSeq, nak := x.owesNak,
        freev := ! x.frees.isEmpty, freeBuf := BitVec.ofNat 3 f.1, freeBlk := BitVec.ofNat 8 f.2, rtx := x.rtxNext, rsvd := 0 }
    { x with txSeq := x.txSeq + 1, rtxNext := false, owesNak := false, nak := if x.owesNak then hold32 x.nak 1 else x.nak,
             frees := x.frees.drop 1, freeSent := x.freeSent ++ (x.frees.take 1).map fun f => (x.txSeq, f),
             out := x.keys.map fun k => sealFrame k.tx k.saltTx x.txSeq (frameWord h) packets }

/-- The next block of a buffer that may be sent: the oldest not sent, where the mirror shows its place empty (R256, R257). -/
def State.sendable (s : State) (q : Nat) : Option Nat :=
  match s.lnk.held.find? fun t => t.port = q && t.sent.isNone with
  | none => none
  | some t => if (SMap.get [] s.lnk.mirror q).contains t.blk then none else some t.blk

/-- The buffer a port sends from: those it carries with a sendable block take turns, the lowest index first (R267). -/
def State.nextBuffer (s : State) (p : Nat) : Option (Nat × Nat) :=
  let t := (s.port p).turn
  let qs := ((List.range 6).map fun i => p / 6 * 6 + (t + i) % 6).filter fun q => (s.carries p).contains q
  qs.findSome? fun q => (s.sendable q).map fun b => (q, b)

/-- Why a TX block does not verify before it is encrypted (R381): its CRC or its VALID bit. No command reads it, so there is
no handle to check its step by. -/
def State.txFault (s : State) (blk : Nat) : Option Nat :=
  let e := chkGet s blk
  if ¬ entryValid e then some 2
  else if entryCrv e ≠ (crvOf (entryCvp e) (checkMsg s.mem blk (entryStep e))).toNat then some 0
  else none

/-- DATA_FRAME_SEND (R256, R261, R381). A block that does not verify is not sent. -/
def execDataFrameSend (p : PortId) (s : State) : Host.Outcome State Fault Refusal :=
  let x := s.port p.val
  if ¬ x.maySend ∨ ¬ x.ctl.isEmpty then .next s
  else
    match s.nextBuffer p.val with
    | none => .next s
    | some (q, b) =>
      let a := linkAddr q false b
      match s.txFault (a / 4096) with
      | some w => .next (s.raise (cvKind w) engLink noCore 0 0 [] a p.val)
      | none =>
        let mark := fun (t : TxBlk) => if t.port = q ∧ t.blk = b then { t with sent := some (p.val, x.txSeq) } else t
        let s1 := { s with lnk := { s.lnk with
          held := s.lnk.held.map mark, mirror := SMap.set [] s.lnk.mirror q (SMap.get [] s.lnk.mirror q ++ [b]) } }
        let s2 := s1.sent p.val 0 (BitVec.ofNat 3 (q % 6)) (BitVec.ofNat 8 b) (memRange s.mem a 4096)
        .next ((s2.modPort p.val fun y => { y with turn := (q + 1) % 6 }).mcount (0x100 + p.val) 1)

/-- CONTROL_FRAME_SEND (R261). -/
def execControlFrameSend (p : PortId) (s : State) : Host.Outcome State Fault Refusal :=
  let x := s.port p.val
  match x.ctl with
  | [] => .next s
  | c :: cs =>
    if ¬ x.maySend then .next s
    else
      .next (((s.sent p.val 1 0 0 (ctlPacket c)).modPort p.val fun y => { y with ctl := cs, ctlSent := y.ctlSent ++ [(x.txSeq, c)] }).mcount (0x180 + p.val) 1)

/-- The resync of a buffer that a port has adopted (R268): the last number accepted in order from the port that has left service,
and which RX blocks of the buffer are empty. -/
def State.resyncOf (s : State) (p : Nat) (r : Nat × Nat) : Resync :=
  let q := p / 6 * 6 + r.1
  { buf := BitVec.ofNat 3 r.1, last := BitVec.ofNat 64 r.2 - 1,
    empty := BitVec.ofNat 256 ((List.range 256).foldl (fun a b => if s.rxFull q b then a else a + 2 ^ b) 0) }

/-- LINK_FRAME_SEND (R250, R256, R268; log 28): with no control or data frame to send it carries FREEs and keeps the link
alive; a NAK or a resync that is due does not wait for that. -/
def execLinkFrameSend (p : PortId) (s : State) : Host.Outcome State Fault Refusal :=
  let x := s.port p.val
  let idle := x.ctl.isEmpty && (s.nextBuffer p.val).isNone
  if ¬ x.maySend ∨ ¬ (idle ∨ x.owesNak ∨ ¬ x.resyncs.isEmpty) then .next s
  else
    let rs := x.resyncs.head?.map (s.resyncOf p.val)
    let s1 := s.sent p.val 2 0 0 (linkPackets rs)
    .next ((s1.modPort p.val fun y =>
      { y with resyncs := y.resyncs.drop 1, resyncSent := y.resyncSent ++ (x.resyncs.take 1).map fun r => (x.txSeq, r) }).mcount (0x180 + p.val) 1)

end Sys2Proof.Machine
end

