-- ==== Sys2Proof/Machine/Steps.lean ====
section
/-! DEFINITION. Steps and attempts (R185-R189, R258, R290-R306): the start of an attempt, the vote and its outcome, the step
boundary, the step watchdog, loss of modules, Landing buffers (R350), outputs and checkpoints (R352-R354). -/

namespace Sys2Proof.Machine

open Sys2Proof

/-! Landing buffers (R350). -/

/-- The address of a Landing buffer. -/
def landingAt (b : Nat) : Nat := landingBase + b * 0x400000

/-- Zero a Landing buffer and free it. -/
def State.landingFree (s : State) (b : Nat) : State :=
  let a := landingAt b
  { s with mem := memClear s.mem a 0x400000,
           chk := s.chk.filter fun e => e.1 < a / 4096 ∨ a / 4096 + 1024 ≤ e.1,
           job := { s.job with landing := s.job.landing.filter fun e => e.1 ≠ b } }

/-- Free the buffers that satisfy a test. -/
def State.landingFreeIf (s : State) (f : Landing → Bool) : State :=
  ((s.job.landing.filter fun e => f e.2).map (·.1)).foldl State.landingFree s

/-- The next chunk of the decrypt pipeline: that of the earliest step whose list is not done. -/
def State.nextChunk (s : State) : Option (TokMan × ChunkEntry) :=
  s.job.tokens.findSome? fun t => (t.chunks[t.pos]?).map fun c => (t, c)

/-- The staged bytes of a chunk. -/
def State.staged (s : State) (c : ChunkEntry) : List Byte := memRange s.mem (lpBase + c.off.toNat) c.clen.toNat

/-- A chunk decrypted (R349, R350): its content key under the slot's, with SLOT as additional data, then its bytes under that; none
where a tag fails. -/
def State.chunkPlain (s : State) (c : ChunkEntry) : Option (List Byte) :=
  let n := c.clen.toNat - 16
  (gcmOpen (s.slotKey c.slot.toNat) c.kiv [c.slot] c.wck c.ktag).bind fun key =>
    gcmOpen key c.civ [] ((s.staged c).take n) ((s.staged c).drop n)

/-- Does a staged chunk pass: its tags, its digest, and in a replay the recorded digest (R327). A CHUNK entry names the step at which the
chunk was read, which may be an earlier one than its own; it may be that of a chunk then refused, so one that agrees is enough
(log 43). -/
def State.chunkOk (s : State) (t : TokMan) (c : ChunkEntry) : Bool :=
  let dg := digestOf (s.staged c)
  (s.chunkPlain c).isSome && dg = c.digest
    && (match s.job.man with
      | some m =>
        let rs := m.chunks.filter fun x => x.2.1 = t.pos && decide (x.1.toNat ≤ t.s.toNat)
        ! m.replay || rs.isEmpty || rs.any fun x => x.2.2 = dg
      | none => true)

/-- A chunk is refused (R350): its buffer is zero and free, and CHUNK_BAD tells of it. -/
def State.chunkBad (s : State) (t : TokMan) (b : Nat) : State := ((s.landingFree b).notify 0x0002 [t.s.toNat, t.pos]).mcount 0x013 1

/-- CHUNK_DECRYPT (R350): the oldest chunk, once its buffer is free. Where a staged block fails its MAC the pipeline receives no data
(R154), so the chunk is refused (log 156). -/
def execChunkDecrypt (poison : Option Nat) (s : State) : Host.Outcome State Fault Refusal :=
  if s.job.st ≠ .loaded ∨ s.sec.pstate ≥ 2 ∨ s.sec.scrub then .next s
  else
    match s.nextChunk with
    | none => .next s
    | some (t, c) =>
      let b := c.buf.toNat
      if SMap.has s.job.landing b ∨ s.stalls (lpBase + c.off.toNat) c.clen.toNat then .next s
      else match s.macBad (lpBase + c.off.toNat) c.clen.toNat poison with
      | some x => .next ((s.macFail (512 * x) noCore).chunkBad t b)
      | none =>
        let s1 := s.record recChunk (leBytes 4 t.pos ++ leBytes 64 (digestOf (s.staged c)).toNat)
        if ¬ s1.chunkOk t c then .next (s1.chunkBad t b)
        else
          let a := landingAt b
          let s2 := { s1 with mem := memWrite (memClear s1.mem a 0x400000) a ((s.chunkPlain c).getD []) }
          let put := fun (u : State) (i : Nat) =>
            { u with chk := SMap.set 0 u.chk (a / 4096 + i) (mkEntry u.mem (a / 4096 + i) 0 (t.s.setWidth 16)) }
          let s3 : State := (List.range 1024).foldl put s2
          let next := fun (x : TokMan) => if x.s = t.s then { x with pos := x.pos + 1 } else x
          let s4 := { s3 with job := { s3.job with
            landing := SMap.set ⟨false, 0, 0⟩ s3.job.landing b ⟨true, t.s, t.pos⟩, tokens := s3.job.tokens.map next } }
          .next ((s4.mcount 0x012 1).mcount 0x010 ((c.clen.toNat + 63) / 64))

/-! Step state and what a step makes due. -/

/-- The sixteen count registers of each logical core as the next attempt of the step begins with them (R182). -/
def State.counts (s : State) : List (Nat × List W32) :=
  s.usedCores.filterMap fun k => (s.logical k).map fun n =>
    let c := s.core k
    (n, (List.range 16).map fun i => SMap.get 0 (if s.stp.a = 0 then c.lcnt else c.lcntRec) i)

/-- Kelgil's step state (R305, R318), with the digests of the TYPE 2 records that belong to it. Carried values that a vote has combined
are pending in the scale and layer state (R316). -/
def State.stepState (s : State) (digests : List (W16 × Digest)) : StepState :=
  { s := s.stp.s, a := s.stp.a,
    groups := (List.finRange 64).map fun g => (g, memRange s.mem (updTable + 64 * g.val) 64, memRange s.mem (updTable + 0x1000 + 4096 * g.val) 4096),
    ls := s.job.layers.map fun l => (l.num, leAt (memRange s.mem (layerRec l.num) 4) 0 4, BitVec.ofNat 32 (leAt (memRange s.mem (layerRec l.num + 4) 4) 0 4)),
    scales := s.job.scales, layers := s.job.layers, carried := if s.stp.first then s.stp.carried else Carried.none, consec := s.scc.consec, counts := s.counts,
    nonce := s.job.nonce.getD 0, seqs := s.job.seqs, digests := digests }

/-- The step state in bytes, as a TYPE 4 record holds it (R354; the layout is the model's, log 37). -/
def stepBytes (x : StepState) : List Byte :=
  let i4 := fun (v : Int) => leBytes 4 (logInt v)
  let b1 := fun (b : Bool) => leBytes 1 (if b then 1 else 0)
  let w4 := fun (w : W32) => leBytes 4 w.toNat
  let ws := fun (l : List W32) => leBytes 4 l.length ++ l.flatMap w4
  let scale := fun (m : MScale) =>
    leBytes 2 m.sh ++ leBytes 1 m.len ++ leBytes 1 m.head ++ i4 m.tmin ++ i4 m.tmax ++ b1 m.pinned ++ b1 m.lexp.isSome ++ i4 (m.lexp.getD 0)
      ++ i4 m.t ++ leBytes 2 m.hold ++ ws m.hist ++ w4 m.pend ++ b1 m.pendOvf ++ b1 m.written
  let layer := fun (l : GLayer) =>
    leBytes 2 l.num ++ leBytes 1 l.dmask ++ b1 l.wide ++ leBytes 1 l.g ++ leBytes 1 l.len ++ leBytes 4 l.m ++ i4 l.e ++ i4 l.emin
      ++ i4 l.emax ++ leBytes 2 l.hold ++ ws l.hist ++ ws l.dhist ++ w4 l.dpend
  let lst := fun (n : Nat) (bs : List Byte) => leBytes 4 n ++ bs
  leBytes 8 x.s.toNat ++ w4 x.a ++ lst x.groups.length (x.groups.flatMap fun g => leBytes 1 g.1.val ++ g.2.1 ++ g.2.2)
    ++ lst x.ls.length (x.ls.flatMap fun l => leBytes 2 l.1 ++ leBytes 4 l.2.1 ++ w4 l.2.2)
    ++ lst x.scales.length (x.scales.flatMap scale) ++ lst x.layers.length (x.layers.flatMap layer)
    ++ lst x.carried.scales.length (x.carried.scales.flatMap fun c => leBytes 2 c.1 ++ w4 c.2.1 ++ b1 c.2.2) ++ b1 x.carried.nfin
    ++ lst x.carried.dmax.length (x.carried.dmax.flatMap fun d => leBytes 4 d.1 ++ w4 d.2) ++ leBytes 4 x.consec
    ++ lst x.counts.length (x.counts.flatMap fun c => leBytes 1 c.1 ++ ws c.2) ++ leBytes 16 x.nonce.toNat
    ++ lst x.seqs.length (x.seqs.flatMap fun c => leBytes 1 c.1 ++ leBytes 8 c.2.toNat) ++ lst x.digests.length (x.digests.flatMap fun d => leBytes 2 d.1.toNat ++ leBytes 64 d.2.toNat)

/-- Bytes of a handle's view, and the records of at most 1 GiB and the units that they take (R353, R438). -/
def State.handleBytes (s : State) (h : W16) : Nat := ((s.desc h).count * (s.desc h).ebits + 7) / 8
def viewRecs (n : Nat) : Nat := (n + 0x3FFFFFFF) / 0x40000000
def viewUnits (n : Nat) : Nat := n / 0x40000000 * recUnits 0x40000000 + (if n % 0x40000000 = 0 then 0 else recUnits (n % 0x40000000))

/-- Units of the records of the state list's handles. -/
def State.ckptUnits (s : State) : Nat :=
  match s.job.man with
  | none => 0
  | some m => (m.stateList.map fun h => viewUnits (s.handleBytes h)).sum

/-- Units of the TYPE 4 record of a checkpoint (R354). -/
def State.endUnits (s : State) : Nat :=
  let n := match s.job.man with | none => 0 | some m => (m.stateList.map fun h => viewRecs (s.handleBytes h)).sum
  viewUnits (stepBytes (s.stepState (List.replicate n (0, 0)))).length

/-- Units of the records that the step under way makes due (R438): its outputs, and a checkpoint at its boundary. -/
def State.dueUnits (s : State) : Nat :=
  match s.job.man with
  | none => 0
  | some m =>
    ((m.outputs.filter fun o => s.stp.s.toNat % o.period.toNat = 0).map fun o => viewUnits (s.handleBytes o.handle)).sum
      + (if s.stp.ckptDue.any fun c => decide (c.toNat ≤ (s.stp.s + 1).toNat) then s.ckptUnits + s.endUnits else 0)

/-! The start of an attempt. -/

/-- Is the module at fault before its attempt begins: a step fault since the last outcome, a second frozen control processor (R387), a core
of the job that a fence has left without a spare. -/
def State.faulty (s : State) : Bool :=
  s.stp.fault || decide (2 ≤ s.sec.ctrlFrozen.length) || s.usedCores.any fun k => (s.core k).fenced

/-- Space that an attempt of a manifest must find in the record ring (R325). -/
def recordNeed (t : TokMan) : Nat := t.chunks.length * recSize 68 + 0x100000

/-- What the job waits for at a step boundary, as WAITING tells it (R428): output queue (R438), record ring, token manifest,
chunks. -/
def State.waitBits (s : State) : Nat :=
  let out := if s.outq.waiting.isEmpty ∧ s.dueUnits ≤ s.outFree then 0 else 1
  match s.job.tokens.find? fun t => t.s = s.stp.s with
  | none => out + 4
  | some t =>
    out + (if s.rmode ≠ 0 ∧ s.recFree < recordNeed t then 2 else 0) + (if t.pos < t.chunks.length then 8 else 0)

/-- Tell the host what the job waits for, once. -/
def State.tellWait (s : State) (bits : Nat) : State :=
  let s1 := { s with stp := { s.stp with waiting := bits } }
  if bits = 0 ∨ bits = s.stp.waiting then s1 else s1.notify 0x0006 [bits]

/-- May an attempt start, but for what the job waits for: a loaded job between attempts, no module of the pod lost, no
transition, unload, park or test on a core of the job, every TX block acknowledged. -/
def State.mayStart (s : State) : Bool :=
  s.job.st = .loaded && (match s.stp.phase with | .between | .redo => true | _ => false) && s.stp.lost.isEmpty
    && s.sec.trans.isNone && (s.stp.phase = .redo || s.job.unloadReq.isEmpty) && decide (s.sec.pstate < 2) && s.lnk.podFormed
    && ! s.hif.activating && s.lnk.held.isEmpty
    && (match s.tst.running with | some k => ! s.jobColumns.contains k.val | none => true)

/-- RX blocks emptied and mirrors reset (R258). -/
def State.emptyRx (s : State) : State :=
  let n := (s.lnk.full.map fun e => e.2.length).foldl (· + ·) 0
  { s with lnk := { s.lnk with full := [], mirror := [], residue := s.lnk.residue + BitVec.ofNat 32 n } }

/-- A core at the start of an attempt: its stream at its first word; its count registers are recorded at the first attempt
of a step and written back at every later one (R182). -/
def Core.begin (vrel first : Bool) (c : Core) : Core :=
  let r := if first then c.lcnt else c.lcntRec
  let z := fun (_ : Nat) (g : GExp) => { g with gmax := 0, govf := false }
  { c with gexp := SMap.mapVals GExp.zero z c.gexp, vecOn := none, inflight := [], waitq := [], fetching := true, fetchwait := false, fpos := 0,
           loops := [], lcnt := r, lcntRec := r, execs := [], atCommit := false, ended := false,
           frozen := c.frozen && vrel, skdFrozen := c.skdFrozen && vrel, evc := { c.evc with live := true } }

/-- Every Tally tile of every core at zero (R84). -/
def State.clearTiles (s : State) : State := { s with cores := SMap.mapVals Core.zero (fun _ c => { c with tiles := [] }) s.cores }

/-- ATTEMPT_START (R84, R185, R187, R211, R258, R289, R294, R325, R394). -/
def execAttemptStart (s : State) : Host.Outcome State Fault Refusal :=
  if ¬ s.mayStart then .next s
  else
    let w := s.waitBits
    let s0 := s.tellWait w
    if w ≠ 0 then .next s0
    else
      match s0.job.man, s0.job.tokens.find? fun t => t.s = s0.stp.s with
      | some m, some t =>
        let s1 := s0.emptyRx
        let s2 := { s1 with
          stp := { s1.stp with phase := .running, sync := [], own := none, comb := none, decided := none, voteSent := false,
                               fault := s1.faulty, wdogFired := false,
                               votes := s1.stp.votes.filter fun r => r.s = s1.stp.s && r.a = s1.stp.a },
          race := .zero,
          scc := { s1.scc with amax := [] },
          mem := memClear s1.mem statusTable 0x40000,
          job := { s1.job with xchgs := [], xreps := s1.job.xreps.filter fun r => r.s = s1.stp.s && r.a = s1.stp.a, nextSerial := 0 },
          mon := { s1.mon with evc := { s1.mon.evc with live := true } } }
        let s3 := s2.clearTiles.writeSlots m.pipe t
        .next ((s3.usedCores.foldl (fun u k => u.modCore k (Core.begin m.vrel (decide (s3.stp.a = 0)))) s3).mcount 0x001 1)
      | _, _ => .next s0

/-! The vote. -/

/-- VOTE (R215, R302): every core has reached COMMIT and every earlier command has completed; a module with a step fault does not
wait for that (R301). -/
def execVote (s : State) : Host.Outcome State Fault Refusal :=
  if s.job.st ≠ .loaded ∨ s.stp.phase ≠ .running ∨ ¬ (s.stp.fault ∨ s.voteReady) then .next s
  else
    let own := s.ownVote
    let s1 := { s with stp := { s.stp with phase := .voted, own := some own, vto := s.timeout } }
    .next s1.voteUp

/-- Modules that hold the state of a lost one: its replica group without the lost. -/
def State.replicas (s : State) (lost : List Nat) (m : Nat) : List Nat :=
  let mask := match s.job.man with | some x => x.pipe.repmask | none => 0
  (s.podIds.filter fun i =>
    (List.range 4).all fun d => bitAt mask d || (coordsOf i).getD d 0 = (coordsOf m).getD d 0).filter fun i => ! lost.contains i

/-- Does every lost module have a replica that is not lost (R304). -/
def State.restorable (s : State) (lost : List Nat) : Bool := lost.all fun m => ! (s.replicas lost m).isEmpty

/-- The outcome of a combined vote (R302, R304). -/
def State.verdict (s : State) (v : Vote) (lost : List Nat) : Nat :=
  if ¬ lost.isEmpty then (if s.restorable lost then outRestore else outRollback)
  else if v.fault then outRetry
  else if v.ovf ∨ v.nfin then (if s.stopCode v = 0 then outSkip else outStop)
  else outGo

/-- Is this module the coordinator with its own vote formed and no outcome yet. -/
def State.deciding (s : State) : Bool :=
  s.coordinator = s.lnk.self.toNat && s.stp.phase = .voted && s.stp.own.isSome && s.stp.decided.isNone && s.stp.asking.isEmpty

/-- OUTCOME_DECIDE (R302): the votes of all members are there. -/
def execOutcomeDecide (s : State) : Host.Outcome State Fault Refusal :=
  match s.stp.comb with
  | none => .next s
  | some v =>
    if ¬ s.deciding ∨ ¬ s.podIds.all (fun i => v.members.contains i) then .next s
    else .next (s.announce (s.verdict v []) [] v)

/-- VOTE_TIMEOUT (R301): members whose votes have not come are lost. -/
def execVoteTimeout (s : State) : Host.Outcome State Fault Refusal :=
  match s.stp.comb with
  | none => .next s
  | some v =>
    let lost := s.podIds.filter fun i => ! v.members.contains i
    if ¬ s.deciding ∨ lost.isEmpty then .next s
    else .next (s.announce (s.verdict v lost) lost v)

/-! The outcome. -/

/-- End of an attempt that does not commit: whatever runs is discarded. -/
def State.endAttempt (s : State) : State :=
  let s1 := s.stopCores
  let off := fun (_ : Nat) (c : Core) => { c with evc := { c.evc with live := false } }
  { s1 with cores := SMap.mapVals Core.zero off s1.cores, job := { s1.job with xchgs := [] },
            mon := { s1.mon with evc := { s1.mon.evc with live := false } } }

/-- The arrivals of an attempt are recorded, an entry of each port in turn, while there is room beside the 1 MiB that other entries have; from the
first that finds none on they are dropped, and whether some were (R324, R325). -/
def State.recordArrivals (s : State) : State × Bool :=
  let r := (List.range 48).foldl (fun (a : State × Bool) p =>
    let xs := (a.1.port p).arrived
    if xs.isEmpty then a
    else
      let bs := xs.flatMap fun x => leBytes 8 x.toNat
      if a.2 ∨ a.1.recFree < recSize bs.length + 0x100000 then (a.1, true) else (a.1.record recArrival bs, false)) (s, false)
  let clr := fun (_ : Nat) (x : Port) => { x with arrived := [] }
  ({ r.1 with lnk := { r.1.lnk with ports := SMap.mapVals Port.zero clr r.1.lnk.ports } }, r.2)

/-- The outcome is logged and recorded, and counted. -/
def State.noteOutcome (s : State) (o : OutcomeMsg) (fp : List Byte) : State :=
  let s1 := s.log 0x0004 2 (o.code :: o.lost.take 40)
  let r := if s1.rmode = 2 then s1.recordArrivals else (s1, false)
  let s2 := r.1.record recOutcome (leBytes 1 (o.code + (if r.2 then 1 else 0)) ++ leBytes 4 o.a.toNat
    ++ (o.lost.flatMap fun m => leBytes 2 m) ++ fp)
  if o.code = outGo then s2.mcount 0x002 1
  else if o.code = outSkip then s2.mcount 0x003 1
  else if o.code = outRetry then s2.mcount 0x004 1
  else if o.code = outRestore then s2.mcount 0x005 1
  else s2

/-- Does a replayed outcome differ from the recorded one of the same step and ordinal (R327). -/
def State.diverges (s : State) (o : OutcomeMsg) (fp : List Byte) : Bool :=
  match s.job.man with
  | none => false
  | some m =>
    m.replay && decide (o.code ≤ outStop) &&
      (match (m.replays.filter fun r => r.s = o.s)[s.job.replayPos]? with
      | some r => ! (r.fp = fp && r.code = o.code)
      | none => false)

/-- The job waits for its owner's checkpoint, or stops where there is none (R306). -/
def State.rollback (s : State) : State :=
  if ¬ s.job.ckpt then s.stopJob 4 0
  else
    let s1 := s.landingFreeIf fun _ => true
    { s1 with stp := { s1.stp with phase := .rollback }, job := { s1.job with tokens := [] } }

/-- Modules are lost (R304, R305): each has a replica, or the job rolls back. -/
def State.loseModules (s : State) (lost : List Nat) : State :=
  let s1 := { s with stp := { s.stp with lost := lost, phase := .restore } }
  if s.restorable lost then s1 else s1.rollback

/-- GO: scalars, scales and exponents, buffers, and the cores go on (R216, R234, R303, R350). -/
def State.applyGo (s : State) (v : Vote) : State :=
  let s1 := s.commitScalars.applyVote v true
  let s2 := s1.landingFreeIf fun l => l.s = s1.stp.s
  let go := fun (_ : Nat) (c : Core) => { c with inflight := c.inflight.map fun e => if e.phase = .waitCommit then { e with phase := .done } else e }
  { s2 with
    cores := SMap.mapVals Core.zero go s2.cores,
    scc := { s2.scc with lastskip := false, consec := 0 },
    stp := { s2.stp with phase := .committed, carried := Carried.none, conv := [], charges := [] } }

/-- The module that a RETRY makes lost: charged by FRETRY outcomes of the step in a row (R301). -/
def State.retryLost (s : State) (o : OutcomeMsg) (v : Vote) : List Nat :=
  let lim := match s.job.man with | some m => m.pipe.fretry | none => 2
  if o.code = outRetry ∧ lim ≤ SMap.get 0 s.stp.charges v.charged + 1 then [v.charged] else []

/-- Every other outcome: the combined values act as in a skip (R302), and the next attempt counts. -/
def State.applyOther (s : State) (o : OutcomeMsg) (v : Vote) : State :=
  let s1 := (s.moveTraces.endAttempt.applyVote v false).writeGexp
  let s2 := { s1 with stp := { s1.stp with phase := .redo, a := s1.stp.a + 1 }, scc := { s1.scc with lastskip := false } }
  if o.code = outSkip then
    { s2 with scc := { s2.scc with lastskip := true, consec := s2.scc.consec + 1, skips := hold32 s2.scc.skips 1 },
              stp := { s2.stp with charges := [] } }
  else if o.code = outStop then
    let s3 := { s2 with scc := { s2.scc with lastskip := true, consec := s2.scc.consec + 1, skips := hold32 s2.scc.skips 1 } }
    s3.stopJob (s.stopCode v) 0
  else if o.code = outRetry then
    let s3 := { s2 with stp := { s2.stp with charges := [(v.charged, SMap.get 0 s2.stp.charges v.charged + 1)] } }
    if (s2.retryLost o v).isEmpty then s3 else s3.loseModules (s2.retryLost o v)
  else if o.code = outRestore then { s2 with stp := { s2.stp with charges := [] } }.loseModules o.lost
  else s2.rollback

/-- Kelgil's duplicate computation of the values an outcome writes (R383): a difference repeats it; a second one is a module fault, after
GO the loss of the module (R245), before it a fault of the next attempt. -/
def State.scalarCheck (s : State) (o : ApplyEnv) : State :=
  if o.differs < 2 then s
  else
    let s1 := s.raise 0x0022 engCtrl noCore 0 0 [] 0 0
    if o.msg.code = outGo then s1.moduleLost else s1.stepFault

/-- OUTCOME_APPLY (R303, R304): the outcome that has reached the module, once; of an outcome that a new coordinator makes a RESTORE, only
the loss of more modules. The vote of a module that had not voted carries nothing, so its carried values stay for its next (R316). -/
def execOutcomeApply (e : ApplyEnv) (s : State) : Host.Outcome State Fault Refusal :=
  let o := e.msg
  let at' : Bool := match s.stp.phase with | .voted => true | .running => decide (o.code ≠ outGo) | _ => false
  match s.stp.comb with
  | none => .next s
  | some v =>
    let fp := s.fingerprint o.code v
    if s.job.st = .loaded ∧ s.stp.phase.after ∧ s.stp.decided = some o ∧ s.openAt = (o.s, o.a) ∧ o.code = outRestore then
      let s1 := s.noteOutcome o fp
      .next ({ s1 with stp := { s1.stp with decided := none, lastOut := some o } }.loseModules (s.stp.lost ++ o.lost).eraseDups)
    else if s.job.st ≠ .loaded ∨ s.stp.decided ≠ some o ∨ o.s ≠ s.stp.s ∨ o.a ≠ s.stp.a ∨ ¬ at' then .next s
    else
      let s1 := s.noteOutcome { o with lost := o.lost ++ s.retryLost o v } fp
      let s2 := { s1 with stp := { s1.stp with
        lastOut := some o, decided := none, own := none, pauseMs := 0, duties := [], fault := s.stp.fault && decide (o.code = outGo) } }
      if s2.diverges o fp then .next (s2.moveTraces.endAttempt.stopJob 5 s2.job.replayPos).settleStep
      else
        let s3 := if o.code ≤ outStop then { s2 with job := { s2.job with replayPos := s2.job.replayPos + 1 } } else s2
        let s4 := if o.code = outGo then s3.applyGo v else s3.applyOther o v
        let s5 := { s4 with stp := { s4.stp with first := s.stp.first && decide (s.stp.phase = StepPh.running), own := none, comb := some v } }
        .next (s5.scalarCheck e).settleStep

/-- COORDINATOR_LOSS (R304): the coordinator is lost while an outcome is open, or partly delivered; the next one asks every
module for the outcome it last received. A module that has passed its step boundary rolls back where the lost one has no replica. Module 0 takes the numbering of exchanges with it (R286): a step fault here where one
still waits for its serial (R301). -/
def execCoordinatorLoss (s : State) : Host.Outcome State Fault Refusal :=
  let open' : Bool := match s.stp.phase with
    | .running | .voted | .committed => true
    | _ => s.stp.lastOut.isSome
  let old := s.coordinator
  if s.job.st ≠ .loaded ∨ ¬ open' ∨ old = s.lnk.self.toNat then .next s
  else
    let s0 := if old = 0 ∧ s.job.xchgs.any (fun x => x.serial.isNone) then s.stepFault else s
    let s1 := { s0 with stp := { s0.stp with lost := s0.stp.lost ++ [old], voteSent := false } }
    let fin := fun (t : State) => if t.stp.phase = .between ∧ ¬ t.restorable t.stp.lost then t.rollback else t
    if s1.coordinator ≠ s1.lnk.self.toNat then .next (fin s1)
    else
      let others := s1.podIds.filter fun i => ! s1.stp.lost.contains i && i ≠ s1.lnk.self.toNat
      let x := s1.openAt
      let mine := (s1.lnk.self.toNat, some (s1.lastFor x.1 x.2))
      let s2 := { s1 with stp := { s1.stp with asking := mine :: others.map fun i => (i, none) } }
      let ask := fun (t : State) (i : Nat) =>
        t.sendCtl (BitVec.ofNat 16 i) (.lastOutcome (BitVec.ofNat 16 i) x.1 x.2 none none)
      .next (fin (others.foldl ask s2).closeAsk)

/-- STEP_WATCHDOG (R187, R388): every WAIT that is not satisfied freezes its command processor; together they count as one
violation. -/
def execStepWatchdog (s : State) : Host.Outcome State Fault Refusal :=
  let run : Bool := match s.stp.phase with | .running | .voted | .committed => true | _ => false
  let late := s.usedCores.filterMap fun k =>
    ((s.core k).inflight.find? fun e => e.phase = .waitObj && ! s.reached e).map fun e => (k, e)
  if s.job.st ≠ .loaded ∨ ¬ run ∨ s.stp.wdogFired ∨ late.isEmpty then .next s
  else
    let one := fun (t : State) (x : CoreId × Ent) =>
      (t.modCore x.1 fun c => { c with frozen := true }).raise 0x0030 engCmd (coreField x.1) 0 x.2.tag x.2.iter 0 0x31
    let s1 : State := late.foldl one s
    .next { s1 with stp := { s1.stp with wdogFired := true } }.countViol

/-! The step boundary. -/

/-- Does a view hold a bad block. -/
def State.viewBad (s : State) (h : W16) (d : Desc) : Option (Nat × Nat) :=
  (blocksOf (s.basePhys d) d.hull).findSome? fun b =>
    if carriesCheck s (b * 4096) then (blockFault s (s.groupLow h) false b).map fun w => (b, w) else none

/-- Read a handle for a record that leaves the module: a bad block is recorded, and no record is made of it. -/
def State.outHandle (s : State) (kind slot : Nat) (h : W16) : State :=
  let d := s.desc h
  match s.viewBad h d with
  | some (b, w) => s.raise (cvKind w) (if w = 3 then engLpddr else engCvu) noCore h 0 [] (b * 4096) 0
  | none => s.outView kind slot h (s.viewBytes d)

/-- The outputs of a committed step (R352). -/
def State.outputs (s : State) : State :=
  match s.job.man with
  | none => s
  | some m =>
    (m.outputs.filter fun o => s.stp.s.toNat % o.period.toNat = 0).foldl (fun t o => t.outHandle 1 o.slot.toNat o.handle) s

/-- A checkpoint: TYPE 2 records of the state list, then one TYPE 4 record with the step state and their digests (R354). -/
def State.checkpoint (s : State) : State :=
  match s.job.man with
  | none => s
  | some m =>
    let s1 : State := m.stateList.foldl (fun t h => t.outHandle 2 t.ckptSlot h) s
    let mine := (s1.outq.records ++ s1.outq.waiting).filter fun r =>
      decide (r.kind = 2 ∧ r.slot.toNat = s.ckptSlot ∧ (s.outSeq s.ckptSlot).toNat ≤ r.seq.toNat)
    let s2 := s1.outView 4 s1.ckptSlot 0 (stepBytes (s.stepState (mine.map fun r => (r.handle, r.digest))))
    { s2 with job := { s2.job with ckpt := true }, stp := { s2.stp with ckptDue := s2.stp.ckptDue.filter fun c => s2.stp.s.toNat < c.toNat } }

/-- The post-commit values of the step (R218): overflow bits, and the amax words at STEPEND of the handles that a conversion has
reached since GO (log 138). -/
def State.postCommit (s : State) : State :=
  let one := fun (m : MScale) =>
    let hs := s.handles.filter fun h => (s.desc h).scale = m.sh
    let am := (hs.filter fun h => h ∈ s.stp.conv).foldl (fun (a : W32) h => maxW a (SMap.get 0 s.scc.amax h.toNat)) 0
    (m.sh, am, hs.any fun h => (s.status h).ovf || (s.scc.policy && (s.status h).nfin))
  let any := s.handles.any fun h => (s.status h).ovf
  { s with
    stp := { s.stp with carried := { s.stp.carried with
      scales := s.job.scales.map one, nfin := s.handles.any fun h => (s.status h).nfin } },
    scc := { s.scc with postovf := if any then hold32 s.scc.postovf 1 else s.scc.postovf } }

/-- One field of a group record replaced. -/
def State.setGroup (s : State) (g : Nat) (f : Nat → Nat) : State :=
  { s with mem := memWrite s.mem (updTable + 64 * g) (leBytes 64 (f (s.groupRec g))) }

/-- Replace `n` bits from `lo` on. -/
def putField (lo n v x : Nat) : Nat := x - bitsAt x lo n * 2 ^ lo + v % 2 ^ n * 2 ^ lo

/-- A group update takes effect (R241). -/
def State.applyGroup (s : State) (u : GroupUpd) : State :=
  let g := u.group.val
  let put := fun (t : State) (x : Nat × Nat × Option Nat) => match x.2.2 with | some v => t.setGroup g (putField x.1 x.2.1 v) | none => t
  let w := fun (lo : Nat) (v : Option W32) => (lo, 32, v.map (·.toNat))
  let s1 : State := [(1, 1, u.frozen.map fun b => if b then 1 else 0), w 32 u.beta1, w 64 u.omb1, w 96 u.beta2, w 128 u.omb2,
    w 160 u.eps, (2, 8, u.knots.map fun k => k.length - 1)].foldl put s
  match u.knots with
  | none => s1
  | some ks =>
    let bs := ks.flatMap fun k => leBytes 8 k.sk.toNat ++ leBytes 4 k.lr.toNat ++ leBytes 4 k.wd.toNat
    { s1 with mem := memWrite s1.mem (updTable + 0x1000 + 4096 * g) bs }

/-- Audit points take effect; those of a step that has passed are logged (R320). -/
def State.applyAudit (s : State) (ps : List CapPoint) : State :=
  let s1 := { s with job := { s.job with points := ps.filter fun p => s.stp.s.toNat ≤ p.s.toNat } }
  (ps.zipIdx.filter fun p => p.1.s.toNat < s.stp.s.toNat).foldl (fun t p => t.log 0x0003 2 [3, p.2, 0]) s1

/-- What has been asked for this boundary: group updates in order, audits, a checkpoint, an unload or a park, tests; in a replay
each message at its recorded step counter (R327). -/
def State.boundaryWork (s : State) : State :=
  let due := fun (at' : W64) => decide (at'.toNat ≤ s.stp.s.toNat)
  let s1 : State := ((s.job.queued.filter fun x => due x.2.1).flatMap (·.2.2)).foldl State.applyGroup s
  let s2 : State := (s1.job.audits.filter fun x => due x.2.1).foldl (fun t a => t.applyAudit a.2.2) s1
  let s3 := { s2 with job := { s2.job with
    queued := s2.job.queued.filter fun x => ! due x.2.1, audits := s2.job.audits.filter fun x => ! due x.2.1 } }
  let s4 := if s3.stp.ckptDue.any due then s3.checkpoint else s3
  s4.settleStep.startTests.startRetrain

/-- STEP_BOUNDARY (R189, R218, R241, R352): every core has completed STEPEND; the step counter advances. A module lost after GO
that has no replica rolls the job back (R304). -/
def execStepBoundary (s : State) : Host.Outcome State Fault Refusal :=
  if s.job.st ≠ .loaded ∨ s.stp.phase ≠ .committed ∨ ¬ s.usedCores.all (fun k => (s.core k).ended) then .next s
  else
    let s1 : State := s.moveTraces.usedCores.foldl State.takeReports s.moveTraces
    let s2 := (s1.postCommit.outputs).writeGexp
    let s3 := { s2 with
      stp := { s2.stp with s := s2.stp.s + 1, a := 0, phase := .between, first := true, conv := [],
                           votes := s2.stp.votes.filter fun r => s2.stp.s.toNat < r.s.toNat },
      job := { s2.job with replayPos := 0, tokens := s2.job.tokens.filter fun t => s2.stp.s.toNat < t.s.toNat },
      mon := { s2.mon with evc := { s2.mon.evc with live := false } } }
    let s4 := s3.boundaryWork
    .next (if s4.job.st = .loaded ∧ ¬ s4.restorable s4.stp.lost then s4.rollback else s4)

/-! Restore (R305). -/

/-- Write bytes into a handle's view, in linear logical order. -/
def State.fillView (s : State) (h : W16) (bs : List Byte) : State :=
  let d := s.desc h
  let v := leNat bs
  let codes := (List.range d.count).map fun n =>
    (d.at n, if d.ebits % 8 = 0 then leAt bs (n * (d.ebits / 8)) (d.ebits / 8) else bitsAt v (n * d.ebits) d.ebits)
  writeRuns s d.cvp (codeRuns s.mem (s.basePhys d) d codes)

/-- Kelgil's step state takes another's place (R305, R309, R318): the group records whole, with their schedules; the scale records that the
controller has written, and the others as the load wrote them (R212). Carried values
enter the first vote of a step only (R316). -/
def State.loadStep (s : State) (e : StepState) : State :=
  let s1 := { s with
    stp := { s.stp with s := e.s, a := e.a, first := true, carried := e.carried, charges := [] },
    scc := { s.scc with consec := e.consec },
    job := { s.job with scales := e.scales, layers := e.layers, replayPos := e.consec },
    mem := memWrite s.mem scaleTable s.job.scaleImg, stepBase := e.s.setWidth 16, stepFirst := e.s, fws := [], fwsAt := [], lws := [] }
  let grp := fun (t : State) (g : Fin 64 × List Byte × List Byte) =>
    { t with mem := memWrite (memWrite t.mem (updTable + 64 * g.1.val) (g.2.1.take 64)) (updTable + 0x1000 + 4096 * g.1.val) (g.2.2.take 4096) }
  let ls := fun (t : State) (l : Nat × Nat × W32) =>
    { t with mem := memWrite t.mem (layerRec l.1) (leBytes 4 (l.2.1 % 128) ++ leBytes 4 l.2.2.toNat) }
  let s2 : State := e.ls.foldl ls (e.groups.foldl grp s1)
  let s3 : State := (e.scales.filter fun m => m.written).foldl (fun t m => t.putScaleRec m.sh m.t) s2
  let cnt := fun (t : State) (k : CoreId) =>
    match (t.logical k).bind fun n => e.counts.find? fun c => c.1 = n with
    | some c => let m := SMap.setList 0 [] 0 c.2; t.modCore k fun x => { x with lcnt := m, lcntRec := m }
    | none => t
  (s3.usedCores.foldl cnt s3).writeGexp

/-- The module a lost one is restored from: in the lowest REPMASK dimension with more than one position the + neighbour,
then the - neighbour, then the same in each higher one. -/
def State.sourceOf (s : State) (m : Nat) : Option Nat :=
  let mask := match s.job.man with | some x => x.pipe.repmask | none => 0
  let c := coordsOf m
  ((List.range 4).filter fun d => bitAt mask d && decide (1 < s.lnk.extents.getD d 1)).findSome? fun d =>
    let n := s.lnk.extents.getD d 1
    let p := c.getD d 0
    [idOf (c.set d ((p + 1) % n)), idOf (c.set d ((p + n - 1) % n))].find? fun i => ! s.stp.lost.contains i

/-- What a source sends of a restore (R305): the state list's handles, then the step state. -/
def State.restoreData (s : State) : List Byte :=
  let hs := match s.job.man with | some m => m.stateList | none => []
  hs.flatMap (fun h => s.viewBytes (s.desc h)) ++ stepBytes (s.stepState [])

/-- The source sends it to the modules that it is the source of, in control frames of 240 bytes (log 155). -/
def State.sendRestore (s : State) : State :=
  let to' := s.stp.lost.filter fun m => s.sourceOf m = some s.lnk.self.toNat
  let bs := s.restoreData
  let pieces := (List.range ((bs.length + 239) / 240)).map fun i => slice bs (240 * i) 240
  to'.foldl (fun t m => pieces.foldl (fun u x => u.sendCtl (BitVec.ofNat 16 m) (.restore x)) t) s

/-- REPLICA_RESTORE (R305): on a replacement, whose job is loaded and has run no attempt, the state list and the step state
arrive, and its outputs go on under the job nonce recorded (R346), each slot with its next record number (R353); the source sends them; on
the others the pod is whole again. A source lost meanwhile is lost too, and the restore starts over with the next candidate, or the job rolls
back. A module that is itself lost comes back only by a restart. -/
def execReplicaRestore (e : RestoreEnv) (s : State) : Host.Outcome State Fault Refusal :=
  let whole : Bool := match s.stp.phase with | .restore => true | .between | .redo => ! s.stp.lost.isEmpty | _ => false
  if s.job.st ≠ .loaded then .next s
  else if whole then
    if s.stp.lost.contains s.lnk.self.toNat then .next s
    else if ¬ e.lost.isEmpty then
      let s1 := { s with stp := { s.stp with lost := (s.stp.lost ++ e.lost).eraseDups } }
      .next (if s1.restorable s1.stp.lost then s1 else s1.rollback)
    else
      let src := s.stp.lost.any fun m => s.sourceOf m = some s.lnk.self.toNat
      let s0 := if src then s.sendRestore else s
      let s1 := { s0 with stp := { s0.stp with lost := [], phase := if s0.stp.phase = .between then .between else .redo } }
      .next (if src then s1.event evRestore s.lnk.self.toNat else s1)
  else if s.stp.phase = .between ∧ s.stp.a = 0 ∧ s.stp.lastOut.isNone ∧ e.lost.isEmpty then
    let s1 := s.loadStep e.step
    let s2 : State := e.records.foldl (fun t r => t.fillView r.handle r.bytes) s1
    .next ({ s2 with stp := { s2.stp with phase := .redo }, job := { s2.job with nonce := some e.step.nonce, seqs := e.step.seqs } }.event evRestore ((s2.sourceOf s2.lnk.self.toNat).getD 0))
  else .next s

end Sys2Proof.Machine
end

