-- ==== Sys2Proof/Machine/Jobs.lean ====
section
/-! DEFINITION. The owner's messages to a running job (R241, R292-R295, R320, R349, R354) and RESUME. -/

namespace Sys2Proof.Machine

open Sys2Proof

/-! Token manifests. -/

/-- Do the micro-batch numbers run exactly from 0 to MBATCH - 1. -/
def batchOk (n : Nat) (es : List TokEntry) : Bool :=
  es.length = n && es.all (fun e => decide (e.mb.toNat < n)) && ((es.map (·.mb)).eraseDups).length = n

/-- The runs of every module fit (R293, R295): none longer than RUNMAX, the slots of one module at most NSLOT. -/
def State.runsFit (s : State) (p : Pipe) (es : List TokEntry) : Bool :=
  let c := s.maskCount p.cpmask
  (List.range (s.maskCount p.repmask)).all fun rank => (List.range c).all fun r =>
    let ls := (runsOf p c r rank es).map fun x => x.2.length
    ls.all (fun n => decide (n ≤ p.runmax)) && decide (ls.foldl (· + ·) 0 ≤ p.nslot)

/-- The chunk list (R349). -/
def State.chunksOk (s : State) (cs : List ChunkEntry) : Bool :=
  cs.all (fun c => s.roleOf c.slot.toNat = 1 && decide (17 ≤ c.clen.toNat ∧ c.clen.toNat ≤ 4194320 ∧ c.buf.toNat ≤ 63) && c.rsvdOk)
    && ((cs.map (·.buf)).eraseDups).length = cs.length

/-- Does a token manifest pass R293 and R349. -/
def State.tokenManOk (s : State) (m : Manifest) (c : TokenMsg) : Bool :=
  decide (s.stp.s.toNat ≤ c.s.toNat ∧ c.s.toNat ≤ s.stp.s.toNat + 64) && batchOk m.pipe.mbatch c.entries
    && c.entries.all (fun e => decide (e.rank.toNat < s.maskCount m.pipe.repmask ∧ 1 ≤ e.len ∧ e.len ≤ 2097152))
    && s.runsFit m.pipe c.entries && s.chunksOk c.chunks && ! s.job.tokens.any fun t => t.s = c.s

/-- Put a token manifest among others by step. -/
def insTok (t : TokMan) : List TokMan → List TokMan
  | [] => [t]
  | x :: xs => if t.s.toNat < x.s.toNat then t :: x :: xs else x :: insTok t xs

/-- What a token manifest brings. -/
def doTokenManifest (c : TokenMsg) (s : State) : State × Answer :=
  match s.job.man with
  | none => (s, .no stState)
  | some m =>
    if s.job.st ≠ .loaded then (s, .no stState)
    else if ¬ s.tokenManOk m c then (s, .refuse 0)
    else
      let t : TokMan := ⟨c.s, 0, c.entries, c.chunks, c.raw⟩
      ({ s with job := { s.job with tokens := insTok t s.job.tokens } }.record recToken c.raw, .ok)

/-- TOKEN_MANIFEST as it is acted on: refused at D2 and above (R368). -/
def tokenGate (m : Mb) (e : Envelope) (c : TokenMsg) (s : State) : State × Answer :=
  if s.sec.dlevel ≥ 2 then s.ownAnswer m 0x0052 (.no stDebug) else ownGate m 0x0052 e (doTokenManifest c) s

/-- TOKEN_MANIFEST. -/
def execTokenManifest (m : Mb) (e : Envelope) (c : TokenMsg) (s : State) : Host.Outcome State Fault Refusal :=
  .next (s.parkRequest m 0x0052 false (.tokenManifest m e c) (tokenGate m e c))

/-! Group updates, audits, checkpoints. Each takes effect at the next step boundary. -/

/-- The recorded message that one received in a replay is (R327): the first of the same bytes that has not been applied and whose step
is not past, by its place. -/
def State.mailOf (s : State) (type : Nat) (bs : List Byte) : Option (Nat × W64) :=
  match s.job.man with
  | some m =>
    if m.replay then
      (m.mails.zipIdx.find? fun (x : (W64 × List Byte) × Nat) =>
        decide (x.1.2 = leBytes 2 type ++ bs ∧ (s.stp.s + 1).toNat ≤ x.1.1.toNat) && ! s.job.mailsDone.contains x.2).map fun (x : (W64 × List Byte) × Nat) => (x.2, x.1.1)
    else none
  | none => none

/-- The step counter at which a message takes effect: the next, and in a replay the recorded one (R327). -/
def State.effectStep (s : State) (type : Nat) (bs : List Byte) : W64 := ((s.mailOf type bs).map (·.2)).getD (s.stp.s + 1)

/-- A message is accepted: its recorded one has been applied, and it has an entry of its own (R324, R327). -/
def State.mailed (s : State) (type : Nat) (bs : List Byte) (entry : List Byte) : State :=
  { s with job := { s.job with mailsDone := s.job.mailsDone ++ ((s.mailOf type bs).map Prod.fst).toList } }.record recMailbox entry

/-- The payload of a MAILBOX entry (R324; log 43): the step counter at which the message takes effect, and the message as received. -/
def mailEntry (e : Envelope) (at' : W64) (bs : List Byte) : List Byte :=
  leBytes 8 at'.toNat ++ envBytes e ++ bs ++ sized 1280 e.sig

/-- The fields of a group update in bytes. -/
def updBytes (u : GroupUpd) : List Byte :=
  let w := fun (v : Option W32) => match v with | some x => leBytes 1 1 ++ leBytes 4 x.toNat | none => leBytes 1 0
  let ks := match u.knots with
    | some l => leBytes 2 l.length ++ l.flatMap fun k => leBytes 8 k.sk.toNat ++ leBytes 4 k.lr.toNat ++ leBytes 4 k.wd.toNat
    | none => leBytes 2 0
  leBytes 1 u.group.val ++ leBytes 1 (match u.frozen with | none => 0 | some false => 1 | some true => 2) ++ w u.beta1 ++ w u.omb1
    ++ w u.beta2 ++ w u.omb2 ++ w u.eps ++ ks

/-- Does a group keep to R239 in a state. -/
def State.groupValid (s : State) (g : Nat) : Bool :=
  let v := s.groupRec g
  groupOk v ((List.range (bitsAt v 2 8 + 1)).map fun k => s.knot g k)

/-- What a group update brings (R239, R241): it is checked as it will be applied, after those that wait before it. -/
def doGroupUpdate (m : Mb) (env : Envelope) (c : List GroupUpd) (s : State) : State × Answer :=
  if s.job.st ≠ .loaded then (s, .no stState)
  else
    let t : State := (s.job.queued.flatMap (·.2.2) ++ c).foldl State.applyGroup s
    let e := s.effectStep 0x0053 (c.flatMap updBytes)
    let len := c.all fun u => match u.knots with | some l => decide (1 ≤ l.length ∧ l.length ≤ 256) | none => true
    if ¬ len ∨ ¬ c.all (fun u => t.groupValid u.group.val) then (s, .refuse 0)
    else
      let s1 := s.mailed 0x0053 (c.flatMap updBytes) (mailEntry env e (c.flatMap updBytes))
      ({ s1 with job := { s1.job with queued := s1.job.queued ++ [(m.seq, e, c)] } }, .ok)

/-- GROUP_UPDATE. -/
def execGroupUpdate (m : Mb) (e : Envelope) (c : List GroupUpd) (s : State) : Host.Outcome State Fault Refusal :=
  .next (s.parkRequest m 0x0053 false (.groupUpdate m e c) (ownGate m 0x0053 e (doGroupUpdate m e c)))

/-- A capture point in bytes (R320). -/
def pointBytes (p : CapPoint) : List Byte :=
  leBytes 8 p.s.toNat ++ leBytes 4 p.tag.toNat ++ leBytes 2 p.handle.toNat ++ leBytes 2 (if p.full then 1 else 0)
    ++ (iter4 p.iter).flatMap fun i => leBytes 4 i.toNat

/-- What an audit request brings (R320). -/
def doAudit (m : Mb) (env : Envelope) (c : List CapPoint) (s : State) : State × Answer :=
  match s.job.st, s.job.prog with
  | .loaded, some p =>
    let ok := fun (x : CapPoint) => x.handle ≠ 0 && decide (x.handle.toNat < p.nhandle) && (s.desc x.handle).cls ≠ 1
    if 256 < c.length ∨ ¬ c.all ok then (s, .refuse 0)
    else
      let e := s.effectStep 0x0054 (c.flatMap pointBytes)
      let s1 := s.mailed 0x0054 (c.flatMap pointBytes) (mailEntry env e (c.flatMap pointBytes))
      ({ s1 with job := { s1.job with audits := s1.job.audits ++ [(m.seq, e, c)] } }, .ok)
  | _, _ => (s, .no stState)

/-- AUDIT. -/
def execAudit (m : Mb) (e : Envelope) (c : List CapPoint) (s : State) : Host.Outcome State Fault Refusal :=
  .next (s.parkRequest m 0x0054 false (.audit m e c) (ownGate m 0x0054 e (doAudit m e c)))

/-- What a checkpoint request brings (R354): at the next boundary; at once from a job that has stopped (R217). -/
def doCheckpoint (env : Envelope) (s : State) : State × Answer :=
  if s.job.st ≠ .loaded ∧ s.job.st ≠ .stopped then (s, .no stState)
  else if s.outSize < s.ckptUnits then (s, .refuse 2)
  else
    let e := if s.job.st = .stopped then s.stp.s else s.effectStep 0x0055 []
    let s1 := s.mailed 0x0055 [] (mailEntry env e [])
    if s.job.st = .stopped then (s1.checkpoint, .ok) else ({ s1 with stp := { s1.stp with ckptDue := s1.stp.ckptDue ++ [e] } }, .ok)

/-- CHECKPOINT. -/
def execCheckpoint (m : Mb) (e : Envelope) (s : State) : Host.Outcome State Fault Refusal :=
  .next (s.parkRequest m 0x0055 false (.checkpoint m e) (ownGate m 0x0055 e (doCheckpoint e)))

/-! RESUME. -/

/-- A record of a RESUME message opened (R354): the handle and plaintext of one of a TYPE of the CHECKPOINT slot. -/
def State.ckptRecord (s : State) (kind : Nat) (r : List Byte) : Option (W16 × List Byte) :=
  (s.openRecord r).bind fun x => if x.1 = kind ∧ s.roleOf x.2.1 = 3 then some (x.2.2.1, x.2.2.2) else none

/-- The record of a RESUME message that fails, by its place in the message: one of TYPE 2 that does not open; the TYPE 4 record, behind
them, where it is not that of the step state, its digests are not theirs, or a handle of the state list has none. -/
def State.resumeBad (s : State) (m : Manifest) (c : ResumeMsg) : Option Nat :=
  let rs := c.records.map (s.ckptRecord 2)
  let all := rs.filterMap id
  let dg := (c.records.zip all).map fun x => (x.2.1, digestOf x.1)
  (rs.findIdx? fun r => r.isNone).or
    (if (s.ckptRecord 4 c.last).map (·.2) = some (stepBytes c.step) ∧ c.step.digests = dg ∧ m.stateList.all (fun h => all.any fun x => x.1 = h)
      then none else some c.records.length)

/-- What RESUME brings (R306, R354): into a job that has run no attempt, or that is rolled back. A record that fails is refused as a
chunk is (R350): the notification names it, and the host stages it again; nothing else changes. -/
def doResume (c : ResumeMsg) (s : State) : State × Answer :=
  match s.job.man with
  | none => (s, .no stState)
  | some j =>
    let fresh := s.stp.phase = .between && s.stp.lastOut.isNone
    if s.sec.sstate ≠ .owned ∨ s.releasing ∨ s.job.st ≠ .loaded ∨ s.sec.pstate = 2 ∨ ¬ (fresh ∨ s.stp.phase = .rollback) then (s, .no stState)
    else
      match s.resumeBad j c with
      | some n => (s.notify 0x0002 [s.stepField.toNat, n], .refuse 0)
      | none =>
        let rs := c.records.filterMap (s.ckptRecord 2)
        let t1 := s.loadStep c.step
        let t2 : State := j.stateList.foldl (fun u h => u.fillView h ((rs.filter fun r => r.1 = h).flatMap (·.2))) t1
        ({ t2 with stp := { t2.stp with phase := .between, lost := [] }, job := { t2.job with ckpt := true } }, .ok)

/-- RESUME where the read of its staged records may have to wait. -/
def resumeAt (m : Mb) (c : ResumeMsg) : State → State × Answer := whenFree (fun t => [t.stagePiece]) (.resume m c) (doResume c)

/-- RESUME. -/
def execResume (m : Mb) (c : ResumeMsg) (s : State) : Host.Outcome State Fault Refusal := .next (s.request m 0x0056 false (resumeAt m c))

end Sys2Proof.Machine
end

