-- ==== Sys2Proof/Machine/Park.lean ====
section
/-! DEFINITION. Parking and unparking (R369, R370, R375), the messages that Tolval signs (R341, R361), and the training of
LPDDR5X channels (R155). -/

namespace Sys2Proof.Machine

open Sys2Proof

/-! Limits and unpark. -/

/-- Is the module under a limit (R447, R451): DUTY below 64, or a level in force. -/
def Blw.limited (b : Blw) : Bool := decide (b.duty < 64 ∨ 1 ≤ b.level)

/-- P0 and P1 follow the limits of Bellows (R369). -/
def State.limitState (s : State) : State :=
  if s.sec.pstate < 2 then s.setStates s.sec.sstate s.sec.dlevel (if s.blw.limited then 1 else 0) else s

/-- A message that waited in P2 is acted on (R370). -/
def State.lateMsg (s : State) (i : Instr) : State :=
  match i with
  | .install m e c => s.lateRequest m 0x0041 (doInstall m e c)
  | .ownerKey m h => s.lateRequest m 0x0042 (doOwnerKey h)
  | .release m e => s.lateRequest m 0x0043 (doRelease m e)
  | .keyTable m c po => s.lateRequest m 0x0045 (keyTableAt m c po)
  | .jobLoad m e body po => s.lateRequest m 0x0050 (jobLoadAt m e body po)
  | .tokenManifest m e c => s.lateRequest m 0x0052 (tokenGate m e c)
  | .groupUpdate m e c => s.lateRequest m 0x0053 (ownGate m 0x0053 e (doGroupUpdate m e c))
  | .audit m e c => s.lateRequest m 0x0054 (ownGate m 0x0054 e (doAudit m e c))
  | .checkpoint m e => s.lateRequest m 0x0055 (ownGate m 0x0055 e (doCheckpoint e))
  | .siteConfig m e c => s.lateRequest m 0x0030 (doSiteConfig m e c)
  | .jobUnload m => s.lateRequest m 0x0051 (doJobUnload m)
  | _ => s

/-- P2 ends (R369): P0, or P1 under a limit; the watchdog counts anew, and the messages that waited are acted on in order. -/
def State.unpark (s : State) : State :=
  if s.sec.pstate ≠ 2 then s
  else
    let s1 := (s.setStates s.sec.sstate s.sec.dlevel 0).limitState
    let q := s1.sec.ownMsgs
    let s2 := { s1 with sec := { s1.sec with ownMsgs := [] }, rst := { s1.rst with wdogMs := 0 } }
    q.foldl State.lateMsg s2

/-- PARK (R369, R370, R375): at once, at the end of the current step, or after a scrub; refused at D2 or D3. -/
def execPark (m : Mb) (s : State) : Host.Outcome State Fault Refusal :=
  .next (s.request m 0x0060 false fun t =>
    if t.sec.pstate ≥ 2 then (t, .no stState)
    else if t.sec.dlevel ≥ 2 then (t, .no stDebug)
    else
      let u := { t with sec := { t.sec with parkReq := true } }
      (if u.job.st ≠ .loaded ∨ u.idleJob then u.parkDue else u, .ok))

/-- UNPARK (R369). A park that still waits is withdrawn. -/
def execUnpark (m : Mb) (s : State) : Host.Outcome State Fault Refusal :=
  .next (s.request m 0x0061 false fun t =>
    if t.sec.pstate = 2 then (t.unpark, .ok)
    else if t.sec.parkReq then ({ t with sec := { t.sec with parkReq := false } }, .ok)
    else (t, .no stState))

/-! Messages signed by Tolval. -/

/-- RECLAIM (R341, R361): from OWNED or QUARANTINE, out of P2 first. -/
def execReclaim (m : Mb) (e : Envelope) (s : State) : Host.Outcome State Fault Refusal :=
  .next (s.request m 0x0044 true fun t =>
    if (t.sec.sstate ≠ .owned ∧ t.sec.sstate ≠ .quarantine) ∨ t.releasing then (t, .no stState)
    else if ¬ t.vendorOk e then (t, .no stSig)
    else (t.unpark.unloadFor (.reclaim m.seq), .later))

/-- FACTORY_ENTRY (R361): from OPEN. -/
def execFactoryEntry (m : Mb) (e : Envelope) (s : State) : Host.Outcome State Fault Refusal :=
  .next (s.request m 0x0046 false fun t =>
    if t.sec.sstate ≠ .open' then (t, .no stState)
    else if ¬ t.vendorOk e then (t, .no stSig)
    else (t.unpark.startTrans (.factoryEntry m.seq), .later))

/-- FACTORY_EXIT (R361): from FACTORY, at any debug level (R375). -/
def execFactoryExit (m : Mb) (e : Envelope) (s : State) : Host.Outcome State Fault Refusal :=
  .next (s.request m 0x0047 false fun t =>
    if t.sec.sstate ≠ .factory then (t, .no stState)
    else if ¬ t.vendorOk e then (t, .no stSig)
    else (t.unpark.startTrans (.factoryExit m.seq), .later))

/-! Training of LPDDR5X. -/

/-- LPDDR_RETRAIN (R155): queued, never refused; it runs at a step boundary. A second request for a channel that waits is the one that
waits (DESIGN CHOICE, log 97). -/
def execLpddrRetrain (channel : Fin 64) (s : State) : Host.Outcome State Fault Refusal :=
  if ¬ s.rst.dieUp ∨ s.sec.pstate ≥ 3 then .next s
  else
    let q := s.mm.retrainQ
    .next { s with mm := { s.mm with retrainQ := if q.contains channel.val then q else q ++ [channel.val] } }.startRetrain

/-- LPDDR_REFRESH (R155): refresh is upkeep of the controllers, and no byte changes by it. -/
def execLpddrRefresh (s : State) : Host.Outcome State Fault Refusal := .next s

end Sys2Proof.Machine
end

