-- ==== Sys2Proof/Machine/Bellows.lean ====
section
/-! DEFINITION. Bellows: sensors (R449), grant (R446), duty (R447, R448), coolant valve (R450), causes (R451), hold-up store
(R452), the events that meet (R455). -/

namespace Sys2Proof.Machine

open Sys2Proof

/-! Measures. -/

/-- Usable energy of the store in 0.01 J: 0.25 (V² - 36) J with V from the bank voltage in mV (R452). -/
def Blw.ebank (b : Blw) : Nat := 25 * (b.vbank ^ 2 - 36000000) / 1000000

/-- Is a cause in force. -/
def Blw.inForce (b : Blw) (c : Nat) : Bool := b.causes.contains c

/-- Does a cause that lowers the cap step by step hold: TJ1, TIN or TOUT. -/
def Blw.steps (b : Blw) : Bool := b.inForce 1 || b.inForce 4 || b.inForce 5

/-- The cap of the grant (R446, R451). -/
def Blw.cap (b : Blw) : Nat :=
  let p := b.lim.pinMax
  let c1 := if b.recharge then p - 85 else p
  let c2 := if b.cap1 = 0 then c1 else min c1 b.cap1
  let c3 := if b.inForce 8 then min c2 1500 else c2
  if b.level = 2 then min c3 900 else c3

/-- PCAPPED (R446): the cap holds the grant below PREQ. -/
def Blw.pcapped (b : Blw) : Bool := decide (b.cap < b.preq)

/-! Causes. -/

/-- Replace Bellows. -/
def State.setBlw (s : State) (b : Blw) : State := { s with blw := b }

/-- Kelgil reports a DUTY below 64 to the coordinator, once for each lower value of an attempt (R448). -/
def State.reportDuty (s : State) : State :=
  let on : Bool := match s.stp.phase with | .running | .voted => true | _ => false
  if s.job.st ≠ .loaded ∨ ¬ on ∨ s.stp.duties.foldl min 64 ≤ s.blw.duty then s
  else
    let s1 := { s with stp := { s.stp with duties := s.stp.duties ++ [s.blw.duty] } }.retime
    if s.coordinator = s.lnk.self.toNat then s1 else s1.sendCtl (BitVec.ofNat 16 s.coordinator) (.duty s.lnk.self s.blw.duty)

/-- A cause comes into force, with the response of its level (R451, R455). During a hold it is recorded and no more; an emergency in P2
unparks first (R375). -/
def State.addCause (s : State) (c : Nat) : State :=
  let b := s.blw
  if ¬ b.powered ∨ b.inForce c then s
  else
    let b1 := { b with causes := b.causes ++ [c] }
    if causeLevel c = 3 then
      (s.setBlw { b1 with last3 := c, l3 := hold16 b.l3 1, lock3 := some b.ms }).unpark.inputLost
    else if s.sec.pstate = 3 then s.setBlw b1
    else if causeLevel c = 2 then
      ((s.setBlw { b1 with l2 := hold16 b.l2 1, duty := 32 }).unpark.limitState).reportDuty
    else (s.setBlw b1).limitState

/-- Add the causes of a list whose conditions hold. -/
def State.addCauses (s : State) (l : List (Nat × Bool)) : State := l.foldl (fun t x => if x.2 then t.addCause x.1 else t) s

/-! Sensors. -/

/-- Two readings that differ by more than 20 °C. -/
def apart (a b : Int) : Bool := decide (2000 < (a - b).natAbs)

/-- Is a die sensor valid: it agrees with one neighbour at least; an end sensor has one neighbour. -/
def dieValid (l : List Int) (i : Nat) : Bool :=
  match l[i]? with
  | none => false
  | some x =>
    let near := (if i = 0 then [] else l[i - 1]?.toList) ++ l[i + 1]?.toList
    near.isEmpty || near.any fun y => ! apart x y

/-- The hottest of the valid sensors, with its index; the lowest index among equals. -/
def hottest (l : List Int) : Option (Int × Nat) :=
  (l.zipIdx.filter fun x => dieValid l x.2).foldl (fun (a : Option (Int × Nat)) (x : Int × Nat) =>
    match a with
    | some y => if y.1 < x.1 then some x else a
    | none => some x) none

/-- Is a PT1000 reading, in 0.01 Ω without its leads, out of range (R449). -/
def ptBad (r lead : Nat) : Bool := decide (r < 90000 + lead ∨ 150000 + lead < r)

/-- The resistance of a PT1000 sensor at `t` hundredths of a degree, in 10^-20 Ω: the curve of IEC 60751 (R449; log 44). -/
def ptCurve (t : Int) : Int :=
  10 ^ 23 + 3908300000000000000 * t - 5775000000000 * t ^ 2 - (if t < 0 then 4183 * (t - 10000) * t ^ 3 else 0)

/-- Halve an interval in which a temperature is sought `n` times: the curve is at most `r` at `lo`. -/
def ptSearch (r : Int) : Nat → Int → Int → Int
  | 0, lo, _ => lo
  | n + 1, lo, hi =>
    let m := (lo + hi) / 2
    if ptCurve m ≤ r then ptSearch r n m hi else ptSearch r n lo m

/-- The temperature, in 0.01 °C, that a resistance in 0.01 Ω less its leads stands for: the highest at which the curve does not exceed
it, from -50 °C to 200 °C. -/
def ptTemp (r lead : Nat) : Int := ptSearch (((r : Int) - lead) * 10 ^ 18) 15 (-5000) 20000

/-- Is the core rail where a ramp of it ends (R443): within 3 % of 0.75 V, or removed. -/
def rampDone (mv : Nat) (off : Bool) : Bool := if off then mv = 0 else decide (728 ≤ mv ∧ mv ≤ 772)

/-- The readings of a scan in the registers (R443, R449, R452, R456); `on` in P0 and P1, `off` in P4. -/
def Blw.scan (b : Blw) (v : Sensors) (on off : Bool) : Blw :=
  let die := v.die.take 32
  let h := (hottest die).getD (b.tj, b.tjsens)
  let b1 := { b with
    vin := v.vin, iin := v.iin, pin := v.pin, vcore := v.vcore, icore := v.icore, vpos := v.vpos, vbank := v.vbank,
    ramp := b.ramp && ! rampDone v.vcore off, tin := ptTemp v.rin b.lim.rlIn, tout := ptTemp v.rout b.lim.rlOut,
    tinBad := ptBad v.rin b.lim.rlIn, toutBad := ptBad v.rout b.lim.rlOut, toutOut := b.toutOut || ptBad v.rout b.lim.rlOut,
    tj := h.1, tjsens := h.2,
    nvalid := ((List.range die.length).filter (dieValid die)).length }
  { b1 with recharge := on && (decide (b1.ebank < 3950) || (b.recharge && decide (b1.ebank < 4000))) }

/-- SENSOR_SCAN (R449): readings, then the causes that need no time: die and coolant sensors, die temperature. -/
def execSensorScan (v : Sensors) (s : State) : Host.Outcome State Fault Refusal :=
  if v.vin > vinRating then .fault .overRating
  else if ¬ s.blw.powered then .next s
  else
    let b := s.blw.scan v (decide (s.sec.pstate < 2)) (decide (s.sec.pstate = 4))
    let l := b.lim
    .next ((s.setBlw { b with shown := true }).addCauses
      [(8, b.tinBad || b.toutBad), (9, decide (b.nvalid < 16)), (1, decide ((l.tj1 : Int) ≤ b.tj)), (2, decide ((l.tj2 : Int) ≤ b.tj)),
       (3, decide ((l.tj3 : Int) ≤ b.tj))])

/-! Grant. -/

/-- BLW_PREQ (R446, R457): the last value of a period counts. -/
def State.preqWrite (s : State) (v : W32) : State := s.setBlw { s.blw with preq := bitsAt v.toNat 0 16 }

/-- BLW_PREQ. -/
def execBlwPreq (value : W32) (s : State) : Host.Outcome State Fault Refusal :=
  if ¬ s.rst.dieUp ∨ s.sec.pstate ≥ 3 then .next s else .next (s.preqWrite value)

/-- The cap that TJ1, TIN or TOUT has brought down rises at RAMPUP once none of them is in force (R451). -/
def Blw.riseCap (b : Blw) : Blw :=
  if b.cap1 = 0 then b
  else if b.steps then { b with capRise := 0 }
  else
    let f := b.capRise + b.lim.rampUp
    let c := b.cap1 + f / 1000
    if b.lim.pinMax ≤ c then { b with cap1 := 0, capRise := 0 } else { b with cap1 := c, capRise := f % 1000 }

/-- The lead of a rise of the request, and the request that the grant may rise to (R446, R455): a rise starts a lead unless a ramp or a lead
runs; what the cap does to the grant leaves a lead as it is. -/
def Blw.leads (b : Blw) : Nat × Nat :=
  let ramping := b.lead = 0 && decide (b.grant < min b.preqWas b.cap)
  let ok := min b.preqOk b.preq
  if b.lead ≠ 0 then (if b.preq ≤ ok then 0 else b.lead - 1, ok)
  else if b.preqWas < b.preq ∧ ¬ ramping ∧ b.lim.grantLead ≠ 0 then (b.lim.grantLead - 1, ok)
  else (0, b.preq)

/-- One computation of the grant (R446, R455). A fall of the request or of the cap acts at once; a rise goes at RAMPUP. -/
def Blw.regrant (b : Blw) : Blw :=
  let l := b.leads
  let goal := min (max l.2 (min b.preq b.grant)) b.cap
  let b1 := { b with preqWas := b.preq, lead := l.1, preqOk := l.2 }
  if goal ≤ b.grant then { b1 with grant := goal, frac := 0 }
  else
    let f := b.frac + b.lim.rampUp
    let g := b.grant + f / 1000
    if goal ≤ g then { b1 with grant := goal, frac := 0 } else { b1 with grant := g, frac := f % 1000 }

/-- GRANT_TICK (R446): one millisecond, in which the model also counts the time that other rules measure: the watchdog (R470), the
resynchronisation of a core (R467), the staging of a Bellows image (log 165); Bellows updates its registers (R456). -/
def execGrantTick (s : State) : Host.Outcome State Fault Refusal :=
  if ¬ s.blw.powered then .next s
  else
    let s1 := { s with blw := { s.blw with ms := s.blw.ms + 1, shown := true }, hif := { s.hif with blwWriting := false } }
    if s1.sec.pstate ≥ 3 then .next s1
    else
      let w := s1.rst.wdogOn ∧ s1.sec.pstate < 2
      let s2 := { s1 with rst := { s1.rst with wdogMs := if w then s1.rst.wdogMs + 1 else s1.rst.wdogMs } }
      .next ((s2.setBlw s2.blw.riseCap.regrant).resynced.limitState)

/-- TJ1_CAP_REDUCTION (R451): 100 ms more of TJ1, TIN or TOUT. -/
def execTj1CapReduction (s : State) : Host.Outcome State Fault Refusal :=
  let b := s.blw
  if ¬ b.powered ∨ ¬ b.steps ∨ s.sec.pstate ≥ 3 then .next s
  else .next (s.setBlw { b with cap1 := max 900 (b.cap - b.lim.pinMax / 10), capRise := 0 })

/-! Duty. -/

/-- One millisecond of the duty (R447). -/
def Blw.reduty (b : Blw) (pin : Nat) : Blw :=
  let o := if 102 * b.grant < 100 * pin then b.overMs + 1 else 0
  let b1 := { b with pin := pin, overMs := o }
  if b.lim.pPeakT < o ∨ b.lim.pPeak < pin then { b1 with duty := if b.duty < 12 then 8 else b.duty - 4, lowMs := 0 }
  else if 100 * pin < 95 * b.grant then
    if 10 ≤ b.lowMs + 1 then { b1 with duty := min 64 (b.duty + 1), lowMs := 0 } else { b1 with lowMs := b.lowMs + 1 }
  else { b1 with lowMs := 0 }

/-- DUTY_TICK (R447, R448, R451): with DUTY already at 8, a PIN above PPEAK is the cause PIN_OVER. -/
def execDutyTick (pin : Nat) (s : State) : Host.Outcome State Fault Refusal :=
  if ¬ s.blw.powered ∨ s.sec.pstate ≥ 3 then .next s
  else
    let was := s.blw.duty
    let s1 := s.setBlw (s.blw.reduty pin)
    if was ≤ 8 ∧ s.blw.lim.pPeak < pin then .next (s1.addCause 10)
    else .next (s1.limitState.reportDuty)

/-! Coolant. -/

/-- The control law (R450), with C's division. A failed outlet sensor's term is left out while the cause
holds (R451). -/
def Blw.control (b : Blw) : Blw :=
  let l := b.lim
  let vmin : Int := l.vMin
  let pavg := b.pavg + ((b.pin : Int) - b.pavg).tdiv 100
  let pff := min (max (b.preq : Int) pavg) l.pinMax
  let ff := vmin + ((10000 - vmin) * pff).tdiv l.pinMax
  let ej := b.tj - l.tjSet
  let e := if b.toutBad ∨ b.toutOut then ej else max ej (b.tout - ((l.toutMax : Int) - 500))
  let p := ((l.kp : Int) * e).tdiv 100
  let u0 := ff + p + b.integ.tdiv 1000
  let sat := (decide (10000 ≤ u0) && decide (0 < e)) || (decide (u0 ≤ vmin) && decide (e < 0))
  let integ := if sat then b.integ else clampI (b.integ + ((l.kp : Int) * e).tdiv l.ti) (-10000000) 10000000
  let u := clampI (ff + p + integ.tdiv 1000) vmin 10000
  let u1 := if 1 ≤ b.level ∨ b.inForce 7 ∨ b.inForce 8 ∨ b.inForce 9 then 10000 else u
  let step : Int := ((l.slew / 100 : Nat) : Int)
  { b with pavg := pavg, integ := integ, vcmd := b.vcmd + clampI (u1 - b.vcmd) (-step) step }

/-- VALVE_CONTROL_TICK (R450). -/
def execValveControlTick (s : State) : Host.Outcome State Fault Refusal :=
  if ¬ s.blw.powered then .next s else .next (s.setBlw s.blw.control)

/-- FLOW_COUNT_TICK (R449): pulses of 100 ms; the flow is that of the last second. -/
def execFlowCountTick (pulses : Nat) (s : State) : Host.Outcome State Fault Refusal :=
  if ¬ s.blw.powered then .next s
  else
    let ps := (s.blw.pulses ++ [pulses]).drop (s.blw.pulses.length + 1 - 10)
    .next (s.setBlw { s.blw with pulses := ps, flow := ps.foldl (· + ·) 0 * 1000 / s.blw.lim.kFlow })

/-! Causes that take time, and those of the rails. Each row is the end of the time; the reading must hold the condition. -/

/-- The valve does not follow its command. -/
def Blw.adrift (b : Blw) : Bool := decide (1000 < ((b.vpos : Int) - b.vcmd).natAbs)

/-- TIN (R451). -/
def execTin (s : State) : Host.Outcome State Fault Refusal :=
  if s.blw.tin < s.blw.lim.tinMax ∨ s.blw.tinBad then .next s else .next (s.addCause 4)

/-- TOUT (R451). -/
def execTout (s : State) : Host.Outcome State Fault Refusal :=
  if s.blw.tout < s.blw.lim.toutMax ∨ s.blw.toutBad then .next s else .next (s.addCause 5)

/-- FLOW (R449, R451). -/
def execFlow (s : State) : Host.Outcome State Fault Refusal :=
  if s.blw.lim.flowMin ≤ s.blw.flow ∨ s.blw.vpos < 5000 then .next s else .next (s.addCause 6)

/-- VALVE (R449, R451). -/
def execValve (s : State) : Host.Outcome State Fault Refusal :=
  if ¬ s.blw.adrift then .next s else .next (s.addCause 7)

/-- BANK_LOW (R451), in P0 or P1. -/
def execBankLow (s : State) : Host.Outcome State Fault Refusal :=
  if 2500 ≤ s.blw.ebank ∨ s.sec.pstate ≥ 2 then .next s else .next (s.addCause 12)

/-- ICORE (R442, R451): with the core rail up. -/
def execIcore (s : State) : Host.Outcome State Fault Refusal :=
  if s.sec.pstate ≥ 3 then .next s else .next (s.addCause 11)

/-- BANK_CRIT (R451), with the rails up. -/
def execBankCrit (s : State) : Host.Outcome State Fault Refusal :=
  if 2300 ≤ s.blw.ebank ∨ s.sec.pstate ≥ 3 then .next s else .next (s.addCause 13)

/-- BUS12 (R442, R451), with the rails up. -/
def execBus12 (s : State) : Host.Outcome State Fault Refusal :=
  if s.sec.pstate ≥ 3 then .next s else .next (s.addCause 14)

/-- Code of a cause that clears. -/
def clearCode : BlwCause → Nat
  | .tj1 => 1 | .tj2 => 2 | .tin => 4 | .tout => 5 | .flow => 6 | .valve => 7 | .coolsens => 8 | .diesens => 9 | .bankLow => 12

/-- Is the condition of a cause gone, as its clearing rule has it (R451). -/
def Blw.gone (b : Blw) (c : BlwCause) : Bool :=
  let below := fun (x : Int) (lim : Nat) => decide (x < (lim : Int) - 300)
  match c with
  | .tj1 => below b.tj b.lim.tj1
  | .tj2 => below b.tj b.lim.tj2
  | .tin => below b.tin b.lim.tinMax
  | .tout => below b.tout b.lim.toutMax
  | .flow => decide (b.lim.flowMin ≤ b.flow)
  | .valve => ! b.adrift
  | .coolsens => ! b.tinBad && ! b.toutBad
  | .diesens => decide (16 ≤ b.nvalid)
  | .bankLow => decide (2500 ≤ b.ebank)

/-- CAUSE_CLEAR (R451): each cause clears on its own; the end of an emergency is noted (R435). -/
def execCauseClear (c : BlwCause) (s : State) : Host.Outcome State Fault Refusal :=
  let b := s.blw
  if ¬ b.powered ∨ ¬ b.inForce (clearCode c) ∨ ¬ b.gone c then .next s
  else
    let b1 := { b with causes := b.causes.filter fun x => x ≠ clearCode c, toutOut := b.toutOut && clearCode c ≠ 8 }
    let b2 := { b1 with emergEnd := if 2 ≤ b.level ∧ b1.level < 2 then some b.ms else b.emergEnd }
    .next (s.setBlw b2).limitState

/-- INPUT_SWITCH_RECLOSE (R451): 60 s after a level-3 cause and with TJ 20 °C below TJ1, on a valid input. -/
def execInputSwitchReclose (e : ColdEnv) (s : State) : Host.Outcome State Fault Refusal :=
  if e.vin > vinRating then .fault .overRating
  else
    match s.blw.lock3 with
    | none => .next s
    | some t =>
      if s.blw.ms < t + 60000 ∨ ¬ s.blw.tj < (s.blw.lim.tj1 : Int) - 2000 then .next s
      else .next (s.coldStart e.vin e.capacity e.bankOk)

/-- BELLOWS_WATCHDOG (R455): the valve is driven to 10 V, rails, switch, grant and duty hold; what is counted since Bellows
started begins anew (R456). -/
def execBellowsWatchdog (s : State) : Host.Outcome State Fault Refusal :=
  if ¬ s.blw.powered then .next s
  else .next (s.setBlw { s.blw with vcmd := 10000, last3 := 0, l2 := 0, l3 := 0 })

/-! Pins that the module drives (R493, R494). -/

/-- HOLD_L is low from entry to P3 until the core rail is removed. -/
def State.holdLow (s : State) : Bool := s.sec.pstate = 3

/-- FAULT_L is low while Bellows keeps the module in P4 by its own decision, and while a cause of level 2 or 3 is in force (log 150). -/
def State.faultLow (s : State) : Bool :=
  s.blw.powered && (decide (2 ≤ s.blw.level) || (s.sec.pstate = 4 && (s.blw.lock3.isSome || s.blw.noStart)))

/-- VLV_CMD in mV, 0 to 10 V over the stroke; released while Bellows does not run (R494). -/
def Blw.vlvCmd (b : Blw) : Option Int := if b.powered then some b.vcmd else none

end Sys2Proof.Machine
end

