-- ==== Sys2Proof/Machine/Evlux.lean ====
section
/-! DEFINITION. The Evlux commands (R169-R176): each row is the issue of that command by the command processor of a
core, and where nothing holds it, its dispatch and its engine's effect. -/

namespace Sys2Proof.Machine

open Sys2Proof

/-- MMUL (R85): products into a Tally tile. -/
def execMmul (k : CoreId) (h : Hdr) (c : MmulF) (s : State) : Host.Outcome State Fault Refusal :=
  State.answer (s.issue k (.mmul k h c))

/-- ASWEEP (R74): anchors of a K range. -/
def execAsweep (k : CoreId) (h : Hdr) (c : AsweepF) (s : State) : Host.Outcome State Fault Refusal :=
  State.answer (s.issue k (.asweep k h c))

/-- TZERO (R172): a zero tile. -/
def execTzero (k : CoreId) (h : Hdr) (c : TileMemF) (s : State) : Host.Outcome State Fault Refusal :=
  State.answer (s.issue k (.tzero k h c))

/-- TFILL (R81): a tile from memory. -/
def execTfill (k : CoreId) (h : Hdr) (c : TileMemF) (s : State) : Host.Outcome State Fault Refusal :=
  State.answer (s.issue k (.tfill k h c))

/-- TACCM (R80): T128 partials added from memory. -/
def execTaccm (k : CoreId) (h : Hdr) (c : TileMemF) (s : State) : Host.Outcome State Fault Refusal :=
  State.answer (s.issue k (.taccm k h c))

/-- TSTORE (R82): raw store of a tile. -/
def execTstore (k : CoreId) (h : Hdr) (c : TileMemF) (s : State) : Host.Outcome State Fault Refusal :=
  State.answer (s.issue k (.tstore k h c))

/-- EPI (R94): the epilogue. -/
def execEpi (k : CoreId) (h : Hdr) (c : EpiF) (s : State) : Host.Outcome State Fault Refusal :=
  State.answer (s.issue k (.epi k h c))

/-- GPASS (R99): statistics of a grid tile. -/
def execGpass (k : CoreId) (h : Hdr) (c : GpassF) (s : State) : Host.Outcome State Fault Refusal :=
  State.answer (s.issue k (.gpass k h c))

/-- VADD (R116): a vector command. -/
def execVadd (k : CoreId) (h : Hdr) (c : VecF) (s : State) : Host.Outcome State Fault Refusal :=
  State.answer (s.issue k (.vadd k h c))

/-- VSUB (R116): a vector command. -/
def execVsub (k : CoreId) (h : Hdr) (c : VecF) (s : State) : Host.Outcome State Fault Refusal :=
  State.answer (s.issue k (.vsub k h c))

/-- VMUL (R116): a vector command. -/
def execVmul (k : CoreId) (h : Hdr) (c : VecF) (s : State) : Host.Outcome State Fault Refusal :=
  State.answer (s.issue k (.vmul k h c))

/-- VFMA (R116): a vector command. -/
def execVfma (k : CoreId) (h : Hdr) (c : VecF) (s : State) : Host.Outcome State Fault Refusal :=
  State.answer (s.issue k (.vfma k h c))

/-- VMAX (R117): a vector command. -/
def execVmax (k : CoreId) (h : Hdr) (c : VecF) (s : State) : Host.Outcome State Fault Refusal :=
  State.answer (s.issue k (.vmax k h c))

/-- VMIN (R117): a vector command. -/
def execVmin (k : CoreId) (h : Hdr) (c : VecF) (s : State) : Host.Outcome State Fault Refusal :=
  State.answer (s.issue k (.vmin k h c))

/-- VABS (R117): a vector command. -/
def execVabs (k : CoreId) (h : Hdr) (c : VecF) (s : State) : Host.Outcome State Fault Refusal :=
  State.answer (s.issue k (.vabs k h c))

/-- VNEG (R117): a vector command. -/
def execVneg (k : CoreId) (h : Hdr) (c : VecF) (s : State) : Host.Outcome State Fault Refusal :=
  State.answer (s.issue k (.vneg k h c))

/-- VCMP (R117): a vector command. -/
def execVcmp (k : CoreId) (h : Hdr) (c : VecF) (s : State) : Host.Outcome State Fault Refusal :=
  State.answer (s.issue k (.vcmp k h c))

/-- VSEL (R117): a vector command. -/
def execVsel (k : CoreId) (h : Hdr) (c : VecF) (s : State) : Host.Outcome State Fault Refusal :=
  State.answer (s.issue k (.vsel k h c))

/-- VIADD (R110): a vector command. -/
def execViadd (k : CoreId) (h : Hdr) (c : VecF) (s : State) : Host.Outcome State Fault Refusal :=
  State.answer (s.issue k (.viadd k h c))

/-- VISUB (R110): a vector command. -/
def execVisub (k : CoreId) (h : Hdr) (c : VecF) (s : State) : Host.Outcome State Fault Refusal :=
  State.answer (s.issue k (.visub k h c))

/-- VCVT (R117): a vector command. -/
def execVcvt (k : CoreId) (h : Hdr) (c : VecF) (s : State) : Host.Outcome State Fault Refusal :=
  State.answer (s.issue k (.vcvt k h c))

/-- VEXP2 (R126): a vector command. -/
def execVexp2 (k : CoreId) (h : Hdr) (c : VecF) (s : State) : Host.Outcome State Fault Refusal :=
  State.answer (s.issue k (.vexp2 k h c))

/-- VLOG2 (R127): a vector command. -/
def execVlog2 (k : CoreId) (h : Hdr) (c : VecF) (s : State) : Host.Outcome State Fault Refusal :=
  State.answer (s.issue k (.vlog2 k h c))

/-- VRCP (R128): a vector command. -/
def execVrcp (k : CoreId) (h : Hdr) (c : VecF) (s : State) : Host.Outcome State Fault Refusal :=
  State.answer (s.issue k (.vrcp k h c))

/-- VRSQRT (R128): a vector command. -/
def execVrsqrt (k : CoreId) (h : Hdr) (c : VecF) (s : State) : Host.Outcome State Fault Refusal :=
  State.answer (s.issue k (.vrsqrt k h c))

/-- VTANH (R129): a vector command. -/
def execVtanh (k : CoreId) (h : Hdr) (c : VecF) (s : State) : Host.Outcome State Fault Refusal :=
  State.answer (s.issue k (.vtanh k h c))

/-- VERF (R129): a vector command. -/
def execVerf (k : CoreId) (h : Hdr) (c : VecF) (s : State) : Host.Outcome State Fault Refusal :=
  State.answer (s.issue k (.verf k h c))

/-- VRSUM (R119): a vector command. -/
def execVrsum (k : CoreId) (h : Hdr) (c : VecF) (s : State) : Host.Outcome State Fault Refusal :=
  State.answer (s.issue k (.vrsum k h c))

/-- VRMAX (R119): a vector command. -/
def execVrmax (k : CoreId) (h : Hdr) (c : VecF) (s : State) : Host.Outcome State Fault Refusal :=
  State.answer (s.issue k (.vrmax k h c))

/-- VRMIN (R119): a vector command. -/
def execVrmin (k : CoreId) (h : Hdr) (c : VecF) (s : State) : Host.Outcome State Fault Refusal :=
  State.answer (s.issue k (.vrmin k h c))

/-- LTCLR (R122): a vector command. -/
def execLtclr (k : CoreId) (h : Hdr) (c : VecF) (s : State) : Host.Outcome State Fault Refusal :=
  State.answer (s.issue k (.ltclr k h c))

/-- LTADDF (R122): a vector command. -/
def execLtaddf (k : CoreId) (h : Hdr) (c : VecF) (s : State) : Host.Outcome State Fault Refusal :=
  State.answer (s.issue k (.ltaddf k h c))

/-- LTADDT (R122): a vector command. -/
def execLtaddt (k : CoreId) (h : Hdr) (c : VecF) (s : State) : Host.Outcome State Fault Refusal :=
  State.answer (s.issue k (.ltaddt k h c))

/-- LTRD (R122): a vector command. -/
def execLtrd (k : CoreId) (h : Hdr) (c : VecF) (s : State) : Host.Outcome State Fault Refusal :=
  State.answer (s.issue k (.ltrd k h c))

/-- LTADDM (R122): a vector command. -/
def execLtaddm (k : CoreId) (h : Hdr) (c : VmemF) (s : State) : Host.Outcome State Fault Refusal :=
  State.answer (s.issue k (.ltaddm k h c))

/-- LTST (R122): a vector command. -/
def execLtst (k : CoreId) (h : Hdr) (c : VmemF) (s : State) : Host.Outcome State Fault Refusal :=
  State.answer (s.issue k (.ltst k h c))

/-- VLD (R112): a vector command. -/
def execVld (k : CoreId) (h : Hdr) (c : VmemF) (s : State) : Host.Outcome State Fault Refusal :=
  State.answer (s.issue k (.vld k h c))

/-- VST (R112): a vector command. -/
def execVst (k : CoreId) (h : Hdr) (c : VmemF) (s : State) : Host.Outcome State Fault Refusal :=
  State.answer (s.issue k (.vst k h c))

/-- TRD (R113): a vector command. -/
def execTrd (k : CoreId) (h : Hdr) (c : TrdF) (s : State) : Host.Outcome State Fault Refusal :=
  State.answer (s.issue k (.trd k h c))

/-- MOVE (R158): a Skidder move. -/
def execMove (k : CoreId) (h : Hdr) (c : MoveF) (s : State) : Host.Outcome State Fault Refusal :=
  State.answer (s.issue k (.move k h c))

/-- UPD (R232): the update of a band. -/
def execUpd (k : CoreId) (h : Hdr) (c : UpdF) (s : State) : Host.Outcome State Fault Refusal :=
  State.answer (s.issue k (.upd k h c))

/-- SIGNAL (R185): add 1 to an object. -/
def execSignal (k : CoreId) (h : Hdr) (obj : W16) (s : State) : Host.Outcome State Fault Refusal :=
  State.answer (s.issue k (.signal k h obj))

/-- WAIT (R186): hold dispatch until an object is there. -/
def execWait (k : CoreId) (h : Hdr) (c : WaitF) (s : State) : Host.Outcome State Fault Refusal :=
  State.answer (s.issue k (.wait k h c))

/-- LOOP (R183): loop entry. -/
def execLoop (k : CoreId) (h : Hdr) (creg : Fin 16) (maxc : W32) (s : State) : Host.Outcome State Fault Refusal :=
  State.answer (s.issue k (.loop k h creg maxc))

/-- ENDL (R183): loop end. -/
def execEndl (k : CoreId) (h : Hdr) (s : State) : Host.Outcome State Fault Refusal :=
  State.answer (s.issue k (.endl k h))

/-- SETC (R182): write a count register. -/
def execSetc (k : CoreId) (h : Hdr) (creg : Fin 16) (value : W32) (s : State) : Host.Outcome State Fault Refusal :=
  State.answer (s.issue k (.setc k h creg value))

/-- LDC (R182): load a count register. -/
def execLdc (k : CoreId) (h : Hdr) (creg : Fin 16) (hnd : W16) (idx : W32) (s : State) : Host.Outcome State Fault Refusal :=
  State.answer (s.issue k (.ldc k h creg hnd idx))

/-- XCHG (R282): hand a layer to the exchange. -/
def execXchg (k : CoreId) (h : Hdr) (c : XchgF) (s : State) : Host.Outcome State Fault Refusal :=
  State.answer (s.issue k (.xchg k h c))

/-- COMMIT (R188): wait for the outcome of the step. -/
def execCommit (k : CoreId) (h : Hdr) (s : State) : Host.Outcome State Fault Refusal :=
  State.answer (s.issue k (.commit k h))

/-- STEPEND (R189): the end of the stream. -/
def execStepend (k : CoreId) (h : Hdr) (s : State) : Host.Outcome State Fault Refusal :=
  State.answer (s.issue k (.stepend k h))

end Sys2Proof.Machine
end

