-- ==== Sys2Proof/Machine/Regs.lean ====
section
/-! DEFINITION. The register blocks (R106, R133, R165, R227, R246, R273, R288, R376, R402, R431, R432, R456, R471, R478, R479,
R487, R488): what each register reads as, its class (R348), and a write under its access codes (R12, R13). -/

namespace Sys2Proof.Machine

open Sys2Proof

/-! Fields. -/

/-- A register from its fields, the lowest first: value and width. -/
def pack (fs : List (Nat × Nat)) : Nat := fs.foldr (fun f acc => f.1 % 2 ^ f.2 + acc * 2 ^ f.2) 0

/-- A flag as a field. -/
def flag (b : Bool) : Nat × Nat := (if b then 1 else 0, 1)

/-- A signed value as a field. -/
def sfield (x : Int) (w : Nat) : Nat × Nat := ((x % 2 ^ w).toNat, w)

/-- The entry of an array of `n` entries of `stride` bytes at `base` that an offset lies in, and its place in it. -/
def slotAt (off base stride n : Nat) : Option (Nat × Nat) :=
  if base ≤ off ∧ off < base + stride * n then some ((off - base) / stride, (off - base) % stride) else none

/-! Blocks (R488). -/

/-- Blocks of a core window. -/
inductive CoreBlk where
  | cmd | skd | cvu | vxe | upe | mxe | evc | trc
  deriving DecidableEq, Repr

/-- The block of a core window that an offset lies in, with the offset in it. -/
def coreBlk (off : Nat) : Option (CoreBlk × Nat) :=
  if off < 0x400 then some (.cmd, off) else if off < 0x800 then some (.skd, off - 0x400)
  else if off < 0xC00 then some (.cvu, off - 0x800) else if off < 0x1000 then some (.vxe, off - 0xC00)
  else if off < 0x2000 then some (.upe, off - 0x1000) else if off < 0x4000 then some (.mxe, off - 0x2000)
  else if off < 0x4400 then some (.evc, off - 0x4000) else if off < 0x4800 then some (.trc, off - 0x4400) else none

/-- Blocks of the module. -/
inductive ModBlk where
  | scc | mem | sec | blw | clk | lnk | evc | trc | port (p : Nat)
  deriving DecidableEq, Repr

/-- The block of the module that an offset from 0x0F01_0000_0000 lies in, with the offset in it. -/
def modBlk (off : Nat) : Option (ModBlk × Nat) :=
  if off < 0x80000 then some (.scc, off) else if off < 0x81000 then some (.mem, off - 0x80000)
  else if off < 0x82000 then some (.sec, off - 0x81000) else if off < 0x83000 then some (.blw, off - 0x82000)
  else if off < 0x84000 then some (.clk, off - 0x83000) else if off < 0x85000 then some (.lnk, off - 0x84000)
  else if off < 0x86000 then some (.evc, off - 0x85000) else if off < 0x87000 then some (.trc, off - 0x86000)
  else (slotAt off 0x100000 0x1000 48).map fun x => (.port x.1, x.2)

/-- The register that an address of the control and status region names; none outside every mapped window. -/
def csrAddr (a : Nat) : Option RegAddr :=
  if a < 0x0F0000000000 then none
  else
    let o := a - 0x0F0000000000
    if o < 0x100000000 then (if h : o / 0x10000 < 192 then some (.core ⟨o / 0x10000, h⟩ (o % 0x10000)) else none)
    else some (.module (o - 0x100000000))

/-! Reads: blocks of a core. -/

/-- Commands of an engine that are in it or past it. -/
def Core.inEng (c : Core) (g : Eng) : List Ent := c.inflight.filter fun e => engOf e.ins = some g && e.phase ≠ .issued

/-- Does a mismatch hold a command of an engine. -/
def Core.holds (c : Core) (g : Eng) : Bool :=
  c.inflight.any fun e => e.phase = .held && (match e.ins with | .trd .. => g = .mxe | i => engOf i = some g)

/-- CMD_ (R165). FETCHWAIT: a fetch waits, for a line that does not come or for a package under retraining. -/
def cmdReg (c : Core) (wait : Bool) (off : Nat) : Nat :=
  if off = 0 then
    pack [(min 512 c.inflight.length, 10), flag c.frozen, flag c.drained, (c.loops.length, 3), flag (c.fetchwait || wait)]
  else match slotAt off 0x10 4 4 with
    | some (n, 0) => (c.loops[n]?.map (·.remain.toNat)).getD 0
    | _ => 0

/-- SKD_ (R165). -/
def skdReg (c : Core) (off : Nat) : Nat :=
  if off = 0 then pack [(min 32 (c.inEng .skd).length, 6), flag c.skdFrozen] else 0

/-- CVU_ (R402). FAILHOLD: a command is held by a bad block. -/
def cvuReg (c : Core) (off : Nat) : Nat :=
  let v := c.cvu
  if off = 0x0 then pack [flag (v.failhold && c.inflight.any fun e => e.phase = .bad), flag v.moving]
  else if off = 0x4 then pack [(v.transient.toNat, 16), (v.bad.toNat, 16)]
  else if off = 0x8 then v.addr.toNat % 2 ^ 32
  else if off = 0xC then pack [(v.addr.toNat / 2 ^ 32, 16), (v.kind.toNat, 2), flag v.valid]
  else 0

/-- VXE_ (R133). -/
def vxeReg (c : Core) (off : Nat) : Nat :=
  let v := c.vxe
  let stuck := fun (t : TileId) => c.inflight.any fun e => e.phase = .held && ((tileOf e.ins).map (·.1)) = some t
  let trd := c.inflight.any fun e => match e.ins with | .trd _ _ f => (e.phase = .issued && stuck f.tile) || e.phase = .held | _ => false
  if off = 0x0 then pack [flag (! (c.inEng .vxe).isEmpty), flag (c.holds .vxe), flag trd]
  else if off = 0x40 then pack [(v.mismatch.toNat, 16), (v.reexec.toNat, 16)]
  else if off = 0x44 then v.tag.toNat
  else if off = 0x48 then pack [flag v.valid, (v.kind.toNat, 3), (v.lane.toNat, 6)]
  else if off = 0x60 then pack [(64, 8), (16, 5), (64, 7), (4, 3)]
  else 0

/-- UPE_ (R246). An UPD is done in one dispatch of the model: PHASE is 2 while a mismatch holds it, else 3 until it completes. -/
def upeReg (c : Core) (off : Nat) : Nat :=
  let u := c.upe
  let r := u.rpt.head?
  let busy := ! (c.inEng .upe).isEmpty
  if off = 0x0 then pack [flag busy, (if ¬ busy then 0 else if c.holds .upe then 2 else 3, 2), flag (c.holds .upe)]
  else if off = 0x4 then u.rows.toNat
  else if off = 0x8 then u.tag.toNat
  else if off = 0xC then u.skips.toNat
  else if off = 0x10 then u.done.toNat
  else if off = 0x20 then u.rpt.length % 2 ^ 9
  else if off = 0x24 then (r.map (·.tag.toNat)).getD 0
  else if off = 0x28 then (r.map fun x => pack [(x.layer.toNat, 16), flag x.skip]).getD 0
  else if off = 0x2C then (r.map (·.dmax.toNat)).getD 0
  else if off = 0x40 then pack [(u.mismatch.toNat, 16), (u.reexec.toNat, 16)]
  else if off = 0x60 then pack [(0x8000, 16), (32, 6), (256, 9)]
  else match slotAt off 0x400 16 64, slotAt off 0x800 8 256 with
    | some (g, w), _ =>
      let x := SMap.get GScal.zero u.gscal g
      if w = 0 then x.lr.toNat else if w = 4 then x.wd.toNat else if w = 8 then x.bc1.toNat else if w = 12 then x.bc2.toNat else 0
    | _, some (n, w) =>
      let x := SMap.get LSlot.zero u.lslot n
      if w = 0 then pack [(x.ls.toNat, 7), (0, 1), (x.e.toNat, 16)] else if w = 4 then x.lrs.toNat else 0
    | _, _ => 0

/-- MXE_ (R83, R106, R288). -/
def mxeReg (c : Core) (off : Nat) : Nat :=
  let m := c.mxe
  let grid := (c.inEng .mxe).any fun e => match e.ins with | .gpass .. => true | _ => false
  if off = 0x0 then
    pack [flag (! (c.inEng .mxe).isEmpty), (m.wtile.toNat, 3), flag m.wvalid, flag (c.holds .mxe), flag grid]
  else if off = 0x40 then pack [(m.mismatch.toNat, 16), (m.reexec.toNat, 16)]
  else if off = 0x44 then m.tag.toNat
  else if off = 0x48 then pack [flag m.valid, (m.kind.toNat, 2), (m.index.toNat, 7), (m.tile.toNat, 3)]
  else if off = 0x60 then pack [(0, 2), (128, 8), (128, 8), (8, 4)]
  else match slotAt off 0x10 4 8, slotAt off 0x1000 16 256 with
    | some (t, 0), _ =>
      let x := SMap.get Tile.zero c.tiles t
      pack [flag x.sat, flag x.anch, (x.kind.toNat, 2), (x.width.toNat, 2)]
    | _, some (n, w) =>
      let x := SMap.get GExp.zero c.gexp n
      if w = 0 then pack [(x.e.toNat, 16), flag x.wide] else if w = 4 then pack [(x.gmax.toNat, 31), flag x.govf]
      else if w = 8 then x.bmaxlo.toNat else if w = 12 then x.bmaxhi.toNat else 0
    | _, _ => 0

/-- Is the class of a counter's source DATA-DEPENDENT TELEMETRY (R475). -/
def evcTelemetry : EvcBlk → Nat → Bool
  | .core _, src => decide (0x20 ≤ src ∧ src ≤ 0x27)
  | .module, src => src = 0x30

/-- Offsets of the counts and of EVC_CTRL (R478, R479). -/
def evcCounts : EvcBlk → Nat
  | .core _ => 0x100 | .module => 0x400
def evcCtrl : EvcBlk → Nat
  | .core _ => 0x200 | .module => 0x800

/-- EVC_ (R478, R479). -/
def State.evcReg (s : State) (b : EvcBlk) (off : Nat) : Nat :=
  match slotAt off 0 4 (evcSize b), slotAt off (evcCounts b) 8 (evcSize b) with
  | some (n, 0), _ =>
    let c := s.evCnt b n
    pack [(c.src, evcBits b), flag c.en, flag c.mode, flag (evcTelemetry b c.src), flag c.wrap]
  | _, some (n, 0) => (s.evCnt b n).cnt.toNat % 2 ^ 32
  | _, some (n, 4) => (s.evCnt b n).hi.toNat
  | _, _ => if off = evcCtrl b then pack [flag (s.evc b).freeze] else 0

/-- TRC_ of a core (R487). -/
def trcReg (c : Core) (off : Nat) : Nat :=
  let t := c.trc
  if off = 0x0 then pack [(t.kinds.toNat, 10), (0, 5), flag t.stall]
  else if off = 0x4 then t.taglo.toNat
  else if off = 0x8 then t.taghi.toNat
  else if off = 0xC then t.lost.toNat
  else if off = 0x10 then t.fifo.length % 2 ^ 7
  else 0

/-! Reads: blocks of the module. -/

/-- SCC_ (R227). -/
def State.sccReg (s : State) (off : Nat) : Nat :=
  let c := s.scc
  if off = 0x0 then pack [(c.hist, 7), (c.head, 3), (c.hold, 8), flag c.policy, (c.skipmax, 8)]
  else if off = 0x4 then pack [flag (s.stp.phase = .voted), flag c.lastskip, (c.consec, 8), (c.stop, 2)]
  else if off = 0x8 then c.skips.toNat
  else if off = 0xC then c.postovf.toNat
  else if off = 0x10 then c.nmanaged % 2 ^ 13
  else match slotAt off 0x10000 4 65536 with
    | some (h, 0) => (SMap.get 0 c.amax h).toNat
    | _ => 0

/-- MEM_ (R165). -/
def State.memReg (s : State) (off : Nat) : Nat :=
  if off = 0x100 then pack [(s.mm.granule.toNat, 16), (0, 2), flag s.mm.refused, flag (s.isSealed s.mm.granule.toNat)] else 0

/-- Violations counted in the current span (R363, R376). -/
def State.violations (s : State) : Nat := min 8 (s.sec.viol.filter fun t => s.blw.ms ≤ t + violSpan).length

/-- SEC_ (R376). -/
def State.secReg (s : State) (off : Nat) : Nat :=
  if off = 0x0 then
    pack [(s.sec.sstate.code, 2), (s.sec.dlevel, 2), (s.sec.pstate, 3), flag s.sec.scrub,
      (if s.sec.sstate = .quarantine then s.nvm.part.qcause else 0, 5), flag s.sec.dbgFrozen, flag s.sec.dbgNonce.isSome,
      (s.violations, 4)]
  else 0

/-- The highest-level cause in force, the lowest code among equals (R456). -/
def Blw.cause (b : Blw) : Nat :=
  let top := b.causes.filter fun c => causeLevel c = b.level
  match top with
  | [] => 0
  | c :: cs => cs.foldl min c

/-- BLW_ (R456): until Bellows' first update after the release of the module's domain its fields read their reset values. -/
def Blw.reg (b : Blw) (off : Nat) : Nat :=
  if off = 0x10 then b.preq % 2 ^ 16
  else if ¬ b.shown then (if off = 0x14 then pack [(0, 16), (64, 7)] else 0)
  else if off = 0x0 then
    pack [(b.level, 2), flag (2 ≤ b.level), flag b.recharge, flag b.pcapped, flag b.ramp, flag (b.inForce 7), flag (b.inForce 6),
      flag (b.inForce 8 || b.inForce 9), flag b.worn, flag b.bank]
  else if off = 0x4 then pack [(b.cause, 8), (b.last3, 8)]
  else if off = 0x14 then pack [(b.grant, 16), (b.duty, 7)]
  else if off = 0x20 then pack [(b.vin, 16), (b.iin, 16)]
  else if off = 0x24 then pack [(b.pin, 16), sfield b.pavg 16]
  else if off = 0x28 then pack [(b.vcore, 16), (b.icore, 16)]
  else if off = 0x30 then pack [sfield b.tj 16, (b.tjsens, 8), (b.nvalid, 8)]
  else if off = 0x34 then pack [sfield b.tin 16, sfield b.tout 16]
  else if off = 0x38 then b.flow % 2 ^ 16
  else if off = 0x3C then pack [sfield b.vcmd 16, (b.vpos, 16)]
  else if off = 0x40 then pack [(b.ebank, 16), (b.vbank, 16)]
  else if off = 0x50 then pack [(b.l2.toNat, 16), (b.l3.toNat, 16)]
  else if off = 0x60 then b.bver.toNat
  else 0

/-- CLK_ and RST_ (R471). -/
def Rst.reg (r : Rst) (off : Nat) : Nat :=
  if off = 0x0 then pack [flag r.locked, (1, 1), flag r.pcieRef]
  else if off = 0x4 then pack [(6, 4), (3, 4), (4, 4), (4, 4), (12, 4)]
  else if off = 0x100 then r.cause % 2 ^ 3
  else if off = 0x104 then pack [(r.core, 8), (0, 1), flag r.busy]
  else 0

/-- LNK_ of the module (R273). -/
def Lnk.reg (l : Lnk) (off : Nat) : Nat :=
  if off = 0x0 then pack (l.extents.map (fun n => (n - 1, 4)) ++ [(l.self.toNat, 16)])
  else if off = 0x4 then pack [(1, 8), (1, 8)]
  else if off = 0x10 then
    pack [(l.retPort, 6), (0, 1), (min 48 l.retQ.length, 6), flag l.retCur.isSome, (l.retCur.getD 0, 6)]
  else if off = 0x20 then l.residue.toNat
  else 0

/-- LNK_ of a port (R273). -/
def State.portReg (s : State) (p off : Nat) : Nat :=
  let x := s.port p
  if off = 0x0 then
    let carry := (List.range 6).map fun i => flag (x.st = .up && s.carrier (p / 6 * 6 + i) = p)
    pack ([(x.st.code, 3), (x.width, 2), flag x.frozen] ++ carry ++ [(x.ver, 8)])
  else if off = 0x4 then
    match s.lnk.map[p]? with
    | some e => if e.valid then pack [(e.peer.toNat, 16), (e.port, 6), (1, 1)] else 0
    | none => 0
  else if off = 0x8 then x.txSeq / 2 ^ 32 % 2 ^ 32
  else if off = 0x10 then x.corr.toNat
  else if off = 0x14 then x.unc.toNat
  else if off = 0x18 then x.nak.toNat
  else if off = 0x1C then x.tagfail.toNat
  else if off = 0x20 then x.lock.toNat % 2 ^ 4
  else 0

/-- TRC_ of the module (R487): its records go straight to the log ring, and none is dropped. -/
def Mon.trcReg (m : Mon) (off : Nat) : Nat := if off = 0x0 then m.mmask.toNat else 0

/-! Reads. -/

/-- What a register of the control and status region reads as; none where no block lies (R488). -/
def State.reg (s : State) : RegAddr → Option Nat
  | .core k off =>
    (coreBlk off).map fun x =>
      let c := s.core k
      match x.1 with
      | .cmd => cmdReg c (! c.waitq.isEmpty && s.fetchStalls k) x.2
      | .skd => skdReg c x.2
      | .cvu => cvuReg c x.2
      | .vxe => vxeReg c x.2
      | .upe => upeReg c x.2
      | .mxe => mxeReg c x.2
      | .evc => s.evcReg (.core k) x.2
      | .trc => trcReg c x.2
  | .module off =>
    (modBlk off).map fun x =>
      match x.1 with
      | .scc => s.sccReg x.2
      | .mem => s.memReg x.2
      | .sec => s.secReg x.2
      | .blw => s.blw.reg x.2
      | .clk => s.rst.reg x.2
      | .lnk => s.lnk.reg x.2
      | .evc => s.evcReg .module x.2
      | .trc => s.mon.trcReg x.2
      | .port p => s.portReg p x.2
  | _ => none

/-- The counter whose count an offset of an EVC_ block reads, if any, and whether it is the low half. -/
def evcCountAt (b : EvcBlk) (off : Nat) : Option (Nat × Bool) :=
  match slotAt off (evcCounts b) 8 (evcSize b) with
  | some (n, 0) => some (n, true)
  | some (n, 4) => some (n, false)
  | _ => none

/-- The EVC_ block of an address, with the offset in it. -/
def evcOf : RegAddr → Option (EvcBlk × Nat)
  | .core k off => match coreBlk off with | some (.evc, o) => some (.core k, o) | _ => none
  | .module off => match modBlk off with | some (.evc, o) => some (.module, o) | _ => none
  | _ => none

/-- The TELREL bit that releases a register (R348), none where it is PUBLIC. A telemetry field that no group names has no
bit: 8, which no mask sets. -/
def State.telBit (s : State) (a : RegAddr) : Option Nat :=
  match evcOf a with
  | some (b, o) =>
    match evcCountAt b o with
    | some (n, _) => if evcTelemetry b (s.evCnt b n).src then some 0 else none
    | none => none
  | none =>
    match a with
    | .core _ off =>
      match coreBlk off with
      | some (.mxe, o) =>
        if (slotAt o 0x10 4 8).isSome then some 8
        else match slotAt o 0x1000 16 256 with | some (_, w) => if w < 8 then some 1 else none | none => none
      | some (.upe, o) => if o = 0x2C ∨ (slotAt o 0x800 8 256).isSome then some 1 else none
      | _ => none
    | .module off =>
      match modBlk off with
      | some (.scc, o) => if o = 0xC ∨ 0x10000 ≤ o then some 1 else none
      | _ => none
    | _ => none

/-- A read of a count's low half latches the high half (R478). -/
def State.readLatch (s : State) (a : RegAddr) : State :=
  match evcOf a with
  | some (b, o) =>
    match evcCountAt b o with
    | some (n, true) =>
      let c := s.evCnt b n
      s.setCnt b n { c with hi := (c.cnt >>> 32).setWidth 16 }
    | _ => s
  | none => s

/-- A violation of a control processor (R386, R387): the lowest that is not frozen; a second one is a module fault. -/
def State.violateCtrl (s : State) (code addr : Nat) : State :=
  match (List.range 4).find? fun n => ! s.sec.ctrlFrozen.contains n with
  | none => s
  | some n =>
    let s1 := { s with sec := { s.sec with ctrlFrozen := s.sec.ctrlFrozen ++ [n] } }
    let s2 := if s1.sec.ctrlFrozen.length ≥ 2 then { s1 with stp := { s1.stp with fault := true } } else s1
    (s2.raise 0x0030 engCtrl noCore 0 0 [] addr code).countViol

/-- The address of a register of the region. -/
def RegAddr.phys : RegAddr → Nat
  | .core k off => 0x0F0000000000 + k.val * 0x10000 + off
  | .module off => 0x0F0100000000 + off
  | _ => 0

/-- REG_READ (R427, R477, R348): a register of the control and status region. The access is a control processor's: an
address in no block is its violation 0x01 (R11, R488), and the reply then holds no data (log 103). -/
def execRegRead (m : Mb) (addr : RegAddr) (s : State) : Host.Outcome State Fault Refusal :=
  .next (s.request m 0x0017 false fun t =>
    match t.reg addr with
    | none => (t.violateCtrl 0x01 (RegAddr.phys addr), .now stOk 0 .none)
    | some v =>
      if (match t.telBit addr with | some b => ! t.released b | none => false) then (t, .no stNotRel)
      else (t.readLatch addr, .now stOk 0 (.words [v])))

/-! The emulated registers (R431, R432). -/

/-- Part of an activation that waits: for an emergency, for a job (R435). -/
def State.defEmerg (s : State) : Bool :=
  decide (2 ≤ s.blw.level) || (match s.blw.emergEnd with | some t => decide (s.blw.ms < t + 60000) | none => false)

/-- HIF_, as the host reads it. -/
def State.hifReg (s : State) (off : Nat) : Nat :=
  let h := s.hif
  let k := fun (v : Nat) => if h.mbxUp then v else 0
  if off = 0x00 then 0x325A4754
  else if off = 0x04 then pack [(3, 8), (0x0100, 16)]
  else if off = 0x08 then
    pack [(h.phase, 4), (s.sec.sstate.code, 2), (s.sec.dlevel, 2), (s.sec.pstate, 3), (h.fail, 4), flag h.mbxUp, flag h.blwRange,
      flag (h.mbxUp && s.sec.sstate ≠ .quarantine)]
  else if off = 0x10 then h.fwLen.toNat
  else if off = 0x14 then h.fwOwnk.toNat
  else if off = 0x18 then pack [flag h.fwBusy, flag h.fwDone, (h.fwFail, 4)]
  else if off = 0x1C then h.attNlen.toNat
  else if off = 0x20 then pack [flag h.attBusy, flag h.attFail, (0, 14), (h.elen, 16)]
  else if off = 0x28 then h.irq.toNat
  else if off = 0x2C then h.irqEn.toNat
  else if 0x30 ≤ off ∧ off < 0x40 ∧ off % 4 = 0 then
    (if 1 ≤ h.phase then bitsAt s.devid.toNat (32 * ((off - 0x30) / 4)) 32 else 0)
  else if off = 0x40 then k (s.stepField.toNat % 2 ^ 32)
  else if off = 0x44 then k (s.stepField.toNat / 2 ^ 32)
  else if off = 0x48 then k (pack [(match s.job.st with | .none => 0 | .loading => 1 | .loaded => 2 | .stopped => 3, 2), (s.job.stop, 3), (s.stp.waiting, 4)])
  else if off = 0x4C then
    let v := h.ver.getD (0, 0)
    k (pack [((h.running.map (·.mbxMin)).getD 0, 8), ((h.running.map (·.mbxMax)).getD 0, 8), (v.1, 8), (v.2, 8)])
  else if off = 0x50 then k (s.outq.head % 2 ^ 32)
  else if off = 0x54 then k (s.outq.tail % 2 ^ 32)
  else if off = 0x58 then k s.outSize
  else if off = 0x5C then k ((h.running.map (·.kver.toNat)).getD 0)
  else if off = 0x60 then k s.blw.bver.toNat
  else if off = 0x64 then k (pack [flag s.podReady, (s.portsUp, 6), (s.portsOut, 6), (0, 3), (s.lnk.self.toNat, 16)])
  else if off = 0x68 then k ((allCores.filter fun c => (s.core c).fenced).length % 2 ^ 8)
  else if off = 0x6C then k ((h.staged.map (·.kver.toNat)).getD 0)
  else if off = 0x70 then
    let p := ! h.activate.isEmpty
    k (pack [flag p, flag (p && s.defEmerg), flag (p && s.job.st ≠ .none), flag h.blwStaged.isSome])
  else 0

/-! Writes. -/

/-- UPE_ written: POP, scalars, slots. -/
def upeWrite (c : Core) (off : Nat) (v : W32) : Core :=
  let u := c.upe
  if off = 0x30 then { c with upe := { u with rpt := if v.getLsbD 0 then u.rpt.drop 1 else u.rpt } }
  else match slotAt off 0x400 16 64, slotAt off 0x800 8 256 with
    | some (g, w), _ =>
      let x := SMap.get GScal.zero u.gscal g
      let y := if w = 0 then { x with lr := v } else if w = 4 then { x with wd := v } else if w = 8 then { x with bc1 := v }
        else if w = 12 then { x with bc2 := v } else x
      { c with upe := { u with gscal := SMap.set GScal.zero u.gscal g y } }
    | _, some (n, w) =>
      let x := SMap.get LSlot.zero u.lslot n
      let y := if w = 0 then { x with ls := v.setWidth 7, e := (v >>> 8).setWidth 16 } else if w = 4 then { x with lrs := v } else x
      { c with upe := { u with lslot := SMap.set LSlot.zero u.lslot n y } }
    | _, _ => c

/-- MXE_ written: VALID of the mismatch, grid slots. -/
def mxeWrite (c : Core) (off : Nat) (v : W32) : Core :=
  if off = 0x48 then { c with mxe := { c.mxe with valid := c.mxe.valid && ! v.getLsbD 0 } }
  else match slotAt off 0x1000 16 256 with
    | some (n, w) =>
      let x := SMap.get GExp.zero c.gexp n
      let y := if w = 0 then { x with e := v.setWidth 16, wide := v.getLsbD 16 }
        else if w = 4 then { x with gmax := v.setWidth 31, govf := v.getLsbD 31 }
        else if w = 8 then { x with bmaxlo := v } else if w = 12 then { x with bmaxhi := v } else x
      { c with gexp := SMap.set GExp.zero c.gexp n y }
    | none => c

/-- EVC_ written (R478, R479). A write of CHI sets the count's bits and the latch. -/
def State.evcWrite (s : State) (b : EvcBlk) (off : Nat) (v : W32) : State :=
  match slotAt off 0 4 (evcSize b), evcCountAt b off with
  | some (n, 0), _ => s.selWrite b n v
  | _, some (n, true) =>
    let c := s.evCnt b n
    s.setCnt b n { c with cnt := (c.cnt &&& 0xFFFF00000000#48) ||| v.setWidth 48 }
  | _, some (n, false) =>
    let c := s.evCnt b n
    s.setCnt b n { c with cnt := (c.cnt &&& 0x0000FFFFFFFF#48) ||| ((v.setWidth 16).setWidth 48 <<< 32), hi := v.setWidth 16 }
  | _, _ =>
    if off = evcCtrl b then
      let s1 := s.setEvc b { s.evc b with freeze := v.getLsbD 0 }
      if v.getLsbD 1 then s1.evcZero b else s1
    else s

/-- TRC_ of a core written (R486, R487). -/
def trcWrite (c : Core) (off : Nat) (v : W32) : Core :=
  if off = 0x0 then { c with trc := { c.trc with kinds := v.setWidth 10, stall := v.getLsbD 15 } }
  else if off = 0x4 then { c with trc := { c.trc with taglo := v } }
  else if off = 0x8 then { c with trc := { c.trc with taghi := v } }
  else c

/-- SCC_ written (R227). -/
def Scc.write (c : Scc) (off : Nat) (v : W32) : Scc :=
  if off = 0x0 then
    let h := bitsAt v.toNat 0 7
    { c with hist := if h = 0 then 16 else min 64 h, head := bitsAt v.toNat 7 3, hold := max 1 (bitsAt v.toNat 10 8),
             policy := v.getLsbD 18, skipmax := max 1 (bitsAt v.toNat 19 8) }
  else match slotAt off 0x10000 4 65536 with
    | some (h, 0) => { c with amax := SMap.set 0 c.amax h v }
    | _ => c

/-- A write to a block of a core. -/
def State.coreRegWrite (s : State) (k : CoreId) (b : CoreBlk) (off : Nat) (v : W32) : State :=
  match b with
  | .cvu => if off = 0xC then s.modCore k fun c => { c with cvu := { c.cvu with valid := c.cvu.valid && ! v.getLsbD 18 } } else s
  | .vxe => if off = 0x48 then s.modCore k fun c => { c with vxe := { c.vxe with valid := c.vxe.valid && ! v.getLsbD 0 } } else s
  | .upe => s.modCore k fun c => upeWrite c off v
  | .mxe => s.modCore k fun c => mxeWrite c off v
  | .evc => s.evcWrite (.core k) off v
  | .trc => s.modCore k fun c => trcWrite c off v
  | .cmd | .skd => s

/-- A write of RST_WDOG (R470). -/
def State.wdogWrite (s : State) (v : W32) : State :=
  if v = 0x00005A17#32 then { s with rst := { s.rst with wdogMs := 0 } } else s

/-- A write to a block of the module. -/
def State.modRegWrite (s : State) (b : ModBlk) (off : Nat) (v : W32) : State :=
  match b with
  | .scc => { s with scc := s.scc.write off v }
  | .mem => if off = 0x100 then s.sealWrite v else s
  | .blw => if off = 0x10 then s.preqWrite v else s
  | .clk => if off = 0x104 then s.rstCoreWrite v else if off = 0x108 then s.wdogWrite v else s
  | .lnk => if off = 0x10 then s.retuneWrite v else s
  | .evc => s.evcWrite .module off v
  | .trc => if off = 0x0 then { s with mon := { s.mon with mmask := v.setWidth 4 } } else s
  | .sec | .port _ => s

/-- A write to the control and status region; none where no block lies. -/
def State.csrWrite (s : State) (a : RegAddr) (v : W32) : Option State :=
  match a with
  | .core k off => (coreBlk off).map fun x => s.coreRegWrite k x.1 x.2 v
  | .module off => (modBlk off).map fun x => s.modRegWrite x.1 x.2 v
  | _ => none

/-- The host's write to an emulated register (R431, R432): FWGO carries an image and has a row of its own. -/
def State.hifWrite (s : State) (off : Nat) (v : W32) : Host.Outcome State Fault Refusal :=
  if off = 0x0C then (if v.getLsbD 1 then execAttgo s else .next s)
  else if off = 0x10 then .next { s with hif := { s.hif with fwLen := v } }
  else if off = 0x14 then .next { s with hif := { s.hif with fwOwnk := v } }
  else if off = 0x1C then .next { s with hif := { s.hif with attNlen := v.setWidth 7 } }
  else if off = 0x24 then execHifReset v s
  else if off = 0x28 then .next { s with hif := { s.hif with irq := s.hif.irq &&& ~~~ (v.setWidth 3) } }
  else if off = 0x2C then .next { s with hif := { s.hif with irqEn := v.setWidth 3 } }
  else if off = 0x54 then .next (if s.hif.mbxUp then s.outDrain (s.tailOf v) else s)
  else .next s

/-- The host's write to a doorbell (R422, R385): any other than 0 to 2 is a violation. -/
def State.bellWrite (s : State) (off : Nat) (v : W32) : State :=
  if ¬ s.bellOk then s
  else if off = 0x0 then { s with hif := { s.hif with doorbell := s.hif.doorbell.set 0 v } }
  else if off = 0x4 then s.ackReply v
  else if off = 0x8 then s.ackNote v
  else s.violatePcie 0x34 0

/-- The host's write of the nonce in the attestation buffer (R419); the evidence is not written by the host. -/
def State.attWrite (s : State) (off : Nat) (v : W32) : State :=
  if off + 4 ≤ 0x40 then
    let n := slice s.hif.attNonce 0 64
    { s with hif := { s.hif with attNonce := n.take off ++ leBytes 4 v.toNat ++ n.drop (off + 4) } }
  else s

/-- The host's write to the MSI-X table (R419): a vector that is unmasked while it is pending is raised (log 161). The pending-bit array is
not written. -/
def State.msixWrite (s : State) (off : Nat) (v : W32) : State :=
  if off % 4 ≠ 0 ∨ 512 ≤ off then s
  else
    let n := off / 4
    let h : Hif := { s.hif with msixTab := SMap.set 0 s.hif.msixTab n v }
    if n % 4 = 3 ∧ v.getLsbD 0 = false ∧ h.pba.getLsbD (n / 4) = true then
      { s with hif := { h with pba := h.pba &&& ~~~ BitVec.ofNat 64 (2 ^ (n / 4)) }.raised (n / 4) }
    else { s with hif := h }

/-- REGISTER_WRITE (R12, R13, R488, R489): Kelgil writes the region, but not while a scrub runs (R372; log 97); the host writes the
registers of BAR0. -/
def execRegisterWrite (a : RegAddr) (value : W32) (s : State) : Host.Outcome State Fault Refusal :=
  if ¬ s.rst.dieUp ∨ s.sec.pstate ≥ 3 then .next s
  else
    match a with
    | .hif off => if s.hif.perst then .next s else s.hifWrite off value
    | .bell off => .next (s.bellWrite off value)
    | .att off => if s.hif.perst then .next s else .next (s.attWrite off value)
    | .msix off => if s.hif.perst then .next s else .next (s.msixWrite off value)
    | .core k off => if s.sec.scrub then .next (s.wait (.registerWrite a value)) else match s.csrWrite (.core k off) value with
      | some t => .next t
      | none => .next (s.violateCtrl 0x01 (RegAddr.phys (.core k off)))
    | .module off => if s.sec.scrub then .next (s.wait (.registerWrite a value)) else match s.csrWrite (.module off) value with
      | some t => .next t
      | none => .next (s.violateCtrl 0x01 (RegAddr.phys (.module off)))

/-! Debug access (R367, R477, R486). -/

/-- Blocks that the debug port reaches under each target. -/
def dbgBlock (t : DbgTarget) (a : RegAddr) : Bool :=
  let trc : Bool := match a with
    | .core _ off => (match coreBlk off with | some (.trc, _) => true | _ => false)
    | .module off => (match modBlk off with | some (.trc, _) => true | _ => false)
    | _ => false
  let sec : Bool := match a with | .module off => (match modBlk off with | some (.sec, _) => true | _ => false) | _ => false
  match t with
  | .counters => (evcOf a).isSome
  | .trc => trc
  | .registers => ! sec
  | _ => false

/-- Is a register one of a TRC_ block that the debug port writes (R367, R486): TRC_MASK, TRC_TAGLO, TRC_TAGHI, TRC_MMASK. -/
def trcWritable : RegAddr → Bool
  | .core _ off => decide (off = 0x4400 ∨ off = 0x4404 ∨ off = 0x4408)
  | .module off => off = 0x86000
  | _ => false

/-- An access to a register by the debug port: at D1 the PUBLIC counters are read and the TRC_ blocks read and written, at D2
every block but SEC_ is read, at D3 written. -/
def State.dbgReg (s : State) (a : DbgAccess) : State :=
  match csrAddr a.addr with
  | none => s.violateDebug 0x01 a.addr
  | some r =>
    if (s.reg r).isNone then s.violateDebug 0x01 a.addr
    else if ¬ dbgBlock a.target r then s.violateDebug 0x04 a.addr
    else
      let d := s.sec.dlevel
      match a.write with
      | none =>
        if 2 ≤ d ∨ a.target = .trc ∨ (a.target = .counters ∧ s.telBit r = none) then s.readLatch r else s.violateDebug 0x04 a.addr
      | some v => if (3 ≤ d ∧ a.target ≠ .trc) ∨ (a.target = .trc ∧ trcWritable r) then (s.csrWrite r v).getD s else s.violateDebug 0x04 a.addr

/-- Bytes of the stack that the debug port reaches by physical address: columns in service and the shared region but their
check-value arrays (R147, R149, R385). -/
def State.dbgStack (s : State) (a : Nat) : Bool :=
  match regionOf a with
  | .column c => ! SMap.get false s.mm.oos c
  | .desc | .scale | .status | .faultRing | .logRing | .upd | .sharedRsv | .link _ | .landing | .spill => true
  | _ => false

/-- LPDDR5X that the debug port reaches through the controllers: all but the tag area, its check-value array and the reserved
area. -/
def dbgLp (a : Nat) : Bool :=
  match regionOf a with
  | .granule _ | .kelgil | .code _ | .record => true
  | _ => false

/-- A memory access by the debug port. A write through the LPDDR5X controllers keeps the check values of the blocks that carry
one (R153, R381); a write to a sealed granule is a violation (R143); a block that fails its MAC gives no data and takes no write (R154). -/
def State.dbgMem (s : State) (a : DbgAccess) (ok : Nat → Bool) (rd : Nat) : State :=
  let sealed' : Bool := match regionOf a.addr with | .code g => s.isSealed g | _ => false
  if regionOf a.addr = .outside ∨ regionOf (a.addr + 3) = .outside then s.violateDebug 0x01 a.addr
  else if ¬ ok a.addr ∨ ¬ ok (a.addr + 3) then s.violateDebug 0x02 a.addr
  else if s.sec.dlevel < (if a.write.isSome then 3 else rd) then s.violateDebug 0x04 a.addr
  else if a.write.isSome ∧ sealed' then s.violateDebug 0x10 a.addr
  else if ¬ isSram a.addr ∧ (a.poison ∨ s.mm.poisoned.contains (a.addr / 512)) then s.macFail a.addr noCore
  else
    match a.write with
    | none => s
    | some v =>
      if isSram a.addr then { s with mem := memWrite s.mem a.addr (leBytes 4 v.toNat) }
      else writeRuns s (entryCvp (chkGet s (a.addr / 4096))) [(a.addr, leBytes 4 v.toNat)]

/-- Is what the debug port reads of the log ring PUBLIC (R367): the entry of a number, where one is held. -/
def State.dbgLog (s : State) (n : Nat) : Bool := s.rings.log.all fun e => e.entry.toNat ≠ n || e.cls = 2

/-- DEBUG_ACCESS (R367): beyond the table of levels, an access-control violation of the debug port. It waits during a scrub (R372) and for
a package under retraining (R155). -/
def execDebugAccess (a : DbgAccess) (s : State) : Host.Outcome State Fault Refusal :=
  .next (s.atLevel 1 fun t =>
    if t.sec.scrub ∨ (a.target = .lpddr ∧ t.waits [(a.addr, 4)]) then t.wait (.debugAccess a)
    else match a.target with
    | .counters | .trc | .registers => t.dbgReg a
    | .log => if a.write.isSome ∨ ¬ t.dbgLog a.addr then t.violateDebug 0x04 a.addr else t
    | .traces => if a.write.isSome then t.violateDebug 0x04 a.addr else t
    | .stack => t.dbgMem a t.dbgStack 2
    | .lpddr => t.dbgMem a dbgLp 3
    | .sec | .keyStore | .taglessOther => t.violateDebug 0x04 a.addr)

end Sys2Proof.Machine
end

