-- ==== Sys2Proof/Machine/Scrub.lean ====
section
/-! DEFINITION. The end of a scrub (R371, R372) and of a retraining (R155): what waited goes on. -/

namespace Sys2Proof.Machine

open Sys2Proof

/-- An access that waited is performed, or waits on. -/
def State.perform (s : State) (i : Instr) : State :=
  let run := fun (o : Host.Outcome State Fault Refusal) => match o with | .next t => t | _ => s
  match i with
  | .bar2Access off write e => run (execBar2Access off write e s)
  | .debugAccess a => run (execDebugAccess a s)
  | .registerWrite a v => run (execRegisterWrite a v s)
  | .dataFrameReceive p a block => run (execDataFrameReceive p a block s)
  | .keyTable m c po => s.lateRequest m 0x0045 (keyTableAt m c po)
  | .jobLoad m e body po => s.lateRequest m 0x0050 (jobLoadAt m e body po)
  | .resume m c => s.lateRequest m 0x0056 (resumeAt m c)
  | .recordRead m entry count => s.lateRequest m 0x0016 (recordReadAt m entry count)
  | _ => s

/-- Accesses that waited go on, in order (R155, R156, R372), and so does what waits for room in the output queue. -/
def State.unstall (s : State) : State :=
  let t := s.mm.stalled.foldl State.perform { s with mm := { s.mm with stalled := [] } }
  State.outPlace (t.outq.waiting.length + 1) t

/-- SCRUB_COMPLETE (R371, R372): what needed the scrub takes effect, or asks for its authenticated write; then what waited goes on. A
scrub that meets the reset of a core starts anew after it (R469), and one that a hold has ended does not complete. -/
def execScrubComplete (s : State) : Host.Outcome State Fault Refusal :=
  if ¬ s.sec.scrub ∨ ¬ s.rst.dieUp ∨ s.rst.busy ∨ 3 ≤ s.sec.pstate then .next s
  else
    match s.sec.trans with
    | none => .next { s with sec := { s.sec with scrub := false } }.unstall
    | some t =>
      match t with
      | .jobScrub => .next s.jobScrub.endTrans.unstall
      | .jobUnload _ => .next (((s.jobScrub.logUnload s 0).marchTests.transReply t stOk .none).endTrans).unstall
      | .debugOpen l =>
        let s1 := s.jobScrub.logUnload s 0
        .next ((s1.setStates s1.sec.sstate (max l s1.sec.dlevel) s1.sec.pstate).endTrans).unstall
      | _ =>
        let reason := match t with | .quarantine _ => 2 | _ => 1
        let n := s.outq.undrained.length
        let s1 := s.fullScrub.logUnload s reason
        .next { s1 with sec := { s1.sec with scrub := false, discarded := n },
                        nvm := { s1.nvm with writes := s1.nvm.writes ++ [NvmWrite.trans t] } }.unstall

/-- LPDDR_RETRAIN_COMPLETE (R155): what waited for the package goes on, and the next in line may start. -/
def execLpddrRetrainComplete (s : State) : Host.Outcome State Fault Refusal :=
  if s.mm.retrain.isNone then .next s
  else
    let s1 := { s with mm := { s.mm with retrain := none } }.unstall
    .next (s1.usedCores.foldl (fun t k => (t.reissue k).getD t) s1).startRetrain

end Sys2Proof.Machine
end

