-- ==== Sys2Proof/Machine/Dispatch.lean ====
section
/-! DEFINITION. One arm for each command: the meaning it calls. -/

namespace Sys2Proof.Machine

open Sys2Proof

def exec (i : Instr) (s : State) : Host.Outcome State Fault Refusal :=
  match i with
  | .mmul k h c => Sys2Proof.Machine.execMmul k h c s
  | .asweep k h c => Sys2Proof.Machine.execAsweep k h c s
  | .tzero k h c => Sys2Proof.Machine.execTzero k h c s
  | .tfill k h c => Sys2Proof.Machine.execTfill k h c s
  | .taccm k h c => Sys2Proof.Machine.execTaccm k h c s
  | .tstore k h c => Sys2Proof.Machine.execTstore k h c s
  | .epi k h c => Sys2Proof.Machine.execEpi k h c s
  | .gpass k h c => Sys2Proof.Machine.execGpass k h c s
  | .vadd k h c => Sys2Proof.Machine.execVadd k h c s
  | .vsub k h c => Sys2Proof.Machine.execVsub k h c s
  | .vmul k h c => Sys2Proof.Machine.execVmul k h c s
  | .vfma k h c => Sys2Proof.Machine.execVfma k h c s
  | .vmax k h c => Sys2Proof.Machine.execVmax k h c s
  | .vmin k h c => Sys2Proof.Machine.execVmin k h c s
  | .vabs k h c => Sys2Proof.Machine.execVabs k h c s
  | .vneg k h c => Sys2Proof.Machine.execVneg k h c s
  | .vcmp k h c => Sys2Proof.Machine.execVcmp k h c s
  | .vsel k h c => Sys2Proof.Machine.execVsel k h c s
  | .viadd k h c => Sys2Proof.Machine.execViadd k h c s
  | .visub k h c => Sys2Proof.Machine.execVisub k h c s
  | .vcvt k h c => Sys2Proof.Machine.execVcvt k h c s
  | .vexp2 k h c => Sys2Proof.Machine.execVexp2 k h c s
  | .vlog2 k h c => Sys2Proof.Machine.execVlog2 k h c s
  | .vrcp k h c => Sys2Proof.Machine.execVrcp k h c s
  | .vrsqrt k h c => Sys2Proof.Machine.execVrsqrt k h c s
  | .vtanh k h c => Sys2Proof.Machine.execVtanh k h c s
  | .verf k h c => Sys2Proof.Machine.execVerf k h c s
  | .vrsum k h c => Sys2Proof.Machine.execVrsum k h c s
  | .vrmax k h c => Sys2Proof.Machine.execVrmax k h c s
  | .vrmin k h c => Sys2Proof.Machine.execVrmin k h c s
  | .ltclr k h c => Sys2Proof.Machine.execLtclr k h c s
  | .ltaddf k h c => Sys2Proof.Machine.execLtaddf k h c s
  | .ltaddt k h c => Sys2Proof.Machine.execLtaddt k h c s
  | .ltrd k h c => Sys2Proof.Machine.execLtrd k h c s
  | .ltaddm k h c => Sys2Proof.Machine.execLtaddm k h c s
  | .ltst k h c => Sys2Proof.Machine.execLtst k h c s
  | .vld k h c => Sys2Proof.Machine.execVld k h c s
  | .vst k h c => Sys2Proof.Machine.execVst k h c s
  | .trd k h c => Sys2Proof.Machine.execTrd k h c s
  | .move k h c => Sys2Proof.Machine.execMove k h c s
  | .upd k h c => Sys2Proof.Machine.execUpd k h c s
  | .signal k h obj => Sys2Proof.Machine.execSignal k h obj s
  | .wait k h c => Sys2Proof.Machine.execWait k h c s
  | .loop k h creg maxc => Sys2Proof.Machine.execLoop k h creg maxc s
  | .endl k h => Sys2Proof.Machine.execEndl k h s
  | .setc k h creg value => Sys2Proof.Machine.execSetc k h creg value s
  | .ldc k h creg hnd idx => Sys2Proof.Machine.execLdc k h creg hnd idx s
  | .xchg k h c => Sys2Proof.Machine.execXchg k h c s
  | .commit k h => Sys2Proof.Machine.execCommit k h s
  | .stepend k h => Sys2Proof.Machine.execStepend k h s
  | .commandDispatch k tag => Sys2Proof.Machine.execCommandDispatch k tag s
  | .commandComplete k tag => Sys2Proof.Machine.execCommandComplete k tag s
  | .waitSatisfied k => Sys2Proof.Machine.execWaitSatisfied k s
  | .icacheMissFill k poison => Sys2Proof.Machine.execIcacheMissFill k poison s
  | .faultRecord e => Sys2Proof.Machine.execFaultRecord e s
  | .jobLoad m e body poison => Sys2Proof.Machine.execJobLoad m e body poison s
  | .jobLoadComplete => Sys2Proof.Machine.execJobLoadComplete s
  | .jobUnload m => Sys2Proof.Machine.execJobUnload m s
  | .stepBoundary => Sys2Proof.Machine.execStepBoundary s
  | .attemptStart => Sys2Proof.Machine.execAttemptStart s
  | .vote => Sys2Proof.Machine.execVote s
  | .outcomeDecide => Sys2Proof.Machine.execOutcomeDecide s
  | .voteTimeout => Sys2Proof.Machine.execVoteTimeout s
  | .outcomeApply o => Sys2Proof.Machine.execOutcomeApply o s
  | .coordinatorLoss => Sys2Proof.Machine.execCoordinatorLoss s
  | .replicaRestore e => Sys2Proof.Machine.execReplicaRestore e s
  | .stepWatchdog => Sys2Proof.Machine.execStepWatchdog s
  | .reportFifoRead k => Sys2Proof.Machine.execReportFifoRead k s
  | .chunkDecrypt poison => Sys2Proof.Machine.execChunkDecrypt poison s
  | .exchangeSerial tag => Sys2Proof.Machine.execExchangeSerial tag s
  | .exchangeStart tag => Sys2Proof.Machine.execExchangeStart tag s
  | .dataFrameReceive p a block => Sys2Proof.Machine.execDataFrameReceive p a block s
  | .controlFrameReceive p a pkt => Sys2Proof.Machine.execControlFrameReceive p a pkt s
  | .linkFrameReceive p a rs => Sys2Proof.Machine.execLinkFrameReceive p a rs s
  | .dataFrameSend p => Sys2Proof.Machine.execDataFrameSend p s
  | .controlFrameSend p => Sys2Proof.Machine.execControlFrameSend p s
  | .linkFrameSend p => Sys2Proof.Machine.execLinkFrameSend p s
  | .helloFrame p m => Sys2Proof.Machine.execHelloFrame p m s
  | .keyEncapsulation p ok key sig => Sys2Proof.Machine.execKeyEncapsulation p ok key sig s
  | .keyCiphertext p ok cipher sig => Sys2Proof.Machine.execKeyCiphertext p ok cipher sig s
  | .keyEpoch p => Sys2Proof.Machine.execKeyEpoch p s
  | .laneLockLoss p lanes => Sys2Proof.Machine.execLaneLockLoss p lanes s
  | .linkTrainingComplete p lanes => Sys2Proof.Machine.execLinkTrainingComplete p lanes s
  | .portErrorThreshold p => Sys2Proof.Machine.execPortErrorThreshold p s
  | .retuneStart => Sys2Proof.Machine.execRetuneStart s
  | .retuneComplete e => Sys2Proof.Machine.execRetuneComplete e s
  | .lostPortRetry => Sys2Proof.Machine.execLostPortRetry s
  | .podFormation => Sys2Proof.Machine.execPodFormation s
  | .hello m body => Sys2Proof.Machine.execHello m body s
  | .goodbye m => Sys2Proof.Machine.execGoodbye m s
  | .evidence m nonce => Sys2Proof.Machine.execEvidence m nonce s
  | .status m => Sys2Proof.Machine.execStatus m s
  | .logRead m entry count => Sys2Proof.Machine.execLogRead m entry count s
  | .faultRead m seq count => Sys2Proof.Machine.execFaultRead m seq count s
  | .sigFetch m count => Sys2Proof.Machine.execSigFetch m count s
  | .sigAck m upTo => Sys2Proof.Machine.execSigAck m upTo s
  | .recordRead m entry count => Sys2Proof.Machine.execRecordRead m entry count s
  | .regRead m addr => Sys2Proof.Machine.execRegRead m addr s
  | .outqDrain m tail => Sys2Proof.Machine.execOutqDrain m tail s
  | .fwStage m f => Sys2Proof.Machine.execFwStage m f s
  | .fwActivate m => Sys2Proof.Machine.execFwActivate m s
  | .kelgilActivation => Sys2Proof.Machine.execKelgilActivation s
  | .blwStage m f => Sys2Proof.Machine.execBlwStage m f s
  | .siteConfig m e c => Sys2Proof.Machine.execSiteConfig m e c s
  | .bar2Map m first entries => Sys2Proof.Machine.execBar2Map m first entries s
  | .installNonce m => Sys2Proof.Machine.execInstallNonce m s
  | .install m e c => Sys2Proof.Machine.execInstall m e c s
  | .ownerKey m key => Sys2Proof.Machine.execOwnerKey m key s
  | .release m e => Sys2Proof.Machine.execRelease m e s
  | .reclaim m e => Sys2Proof.Machine.execReclaim m e s
  | .keyTable m c poison => Sys2Proof.Machine.execKeyTable m c poison s
  | .factoryEntry m e => Sys2Proof.Machine.execFactoryEntry m e s
  | .factoryExit m e => Sys2Proof.Machine.execFactoryExit m e s
  | .tokenManifest m e c => Sys2Proof.Machine.execTokenManifest m e c s
  | .groupUpdate m e c => Sys2Proof.Machine.execGroupUpdate m e c s
  | .audit m e c => Sys2Proof.Machine.execAudit m e c s
  | .checkpoint m e => Sys2Proof.Machine.execCheckpoint m e s
  | .resume m c => Sys2Proof.Machine.execResume m c s
  | .park m => Sys2Proof.Machine.execPark m s
  | .unpark m => Sys2Proof.Machine.execUnpark m s
  | .dbgOpen1 via => Sys2Proof.Machine.execDbgOpen1 via s
  | .debugClose via => Sys2Proof.Machine.execDebugClose via s
  | .debugNonce via => Sys2Proof.Machine.execDebugNonce via s
  | .debugToken t => Sys2Proof.Machine.execDebugToken t s
  | .debugHalt u => Sys2Proof.Machine.execDebugHalt u s
  | .debugSingleStep u => Sys2Proof.Machine.execDebugSingleStep u s
  | .debugResume u => Sys2Proof.Machine.execDebugResume u s
  | .debugAccess a => Sys2Proof.Machine.execDebugAccess a s
  | .debugResetRequest => Sys2Proof.Machine.execDebugResetRequest s
  | .jtagIdcode => Sys2Proof.Machine.execJtagIdcode s
  | .jtagBypass => Sys2Proof.Machine.execJtagBypass s
  | .jtagSamplePreload => Sys2Proof.Machine.execJtagSamplePreload s
  | .jtagExtest => Sys2Proof.Machine.execJtagExtest s
  | .jtagIntest => Sys2Proof.Machine.execJtagIntest s
  | .test m core => Sys2Proof.Machine.execTest m core s
  | .infieldTestDue k => Sys2Proof.Machine.execInfieldTestDue k s
  | .infieldTestComplete pass => Sys2Proof.Machine.execInfieldTestComplete pass s
  | .testPause k => Sys2Proof.Machine.execTestPause k s
  | .retune m port => Sys2Proof.Machine.execRetune m port s
  | .reset m => Sys2Proof.Machine.execReset m s
  | .replyAck seq => Sys2Proof.Machine.execReplyAck seq s
  | .notificationAck value => Sys2Proof.Machine.execNotificationAck value s
  | .bar2Access off write e => Sys2Proof.Machine.execBar2Access off write e s
  | .fwgo sigOk poison => Sys2Proof.Machine.execFwgo sigOk poison s
  | .kelgilInit e => Sys2Proof.Machine.execKelgilInit e s
  | .attgo => Sys2Proof.Machine.execAttgo s
  | .hifReset value => Sys2Proof.Machine.execHifReset value s
  | .hifOutqTailWrite value => Sys2Proof.Machine.execHifOutqTailWrite value s
  | .hostInterfaceReset src => Sys2Proof.Machine.execHostInterfaceReset src s
  | .seal value => Sys2Proof.Machine.execSeal value s
  | .unseal value => Sys2Proof.Machine.execUnseal value s
  | .upeRptPop k => Sys2Proof.Machine.execUpeRptPop k s
  | .lnkRetuneReq value => Sys2Proof.Machine.execLnkRetuneReq value s
  | .rstCoreGo value => Sys2Proof.Machine.execRstCoreGo value s
  | .rstWdog value => Sys2Proof.Machine.execRstWdog value s
  | .wdog => Sys2Proof.Machine.execWdog s
  | .evcSelWrite blk n value => Sys2Proof.Machine.execEvcSelWrite blk n value s
  | .evcClear blk => Sys2Proof.Machine.execEvcClear blk s
  | .evcCntLoRead blk n => Sys2Proof.Machine.execEvcCntLoRead blk n s
  | .blwPreq value => Sys2Proof.Machine.execBlwPreq value s
  | .registerWrite a value => Sys2Proof.Machine.execRegisterWrite a value s
  | .traceDrain k => Sys2Proof.Machine.execTraceDrain k s
  | .lpddrRetrain channel => Sys2Proof.Machine.execLpddrRetrain channel s
  | .lpddrRefresh => Sys2Proof.Machine.execLpddrRefresh s
  | .standbyStart vin => Sys2Proof.Machine.execStandbyStart vin s
  | .inputValid e => Sys2Proof.Machine.execInputValid e s
  | .pllLock e => Sys2Proof.Machine.execPllLock e s
  | .pllLockLoss => Sys2Proof.Machine.execPllLockLoss s
  | .inputLoss => Sys2Proof.Machine.execInputLoss s
  | .holdComplete => Sys2Proof.Machine.execHoldComplete s
  | .supply => Sys2Proof.Machine.execSupply s
  | .clock => Sys2Proof.Machine.execClock s
  | .shield => Sys2Proof.Machine.execShield s
  | .sensorScan v => Sys2Proof.Machine.execSensorScan v s
  | .grantTick => Sys2Proof.Machine.execGrantTick s
  | .dutyTick pin => Sys2Proof.Machine.execDutyTick pin s
  | .valveControlTick => Sys2Proof.Machine.execValveControlTick s
  | .flowCountTick pulses => Sys2Proof.Machine.execFlowCountTick pulses s
  | .tj1CapReduction => Sys2Proof.Machine.execTj1CapReduction s
  | .tin => Sys2Proof.Machine.execTin s
  | .tout => Sys2Proof.Machine.execTout s
  | .flow => Sys2Proof.Machine.execFlow s
  | .valve => Sys2Proof.Machine.execValve s
  | .bankLow => Sys2Proof.Machine.execBankLow s
  | .icore => Sys2Proof.Machine.execIcore s
  | .bankCrit => Sys2Proof.Machine.execBankCrit s
  | .bus12 => Sys2Proof.Machine.execBus12 s
  | .causeClear c => Sys2Proof.Machine.execCauseClear c s
  | .inputSwitchReclose e => Sys2Proof.Machine.execInputSwitchReclose e s
  | .bellowsWatchdog => Sys2Proof.Machine.execBellowsWatchdog s
  | .nvmReq => Sys2Proof.Machine.execNvmReq s
  | .authenticatedWriteComplete => Sys2Proof.Machine.execAuthenticatedWriteComplete s
  | .scrubComplete => Sys2Proof.Machine.execScrubComplete s
  | .lpddrRetrainComplete => Sys2Proof.Machine.execLpddrRetrainComplete s
  | .standbyOff => Sys2Proof.Machine.execStandbyOff s
  | .perstDeassert => Sys2Proof.Machine.execPerstDeassert s
  | .nvmReqRelease => Sys2Proof.Machine.execNvmReqRelease s
  | .unassignedType m type => Sys2Proof.Machine.execUnassignedType m type s

end Sys2Proof.Machine
end

