-- ==== Sys2Proof/Safety.lean ====
section
/-! DEFINITION. The terms the statements use: what a safe state is, when a command runs at once, and which parts of the
state a command leaves as they were. -/

namespace Sys2Proof.Machine

open Sys2Proof

/-- Memory in its canonical form. -/
def State.memOk (s : State) : Bool := Memory.wf s.mem

/-- A command answers a next state, and the next state has a property. -/
def Completes (i : Instr) (s : State) (p : State → Prop) : Prop := ∃ t, exec i s = .next t ∧ p t

/-! When a command of a program runs at once. -/

/-- Nothing keeps an entry of core `k` between `pre` and `post` from its engine, and its engine from its work: no hazard
and a free place in the engine's queue (R136, R140), every view within its rights (R157, R195), no link buffer to wait for
(R256, R257), every block read or written in part verifies (R381), no checker finds a mismatch, in the tile that leaves the cells for
it either (R101, R131, R245), no byte it reads is one that another core has written without a synchronisation that covers it, and it
overtakes no read of another core in flight (R141). -/
structure Dispatchable (s : State) (k : CoreId) (pre : List Ent) (e : Ent) (post : List Ent) : Prop where
  clear   : s.clear k pre e post = true
  rights  : (s.started k e).violation k e.iter e.ins = none
  buffers : (s.started k e).moveWaits e = false
  reads   : (s.started k e).readFault e = none
  writes  : (s.started k e).badWrite ((s.started k e).writes e.iter e.ins) = none
  stays   : (s.started k e).departing k e = none
  checks  : (s.started k e).found k e.ins = none ∨ checked e.ins = false
  ordered : (s.started k e).racy k e.iter e.ins = []
  first   : (s.started k e).overtaken k (((s.started k e).wrOf k e.tag e.x e.iter e.ins).flatMap (·.spans)) = []

/-- Core `k` takes its next command now: it fetches, nothing waits before it, the in-flight set and the trace FIFO have
room (R135, R485), its line is held or lies in a sealed granule (R143) and in no package under retraining (R155). -/
structure Takes (s : State) (k : CoreId) (i : Instr) : Prop where
  takes : (s.core k).takes = true
  first : (s.core k).waitq = []
  free  : (s.core k).holdsIssue i = false
  near  : s.fetchStalls k = false
  fetch : s.mayFetch k = true

/-- Core `k` issues a command now and its engine runs it at once. -/
structure Ready (s : State) (k : CoreId) (i : Instr) : Prop where
  issues : Takes s k i
  runs   : Dispatchable (s.entered k i) k (s.core k).inflight ((s.core k).entryOf i) []

/-- The state that the engine of a command works on when core `k` issues it now. -/
def State.seen (s : State) (k : CoreId) (i : Instr) : State := (s.entered k i).started k ((s.core k).entryOf i)

/-- The handle that field `f` of a command names in the execution that core `k` issues now (R184). -/
def State.handleNow (s : State) (k : CoreId) (h : Hdr) (f : Nat) (v : W16) : W16 := effHandle h (iterOf (s.core k).loops) f v

/-! What a command leaves as it was. -/

/-- Only the record of core `k` has changed. -/
structure OnlyCore (s t : State) (k : CoreId) : Prop where
  rest   : { t with cores := s.cores } = s
  others : ∀ j, j ≠ k → t.core j = s.core j

/-- Only the record of core `k`, bytes of memory with their check values, the record of writes, and the count of free values have
changed, and blocks written whole are no longer poisoned (R153). -/
structure OnlyCoreMem (s t : State) (k : CoreId) : Prop where
  rest   : { t with cores := s.cores, mem := s.mem, chk := s.chk, race := s.race, free := s.free,
                    mm := { t.mm with poisoned := s.mm.poisoned } } = s
  others : ∀ j, j ≠ k → t.core j = s.core j
  poison : ∀ b ∈ t.mm.poisoned, b ∈ s.mm.poisoned

/-- A core sees every write that was released before the addition that brought an object's count to a target (R186). -/
def Sees (s t : State) (k : CoreId) (obj : W16) (target : W32) : Prop :=
  ∀ n, 0 < target.toInt → (SMap.get [] s.race.adds obj.toNat)[target.toInt.toNat - 1]? = some n →
    n ≤ SMap.get 0 t.race.sees (s.who k)

/-- An address lies outside every one of some byte ranges. -/
def Outside (ss : List Span) (a : Nat) : Prop := ∀ x ∈ ss, a < x.1 ∨ x.1 + x.2 ≤ a

/-- A byte of memory keeps its value when a command writes only the byte ranges `ss`. The byte lies outside them; and its
block has a valid check value or carries none, since a write into a block without one first takes the block as zeros
(R381). -/
def MemKept (s t : State) (ss : List Span) : Prop :=
  ∀ a, Outside ss a → (carriesCheck s (a / 4096 * 4096) = false ∨ entryValid (chkGet s (a / 4096)) = true) →
    memGet t.mem a = memGet s.mem a

/-- The sticky bits and words of every tile register of core `k`. -/
def SameVregs (s t : State) (k : CoreId) : Prop := (t.core k).vregs = (s.core k).vregs

/-- Tally tiles, Long Tally registers, grid slots, count registers, loops and update scalars of core `k`: the registers of
a program beside the tile registers. -/
structure SameRegs (s t : State) (k : CoreId) : Prop where
  tiles : (t.core k).tiles = (s.core k).tiles
  lt    : (t.core k).lt = (s.core k).lt
  gexp  : (t.core k).gexp = (s.core k).gexp
  upe   : (t.core k).upe = (s.core k).upe
  lcnt  : (t.core k).lcnt = (s.core k).lcnt
  loops : (t.core k).loops = (s.core k).loops

/-- Tile registers after a command that writes the words of `vd` and reads `srcs` in a view: the words of every other
register stand, NFIN bits stand, OVF bits rise exactly where a source read out saturates (R110). -/
structure VregsBut (s t : State) (k : CoreId) (vd : VRegId) (view : BitVec 2) (srcs : List Src) : Prop where
  words : ∀ v, v ≠ vd → ((t.core k).vreg v).els = ((s.core k).vreg v).els
  nfin  : ∀ v, ((t.core k).vreg v).nfin = ((s.core k).vreg v).nfin
  ovf   : ∀ v, ((t.core k).vreg v).ovf =
    (((s.core k).vreg v).ovf || srcs.any fun f => decide (f.reg = v) && (s.core k).srcSat view f 64 (viewCols view))

/-- The command stands in the in-flight set, its engine's work done, with what its release is to bring (R137). -/
def InFlight (s t : State) (k : CoreId) (i : Instr) (ph : Phase) (p : Post) : Prop :=
  (t.core k).inflight = (s.core k).inflight ++ [{ (s.core k).entryOf i with phase := ph, post := p }]

/-! Operands as the vector engine reads them. -/

/-- An FP32 source element of core `k` (R109, R110, R114). -/
def State.srcF32 (s : State) (k : CoreId) (c : VecF) (f : Src) (r e : Nat) : FV :=
  f32 (BitVec.ofNat 32 (((s.core k).src 0 c.imm f r e).word 0).1)

/-- A source element as a signed integer of its view, read out (R110). -/
def State.srcInt (s : State) (k : CoreId) (c : VecF) (f : Src) (r e : Nat) : Int :=
  (((s.core k).src c.view c.imm f r e).read c.view).1

/-- An element of a tile register of core `k` in a view. -/
def State.velem (s : State) (k : CoreId) (v : VRegId) (view : BitVec 2) (r e : Nat) : VVal := ((s.core k).vreg v).elem view r e

/-- A value scaled by 2^SE and rounded once to FP32, to nearest, ties to even (R115, R116). -/
def onceF32 (c : VecF) (v : FV) : W32 := toF32 (v.mul (.fin false (pow2 c.se.toInt)))

/-! Where commands store. -/

/-- The bytes that elements at indexes `ps` of a tensor take, with the padding of their last block and their block scales or
exponents (R36, R40, R41, R42). -/
def State.storedSpans (s : State) (d : Desc) (ps : List (List Nat)) : List Span :=
  s.posSpans d (ps ++ if d.blocked then ps.flatMap fun p => (padOf d p).map (·.1) else [])
    ++ (if d.blocked ∧ d.bscale ≠ 0 then s.scaleSpans d ps else [])

/-- The bytes of `m` rows of `n` elements of `w` bytes of a tile tensor (R82). -/
def State.rowSpans (s : State) (h : W16) (m n w : Nat) : List Span := (List.range m).map fun r => (s.rowAddr (s.desc h) r, w * n)

/-- The bytes of the LT320 words of a statistic vector (R98). -/
def State.statSpan (s : State) (h : W16) (n : Nat) : List Span := [(s.basePhys (s.desc h), 40 * n)]

/-- The bytes of the runs of a store. -/
def runSpans (rs : List Run) : List Span := rs.map fun r => (r.1, r.2.length)

/-- Memory after a command that stored `rs` and nothing else. -/
def MemStored (s t : State) (d : Desc) (rs : List Run) : Prop := t.mem = (writeRuns s d.cvp rs).mem ∧ t.chk = (writeRuns s d.cvp rs).chk

/-! Requests of the mailbox. -/

/-- The module takes a request: the mailbox is up and attached, the ring has room, the header is right, no other Kelgil is
taking over (R422-R424, R427, R436). -/
structure Accepts (s : State) (m : Mb) : Prop where
  up      : s.hif.mbxUp = true
  ver     : s.hif.ver ≠ none
  room    : s.hif.open'.length < 256
  header  : s.headerOk m = true
  serving : s.hif.activating = false

/-- The module takes a request that QUARANTINE does not serve. -/
structure AcceptsOut (s : State) (m : Mb) : Prop where
  taken : Accepts s m
  out   : s.sec.sstate ≠ .quarantine

/-- The state in which the effect of a request runs: its SEQ stands in doorbell 0 and among the open ones. -/
def State.taken (s : State) (m : Mb) : State :=
  { s with hif := { s.hif with
      lastSeq := some m.seq, open' := s.hif.open' ++ [m.seq],
      doorbell := if s.sec.pcieFrozen then s.hif.doorbell else s.hif.doorbell.set 0 m.seq } }.mcount 0x018 1

/-- A reply that stands behind those that wait to be acknowledged. Its data go with it, or lie in the output queue where they are more
than 4,080 bytes, and it says how many (R423). -/
def Replied (s t : State) (type : Nat) (seq : W32) (status detail : Nat) (data : Payload) : Prop :=
  ∃ ref, t.hif.replies = s.hif.replies ++ [⟨type, seq, status, detail, data, ref⟩]
    ∧ (data.size ≤ 4080 → ref = none) ∧ (4080 < data.size → ∃ pos, ref = some (pos, data.size))

/-- A request is taken and answered at once: its reply stands behind those that wait to be acknowledged. -/
def Served (i : Instr) (s : State) (m : Mb) (type status detail : Nat) (data : Payload) (p : State → Prop) : Prop :=
  Completes i s fun t =>
    Replied s t type m.seq status detail data ∧ t.hif.lastSeq = some m.seq
      ∧ t.hif.open' = s.hif.open' ++ [m.seq] ∧ p t

/-- A request is taken, and its reply follows when what it asks for is done. -/
def Deferred (i : Instr) (s : State) (m : Mb) (p : State → Prop) : Prop :=
  Completes i s fun t =>
    t.hif.replies = s.hif.replies ∧ t.hif.lastSeq = some m.seq ∧ t.hif.open' = s.hif.open' ++ [m.seq] ∧ p t

/-- A request changes nothing beside the mailbox and the module's event counters. -/
def MailFrame (s t : State) : Prop :=
  { t with mon := s.mon, hif := { t.hif with
      replies := s.hif.replies, lastSeq := s.hif.lastSeq, open' := s.hif.open', doorbell := s.hif.doorbell, msix := s.hif.msix,
      pba := s.hif.pba } } = s

/-- A request changes nothing beside the mailbox and the event counters, but for the place in the output queue that `n` bytes of
reply data take where they exceed 4,080 (R423). Records that have waited may leave with them; where a block of the queue's memory is
poisoned, one that they cover whole is so no more, and one that they cover in part has a record (R153, R154). -/
def DataFrame (s : State) (n : Nat) (t : State) : Prop :=
  ((n ≤ 4080 ∨ s.mm.poisoned = []) → MailFrame s { t with mem := s.mem, outq := s.outq, free := s.free })
    ∧ (n ≤ 4080 → t.mem = s.mem ∧ t.outq = s.outq ∧ t.free = s.free ∧ t.mm = s.mm)
    ∧ (4080 < n → (t.outq.records ++ t.outq.waiting).map (·.units) =
        (s.outq.records ++ s.outq.waiting).map (·.units) ++ [(n + 4095) / 4096] ∧ t.outq.tail = s.outq.tail)

/-- A debug request reaches the island: by an accepted mailbox request, or by the debug port. -/
def Reaches (s : State) (via : Option Mb) : Prop :=
  match via with
  | some m => Accepts s m
  | none => s.dbgUp = true

/-! Links. -/

/-- Nothing of a program waits for a link buffer. -/
structure NothingWaits (s : State) : Prop where
  moves     : ∀ k, ∀ e ∈ (s.core k).inflight, e.phase ≠ .arrive
  exchanges : s.job.xchgs = []

/-! Shapes of statements. -/

/-- The core of a command of a program. -/
def coreOf : Instr → Option CoreId
  | .mmul k _ _ | .asweep k _ _ | .tzero k _ _ | .tfill k _ _ | .taccm k _ _ | .tstore k _ _ | .epi k _ _ | .gpass k _ _
  | .vadd k _ _ | .vsub k _ _ | .vmul k _ _ | .vfma k _ _ | .vmax k _ _ | .vmin k _ _ | .vabs k _ _ | .vneg k _ _
  | .vcmp k _ _ | .vsel k _ _ | .viadd k _ _ | .visub k _ _ | .vcvt k _ _ | .vexp2 k _ _ | .vlog2 k _ _ | .vrcp k _ _
  | .vrsqrt k _ _ | .vtanh k _ _ | .verf k _ _ | .vrsum k _ _ | .vrmax k _ _ | .vrmin k _ _ | .ltclr k _ _ | .ltaddf k _ _
  | .ltaddt k _ _ | .ltrd k _ _ | .ltaddm k _ _ | .ltst k _ _ | .vld k _ _ | .vst k _ _ | .trd k _ _ | .move k _ _
  | .upd k _ _ | .signal k _ _ | .wait k _ _ | .loop k _ _ _ | .endl k _ | .setc k _ _ _ | .ldc k _ _ _ _ | .xchg k _ _
  | .commit k _ | .stepend k _ => some k
  | _ => none

/-- An elementwise F32 command of `n` sources that computes `f`. -/
def ElementwiseF32 (mk : CoreId → Hdr → VecF → Instr) (n : Nat) (f : FV → FV → FV → FV) : Prop :=
  ∀ (s : State) (k : CoreId) (h : Hdr) (c : VecF), Ready s k (mk k h c) →
    Completes (mk k h c) s fun t =>
      (∀ r e, r < 64 → e < 64 → t.velem k c.vd 0 r e =
          ⟨(onceF32 c (f (s.srcF32 k c c.srca r e) (s.srcF32 k c c.srcb r e) (s.srcF32 k c c.srcc r e))).toNat, 0⟩)
        ∧ OnlyCore s t k ∧ SameRegs s t k ∧ VregsBut s t k c.vd 0 ([c.srca, c.srcb, c.srcc].take n)
        ∧ InFlight s t k (mk k h c) .done Post.none

/-- An integer add or subtraction with wrap bytes (R110). -/
def IntegerAdd (mk : CoreId → Hdr → VecF → Instr) (sub : Bool) : Prop :=
  ∀ (s : State) (k : CoreId) (h : Hdr) (c : VecF), Ready s k (mk k h c) →
    Completes (mk k h c) s fun t =>
      (∀ r e, r < 64 → e < viewCols c.view →
        let a := (s.core k).src c.view c.imm c.srca r e
        let b := s.srcInt k c c.srcb r e
        let x := tallyAddAt (viewBits c.view) (a.int c.view) a.wrap (if sub then -b else b);
        (t.velem k c.vd c.view r e).int c.view = x.1 ∧ (t.velem k c.vd c.view r e).wrap = (BitVec.ofInt 8 x.2).toInt)
        ∧ OnlyCore s t k ∧ SameRegs s t k ∧ VregsBut s t k c.vd c.view [c.srcb]
        ∧ InFlight s t k (mk k h c) .done Post.none

/-- A transcendental command that gives `f` of SE and of each element. -/
def Transcendental (mk : CoreId → Hdr → VecF → Instr) (f : Int → FV → W32) : Prop :=
  ∀ (s : State) (k : CoreId) (h : Hdr) (c : VecF), Ready s k (mk k h c) →
    Completes (mk k h c) s fun t =>
      (∀ r e, r < 64 → e < 64 → t.velem k c.vd 0 r e = ⟨(f c.se.toInt (s.srcF32 k c c.srca r e)).toNat, 0⟩)
        ∧ OnlyCore s t k ∧ SameRegs s t k
        ∧ (∀ v, v ≠ c.vd → ((t.core k).vreg v).els = ((s.core k).vreg v).els ∧ ((t.core k).vreg v).nfin = ((s.core k).vreg v).nfin)
        ∧ (((t.core k).vreg c.vd).nfin = true ↔
            ((s.core k).vreg c.vd).nfin = true ∨ ∃ r e, r < 64 ∧ e < 64 ∧ (s.srcF32 k c c.srca r e).isFin = false)

/-- VRMAX and VRMIN: each group of an axis gives its extreme, scaled and rounded once, in the place R119 names, and every
other element of VD stands. The sticky OVF of the source rises where an element that the reduction reads saturates (R110). -/
def Extreme (mk : CoreId → Hdr → VecF → Instr) (f : W32 → W32 → W32) : Prop :=
  ∀ (s : State) (k : CoreId) (h : Hdr) (c : VecF), Ready s k (mk k h c) →
    let word := fun (p : Nat × Nat) => BitVec.ofNat 32 (((s.core k).src 0 c.imm c.srca p.1 p.2).word 0).1
    Completes (mk k h c) s fun t =>
      (∀ g ∈ redGroups 0 c.axis c.nm1.toNat, ∀ p ps, g.2 = p :: ps →
          t.velem k c.vd 0 g.1.1 g.1.2 = ⟨(onceF32 c (f32 ((ps.map word).foldl f (f (word p) (word p))))).toNat, 0⟩)
        ∧ (∀ r e, r < 64 → e < 64 → (∀ g ∈ redGroups 0 c.axis c.nm1.toNat, g.1 ≠ (r, e)) →
            t.velem k c.vd 0 r e = s.velem k c.vd 0 r e)
        ∧ OnlyCore s t k ∧ SameRegs s t k ∧ (∀ v, v ≠ c.vd → ((t.core k).vreg v).els = ((s.core k).vreg v).els)
        ∧ (∀ v, ((t.core k).vreg v).nfin = ((s.core k).vreg v).nfin)
        ∧ ∀ v, ((t.core k).vreg v).ovf = (((s.core k).vreg v).ovf || (decide (c.srca.reg = v)
            && if c.axis = 3 then decide (c.srca.kind ≠ 3)
                && (redGroups 0 c.axis c.nm1.toNat).any fun g => g.2.any fun p => decide (((s.core k).src 0 c.imm c.srca p.1 p.2).wrap ≠ 0)
              else (s.core k).srcSat 0 c.srca 64 64))

/-- The sum of the finite values of a group in units of 2^-149. -/
def exactUnits (vs : List FV) : Int := (vs.map fun v => if v.isFin then ltUnits v.toRat else 0).sum

end Sys2Proof.Machine
end

