-- ==== Sys2Proof/Certificates/Slice0/Obligations.lean ====
section
/-! DEFINITION. What is claimed of the model, for the provers: one proposition each. -/

open Sys2Proof Sys2Proof.Machine

/-! The block. -/

/-- One step runs the command at the front of the queue on the state with the queue's rest, and with no command waiting it
changes nothing (the form of this model as a block; log 1). -/
def Obligations.StepRunsFront : Prop :=
  (∀ (s : State) (c : Instr) (cs : List Instr), s.pending = c :: cs → step s = exec c { s with pending := cs })
    ∧ ∀ s : State, s.pending = [] → step s = .next s

/-! Issue and dispatch (R135, R136). -/

/-- A command that its core does not take (frozen, in reset, halted, not fetching) changes nothing; one behind others that
wait to issue joins them, and so does one that finds 512 commands in flight, or a full trace FIFO under STALL, or whose line has to
come from a package under retraining or from a block that fails its MAC (R135, R154, R155, R485).
A command that a hazard keeps from its engine stands in flight and changes no register and no memory (R136, R140). An engine
with checkers of its own that finds a mismatch holds the command (an UPD apart, whose rows before the failing one are written): no
register or byte it would have written has changed, and a fault record stands in the ring (R104, R132, R389). -/
def Obligations.CommandsHeld : Prop :=
  ((∀ (s : State) (k : CoreId) (i : Instr), coreOf i = some k →
        ((s.core k).takes = false → exec i s = .next s)
        ∧ ((s.core k).takes = true → ((s.core k).waitq ≠ [] ∨ (s.core k).holdsIssue i = true ∨ s.fetchStalls k = true) →
            exec i s = .next (s.modCore k fun c => { c with waitq := c.waitq ++ [i] })))
    ∧ (∀ (s : State) (k : CoreId) (i : Instr), coreOf i = some k → (engOf i).isSome = true → Takes s k i →
        (s.entered k i).clear k (s.core k).inflight ((s.core k).entryOf i) [] = false →
        Completes i s fun t => OnlyCore s t k ∧ SameRegs s t k ∧ SameVregs s t k ∧ InFlight s t k i .issued Post.none))
  ∧ (∀ (s : State) (k : CoreId) (i : Instr) (f : ChkFail), coreOf i = some k → checked i = true → (∀ h c, i ≠ .upd k h c) →
      (s.seen k i).found k i = some f → (s.seen k i).departing k ((s.core k).entryOf i) = none → Takes s k i →
      (s.entered k i).clear k (s.core k).inflight ((s.core k).entryOf i) [] = true →
      (s.seen k i).violation k (iterOf (s.core k).loops) i = none →
      (s.seen k i).readFault ((s.core k).entryOf i) = none →
      (s.seen k i).badWrite ((s.seen k i).writes (iterOf (s.core k).loops) i) = none →
      s.rings.fault.length < 16384 →
      Completes i s fun t =>
        t.mem = s.mem ∧ SameVregs s t k ∧ (t.core k).tiles = (s.core k).tiles ∧ (t.core k).lt = (s.core k).lt
          ∧ InFlight s t k i .held Post.none
          ∧ ∃ r, t.rings.fault = s.rings.fault ++ [r] ∧ r.tag = (hdrOf i).tag ∧ r.core = coreField ((s.seen k i).runsOn k i)
            ∧ r.seq = s.rings.seq)

/-! Vector arithmetic (R109-R117). -/

/-- VADD, VSUB, VMUL, VFMA, VMAX, VMIN, VABS and VNEG: every element of VD is the exact result times 2^SE, rounded once;
nothing else changes but the sticky OVF of a source that saturates. -/
def Obligations.VectorArithmetic : Prop :=
  ElementwiseF32 .vadd 2 (fun a b _ => a.add b) ∧ ElementwiseF32 .vsub 2 (fun a b _ => a.add b.neg)
    ∧ ElementwiseF32 .vmul 2 (fun a b _ => a.mul b) ∧ ElementwiseF32 .vfma 3 (fun a b d => (a.mul b).add d)
    ∧ ElementwiseF32 .vmax 2 (fun a b _ => f32 (fmax (toF32 a) (toF32 b)))
    ∧ ElementwiseF32 .vmin 2 (fun a b _ => f32 (fmin (toF32 a) (toF32 b)))
    ∧ ElementwiseF32 .vabs 1 (fun a _ _ => a.abs) ∧ ElementwiseF32 .vneg 1 (fun a _ _ => a.neg)

/-- VCMP gives 1 or 0 in I32 by the comparison of its view, and VSEL moves the word of SRCA or SRCB by an I32 mask (R117). Views
F32 and I32 are the ones R117 gives them. VIADD and VISUB start from SRCA with its wrap byte and add or subtract SRCB as it is
read out (R110). -/
def Obligations.VectorSelectsAndIntegerAdds : Prop :=
  (∀ (s : State) (k : CoreId) (h : Hdr) (c : VecF), (c.view = 0 ∨ c.view = 1) → Ready s k (.vcmp k h c) →
    Completes (.vcmp k h c) s fun t =>
      (∀ r e, r < 64 → e < 64 →
        let a := BitVec.ofNat 32 (((s.core k).src c.view c.imm c.srca r e).word c.view).1
        let b := BitVec.ofNat 32 (((s.core k).src c.view c.imm c.srcb r e).word c.view).1
        t.velem k c.vd 1 r e =
          ⟨if (if c.view = 0 then cmpF32 c.fn.toNat a b else cmpFn c.fn.toNat a.toInt b.toInt) then 1 else 0, 0⟩)
        ∧ OnlyCore s t k ∧ SameRegs s t k ∧ VregsBut s t k c.vd c.view [c.srca, c.srcb]
        ∧ InFlight s t k (.vcmp k h c) .done Post.none)
  ∧ (∀ (s : State) (k : CoreId) (h : Hdr) (c : VecF), (c.view = 0 ∨ c.view = 1) → Ready s k (.vsel k h c) →
    Completes (.vsel k h c) s fun t =>
      (∀ r e, r < 64 → e < 64 → t.velem k c.vd c.view r e =
        ⟨((s.core k).src c.view c.imm (if ((s.core k).src 1 c.imm c.srcc r e).bits ≠ 0 then c.srca else c.srcb) r e).bits, 0⟩)
        ∧ OnlyCore s t k ∧ SameRegs s t k ∧ VregsBut s t k c.vd c.view []
        ∧ InFlight s t k (.vsel k h c) .done Post.none)
  ∧ (IntegerAdd .viadd false ∧ IntegerAdd .visub true)

/-- VCVT: F32 to I32 to nearest even, saturating, its flags in VD; I32 to F32; and I32 elements 0 to 31 of a row to I64
(R50, R117). -/
def Obligations.VectorConverts : Prop :=
  ∀ (s : State) (k : CoreId) (h : Hdr) (c : VecF), Ready s k (.vcvt k h c) →
    let g := fun (r e : Nat) => BitVec.ofNat 32 (((s.core k).src c.view c.imm c.srca r e).word c.view).1
    let one := fun (r e : Nat) => toI32 ((f32 (g r e)).mul (.fin false (pow2 c.se.toInt)));
    (c.fn = 0 → c.view = 0 → Completes (.vcvt k h c) s fun t =>
      (∀ r e, r < 64 → e < 64 → t.velem k c.vd 1 r e = ⟨(BitVec.ofInt 32 (one r e).1).toNat, 0⟩)
        ∧ OnlyCore s t k ∧ SameRegs s t k
        ∧ (∀ v, v ≠ c.vd → ((t.core k).vreg v).els = ((s.core k).vreg v).els)
        ∧ (((t.core k).vreg c.vd).nfin = true ↔
            ((s.core k).vreg c.vd).nfin = true ∨ ∃ r e, r < 64 ∧ e < 64 ∧ (one r e).2.nfin = true)
        ∧ (((t.core k).vreg c.vd).ovf = true ↔
            ((s.core k).vreg c.vd).ovf = true ∨ (c.srca.reg = c.vd ∧ (s.core k).srcSat 0 c.srca 64 64 = true)
              ∨ ∃ r e, r < 64 ∧ e < 64 ∧ (one r e).2.ovf = true))
    ∧ (c.fn = 1 → c.view = 1 → Completes (.vcvt k h c) s fun t =>
      (∀ r e, r < 64 → e < 64 → t.velem k c.vd 0 r e = ⟨(toF32 (FV.ofRat (((g r e).toInt : Int) : ℚ))).toNat, 0⟩)
        ∧ OnlyCore s t k ∧ SameRegs s t k ∧ VregsBut s t k c.vd 1 [c.srca])
    ∧ (c.fn = 2 → c.view = 1 → Completes (.vcvt k h c) s fun t =>
      (∀ r e, r < 64 → e < 32 → (t.velem k c.vd 2 r e).int 2 = (g r e).toInt ∧ (t.velem k c.vd 2 r e).wrap = 0)
        ∧ OnlyCore s t k ∧ SameRegs s t k
        ∧ (∀ v, v ≠ c.vd → ((t.core k).vreg v).els = ((s.core k).vreg v).els)
        ∧ (∀ v, ((t.core k).vreg v).nfin = ((s.core k).vreg v).nfin)
        ∧ ∀ v, ((t.core k).vreg v).ovf =
            (((s.core k).vreg v).ovf || (decide (c.srca.reg = v) && (s.core k).srcSat 1 c.srca 64 32)))

/-- VEXP2, VLOG2, VRCP, VRSQRT, VTANH and VERF: the function of each element, and NFIN of VD where one is an infinity or a
NaN (R124-R130). VRCP of a finite value that is not zero is 2^SE divided by it, rounded once; of a zero it is the infinity of
its sign, of an infinity the zero of its sign, of a NaN the canonical NaN (R115, R128, R130). -/
def Obligations.TranscendentalCommands : Prop :=
  (Transcendental .vexp2 vexp2 ∧ Transcendental .vlog2 vlog2 ∧ Transcendental .vrcp vrcp ∧ Transcendental .vrsqrt vrsqrt
      ∧ Transcendental .vtanh vtanh ∧ Transcendental .verf verf)
  ∧ (∀ (se : Int) (sg : Bool) (a : ℚ), 0 < a →
      vrcp se (.fin sg a) = toF32 (.fin sg (pow2 se / a)) ∧ vrcp se (.fin sg 0) = inf32 sg
        ∧ vrcp se (.inf sg) = (if sg then 0x80000000#32 else 0) ∧ vrcp se .nan = nan32)

/-! Reductions and long sums (R119-R122). -/

/-- VRMAX and VRMIN. VRSUM with ACC 0 in the F32 view: the exact sum of each group, in the Long Tally register LTR of the
group's lane and, rounded once, in the place of VD; with ACC 0 in an integer view the sum with its wrap byte; with ACC 2 the
sum by COMP (R119, R120). Other elements of VD stand. -/
def Obligations.VectorReductions : Prop :=
  (Extreme .vrmax fmax ∧ Extreme .vrmin fmin)
  ∧ (∀ (s : State) (k : CoreId) (h : Hdr) (c : VecF), Ready s k (.vrsum k h c) →
      let gs := redGroups c.view c.axis c.nm1.toNat
      let word := fun (p : Nat × Nat) => BitVec.ofNat 32 (((s.core k).src c.view c.imm c.srca p.1 p.2).word c.view).1;
      (c.acc = 0 → c.view = 0 → Completes (.vrsum k h c) s fun t =>
        (∀ g ∈ gs,
            ((t.core k).ltReg (redLane c.axis g.1) c.ltr.val).w = BitVec.ofInt 320 (exactUnits (g.2.map fun p => f32 (word p)))
            ∧ t.velem k c.vd 0 g.1.1 g.1.2 =
                ⟨(ltToF32 (BitVec.ofInt 320 (exactUnits (g.2.map fun p => f32 (word p)))) c.se.toInt).1.toNat, 0⟩)
          ∧ (∀ r e, r < 64 → e < 64 → (∀ g ∈ gs, g.1 ≠ (r, e)) → t.velem k c.vd 0 r e = s.velem k c.vd 0 r e)
          ∧ (∀ v, v ≠ c.vd → ((t.core k).vreg v).els = ((s.core k).vreg v).els)
          ∧ t.mem = s.mem ∧ OnlyCoreMem s t k)
      ∧ (c.acc = 0 → c.view ≠ 0 → Completes (.vrsum k h c) s fun t =>
        (∀ g ∈ gs,
            let x := (g.2.map fun p => s.srcInt k c c.srca p.1 p.2).foldl
              (fun (a : Int × Int) b => tallyAddAt (viewBits c.view) a.1 a.2 b) (0, 0);
            (t.velem k c.vd c.view g.1.1 g.1.2).int c.view = x.1
              ∧ (t.velem k c.vd c.view g.1.1 g.1.2).wrap = (BitVec.ofInt 8 x.2).toInt)
          ∧ (t.core k).lt = (s.core k).lt ∧ t.mem = s.mem)
      ∧ (c.acc = 2 → c.view = 0 → Completes (.vrsum k h c) s fun t =>
        (∀ g ∈ gs, t.velem k c.vd 0 g.1.1 g.1.2 =
            ⟨(if c.axis = 1 then compCol (g.2.map word) c.se.toInt else compSum (g.2.map word) c.se.toInt).toNat, 0⟩)
          ∧ (t.core k).lt = (s.core k).lt ∧ t.mem = s.mem))

/-- LTCLR, LTADDF, LTADDT and LTRD (R122); LTADDF sets OVF of its source where an element it reads saturates, and NFIN where one is
no number (R110, R111). The bound on the weight is that of R66, beyond which the word is undefined. -/
def Obligations.LongTallyCommands : Prop :=
  (∀ (s : State) (k : CoreId) (h : Hdr) (c : VecF), Ready s k (.ltclr k h c) → Completes (.ltclr k h c) s fun t =>
    (∀ l, l < 64 → (t.core k).ltReg l c.ltr.val = LtEl.zero)
      ∧ (∀ l q, l < 64 → q < 4 → q ≠ c.ltr.val → (t.core k).ltReg l q = (s.core k).ltReg l q)
      ∧ OnlyCore s t k ∧ SameVregs s t k)
  ∧ (∀ (s : State) (k : CoreId) (h : Hdr) (c : VecF), (c.srca.kind = 1 ∨ c.srca.kind = 2) → Ready s k (.ltaddf k h c) →
    Completes (.ltaddf k h c) s fun t =>
      (∀ l, l < 64 →
        let x := f32 (ltLaneEl (s.core k) c l)
        let old := (s.core k).ltReg l c.ltr.val;
        (x.isFin = true → old.weight + 1 ≤ 2 ^ 42 →
          ((t.core k).ltReg l c.ltr.val).w = old.w + BitVec.ofInt 320 (ltUnits (x.toRat * pow2 c.se.toInt)))
        ∧ (x.isFin = false → (t.core k).ltReg l c.ltr.val = old))
        ∧ (∀ l q, l < 64 → q < 4 → q ≠ c.ltr.val → (t.core k).ltReg l q = (s.core k).ltReg l q)
        ∧ (∀ v, ((t.core k).vreg v).els = ((s.core k).vreg v).els
            ∧ ((t.core k).vreg v).ovf = (((s.core k).vreg v).ovf || (decide (c.srca.reg = v) && (s.core k).srcSat 0 c.srca 64 64))
            ∧ (((t.core k).vreg v).nfin = true ↔ ((s.core k).vreg v).nfin = true
                ∨ (c.srca.reg = v ∧ ∃ l, l < 64 ∧ (f32 (ltLaneEl (s.core k) c l)).isFin = false))) ∧ t.mem = s.mem)
  ∧ (∀ (s : State) (k : CoreId) (h : Hdr) (c : VecF), Ready s k (.ltaddt k h c) → Completes (.ltaddt k h c) s fun t =>
    (((s.core k).ltReg 0 c.ltr.val).weight + 63 * 2 ^ 32 ≤ 2 ^ 42 →
      ((t.core k).ltReg 0 c.ltr.val).w =
        BitVec.ofInt 320 (((s.core k).ltReg 0 c.ltr.val).w.toInt
          + ((List.range 63).map fun l => (ltRead ((s.core k).ltReg (l + 1) c.ltr.val).w).1).sum))
      ∧ (∀ l q, l < 64 → q < 4 → (l ≠ 0 ∨ q ≠ c.ltr.val) → (t.core k).ltReg l q = (s.core k).ltReg l q)
      ∧ SameVregs s t k ∧ t.mem = s.mem)
  ∧ (∀ (s : State) (k : CoreId) (h : Hdr) (c : VecF), (c.srca.kind = 1 ∨ c.srca.kind = 2) → Ready s k (.ltrd k h c) →
    Completes (.ltrd k h c) s fun t =>
      (∀ l, l < 64 →
        (if c.srca.kind = 1 then t.velem k c.vd 0 c.srca.index.val l else t.velem k c.vd 0 l c.srca.index.val) =
          ⟨(ltToF32 ((s.core k).ltReg l c.ltr.val).w c.se.toInt).1.toNat, 0⟩)
        ∧ (t.core k).lt = (s.core k).lt ∧ OnlyCore s t k
        ∧ (∀ v, v ≠ c.vd → (t.core k).vreg v = (s.core k).vreg v))

/-! Matrix commands. -/

/-- TZERO makes every word and wrap byte of its tile zero and every anchor empty (R172). TFILL replaces a tile by the words of
a T128 tensor, and its anchors by those of an anchor tensor; wrap bytes are zero and what lies outside the extents is zero
(R81, R82). Neither changes another register or memory. -/
def Obligations.TileLoads : Prop :=
  (∀ (s : State) (k : CoreId) (h : Hdr) (c : TileMemF), Ready s k (.tzero k h c) → Completes (.tzero k h c) s fun t =>
      (t.core k).tile c.tile.val = { Tile.zero with kind := c.kind, used := [(128, 128)] }
        ∧ (∀ q, q ≠ c.tile.val → (t.core k).tile q = (s.core k).tile q)
        ∧ OnlyCore s t k ∧ SameVregs s t k ∧ (t.core k).lt = (s.core k).lt)
  ∧ (∀ (s : State) (k : CoreId) (h : Hdr) (c : TileMemF),
      let d := s.desc (s.handleNow k h 0 c.h)
      let ha := s.handleNow k h 1 c.hanc
      d.fmt = some .t128 → d.alay = false → c.kind ≠ 3 → Ready s k (.tfill k h c) → Completes (.tfill k h c) s fun t =>
        (∀ r j, r < 128 → j < 128 → SMap.get TEl.zero ((t.core k).tile c.tile.val).els (128 * r + j) =
            if r < d.extent 1 ∧ j < d.extent 0 then
              { w := BitVec.ofNat 128 (if c.kind = 2 then s.tileWord d r j % 2 ^ 32 else s.tileWord d r j), wrap := 0,
                anc := if c.kind = 1 then s.anchorAt ha r j else 0x8000#16, rho := 0 }
            else TEl.zero)
          ∧ ((t.core k).tile c.tile.val).kind = c.kind ∧ ((t.core k).tile c.tile.val).sat = false
          ∧ ((t.core k).tile c.tile.val).anch = false
          ∧ (∀ q, q ≠ c.tile.val → (t.core k).tile q = (s.core k).tile q)
          ∧ OnlyCore s t k ∧ SameVregs s t k)

/-- TACCM adds the words of a T128 tensor into a tile by tally_add; in an anchored tile an element whose partial anchor
differs is not added and sets ANCH (R62, R80). -/
def Obligations.TileAccumulate : Prop :=
  ∀ (s : State) (k : CoreId) (h : Hdr) (c : TileMemF),
    let d := s.desc (s.handleNow k h 0 c.h)
    let ha := s.handleNow k h 1 c.hanc
    let old := (s.core k).tile c.tile.val
    let el := fun (r j : Nat) => SMap.get TEl.zero old.els (128 * r + j)
    let fits := fun (r j : Nat) => old.kind ≠ 1 ∨ s.anchorAt ha r j = (el r j).anc
    d.fmt = some .t128 → d.alay = false → old.kind ≠ 2 → Ready s k (.taccm k h c) → Completes (.taccm k h c) s fun t =>
      (∀ r j, r < 128 → j < 128 →
        (r < d.extent 1 ∧ j < d.extent 0 ∧ fits r j →
          SMap.get TEl.zero ((t.core k).tile c.tile.val).els (128 * r + j) =
            (el r j).add (BitVec.ofNat 128 (s.tileWord d r j)).toInt)
        ∧ (¬ (r < d.extent 1 ∧ j < d.extent 0 ∧ fits r j) →
          SMap.get TEl.zero ((t.core k).tile c.tile.val).els (128 * r + j) = el r j))
        ∧ (((t.core k).tile c.tile.val).anch = true ↔
            old.anch = true ∨ ∃ r j, r < 128 ∧ j < 128 ∧ r < d.extent 1 ∧ j < d.extent 0 ∧ ¬ fits r j)
        ∧ (∀ q, q ≠ c.tile.val → (t.core k).tile q = (s.core k).tile q)
        ∧ OnlyCore s t k ∧ SameVregs s t k

/-- TSTORE writes the readout of every element of the extents raw, and the anchors of an anchored tile; a readout that
saturates sets SAT of the tile and, at release, OVF of the tensor (R63, R82). No other byte changes. -/
def Obligations.TileStore : Prop :=
  ∀ (s : State) (k : CoreId) (h : Hdr) (c : TileMemF),
    let hh := s.handleNow k h 0 c.h
    let ha := s.handleNow k h 1 c.hanc
    let d := s.desc hh
    let old := (s.core k).tile c.tile.val
    let m := d.extent 1
    let n := d.extent 0
    let sat := ∃ r j, r < m ∧ j < n ∧ ((SMap.get TEl.zero old.els (128 * r + j)).raw old.kind).2 = true
    d.fmt = some .t128 → d.alay = false → n ≤ 128 → m ≤ 128 → Ready s k (.tstore k h c) → Completes (.tstore k h c) s fun t =>
      (old.kind ≠ 1 ∨ ha = 0 → MemStored s t d (s.tileRuns d old m n))
        ∧ (old.kind = 1 → ha ≠ 0 →
            t.mem = (writeRuns (writeRuns s d.cvp (s.tileRuns d old m n)) (s.desc ha).cvp (s.anchorRuns (s.desc ha) old m n)).mem)
        ∧ MemKept s t (s.rowSpans hh m n 16 ++ if old.kind = 1 then s.rowSpans ha m n 2 else [])
        ∧ (sat → ((t.core k).tile c.tile.val).sat = true) ∧ ((t.core k).tile c.tile.val).els = old.els
        ∧ (¬ sat → ((t.core k).tile c.tile.val) = old)
        ∧ (∃ p, InFlight s t k (.tstore k h c) .done p ∧ (hh ∈ p.ovf ↔ sat ∨ old.anch = true) ∧ (hh, true) ∈ p.wrote)
        ∧ OnlyCoreMem s t k ∧ SameVregs s t k

/-- MMUL. In EXACT mode every product is added exactly: each element inside M × N is what it held (zero under OVW) with its
products over [K0, K1) added one by one by tally_add, window terms in an anchored tile (R68, R73); for two narrow operands whose
magnitudes keep below 2^127 its word is then the exact sum and its wrap byte stays zero. In every mode the tile is that of the
accumulation mode; words outside M × N, other tiles, other registers and memory stand. -/
def Obligations.MatrixMultiply : Prop :=
  ∀ (s : State) (k : CoreId) (h : Hdr) (c : MmulF) (o : Ops2),
    let old := (s.core k).tile c.tile.val
    let el := fun (r j : Nat) => SMap.get TEl.zero old.els (128 * r + j)
    let ps := fun (r j : Nat) => products (o.a.getD r []) (o.b.getD j [])
    let anchor := fun (i j : Nat) =>
      if c.ans then s.anchorAt (s.handleNow k h 2 c.hanc) i j else anchorOf (o.a.getD i []) (o.b.getD j [])
    s.ops2 (s.handleNow k h 0 c.ha) (s.handleNow k h 1 c.hb) c.ta c.tb c.k0 c.k1 = some o → modeOk o.fam c.acc c.csz = true →
    (c.ovw = true ∨ old.kind = mmulKind o.fam c.acc) → Ready s k (.mmul k h c) → Completes (.mmul k h c) s fun t =>
      (t.core k).tile c.tile.val = mmulTile (o.anchored c (s.handleNow k h 2 c.hanc)) c anchor s.free old
        ∧ (c.acc = 0 → ∀ r j, r < o.m → j < o.n →
            let e0 : TEl := if c.ovw then ⟨0, 0, if o.fam = .bx then anchor r j else 0x8000#16, 0⟩ else el r j
            let pairs := (List.zip (o.a.getD r []) (o.b.getD j [])).filter fun p => takesPart p.1 p.2
            let qs := pairs.map fun p => anchorTerm p.1.v p.2.v ((p.1.x + p.2.x : Nat) : Int) e0.anc.toInt
            let x := SMap.get TEl.zero ((t.core k).tile c.tile.val).els (128 * r + j);
            (o.fam ≠ .bx → x = (ps r j).foldl TEl.add e0)
              ∧ (o.fam = .bx → (∀ q ∈ qs, q.natAbs ≤ 2 ^ 127) → x.w = (qs.foldl TEl.add e0).w ∧ x.wrap = (qs.foldl TEl.add e0).wrap
                  ∧ x.anc = e0.anc))
        ∧ (c.acc = 0 → o.fam ≠ .bx → ∀ r j, r < o.m → j < o.n →
            let start : Int := if c.ovw then 0 else (el r j).w.toInt;
            (c.ovw = true ∨ (el r j).wrap = 0) → (start.natAbs : Int) + ((ps r j).map fun p => (p.natAbs : Int)).sum < 2 ^ 127 →
            (SMap.get TEl.zero ((t.core k).tile c.tile.val).els (128 * r + j)).w.toInt = start + (ps r j).sum
              ∧ (SMap.get TEl.zero ((t.core k).tile c.tile.val).els (128 * r + j)).wrap = 0)
        ∧ (∀ r j, r < 128 → j < 128 → (o.m ≤ r ∨ o.n ≤ j) →
            SMap.get TEl.zero ((t.core k).tile c.tile.val).els (128 * r + j) = el r j)
        ∧ (∀ q, q ≠ c.tile.val → (t.core k).tile q = (s.core k).tile q)
        ∧ t.mem = s.mem ∧ t.chk = s.chk ∧ OnlyCoreMem s t k ∧ SameVregs s t k ∧ (t.core k).lt = (s.core k).lt

/-- ASWEEP writes, for every output element, the anchor of the K range, and no other byte (R72, R74). -/
def Obligations.AnchorSweep : Prop :=
  ∀ (s : State) (k : CoreId) (h : Hdr) (c : AsweepF) (o : Ops2),
    let d := s.desc (s.handleNow k h 2 c.hanc)
    let rs := (List.range o.m).map fun i =>
      (s.rowAddr d i, (List.range o.n).flatMap fun j => leBytes 2 (anchorOf (o.a.getD i []) (o.b.getD j [])).toNat)
    s.ops2 (s.handleNow k h 0 c.ha) (s.handleNow k h 1 c.hb) c.ta c.tb c.k0 c.k1 = some o → o.fam = .bx → d.alay = true →
    d.fmt = some .t128 → Ready s k (.asweep k h c) → Completes (.asweep k h c) s fun t =>
      MemStored s t d rs ∧ MemKept s t (runSpans rs) ∧ OnlyCoreMem s t k ∧ SameRegs s t k ∧ SameVregs s t k

/-- EPI completes for every format of its destination. A readout that saturates sets SAT of the tile and OVF of HD; into T128
the raw words are written, into a grid format each contribution under the slot's exponent, overwriting or adding, into any
other format the conversion of every scaled value; without STAT nothing else is written, with it the two vectors of
statistics (R94-R98, R277). -/
def Obligations.EpilogueCompletes : Prop :=
  ∀ (s : State) (k : CoreId) (h : Hdr) (c : EpiF) (f : Fmt),
    let hd := s.handleNow k h 0 c.hd
    let hsr := s.handleNow k h 1 c.hsr
    let hsc := s.handleNow k h 2 c.hsc
    let d := s.desc hd
    let m := d.extent 1
    let n := d.extent 0
    let old := (s.core k).tile c.tile.val
    let el := fun (r j : Nat) => SMap.get TEl.zero old.els (128 * r + j)
    let sat := ∃ r j, r < m ∧ j < n ∧ (if f = .t128 then (el r j).raw old.kind else ((0 : Nat), ((el r j).value old.kind).2)).2 = true
    let vals : List StatEl := (boxPos 0 n 0 m).map fun p =>
      (p.getD 1 0, p.getD 0 0, match scaleOk (s.scaleRec c.sa.toNat).1, scaleOk (s.scaleRec c.sb.toNat).1 with
        | some a, some b => ((el (p.getD 1 0) (p.getD 0 0)).value old.kind).1.mul (FV.ofRat (a * b))
        | _, _ => .fin false 0)
    let e := (s.core k).entryOf (.epi k h c)
    let add := decide (f = .g64 ∧ (c.gmode = 1 ∨ (c.gmode = 2 ∧ ixIter h (iterOf (s.core k).loops) ≠ 0)))
    let stored := (if f = .t128 then s.rowSpans hd m n 16 else s.storedSpans d (boxPos 0 n 0 m))
      ++ if c.stat then s.statSpan hsr m ++ s.statSpan hsc n else []
    d.fmt = some f → f ≠ .lt320 → d.alay = false → m ≤ 128 → n ≤ 128 →
    (f.grid = true → (s.slotOf k c.gslot.toNat).isSome = true) → Ready s k (.epi k h c) → Completes (.epi k h c) s fun t =>
      MemKept s t stored
        ∧ (c.stat = false → f = .t128 → MemStored s t d (s.tileRuns d old m n))
        ∧ (c.stat = false → f.grid = true → ∀ sl, s.slotOf k c.gslot.toNat = some sl →
            t.mem = (epiGrid (s.seen k (.epi k h c)) k e hd d f.bits sl add vals Post.none).st.mem)
        ∧ (c.stat = false → f ≠ .t128 → f.grid = false →
            t.mem = (epiConvert (s.seen k (.epi k h c)) e hd d f vals Post.none).st.mem)
        ∧ ((t.core k).tile c.tile.val).els = old.els ∧ (((t.core k).tile c.tile.val).sat = true ↔ old.sat = true ∨ sat)
        ∧ (∀ q, q ≠ c.tile.val → (t.core k).tile q = (s.core k).tile q)
        ∧ (∃ p, InFlight s t k (.epi k h c) .done p ∧ (sat ∨ old.anch = true → hd ∈ p.ovf))
        ∧ OnlyCoreMem s t k ∧ SameVregs s t k ∧ (t.core k).lt = (s.core k).lt

/-- The word EPI writes for one element of a grid tensor (R277, R278): the rounded multiple of 2^E, limited to the word's
symmetric range, with OVF where it was limited; an infinity gives the limit of its sign with NFIN, a NaN gives zero
with NFIN; and OVF too where the magnitude exceeds BMAX. -/
def Obligations.GridContribution : Prop :=
  ∀ (g : GExp) (w : Nat) (rd : Rnd), 2 ≤ w →
    let lim : Int := 2 ^ (w - 1) - 1
    let bmax : Nat := g.bmaxlo.toNat + 2 ^ 32 * g.bmaxhi.toNat;
    (∀ v, let c := gridContrib g w rd v;
      -lim ≤ c.1 ∧ c.1 ≤ lim ∧ (c.2.2.2 = true ↔ bmax < c.1.natAbs) ∧ (c.2.2.2 = true → c.2.1.ovf = true))
    ∧ (∀ sg a, 0 ≤ a → let q := (rd.step (a * pow2 (-g.e.toInt)) : Int)
        q ≤ lim → (gridContrib g w rd (.fin sg a)).1 = if sg then -q else q)
    ∧ (∀ sg, (gridContrib g w rd (.inf sg)).1 = (if sg then -lim else lim) ∧ (gridContrib g w rd (.inf sg)).2.1 = ⟨decide (bmax < lim.natAbs), true⟩)
    ∧ (gridContrib g w rd .nan).1 = 0 ∧ (gridContrib g w rd .nan).2.1.nfin = true

/-- GPASS writes the statistics of a grid tensor: without add-into, row r gets the sum of the squares of its values in units
of 2^-149, column c likewise, each an LT320 word (R97-R99). Nothing else is written. -/
def Obligations.GridPass : Prop :=
  ∀ (s : State) (k : CoreId) (h : Hdr) (c : GpassF) (f : Fmt) (sl : Nat),
    let hg := s.handleNow k h 0 c.hg
    let hsr := s.handleNow k h 1 c.hsr
    let hsc := s.handleNow k h 2 c.hsc
    let d := s.desc hg
    let m := d.extent 1
    let n := d.extent 0
    let sq := fun (r j : Nat) => (squareUnits (FV.ofRat (((BitVec.ofNat f.bits (s.codeAt d [j, r, 0, 0, 0, 0])).toInt : ℚ) *
      pow2 (SMap.get GExp.zero (s.core k).gexp sl).e.toInt))).getD 0
    let words := fun (vs : List Int) => vs.flatMap fun v =>
      leBytes 40 (BitVec.ofInt 320 (if v ≥ 2 ^ 309 then 2 ^ 309 - 1 else v)).toNat
    let rows := words ((List.range m).map fun r => ((List.range n).map fun j => sq r j).sum)
    let cols := words ((List.range n).map fun j => ((List.range m).map fun r => sq r j).sum)
    let dr := s.desc hsr
    let dc := s.desc hsc
    d.fmt = some f → f.grid = true → m ≤ 128 → n ≤ 128 → s.slotOf k c.gslot.toNat = some sl → Ready s k (.gpass k h c) →
    Completes (.gpass k h c) s fun t =>
      (c.radd = false → c.cadd = false →
        t.mem = (writeRuns (writeRuns s dr.cvp [(s.basePhys dr, rows)]) dc.cvp [(s.basePhys dc, cols)]).mem)
        ∧ MemKept s t (s.statSpan hsr m ++ s.statSpan hsc n)
        ∧ OnlyCoreMem s t k ∧ SameRegs s t k ∧ SameVregs s t k

/-! Loads, stores and raw Long Tally words in memory (R112, R122, R175, R502). -/

/-- VLD: in the view of a raw format the stored words, in F32 the loaded value of each element of the region; zero outside
the tensor; NFIN of the register where a load met an infinity or NaN or a scale that is not usable. -/
def Obligations.VectorLoad : Prop :=
  ∀ (s : State) (k : CoreId) (h : Hdr) (c : VmemF) (f : Fmt),
    let hh := s.handleNow k h 0 c.h
    let d := s.desc hh
    let ix := fun (r e : Nat) => [c.col0.toNat + e, c.row0.toNat + r, 0, 0, 0, 0]
    let val := fun (r e : Nat) =>
      if d.inside (ix r e) then (if c.se = 0 then s.loadF32 d (ix r e) else s.loadScaled d c.se.toInt (ix r e)) else (0, Fl.none)
    d.fmt = some f → f ≠ .lt320 → d.alay = false → (rawView f = some c.view ∨ (rawView f = none ∧ c.view = 0)) →
    Ready s k (.vld k h c) → Completes (.vld k h c) s fun t =>
      (rawView f = some c.view → (∀ r e, r < 64 → e < viewCols c.view →
          t.velem k c.vd c.view r e = ⟨if d.inside (ix r e) then s.codeAt d (ix r e) else 0, 0⟩)
        ∧ ((t.core k).vreg c.vd).nfin = ((s.core k).vreg c.vd).nfin)
        ∧ (rawView f = none → (∀ r e, r < 64 → e < 64 → t.velem k c.vd 0 r e = ⟨(val r e).1.toNat, 0⟩)
            ∧ (((t.core k).vreg c.vd).nfin = true ↔
                ((s.core k).vreg c.vd).nfin = true ∨ ∃ r e, r < 64 ∧ e < 64 ∧ (val r e).2.nfin = true))
        ∧ OnlyCore s t k ∧ SameRegs s t k ∧ (∀ v, v ≠ c.vd → (t.core k).vreg v = (s.core k).vreg v)

/-- VST completes for every VIEW and format that R502 allows. In the view of a raw format the words are written as they are read out; F32
elements are converted and rounded once, with the scales of their blocks, or rounded to the grid 2^SE. Only elements of the region inside the tensor are written, with the padding and scales of their blocks. The register's
sticky bits go to the tensor at release and are cleared (R111, R112). -/
def Obligations.VectorStore : Prop :=
  ∀ (s : State) (k : CoreId) (h : Hdr) (c : VmemF) (f : Fmt),
    let hh := s.handleNow k h 0 c.h
    let d := s.desc hh
    let reg := (s.core k).vreg c.vd
    let ps := regionPos d c (viewCols c.view)
    let raw := ps.map fun p =>
      (s.basePhys d + d.bitOff p.2.2 / 8, leBytes (viewBits c.view / 8) ((reg.elem c.view p.1 p.2.1).word c.view).1)
    let e := (s.core k).entryOf (.vst k h c)
    let val := fun (p : Nat × Nat × List Nat) => f32 (BitVec.ofNat 32 ((reg.elem 0 p.1 p.2.1).word 0).1)
    let st := convStore d f (s.scaleRec d.scale).2 (s.rndOf d 0 hh e.tag e.x)
      (ps.map fun p => (p.2.2, (val p).mul (.fin false (pow2 c.se.toInt))))
    let one := writeRuns s d.cvp (codeRuns s.mem (s.basePhys d) d st.codes)
    let db := s.desc (BitVec.ofNat 16 d.bscale)
    d.fmt = some f → f ≠ .lt320 → d.alay = false →
    ((c.view ≠ 0 ∧ rawView f = some c.view) ∨ (c.view = 0 ∧ f ≠ .t128)) → Ready s k (.vst k h c) →
    Completes (.vst k h c) s fun t =>
      (c.view ≠ 0 → MemStored s t d raw)
        ∧ (c.view = 0 → f.grid = true →
            t.mem = (vstGrid (s.seen k (.vst k h c)) e hh d f.bits c.se.toInt (ps.map fun p => (p.2.2, val p))).1.mem)
        ∧ (c.view = 0 → f.grid = false →
            t.mem = (if d.bscale = 0 then one else writeRuns one db.cvp (scaleRuns s one.mem d f st.scales)).mem)
        ∧ MemKept s t (s.storedSpans d (ps.map fun p => p.2.2))
        ∧ ((t.core k).vreg c.vd).els = reg.els ∧ ((t.core k).vreg c.vd).ovf = false ∧ ((t.core k).vreg c.vd).nfin = false
        ∧ (∃ p, InFlight s t k (.vst k h c) .done p ∧ (reg.ovf = true → hh ∈ p.ovf) ∧ (reg.nfin = true → hh ∈ p.nfin))
        ∧ (∀ v, v ≠ c.vd → (t.core k).vreg v = (s.core k).vreg v)
        ∧ OnlyCoreMem s t k ∧ SameRegs s t k

/-- LTADDM adds the LT320 words of a row of a tensor, an invalid one by its saturated value, to the registers of the lanes that lie inside it; LTST stores the
registers raw, an invalid word as its saturated value with OVF at release (R66, R122). -/
def Obligations.LongTallyMemory : Prop :=
  (∀ (s : State) (k : CoreId) (h : Hdr) (c : VmemF),
    let d := s.desc (s.handleNow k h 0 c.h)
    let ix := fun (l : Nat) => [c.col0.toNat + l, c.row0.toNat, 0, 0, 0, 0]
    d.fmt = some .lt320 → Ready s k (.ltaddm k h c) → Completes (.ltaddm k h c) s fun t =>
      (∀ l, l < 64 → d.inside (ix l) = true → ((s.core k).ltReg l c.ltr.val).weight + 2 ^ 32 ≤ 2 ^ 42 →
        ((t.core k).ltReg l c.ltr.val).w =
          ((s.core k).ltReg l c.ltr.val).w + BitVec.ofInt 320 (ltRead (BitVec.ofNat 320 (s.codeAt d (ix l)))).1)
        ∧ (∀ l q, l < 64 → q < 4 → (q ≠ c.ltr.val ∨ d.inside (ix l) = false) → (t.core k).ltReg l q = (s.core k).ltReg l q)
        ∧ t.mem = s.mem ∧ OnlyCoreMem s t k ∧ SameVregs s t k)
  ∧ (∀ (s : State) (k : CoreId) (h : Hdr) (c : VmemF),
    let hh := s.handleNow k h 0 c.h
    let d := s.desc hh
    let rs := (ltPos d c).map fun p =>
      (s.basePhys d + d.bitOff p.2 / 8, leBytes 40 (ltSat ((s.core k).ltReg p.1 c.ltr.val).w).1.toNat)
    d.fmt = some .lt320 → Ready s k (.ltst k h c) → Completes (.ltst k h c) s fun t =>
      MemStored s t d rs ∧ MemKept s t (runSpans rs)
        ∧ (∃ p, InFlight s t k (.ltst k h c) .done p
            ∧ (hh ∈ p.ovf ↔ ∃ x ∈ ltPos d c, (ltSat ((s.core k).ltReg x.1 c.ltr.val).w).2 = true))
        ∧ OnlyCoreMem s t k ∧ SameRegs s t k ∧ SameVregs s t k)

/-- TRD reads 64 rows of 16 elements of a tile into a register in the T128 view by tally_read; a readout that saturates, or
an ANCH tile, sets OVF of the register (R113). -/
def Obligations.TallyRead : Prop :=
  ∀ (s : State) (k : CoreId) (h : Hdr) (c : TrdF),
    let old := (s.core k).tile c.tile.val
    let el := fun (r e : Nat) => SMap.get TEl.zero old.els (128 * (64 * c.rb.val + r) + 16 * c.cb.val + e)
    Ready s k (.trd k h c) → Completes (.trd k h c) s fun t =>
      (∀ r e, r < 64 → e < 16 → t.velem k c.vd 3 r e = ⟨((el r e).raw old.kind).1, 0⟩)
        ∧ (((t.core k).vreg c.vd).ovf = true ↔ ((s.core k).vreg c.vd).ovf = true ∨ old.anch = true
            ∨ ∃ r e, r < 64 ∧ e < 16 ∧ ((el r e).raw old.kind).2 = true)
        ∧ ((t.core k).tile c.tile.val).els = old.els ∧ (∀ q, q ≠ c.tile.val → (t.core k).tile q = (s.core k).tile q)
        ∧ (∀ v, v ≠ c.vd → (t.core k).vreg v = (s.core k).vreg v) ∧ OnlyCore s t k

/-! Order. -/

/-- The sum of a Tally element does not depend on the order of its addends while no order brings its wrap byte to ±127: the
word, the wrap byte and so every readout are the same (R62, R63). A Long Tally register does not depend on the order of its
addends, and after addends of total weight at most 2^42 it holds the exact sum modulo 2^320 (R66). -/
def Obligations.SumsOrderFree : Prop :=
  (∀ (e : TEl) (ps qs : List Int), ps.Perm qs → (∀ p ∈ ps, p.natAbs ≤ 2 ^ 127) → e.wrap.toInt.natAbs + ps.length < 127 →
      ps.foldl TEl.add e = qs.foldl TEl.add e)
  ∧ (∀ (l : LtEl) (ps qs : List (Int × Nat)) (n : Nat), ps.Perm qs → l.weight + (ps.map (·.2)).sum ≤ 2 ^ 42 →
      ps.foldl (fun a p => a.add p.1 p.2 n) l = qs.foldl (fun a p => a.add p.1 p.2 n) l
        ∧ (ps.foldl (fun a p => a.add p.1 p.2 n) l).w = l.w + BitVec.ofInt 320 (ps.map (·.1)).sum)

/-! Moves, updates, synchronisation, loops and the step. -/

/-- MOVE copies every element of the source view to its permuted place in the destination view, byte for byte, and writes no
other byte; at its release SIG counts one. When it completes, and not before, each TX block it wrote is held where its bundle has a
peer, and no RX block it read is full any more (R158, R256, R257); where a MOVE waits for a link buffer its completion may let that one
go on (R259), so the statement is about a module in which none does. -/
def Obligations.MoveCopies : Prop :=
  (∀ (s : State) (k : CoreId) (h : Hdr) (c : MoveF),
    let src := s.handleNow k h 0 c.src
    let dst := s.handleNow k h 1 c.dst
    let d := s.desc src
    let dd := s.desc dst
    let js := (List.range (dd.padded.foldl (· * ·) 1)).map fun n => unlin n dd.padded
    let rs := codeRuns s.mem (s.basePhys dd) dd (js.map fun j => (j, s.codeAt d (permSrc c.perm j)))
    moveOk d dd c.perm = true → (inLink (s.basePhys dd) = true → (linkPlace (s.basePhys dd)).2.1 = false) →
    Ready s k (.move k h c) → Completes (.move k h c) s fun t =>
      MemStored s t dd rs ∧ MemKept s t (s.posSpans dd js)
        ∧ (∃ p, InFlight s t k (.move k h c) .done p ∧ p.sig = c.sig ∧ (dst, true) ∈ p.wrote)
        ∧ SameRegs s t k ∧ SameVregs s t k ∧ OnlyCoreMem s t k)
  ∧ (∀ (s : State) (k : CoreId) (tag : W32) (pre post : List Ent) (e : Ent) (j : CoreId) (h : Hdr) (c : MoveF),
    splitAt1 (fun x => x.tag = tag && mayComplete (s.core k) x) (s.core k).inflight = some (pre, e, post) → e.ins = .move j h c →
    (s.core k).waitq = [] → (∀ q, ∀ x ∈ (s.core q).inflight, x.phase ≠ .arrive) → Completes (.commandComplete k tag) s fun t =>
      (∀ x ∈ s.moveTx (effHandle h e.iter 1 c.dst), s.bundlePeer (x.1 / 6) = true → t.txHeld x.1 x.2 = true)
        ∧ (∀ x ∈ s.moveRx (effHandle h e.iter 0 c.src), t.rxFull x.1 x.2 = false)
        ∧ (∀ q, q ≠ k → t.core q = s.core q))

/-- UPD of a frozen group reads and writes no memory and reports a skip; of another group, with operands of the formats of R229 and a slot
for its layer, it completes: it writes what the rule gives row by row, reports the largest change of the tensor for its layer, and
signals through its report only at release (R232, R240, R244). -/
def Obligations.UpdateRuns : Prop :=
  ∀ (s : State) (k : CoreId) (h : Hdr) (c : UpdF) (layer : Nat),
    let i := Instr.upd k h c
    let e := (s.core k).entryOf i
    let m := (s.desc (s.handleNow k h 0 c.hw)).extent 1
    s.job.prog.bind (fun p => SMap.find p.updLayer (s.handleNow k h 2 c.hg).toNat) = some layer → Ready s k i →
    (s.groupFrozen c.group.val = true → Completes i s fun t =>
      t.mem = s.mem ∧ t.chk = s.chk ∧ (t.core k).upe.skips = hold32 (s.core k).upe.skips 1 ∧ (t.core k).upe.rows = 0
        ∧ (∃ p, InFlight s t k i .done p ∧ p.report = some ⟨h.tag, BitVec.ofNat 16 layer, true, 0⟩ ∧ p.wrote = [])
        ∧ SameVregs s t k ∧ (t.core k).tiles = (s.core k).tiles)
    ∧ (∀ fg, s.groupFrozen c.group.val = false → (s.slotOf k layer).isSome = true →
      (s.desc (s.handleNow k h 2 c.hg)).fmt = some fg → fg.grid = true → (s.desc (s.handleNow k h 0 c.hw)).fmt = some .fp32 →
      (s.desc (s.handleNow k h 4 c.hsr)).fmt = some .lt320 → (s.desc (s.handleNow k h 5 c.hsc)).fmt = some .lt320 →
      (s.desc (s.handleNow k h 6 c.hvr)).fmt = some .fp32 → (s.desc (s.handleNow k h 7 c.hvc)).fmt = some .fp32 →
      (s.handleNow k h 3 c.hm = 0 ∨ (s.desc (s.handleNow k h 3 c.hm)).fmt = some .fp32 ∨ (s.desc (s.handleNow k h 3 c.hm)).fmt = some .bf16) →
      ∃ r, updRows (s.seen k i) k e h c 0 m = some r ∧ Completes i s fun t =>
      t.mem = r.1.mem ∧ t.chk = r.1.chk ∧ (t.core k).upe.rows = BitVec.ofNat 32 m ∧ (t.core k).upe.tag = h.tag
        ∧ (∃ p x, InFlight s t k i .done p ∧ p.report = some ⟨h.tag, BitVec.ofNat 16 layer, false, x⟩)
        ∧ OnlyCoreMem s t k ∧ SameVregs s t k ∧ (t.core k).tiles = (s.core k).tiles)

/-- The operands that make an UPD of a group that is not frozen run: formats of R229, a slot for its layer. One element of the
update rule (R232): v = eps + A × VC, u = g / √v, each rounded once, the first moment mixed and stored in its format, d'
rounded once, and the new weight w - 2^-LS d' rounded once. Without a first moment u itself takes its place. -/
def Obligations.UpdateRule : Prop :=
  (∀ (s : State) (k : CoreId) (h : Hdr) (c : UpdF) (layer : Nat) (e : Ent) (fg : Fmt),
      let d := fun (f : Nat) (v : W16) => s.desc (effHandle h e.iter f v)
      let hm := effHandle h e.iter 3 c.hm
      s.job.prog.bind (fun p => SMap.find p.updLayer (effHandle h e.iter 2 c.hg).toNat) = some layer → (s.slotOf k layer).isSome = true →
      (d 2 c.hg).fmt = some fg → fg.grid = true → (d 0 c.hw).fmt = some .fp32 →
      (d 4 c.hsr).fmt = some .lt320 → (d 5 c.hsc).fmt = some .lt320 → (d 6 c.hvr).fmt = some .fp32 → (d 7 c.hvc).fmt = some .fp32 →
      (hm = 0 ∨ (d 3 c.hm).fmt = some .fp32 ∨ (d 3 c.hm).fmt = some .bf16) →
      ∀ lo hi, (updRows s k e h c lo hi).isSome = true)
  ∧ (∀ (g : UpdG) (lrs wd bc1 : W32) (ls : Nat) (a vc : W32) (gw : FV) (w : W32),
      let u := toF32 ((f32 (toF32 gw)).mul (f32 (vrsqrt 0 (f32 (ffma a vc g.eps)))))
      let x := updElem g lrs wd bc1 ls a vc gw w none;
      (x.dp = toF32 ((f32 lrs).mul ((f32 u).add ((f32 wd).mul (f32 w))))
        ∧ x.w = toF32 ((f32 w).add ((f32 x.dp).mul (.fin true (pow2 (-(ls : Int)))))))
      ∧ ∀ (m : UpdM),
        let y := updElem g lrs wd bc1 ls a vc gw w (some m)
        y.hm = (convElem m.d m.f m.rd 0 (if m.f.scaled then scaleOk m.rts else some 1)
            (((f32 g.beta1).mul m.old).add ((f32 g.omb1).mul (f32 u)))).1
          ∧ y.dp = toF32 ((f32 lrs).mul (((scaledVal m.f m.ts (m.f.decode y.hm)).mul (f32 bc1)).add ((f32 wd).mul (f32 w)))))

/-- SIGNAL adds one to its object and to no other; WAIT is done at once where its count is there and holds dispatch where it
is not, and changes no object; once its count is there the core sees what was released before the additions that brought it
(R185, R186). -/
def Obligations.Synchronisation : Prop :=
  (∀ (s : State) (k : CoreId) (h : Hdr) (o : W16), Ready s k (.signal k h o) → Completes (.signal k h o) s fun t =>
    (∀ q, t.obj q = if q = o.toNat ∧ o ≠ 0 then s.obj q + 1 else s.obj q)
      ∧ InFlight s t k (.signal k h o) .done Post.none ∧ t.mem = s.mem ∧ SameRegs s t k ∧ SameVregs s t k
      ∧ (∀ j, j ≠ k → t.core j = s.core j))
  ∧ (∀ (s : State) (k : CoreId) (h : Hdr) (c : WaitF), Ready s k (.wait k h c) → Completes (.wait k h c) s fun t =>
    InFlight s t k (.wait k h c)
        (if (s.obj c.obj.toNat - (c.target + ixIter h (iterOf (s.core k).loops) * c.tinc.setWidth 32)).msb then .waitObj else .done)
        Post.none
      ∧ OnlyCore { s with race := t.race } t k ∧ t.race.wr = s.race.wr ∧ SameRegs s t k ∧ SameVregs s t k
      ∧ (InFlight s t k (.wait k h c) .done Post.none →
          Sees s t k c.obj (c.target + ixIter h (iterOf (s.core k).loops) * c.tinc.setWidth 32)))

/-- LOOP latches its count register: zero skips the body, a count above MAXC freezes the command processor with a violation,
any other enters it; ENDL goes back while iterations remain and leaves the loop after the last; SETC writes its count
register only (R182, R183). LDC takes element IDX of a G32 tensor into its count register (R182); an index beyond the tensor is an access
outside its view, a violation that freezes the command processor (R385, R386; log 40). -/
def Obligations.LoopsAndCounts : Prop :=
  ((∀ (s : State) (k : CoreId) (h : Hdr) (r : Fin 16) (maxc : W32),
      let i := Instr.loop k h r maxc
      let cnt := SMap.get 0 (s.core k).lcnt r.val
      let next := (s.core k).fpos + wordsOf i
      Takes s k i → (s.core k).loops.length < 4 →
      (cnt = 0 → Completes i s fun t =>
        (t.core k).loops = (s.core k).loops ∧ (t.core k).fpos = skipBody (s.streamOf k).length (s.streamOf k) next 0 ∧ OnlyCore s t k)
      ∧ (cnt ≠ 0 → cnt.toNat ≤ maxc.toNat → Completes i s fun t =>
        (t.core k).loops = (s.core k).loops ++ [⟨cnt, cnt, next⟩] ∧ (t.core k).fpos = next ∧ (t.core k).lcnt = (s.core k).lcnt
          ∧ OnlyCore s t k)
      ∧ (maxc.toNat < cnt.toNat → Completes i s fun t =>
        (t.core k).frozen = true ∧ (t.core k).fpos = (s.core k).fpos ∧ t.mem = s.mem))
    ∧ (∀ (s : State) (k : CoreId) (h : Hdr) (up : List LoopLv) (l : LoopLv), Takes s k (.endl k h) →
      (s.core k).loops = up ++ [l] → Completes (.endl k h) s fun t =>
        ((t.core k).loops = if l.remain = 1 then up else up ++ [{ l with remain := l.remain - 1 }])
          ∧ ((t.core k).fpos = if l.remain = 1 then (s.core k).fpos + 1 else l.body)
          ∧ OnlyCore s t k ∧ (t.core k).lcnt = (s.core k).lcnt)
    ∧ (∀ (s : State) (k : CoreId) (h : Hdr) (r : Fin 16) (v : W32), Takes s k (.setc k h r v) →
      Completes (.setc k h r v) s fun t =>
        (∀ q, SMap.get 0 (t.core k).lcnt q = if q = r.val then v else SMap.get 0 (s.core k).lcnt q)
          ∧ (t.core k).loops = (s.core k).loops ∧ (t.core k).fpos = (s.core k).fpos + 2 ∧ OnlyCore s t k ∧ SameVregs s t k
          ∧ (t.core k).tiles = (s.core k).tiles))
  ∧ (∀ (s : State) (k : CoreId) (h : Hdr) (r : Fin 16) (hnd : W16) (idx : W32),
      let d := s.desc (s.handleNow k h 0 hnd)
      let i := Instr.ldc k h r hnd idx
      (d.fmt = some .g32 → Ready s k i → Completes i s fun t =>
        SMap.get 0 (t.core k).lcnt r.val = BitVec.ofNat 32 (s.codeAt d (d.at idx.toNat))
          ∧ (∀ q, q ≠ r.val → SMap.get 0 (t.core k).lcnt q = SMap.get 0 (s.core k).lcnt q)
          ∧ (t.core k).loops = (s.core k).loops ∧ t.mem = s.mem ∧ OnlyCoreMem s t k ∧ SameVregs s t k)
      ∧ (d.count ≤ idx.toNat → Takes s k i → (s.entered k i).clear k (s.core k).inflight ((s.core k).entryOf i) [] = true → Completes i s fun t =>
        (t.core k).frozen = true ∧ (t.core k).lcnt = (s.core k).lcnt ∧ t.mem = s.mem))

/-- XCHG takes the words of HL, limited to the range of HR, and OVF where one was limited. Alone in its group it writes HR at
once; otherwise it stands as an exchange without a serial, is reported to the coordinator, and nothing is written yet
(R281, R282, R286). The coordinator gives the next serial to a tag of the attempt under way that its whole group has reported, and
broadcasts it. An exchange with a serial starts once no exchange of a lower serial holds its slot: its transfers are those that R284 gives it,
and it is carried as far as its link buffers allow (R286; their places are log 22's). -/
def Obligations.Exchanges : Prop :=
  (∀ (s : State) (k : CoreId) (h : Hdr) (c : XchgF) (ly : GLayer),
      let hl := s.handleNow k h 0 c.hl
      let hr := s.handleNow k h 1 c.hr
      let dl := s.desc hl
      let dr := s.desc hr
      let i := Instr.xchg k h c
      let lim : Int := 2 ^ 31 - 1
      let v := fun (n : Nat) => (BitVec.ofNat 64 (s.codeAt dl (dl.at n))).toInt
      let w := fun (n : Nat) => if c.wide then v n else max (-lim) (min lim (v n))
      let sat := c.wide = false ∧ ∃ n, n < dl.count ∧ (lim < v n ∨ v n < -lim)
      let nb := xBits c.wide / 8
      let rs := (List.range dl.count).map fun n =>
        (s.basePhys dr + dr.bitOff (dr.at n) / 8, leBytes nb (BitVec.ofInt (xBits c.wide) (w n)).toNat)
      s.layer c.layer.toNat = some ly → dl.fmt = some .g64 → dr.fmt = some (if c.wide then .g64 else .g32) → dl.ext = dr.ext →
      dl.ndim = dr.ndim → Ready s k i →
      ((s.xgroup ly.dmask).length ≤ 1 → Completes i s fun t =>
        MemStored s t dr rs ∧ MemKept s t (runSpans rs)
          ∧ (∃ p, InFlight s t k i .done p ∧ p.sig = c.sig ∧ (hr ∈ p.ovf ↔ sat))
          ∧ OnlyCoreMem s t k ∧ SameRegs s t k ∧ SameVregs s t k)
      ∧ (1 < (s.xgroup ly.dmask).length → Completes i s fun t =>
        t.mem = s.mem ∧ InFlight s t k i .exchange Post.none
          ∧ (∃ x, t.job.xchgs = s.job.xchgs ++ [x] ∧ x.tag = h.tag ∧ x.core = k ∧ x.serial = none ∧ x.started = false ∧ x.hr = hr
              ∧ x.layer = c.layer.toNat ∧ x.wide = c.wide ∧ x.sig = c.sig ∧ x.bad = false ∧ x.ops = []
              ∧ (∃ n, n < wordsPer c.wide ∧ x.acc = (List.range dl.count).map w ++ List.replicate n 0 ∧ x.acc.length % wordsPer c.wide = 0)
              ∧ (x.sat = true ↔ sat) ∧ x.group = s.xgroup ly.dmask)
          ∧ (s.lnk.self = 0 → t.lnk = s.lnk ∧ t.job.xreps = (s.xReport 0 s.stp.s s.stp.a h.tag (s.xgroup ly.dmask)).job.xreps)
          ∧ (s.lnk.self ≠ 0 → t.job.xreps = s.job.xreps
              ∧ t.lnk = (s.sendCtl 0 (.xchgReport s.lnk.self s.stp.s s.stp.a h.tag (s.xgroup ly.dmask))).lnk)
          ∧ SameRegs s t k ∧ SameVregs s t k ∧ (∀ q, q ≠ k → t.core q = s.core q)
          ∧ { t with cores := s.cores, job := s.job, lnk := s.lnk, race := s.race } = s))
  ∧ ((∀ (s : State) (tag : W32) (r : XReport), s.lnk.self = 0 → s.underWay = true →
      s.job.xreps.find? (fun x => x.s = s.stp.s && x.a = s.stp.a && x.tag = tag && x.serial = none
        && x.group.all fun m => x.members.contains m) = some r →
      let n := s.job.nextSerial
      let told := s.job.xreps.map fun y => if y = r then { y with serial := some n } else y
      let given := s.job.xchgs.map fun x => if x.tag = tag ∧ x.group = r.group ∧ x.serial = none then { x with serial := some n } else x
      exec (.exchangeSerial tag) s =
          .next ({ s with job := { s.job with nextSerial := n + 1, xreps := told, xchgs := given } }.sendCtl 0xFFFF#16
            (.xchgSerial s.stp.s s.stp.a tag r.group n))
        ∧ Completes (.exchangeSerial tag) s fun t =>
          t.job.nextSerial = n + 1 ∧ t.job.xchgs = given ∧ t.job.xreps = told
            ∧ (∀ x ∈ t.job.xchgs, x.tag = tag → x.group = r.group → x.serial ≠ none)
            ∧ (∀ p, ∀ q ∈ (t.port p).ctl, q ∈ (s.port p).ctl ∨ q.msg = .xchgSerial s.stp.s s.stp.a tag r.group n)
            ∧ t.mem = s.mem ∧ t.cores = s.cores ∧ t.stp = s.stp)
    ∧ (∀ (s : State) (tag : W32) (x : Xchg) (n : Nat), s.job.xchgs.find? (fun y => y.tag = tag) = some x → x.serial = some n → x.started = false →
      (∀ y ∈ s.job.xchgs, ∀ q, y.serial = some q → q < n → q % 4 ≠ n % 4) →
      let ds := s.activeDims (((s.layer x.layer).map (·.dmask)).getD 0)
      let y : Xchg := { x with started := true, ops := exchOps s.lnk.extents s.coords ds (x.acc.length / wordsPer x.wide) (n % 4) }
      exec (.exchangeStart tag) s = .next (((s.setXchg y).mtrace 1 tag).xAdvance tag)
        ∧ Completes (.exchangeStart tag) s fun t =>
          (∀ z ∈ t.job.xchgs, z.tag = tag → z.started = true) ∧ t.stp = s.stp ∧ (∀ k, SameVregs s t k ∧ (t.core k).tiles = (s.core k).tiles)
            ∧ ∀ a, inLink a = false → Outside ((List.range (s.desc x.hr).count).map fun i =>
                (s.basePhys (s.desc x.hr) + (s.desc x.hr).bitOff ((s.desc x.hr).at i) / 8, xBits x.wide / 8)) a →
                (carriesCheck s (a / 4096 * 4096) = false ∨ entryValid (chkGet s (a / 4096)) = true) → memGet t.mem a = memGet s.mem a))

/-- COMMIT holds dispatch until the outcome; STEPEND stops the core's fetch. Neither changes a register or memory (R188,
R189). -/
def Obligations.StepCommands : Prop :=
  (∀ (s : State) (k : CoreId) (h : Hdr), Ready s k (.commit k h) → Completes (.commit k h) s fun t =>
    (t.core k).atCommit = true ∧ InFlight s t k (.commit k h) .waitCommit Post.none ∧ OnlyCore s t k ∧ SameRegs s t k
      ∧ SameVregs s t k)
  ∧ (∀ (s : State) (k : CoreId) (h : Hdr), Ready s k (.stepend k h) → Completes (.stepend k h) s fun t =>
    (t.core k).fetching = false ∧ InFlight s t k (.stepend k h) .done Post.none ∧ OnlyCore s t k ∧ SameRegs s t k
      ∧ SameVregs s t k)

/-! The scoreboard's events. -/

/-- COMMAND_DISPATCH runs the oldest waiting command of a tag that nothing holds, as its issue would have (R136): shown for a
command whose engine accepts its operands. WAIT_SATISFIED lets the oldest WAIT go on whose count is there, and the core then
sees what was released before those additions (R186). -/
def Obligations.DispatchEvents : Prop :=
  (∀ (s : State) (k : CoreId) (tag : W32) (pre post : List Ent) (e : Ent) (r : State × Post),
      splitAt1 (fun x => x.tag = tag && x.phase = .issued) (s.core k).inflight = some (pre, e, post) →
      Dispatchable s k pre e post → effect (s.started k e) k e = some r →
      Completes (.commandDispatch k tag) s fun t =>
        (t.core k).inflight = pre ++ { e with phase := phaseAfter (s.started k e) e, post := r.2 } :: post
          ∧ t.mem = r.1.mem ∧ (t.core k).vregs = (r.1.core k).vregs ∧ (t.core k).tiles = (r.1.core k).tiles
          ∧ (t.core k).lt = (r.1.core k).lt ∧ t.stp = r.1.stp ∧ t.job = r.1.job)
  ∧ (∀ (s : State) (k : CoreId) (pre post : List Ent) (e : Ent),
      splitAt1 (fun x => x.phase = .waitObj && s.reached x) (s.core k).inflight = some (pre, e, post) →
      Completes (.waitSatisfied k) s fun t =>
        (t.core k).inflight = pre ++ { e with phase := .done } :: post ∧ OnlyCore { s with race := t.race } t k ∧ SameRegs s t k
          ∧ SameVregs s t k ∧ ∀ w h c, e.ins = .wait w h c → Sees s t k c.obj e.target)

/-- COMMAND_COMPLETE takes a finished command out of the in-flight set and releases its writes: the status bits of the tensors
it names are set, its object counts one, its report enters the FIFO, the amax words of its outputs of a managed scale rise; no
byte of the columns and the shared region changes but the status words (R53, R137, R185, R244). No MOVE waits for a link buffer, which
the completion might let go on (R259). -/
def Obligations.CompletionReleases : Prop :=
  ∀ (s : State) (k : CoreId) (tag : W32) (pre post : List Ent) (e : Ent),
    splitAt1 (fun x => x.tag = tag && mayComplete (s.core k) x) (s.core k).inflight = some (pre, e, post) →
    (s.core k).waitq = [] → (∀ q, ∀ x ∈ (s.core q).inflight, x.phase ≠ .arrive) → Completes (.commandComplete k tag) s fun t =>
      (t.core k).inflight = pre ++ post
        ∧ (∀ w ∈ t.race.wr, w.core = s.who k → w.tag = e.tag → w.x = e.x → w.rel ≠ none)
        ∧ (∀ q, t.obj q = if q = e.post.sig.toNat ∧ e.post.sig ≠ 0 then s.obj q + 1 else s.obj q)
        ∧ (∀ x, e.post.report = some x → (t.core k).upe.rpt = (s.core k).upe.rpt ++ [x])
        ∧ (∀ h ∈ e.post.ovf, (t.status h).ovf = true) ∧ (∀ h ∈ e.post.nfin, (t.status h).nfin = true)
        ∧ (∀ x ∈ e.post.amax, (s.desc x.1).scale ≠ 0 → s.managed (s.desc x.1).scale = true →
            x.2.toNat ≤ (SMap.get 0 t.scc.amax x.1.toNat).toNat)
        ∧ (∀ a, a < lpBase → (a < statusTable ∨ statusTable + 0x40000 ≤ a) → memGet t.mem a = memGet s.mem a)
        ∧ SameVregs s t k ∧ (t.core k).tiles = (s.core k).tiles ∧ (t.core k).lt = (s.core k).lt

/-- ICACHE_MISS_FILL brings the line of the next word into its set, the least recently used line leaving a full set of four;
a line of an unsealed granule freezes the command processor; a poisoned one is quarantine cause 4 (R142, R143, R154). -/
def Obligations.InstructionFetch : Prop :=
  ∀ (s : State) (k : CoreId) (poison : Bool),
    let l := s.codeLine k
    let ways := cacheSet (s.core k) (l % 256)
    let a := codeBase + 256 * l
    let bad := poison = true ∨ a / 512 ∈ s.mm.poisoned
    s.stalls a 256 = false → (s.core k).fetching = true → (s.core k).frozen = false → (s.core k).inReset = false → ways.contains l = false →
    (s.isSealed (l / 256) = true → ¬ bad → Completes (.icacheMissFill k poison) s fun t =>
      cacheSet (t.core k) (l % 256) = (l :: ways).take 4 ∧ (∀ n, n ≠ l % 256 → cacheSet (t.core k) n = cacheSet (s.core k) n)
        ∧ (t.core k).fetchwait = false ∧ OnlyCore s t k ∧ SameRegs s t k ∧ SameVregs s t k)
    ∧ (s.isSealed (l / 256) = false → Completes (.icacheMissFill k poison) s fun t => (t.core k).frozen = true ∧ t.mem = s.mem)
    ∧ (s.isSealed (l / 256) = true → bad → regionOf a = .code (l / 256) → s.quarantining = false → s.sec.pstate ≠ 3 →
        Completes (.icacheMissFill k poison) s fun t => t.quarantining = true ∧ t.sec.dlevel = 0 ∧ a / 512 ∈ t.mm.poisoned)

/-! Faults (R389-R394). -/

/-- A fault record goes into the ring while it has room, with the next sequence number; a full ring makes it wait, and
nothing else changes (R389, R390). FAULT_RECORD takes the oldest record: it is copied, logged and its slot freed, those
behind it keeping their order before any that enter (R389). -/
def Obligations.FaultRecords : Prop :=
  (∀ (s : State) (kind eng : Nat) (core handle : W16) (tag : W32) (iter : List W32) (addr detail : Nat),
      let t := s.raise kind eng core handle tag iter addr detail
      t.rings.seq = s.rings.seq + 1 ∧ { t with rings := s.rings } = s
        ∧ ∃ r, r.kind = kind ∧ r.engine = eng ∧ r.core = core ∧ r.tag = tag ∧ r.seq = s.rings.seq ∧ r.attempt = s.stp.a
          ∧ (s.rings.fault.length < 16384 → t.rings.fault = s.rings.fault ++ [r] ∧ t.rings.wait = s.rings.wait)
          ∧ (16384 ≤ s.rings.fault.length → t.rings.fault = s.rings.fault ∧ t.rings.wait = s.rings.wait ++ [r]))
  ∧ (∀ (s : State) (e : FaultEnv) (r : FaultRec) (rs : List FaultRec), s.rings.fault = r :: rs →
      Completes (.faultRecord e) s fun t =>
        (∃ more, t.rings.fault = rs ++ more) ∧ (s.rings.copies.length < 16384 → t.rings.copies = s.rings.copies ++ [r])
          ∧ ∃ x ∈ t.rings.log, x.kind = 0x0008 ∧ x.payload = r.fields)

/-- The second mismatch charged to a core since its last passing test fences it (R104, R132, R392): charging a core that has
one moves its column and its stream to the lowest free core, or raises a step fault where none is free (R393, R394; with no other test
waiting, which might move another column). A core reset
leaves the core fenced and empty, its resets held, and a record of kind 0x40 (R84, R392, R466). -/
def Obligations.Fences : Prop :=
  (∀ (s : State) (k : CoreId) (eng : Nat), 1 ≤ (s.core k).mismatches → s.tst.queue = [] →
      let free := fun (j : CoreId) => j ≠ k ∧ (s.core j).fenced = false ∧ j.val ∉ s.jobColumns ∧ s.tst.running ≠ some j
        ∧ SMap.get false s.mm.oos j.val = false
      let t := s.charge k eng
      (t.core k).fenced = true
        ∧ ((s.core k).fenced = false → k.val ∈ s.jobColumns →
            ((∀ j, ¬ free j) → t.stp.fault = true ∧ t.mm.colmap = s.mm.colmap)
            ∧ ∀ f, free f → (∀ j, free j → f.val ≤ j.val) →
                t.mm.colmap = s.mm.colmap.map (fun x => if x = k.val then f.val else x) ∧ t.stp.fault = s.stp.fault
                  ∧ (t.core f).tiles = (s.core k).tiles ∧ (t.core f).vregs = (s.core k).vregs
                  ∧ (t.core f).inflight = (s.core k).inflight ∧ (t.core k).inflight = []))
  ∧ (∀ (s : State) (v : W32), s.rst.busy = false →
      let n := min 191 (bitsAt v.toNat 0 8)
      ∀ k : CoreId, k.val = n → (s.core k).inReset = false → Completes (.rstCoreGo v) s fun t =>
        t.rst.busy = true ∧ t.rst.core = n ∧ (t.core k).fenced = true ∧ (t.core k).inReset = true ∧ (t.core k).inflight = []
          ∧ (t.core k).tiles = [] ∧ (t.core k).vregs = [] ∧ (t.core k).lt = []
          ∧ ∃ r ∈ t.rings.fault ++ t.rings.wait, r.kind = 0x0040 ∧ r.core = coreField k)

/-! The mailbox (R422-R440). -/

/-- Requests that read: each is answered OK with what the module holds, and changes nothing but what its rule names (R338,
R389, R401, R427, R477, R483) and, for data of more than 4,080 bytes, the output queue (R423; the lengths are log 47's). RECORD_READ
waits where its memory is not free, and ends before an entry that cannot be read (R154, R155, R372; logs 97 and 166). -/
def Obligations.MailboxReads : Prop :=
  ∀ (s : State) (m : Mb),
    (Accepts s m →
      Served (.status m) s m 0x0011 stOk 0
        (.words [s.sec.sstate.code, s.sec.dlevel, s.sec.pstate, s.job.st.code, s.stepField.toNat, if s.hif.phase = 5 then 1 else 0,
          s.portsUp, s.portsOut]) (MailFrame s)
      ∧ (∀ entry count,
          let es := (s.rings.log.filter fun e => decide (entry.toNat ≤ e.entry.toNat) && (e.cls = 2 || s.released 3)).take count.toNat
          Served (.logRead m entry count) s m 0x0012 stOk 0 (.logs es) (DataFrame s (8 + 128 * es.length)))
      ∧ (∀ nonce, s.sec.idOk = true → 16 ≤ m.length.toNat → m.length.toNat ≤ 64 →
          let e := s.evidence (leBytes m.length.toNat nonce.toNat)
          Served (.evidence m nonce) s m 0x0010 stOk 0 (.evidence e) (DataFrame s e.bytes.length)))
    ∧ (AcceptsOut s m →
      (∀ seq count,
        let rs := (s.rings.copies.filter fun r => decide (seq.toNat ≤ r.seq.toNat)).take count.toNat
        Served (.faultRead m seq count) s m 0x0013 stOk 0 (.faults rs) fun t =>
          t.rings.copies = s.rings.copies ∧ t.rings.fault = s.rings.fault ∧ DataFrame s (64 * rs.length) { t with rings := s.rings })
      ∧ (∀ count,
        let fs := s.rings.sigs.take count.toNat
        Served (.sigFetch m count) s m 0x0014 stOk 0 (.sigs fs s.rings.sigDrop)
          (DataFrame s ((fs.map fun f => f.wire.length).sum + 4)))
      ∧ (∀ entry count,
        let es := (s.rings.recs.filter fun r => decide (entry.toNat ≤ r.entry.toNat)).take count.toNat
        s.waits [recordPiece] = false → (∀ r ∈ es, s.macBad (recordBase + r.pos) r.size none = none) →
        Served (.recordRead m entry count) s m 0x0016 stOk 0 (.records es) fun t =>
          t.rings.recs.map (fun r => (r.entry, r.type, r.payload)) = s.rings.recs.map (fun r => (r.entry, r.type, r.payload))
            ∧ (∀ r ∈ t.rings.recs, (∃ e ∈ es, e.entry = r.entry) → r.read = true)
            ∧ DataFrame s (es.map (·.size)).sum { t with rings := s.rings })
      ∧ (∀ addr v, (s.taken m).reg addr = some v → (∀ b, (s.taken m).telBit addr = some b → s.released b = true) →
        Served (.regRead m addr) s m 0x0017 stOk 0 (.words [v]) fun t => MailFrame s { t with cores := s.cores })
      ∧ ∀ addr b, (s.taken m).reg addr ≠ none → (s.taken m).telBit addr = some b → s.released b = false →
        Served (.regRead m addr) s m 0x0017 stNotRel 0 .none (MailFrame s))

/-- Attach, detach and acknowledgements. HELLO with a common version detaches, answers with version and capability, and posts
every held reply in SEQ order; without one it answers VERSION and stays detached (R424, R440; that the mailbox is detached then is the
model's choice, log 164); during an activation it is answered ACTIVATING (R436). GOODBYE detaches, its reply
held with the others (R427). SIG_ACK, OUTQ_DRAIN and the two doorbells let go of what they name (R401, R422, R433). A type
outside the catalogue is answered TYPE (R427). -/
def Obligations.MailboxAttaches : Prop :=
  (∀ (s : State) (m : Mb) (body : List Byte), s.hif.mbxUp = true → s.hif.perst = false →
    let h := s.hif.heldRep ++ s.hif.replies
    let held := h.drop (h.length - 256)
    (s.hif.activating = false → s.commonMajor body = true → (∀ r ∈ held, r.data.size ≤ 4080 ∨ r.ref.isSome = true) →
      Completes (.hello m body) s fun t =>
      t.hif.ver = some (1, 0) ∧ t.hif.lastSeq = some m.seq ∧ t.hif.heldRep = []
        ∧ (∃ l, t.hif.replies = ⟨0x0001, m.seq, stOk, 0, .words ([1, 0] ++ s.capability ++ [held.length]), none⟩ :: l ∧ l.Perm held
            ∧ l.Pairwise fun a b => a.seq.toNat ≤ b.seq.toNat)
        ∧ t.mem = s.mem ∧ t.sec = s.sec ∧ t.job = s.job ∧ t.cores = s.cores)
    ∧ (s.hif.activating = false → s.commonMajor body = false → Completes (.hello m body) s fun t =>
      t.hif.ver = none ∧ t.hif.replies = [⟨0x0001, m.seq, stVersion, 0, .none, none⟩] ∧ t.hif.heldRep = held ∧ t.mem = s.mem
        ∧ t.sec = s.sec ∧ t.job = s.job ∧ t.cores = s.cores)
    ∧ (s.hif.activating = true → Completes (.hello m body) s fun t =>
      t.hif.replies = s.hif.replies ++ [⟨0x0001, m.seq, stActivating, 0, .none, none⟩] ∧ t.hif.open' = s.hif.open' ∧ MailFrame s t))
  ∧ (∀ (s : State) (m : Mb), Accepts s m → Completes (.goodbye m) s fun t =>
    let h := s.hif.heldRep ++ s.hif.replies ++ [⟨0x0002, m.seq, stOk, 0, .none, none⟩]
    t.hif.ver = none ∧ t.hif.open' = [] ∧ t.hif.replies = [] ∧ t.hif.heldRep = h.drop (h.length - 256)
      ∧ { t with hif := s.hif, mon := s.mon } = s)
  ∧ (∀ (s : State) (m : Mb), AcceptsOut s m →
    (∀ upTo, Served (.sigAck m upTo) s m 0x0015 stOk 0 .none fun t =>
      t.rings.sigs = s.rings.sigs.filter (fun f => decide (upTo.toNat < f.rec'.seq.toNat)) ∧ MailFrame s { t with rings := s.rings })
    ∧ (∀ tail, Served (.outqDrain m tail) s m 0x0018 stOk 0 .none fun t =>
      t.outq.tail = min (s.tailOf tail) s.outq.head
        ∧ (∃ more, t.outq.records = s.outq.records.filter (fun r => decide (min (s.tailOf tail) s.outq.head < r.pos.toNat + r.units)) ++ more
            ∧ t.outq.waiting = s.outq.waiting.drop more.length)
        ∧ (s.mm.poisoned = [] → t.job = s.job ∧ t.sec = s.sec ∧ t.cores = s.cores))
    ∧ ∀ type, Served (.unassignedType m type) s m type.toNat stType 0 .none (MailFrame s))
  ∧ (∀ (s : State) (v : W32), s.hif.mbxUp = true → s.hif.perst = false → Completes (.hifOutqTailWrite v) s fun t =>
    t.outq.tail = min (s.tailOf v) s.outq.head
      ∧ (∃ more, t.outq.records = s.outq.records.filter (fun r => decide (min (s.tailOf v) s.outq.head < r.pos.toNat + r.units)) ++ more
          ∧ t.outq.waiting = s.outq.waiting.drop more.length))
  ∧ (∀ (s : State) (v : W32), s.bellOk = true →
    (Completes (.replyAck v) s fun t =>
      t.hif.replies = s.hif.replies.filter (fun r => r.seq ≠ v) ∧ t.hif.open' = s.hif.open'.filter (· ≠ v)
        ∧ t.hif.doorbell = s.hif.doorbell.set 1 v ∧ { t with hif := s.hif } = s)
    ∧ (Completes (.notificationAck v) s fun t =>
      t.hif.noteAck = v ∧ t.hif.doorbell = s.hif.doorbell.set 2 v
        ∧ (∃ more, t.hif.notifs = s.hif.notifs.filter (fun x => decide (v.toNat < x.n.toNat)) ++ more)
        ∧ { t with hif := s.hif, mon := s.mon } = s))

/-- Owners and keys: a message that its state, its key and its signature allow is acted on (R339-R345, R361, R410, R420). A
transition that needs a scrub is under way after it, or asks for its write; no byte of memory has changed yet. -/
def Obligations.OwnerMessages : Prop :=
  (∀ (s : State) (m : Mb), Accepts s m → s.sec.pstate ≠ 2 → (s.sec.sstate = .owned ∨ s.sec.sstate = .quarantine) →
    s.releasing = false → s.idleJob = true → s.sec.trans = none →
    (∀ e, s.ownSigned e = true → Deferred (.release m e) s m fun t =>
      t.sec.trans = some (.release m.seq) ∧ t.sec.scrub = true ∧ t.sec.sstate = s.sec.sstate ∧ t.mem = s.mem)
    ∧ (∀ e, s.vendorOk e = true → Deferred (.reclaim m e) s m fun t =>
      t.sec.trans = some (.reclaim m.seq) ∧ t.sec.scrub = true ∧ t.sec.sstate = s.sec.sstate ∧ t.mem = s.mem))
  ∧ ∀ (s : State) (m : Mb), AcceptsOut s m →
    (s.sec.sstate = .open' → ∃ n : BitVec 256, Served (.installNonce m) s m 0x0040 stOk 0 (.bytes (leBytes 32 n.toNat)) fun t =>
      t.sec.instNonces = s.sec.instNonces ++ [n] ∧ t.draws = s.draws + 1 ∧ MailFrame s { t with sec := s.sec, draws := s.draws })
    ∧ (∀ e c, s.sec.pstate ≠ 2 → s.sec.sstate = .open' → s.sec.dlevel < 2 → e.devid = s.devid →
      e.octr = s.nvm.part.octr + 1 → e.signer = some (digestOf c.key) → s.sec.instNonces.contains c.nonce = true → s.sec.trans = none →
      Deferred (.install m e c) s m fun t => t.sec.trans = some (.install c.key m.seq) ∧ t.sec.sstate = .open'
        ∧ t.sec.instNonces = s.sec.instNonces.erase c.nonce
        ∧ t.nvm.writes = s.nvm.writes ++ [.trans (.install c.key m.seq)] ∧ t.mem = s.mem ∧ t.cores = s.cores)
    ∧ (∀ key, s.sec.pstate ≠ 2 → s.sec.sstate = .owned → s.nvm.part.ownh = some (digestOf key) →
      Served (.ownerKey m key) s m 0x0042 stOk 0 .none fun t => t.sec.ownerKey = some key ∧ MailFrame s { t with sec := s.sec })
    ∧ (∀ (c : KeyTableMsg) (po : Option Nat), s.tableBad c po = none →
      ((ktBytes c).length ≤ 4080 ∨ s.waits [s.stagePiece] = false) → s.sec.pstate ≠ 2 → s.sec.sstate = .owned → s.releasing = false → s.job.st = .none → s.sec.dlevel < 2 →
      c.devid = s.devid → c.signer = s.nvm.part.ownh → s.nvm.part.ownh = some c.ownh → s.sec.ownerKey ≠ none →
      ktFormOk c = true → c.entries ≠ [] → c.entries.length ≤ 255 → (c.entries.map (·.slot)).Nodup →
      (∀ x ∈ c.entries, x.slot ≠ 0 ∧ 1 ≤ x.role.toNat ∧ x.role.toNat ≤ 4
        ∧ (entryKey x (tableKey c (s.sec.seed.getD 0))).isSome = true) →
      (∃ x ∈ c.entries, x.role = 1) → (c.entries.filter fun x => x.role.toNat = 3).length = 1 →
      Served (.keyTable m c po) s m 0x0045 stOk 0 .none fun t =>
        t.sec.ktDigest = some (digestOf (ktBytes c))
          ∧ (∀ x ∈ c.entries, some (SMap.get KeySlot.zero t.sec.slots x.slot.toNat)
              = (entryKey x (tableKey c (s.sec.seed.getD 0))).map fun k => ⟨x.role.toNat, k⟩)
          ∧ (∀ n, (∀ x ∈ c.entries, x.slot.toNat ≠ n) → SMap.get KeySlot.zero t.sec.slots n = KeySlot.zero)
          ∧ MailFrame s { t with sec := s.sec })
    ∧ (∀ e, s.sec.pstate ≠ 2 → s.sec.sstate = .open' → s.vendorOk e = true → s.sec.trans = none →
      Deferred (.factoryEntry m e) s m fun t => t.sec.trans = some (.factoryEntry m.seq) ∧ t.sec.scrub = true ∧ t.mem = s.mem)
    ∧ (∀ e, s.sec.pstate ≠ 2 → s.sec.sstate = .factory → s.vendorOk e = true → s.sec.trans = none →
      Deferred (.factoryExit m e) s m fun t => t.sec.trans = some (.factoryExit m.seq) ∧ t.sec.scrub = true ∧ t.mem = s.mem)
    ∧ (∀ e c, s.sec.pstate ≠ 2 → s.job.st = .none → s.releasing = false → (s.sec.sstate = .owned → s.ownerOk 0x0030 e = true) →
      limitsFit c.limits = true → soundLimits (siteOver s.nvm.faclim c.limits) = true → Deferred (.siteConfig m e c) s m fun t =>
        t.nvm.writes = s.nvm.writes ++ [.site c m.seq] ∧ MailFrame s { t with nvm := s.nvm })
    ∧ ∀ first entries, first + entries.length ≤ 64 → (∀ g ∈ entries, isHostGranule s g.toNat = true) →
      Served (.bar2Map m first entries) s m 0x0031 stOk 0 .none fun t =>
        t.hif.bar2 = s.hif.bar2.take first ++ entries.map (fun g => some g.toNat) ++ s.hif.bar2.drop (first + entries.length)
          ∧ MailFrame s { t with hif := { t.hif with bar2 := s.hif.bar2 } }

/-- The owner's messages to a job, and PARK and UNPARK. What a message brings takes effect at the next step boundary (R241,
R320, R354, R427); a token manifest joins those held, by step (R292); a park of a module that runs no step is at once (R370). -/
def Obligations.JobMessages : Prop :=
  ∀ (s : State) (m : Mb), AcceptsOut s m →
    (∀ e, s.sec.pstate ≠ 2 → s.sec.sstate = .owned → s.releasing = false → s.job.st = .loaded →
      (∀ c j, s.ownerOk 0x0052 e = true → s.job.man = some j → s.sec.dlevel < 2 → s.tokenManOk j c = true →
        Served (.tokenManifest m e c) s m 0x0052 stOk 0 .none fun t =>
          t.job.tokens = insTok ⟨c.s, 0, c.entries, c.chunks, c.raw⟩ s.job.tokens
            ∧ MailFrame s { t with rings := s.rings, job := { t.job with tokens := s.job.tokens } })
      ∧ (∀ c, s.ownerOk 0x0053 e = true → (∀ u ∈ c, ∀ l, u.knots = some l → 1 ≤ l.length ∧ l.length ≤ 256) →
        (∀ u ∈ c, ((s.job.queued.flatMap (·.2.2) ++ c).foldl State.applyGroup (s.taken m)).groupValid u.group.val = true) →
        Served (.groupUpdate m e c) s m 0x0053 stOk 0 .none fun t =>
          t.job.queued = s.job.queued ++ [(m.seq, s.effectStep 0x0053 (c.flatMap updBytes), c)]
            ∧ t.job.mailsDone = s.job.mailsDone ++ ((s.mailOf 0x0053 (c.flatMap updBytes)).map Prod.fst).toList
            ∧ MailFrame s { t with rings := s.rings, job := { t.job with queued := s.job.queued, mailsDone := s.job.mailsDone } })
      ∧ (∀ c p, s.ownerOk 0x0054 e = true → s.job.prog = some p → c.length ≤ 256 →
        (∀ x ∈ c, x.handle ≠ 0 ∧ x.handle.toNat < p.nhandle ∧ (s.desc x.handle).cls ≠ 1) →
        Served (.audit m e c) s m 0x0054 stOk 0 .none fun t =>
          t.job.audits = s.job.audits ++ [(m.seq, s.effectStep 0x0054 (c.flatMap pointBytes), c)]
            ∧ t.job.mailsDone = s.job.mailsDone ++ ((s.mailOf 0x0054 (c.flatMap pointBytes)).map Prod.fst).toList
            ∧ MailFrame s { t with rings := s.rings, job := { t.job with audits := s.job.audits, mailsDone := s.job.mailsDone } })
      ∧ (s.ownerOk 0x0055 e = true → s.ckptUnits ≤ s.outSize → Served (.checkpoint m e) s m 0x0055 stOk 0 .none fun t =>
          t.stp.ckptDue = s.stp.ckptDue ++ [s.effectStep 0x0055 []]
            ∧ t.job.mailsDone = s.job.mailsDone ++ ((s.mailOf 0x0055 []).map Prod.fst).toList
            ∧ MailFrame s { t with rings := s.rings, stp := { t.stp with ckptDue := s.stp.ckptDue }, job := { t.job with mailsDone := s.job.mailsDone } }))
    ∧ (∀ e j, s.sec.pstate ≠ 2 → s.sec.sstate = .owned → s.releasing = false → s.ownerOk 0x0055 e = true → s.job.st = .stopped →
      s.job.man = some j → s.ckptUnits ≤ s.outSize → Served (.checkpoint m e) s m 0x0055 stOk 0 .none fun t =>
        t.job.ckpt = true ∧ t.job.st = .stopped ∧ (s.mm.poisoned = [] → t.sec = s.sec ∧ t.cores = s.cores))
    ∧ (∀ c j, s.sec.pstate ≠ 2 → s.sec.sstate = .owned → s.releasing = false → s.job.st = .loaded → s.job.man = some j →
      ((s.stp.phase = .between ∧ s.stp.lastOut = none) ∨ s.stp.phase = .rollback) → s.waits [s.stagePiece] = false → (s.taken m).resumeBad j c = none →
      Served (.resume m c) s m 0x0056 stOk 0 .none fun t =>
        t.stp.s = c.step.s ∧ t.stp.a = c.step.a ∧ t.stp.phase = .between ∧ t.stp.lost = [] ∧ t.stp.carried = c.step.carried
          ∧ t.job.scales = c.step.scales ∧ t.job.layers = c.step.layers ∧ t.scc.consec = c.step.consec ∧ t.job.ckpt = true ∧ t.sec = s.sec)
    ∧ (s.sec.pstate ≠ 2 → s.sec.sstate = .owned → (s.job.st = .loaded ∨ s.job.st = .stopped) →
      (s.idleJob = true → s.sec.trans = none → Deferred (.jobUnload m) s m fun t =>
        t.sec.trans = some (.jobUnload m.seq) ∧ t.sec.scrub = true ∧ t.job = s.job ∧ t.mem = s.mem)
      ∧ (s.idleJob = false → Deferred (.jobUnload m) s m fun t =>
        t.job.unloadReq = s.job.unloadReq ++ [.jobUnload m.seq] ∧ MailFrame s { t with job := { t.job with unloadReq := s.job.unloadReq } }))
    ∧ (s.sec.pstate < 2 → s.sec.dlevel < 2 →
      ((s.job.st ≠ .loaded ∨ s.stp.phase = .between) → s.sec.trans = none → s.quarantining = false → Served (.park m) s m 0x0060 stOk 0 .none fun t =>
        t.sec.pstate = 2 ∧ t.sec.sstate = s.sec.sstate ∧ t.sec.dlevel = s.sec.dlevel ∧ t.mem = s.mem ∧ t.job = s.job ∧ t.cores = s.cores)
      ∧ (s.job.st = .loaded → s.stp.phase ≠ .between → Served (.park m) s m 0x0060 stOk 0 .none fun t =>
        t.sec.parkReq = true ∧ MailFrame s { t with sec := { t.sec with parkReq := s.sec.parkReq } }))
    ∧ (s.sec.pstate = 2 → s.sec.ownMsgs = [] → Served (.unpark m) s m 0x0061 stOk 0 .none fun t =>
        t.sec.pstate = (if s.blw.limited then 1 else 0) ∧ t.sec.sstate = s.sec.sstate ∧ t.sec.dlevel = s.sec.dlevel ∧ t.mem = s.mem
          ∧ t.job = s.job ∧ t.cores = s.cores)

/-- Firmware. FW_STAGE and BLW_STAGE keep an image that passes the checks for its kind and its counter, and refuse another (R415,
R434, R437); FWGO loads Kelgil the same way; an activation puts the staged Kelgil in control (R435, R436); its start brings
the mailbox up, scrubs the stack and, at a cold start, trains every mapped port (R411, R416). -/
def Obligations.Firmware : Prop :=
  (∀ (s : State) (m : Mb) (f : FwImage), AcceptsOut s m →
    (fwCheck kelgilMagic f (s.nvm.ctrs.getD 2 0) = none → Served (.fwStage m f) s m 0x0020 stOk 0 .none fun t =>
      t.hif.staged = some f ∧ MailFrame s { t with hif := { t.hif with staged := s.hif.staged } })
    ∧ (∀ c, fwCheck kelgilMagic f (s.nvm.ctrs.getD 2 0) = some c → Served (.fwStage m f) s m 0x0020 stRefused c .none (MailFrame s))
    ∧ (fwCheck bellowsMagic f (s.nvm.ctrs.getD 3 0) = none → Served (.blwStage m f) s m 0x0022 stOk 0 .none fun t =>
      t.hif.blwStaged = some f ∧ t.hif.blwWriting = true
        ∧ MailFrame s { t with hif := { t.hif with blwStaged := s.hif.blwStaged, blwWriting := s.hif.blwWriting } })
    ∧ (∀ c, fwCheck bellowsMagic f (s.nvm.ctrs.getD 3 0) = some c → Served (.blwStage m f) s m 0x0022 stRefused c .none (MailFrame s))
    ∧ (s.sec.dlevel < 2 → s.hif.staged.isSome = true → Deferred (.fwActivate m) s m fun t =>
      t.hif.activate = s.hif.activate ++ [m.seq] ∧ t.hif.staged = s.hif.staged ∧ t.mem = s.mem))
  ∧ (∀ (s : State) (f : FwImage), s.hif.activate ≠ [] → s.hif.staged = some f → s.mayActivate = true →
    (s.hif.phase = 4 ∨ s.hif.phase = 5) → Completes .kelgilActivation s fun t =>
      t.hif.running = some f ∧ t.hif.staged = none ∧ t.hif.activating = true ∧ t.hif.phase = 7 ∧ t.mem = s.mem ∧ t.cores = s.cores
        ∧ t.sec = s.sec ∧ t.lnk = s.lnk)
  ∧ (∀ (s : State) (e : InitEnv), s.rst.dieUp = true → s.job.prog = none →
    ((s.hif.phase = 3 ∨ s.hif.phase = 7) → e.ok = true → Completes (.kelgilInit e) s fun t =>
      t.hif.mbxUp = true ∧ t.hif.phase = 4 ∧ t.hif.fwDone = true ∧ t.rst.wdogOn = true
        ∧ (∀ a, memGet t.mem a = if a < lpBase then 0 else memGet s.mem a) ∧ (∀ k ∈ e.failing, (t.core k).fenced = true)
        ∧ (s.hif.phase = 3 → ∀ p ∈ s.mappedPorts, (t.port p).st = if s.mapOk p = true ∧ s.sec.sstate ≠ .quarantine then .training else .heldOut)
        ∧ (∀ b, e.poison = some b → regionOf (512 * b) = .kelgil → s.quarantining = false → s.job.unloadReq = [] → s.sec.pstate < 2 → s.sec.trans = none →
            b ∈ t.mm.poisoned ∧ t.sec.trans = some (.quarantine 4))
        ∧ (s.hif.phase = 7 → t.hif.ver = none ∧ t.hif.activating = false))
    ∧ ((s.hif.phase = 3 ∨ s.hif.phase = 7) → e.ok = false → Completes (.kelgilInit e) s fun t =>
      t.hif.phase = 6 ∧ t.hif.fail = 7 ∧ t.hif.mbxUp = false ∧ t.hif.activating = false ∧ t.hif.activate = [] ∧ t.mem = s.mem
        ∧ t.cores = s.cores))
  ∧ (∀ (s : State) (sigOk : Bool) (po : Option Nat), s.rst.dieUp = true → s.hif.perst = false → s.sec.pstate < 3 →
    (s.hif.phase = 1 ∨ (s.hif.phase = 6 ∧ 3 ≤ s.hif.fail)) →
    let f := s.fwImage sigOk
    (s.fwBad po = none → fwCheck kelgilMagic f (s.nvm.ctrs.getD 2 0) = none → Completes (.fwgo sigOk po) s fun t =>
      t.hif.running = some f ∧ t.hif.phase = 3 ∧ t.hif.fail = 0 ∧ t.hif.fwBusy = true ∧ t.rst.wdogOn = true ∧ t.mem = s.mem
        ∧ t.sec.ownerKey = s.sec.ownerKey.or
            (if s.sec.sstate = .owned ∧ s.nvm.part.ownh = s.fwOwnKey.map digestOf then s.fwOwnKey else none))
    ∧ (∀ c, s.fwBad po = none → fwCheck kelgilMagic f (s.nvm.ctrs.getD 2 0) = some c → Completes (.fwgo sigOk po) s fun t =>
      t.hif.running = s.hif.running ∧ t.hif.phase = 6 ∧ t.hif.fail = c ∧ t.hif.fwFail = c ∧ t.mem = s.mem ∧ t.sec = s.sec)
    ∧ (∀ b, s.fwBad po = some b → Completes (.fwgo sigOk po) s fun t =>
      t.hif.running = s.hif.running ∧ t.hif.phase = 6 ∧ t.hif.fail = 4 ∧ t.hif.fwFail = 4 ∧ b ∈ t.mm.poisoned ∧ t.mem = s.mem))
  ∧ (∀ s : State, s.rst.dieUp = true → s.hif.perst = false → s.sec.pstate < 3 → s.sec.idOk = true →
    let n := s.hif.attNlen.toNat
    (16 ≤ n → n ≤ 64 → Completes .attgo s fun t =>
      t.hif.evidence = some (s.evidence (slice s.hif.attNonce 0 n)) ∧ t.hif.attFail = false ∧ t.hif.irq = s.hif.irq ||| 4
        ∧ { t with hif := s.hif } = s)
    ∧ ((n < 16 ∨ 64 < n) → Completes .attgo s fun t =>
      t.hif.evidence = none ∧ t.hif.attFail = true ∧ t.hif.elen = 0 ∧ t.hif.irq = s.hif.irq ||| 4 ∧ { t with hif := s.hif } = s))

/-! The debug port (R364-R368). -/

/-- Debug requests. OPEN1 and CLOSE move between D0 and D1, a close with every trace mask cleared (R364, R486); a nonce is
drawn (R365); a valid token opens D2 after a job scrub and D3 at once, an invalid one freezes the port (R366); halt, step,
resume, access and reset act from their level on, and a request or a JTAG instruction beyond the level freezes the port
(R367, R465). An access waits during a scrub (R372), and one of LPDDR5X for a package under retraining (R155). A reset of the host
interface closes D1 and ends the nonce (R364, R365; that it is one of those resets is the model's reading, log 148). -/
def Obligations.DebugRequests : Prop :=
  (∀ (s : State) (via : Option Mb), Reaches s via →
    (s.sec.dlevel = 0 → Completes (.dbgOpen1 via) s fun t =>
      t.sec.dlevel = 1 ∧ t.sec.sstate = s.sec.sstate ∧ t.sec.pstate = s.sec.pstate ∧ t.mem = s.mem ∧ t.cores = s.cores)
    ∧ (s.sec.dlevel = 1 → Completes (.debugClose via) s fun t =>
      t.sec.dlevel = 0 ∧ t.sec.sstate = s.sec.sstate ∧ t.mon.mmask = 0 ∧ (∀ k, (t.core k).trc.kinds = 0 ∧ (t.core k).trc.stall = false)
        ∧ t.mem = s.mem)
    ∧ Completes (.debugNonce via) s fun t => ∃ n, t.sec.dbgNonce = some n ∧ t.draws = s.draws + 1 ∧ t.mem = s.mem ∧ t.cores = s.cores)
  ∧ (∀ (s : State) (src : HifReset), s.sec.dlevel = 1 → Completes (.hostInterfaceReset src) s fun t =>
    t.sec.dlevel = 0 ∧ t.sec.dbgNonce = none ∧ t.mon.mmask = 0 ∧ ∀ k, (t.core k).trc.kinds = 0 ∧ (t.core k).trc.stall = false)
  ∧ (∀ (s : State) (x : DbgToken), s.dbgUp = true →
    (s.tokenOk x = true → s.sec.pstate < 2 → s.sec.dlevel < x.level.toNat →
      (x.level = 2 → s.sec.trans = none → Completes (.debugToken x) s fun t =>
        t.sec.trans = some (.debugOpen 2) ∧ t.sec.scrub = true ∧ t.sec.dbgNonce = none ∧ t.sec.dlevel = s.sec.dlevel ∧ t.mem = s.mem)
      ∧ (x.level = 3 → Completes (.debugToken x) s fun t =>
        t.sec.dlevel = 3 ∧ t.sec.dbgNonce = none ∧ t.sec.sstate = s.sec.sstate ∧ t.mem = s.mem ∧ t.cores = s.cores))
    ∧ (s.tokenOk x = false → Completes (.debugToken x) s fun t =>
      t.sec.dbgFrozen = true ∧ t.sec.dbgNonce = s.sec.dbgNonce ∧ t.mem = s.mem))
  ∧ (∀ s : State, s.dbgUp = true → 2 ≤ s.sec.dlevel →
    (∀ k, Completes (.debugHalt (.core k)) s fun t =>
      (t.core k).halted = true ∧ (t.core k).stepOne = false ∧ OnlyCore s t k ∧ SameRegs s t k ∧ SameVregs s t k)
    ∧ (∀ n, Completes (.debugHalt (.ctrl n)) s fun t => n.val ∈ t.sec.ctrlHalted ∧ { t with sec := s.sec } = s)
    ∧ (∀ u, Completes (.debugSingleStep u) s fun t =>
      match u with
      | .core k => (t.core k).stepOne = (s.core k).halted ∧ (t.core k).halted = (s.core k).halted ∧ OnlyCore s t k ∧ SameRegs s t k
      | .ctrl _ => t = s)
    ∧ (∀ k, Completes (.debugResume (.core k)) s fun t => (t.core k).halted = false ∧ OnlyCore s t k ∧ SameRegs s t k ∧ SameVregs s t k)
    ∧ (∀ n, Completes (.debugResume (.ctrl n)) s fun t => n.val ∉ t.sec.ctrlHalted ∧ { t with sec := s.sec } = s))
  ∧ (∀ (s : State) (a : DbgAccess), s.dbgUp = true → s.sec.scrub = false →
    (a.target = .stack → s.dbgStack a.addr = true → s.dbgStack (a.addr + 3) = true →
      (∀ v, a.write = some v → 3 ≤ s.sec.dlevel → Completes (.debugAccess a) s fun t =>
        t.mem = memWrite s.mem a.addr (leBytes 4 v.toNat) ∧ { t with mem := s.mem } = s)
      ∧ (a.write = none → 2 ≤ s.sec.dlevel → Completes (.debugAccess a) s fun t => t = s))
    ∧ (∀ r u, a.target = .registers → csrAddr a.addr = some r → dbgBlock .registers r = true → (s.reg r).isSome = true →
      (∀ v, a.write = some v → 3 ≤ s.sec.dlevel → s.csrWrite r v = some u → Completes (.debugAccess a) s fun t => t = u)
      ∧ (a.write = none → 2 ≤ s.sec.dlevel → Completes (.debugAccess a) s fun t => t = s.readLatch r))
    ∧ (∀ r, (a.target = .counters ∨ a.target = .trc) → csrAddr a.addr = some r → dbgBlock a.target r = true → (s.reg r).isSome = true →
      1 ≤ s.sec.dlevel →
      (a.write = none → (a.target = .trc ∨ s.telBit r = none) → Completes (.debugAccess a) s fun t => t = s.readLatch r)
      ∧ (∀ v u, a.target = .trc → trcWritable r = true → a.write = some v → s.csrWrite r v = some u →
          Completes (.debugAccess a) s fun t => t = u)
      ∧ (a.target = .trc → trcWritable r = false → a.write.isSome = true → Completes (.debugAccess a) s fun t =>
          t.sec.dbgFrozen = true ∧ t.mem = s.mem))
    ∧ ((a.target = .traces ∨ (a.target = .log ∧ ∀ e ∈ s.rings.log, e.entry.toNat = a.addr → e.cls = 2)) → a.write = none →
      1 ≤ s.sec.dlevel → Completes (.debugAccess a) s fun t => t = s)
    ∧ (∀ v, a.target = .lpddr → dbgLp a.addr = true → dbgLp (a.addr + 3) = true → a.write = some v → 3 ≤ s.sec.dlevel → s.waits [(a.addr, 4)] = false →
      (∀ g, regionOf a.addr = .code g → s.isSealed g = false) →
      (a.poison = false → a.addr / 512 ∉ s.mm.poisoned → Completes (.debugAccess a) s fun t =>
        t = writeRuns s (entryCvp (chkGet s (a.addr / 4096))) [(a.addr, leBytes 4 v.toNat)])
      ∧ ((a.poison = true ∨ a.addr / 512 ∈ s.mm.poisoned) → Completes (.debugAccess a) s fun t =>
        t.mem = s.mem ∧ a.addr / 512 ∈ t.mm.poisoned))
    ∧ (a.target = .sec ∨ a.target = .keyStore ∨ a.target = .taglessOther ∨ s.sec.dlevel = 0 → Completes (.debugAccess a) s fun t =>
      t.sec.dbgFrozen = true ∧ t.mem = s.mem))
  ∧ (∀ (s : State) (a : DbgAccess), s.dbgUp = true → 1 ≤ s.sec.dlevel →
    (s.sec.scrub = true ∨ (a.target = .lpddr ∧ s.waits [(a.addr, 4)] = true)) → Completes (.debugAccess a) s fun t =>
      t.mm.stalled = s.mm.stalled ++ [.debugAccess a] ∧ { t with mm := { t.mm with stalled := s.mm.stalled } } = s)
  ∧ (∀ s : State, 2 ≤ s.sec.dlevel → s.sec.dbgFrozen = false → Completes .debugResetRequest s fun t =>
    t.rst.cause = 4 ∧ t.rst.dieUp = false ∧ t.sec.dlevel = 0 ∧ t.cores = [] ∧ t.job = .zero ∧ t.mem = [] ∧ t.nvm.part = s.nvm.part)
  ∧ (∀ s : State, s.dbgUp = true →
    ∀ x ∈ [(Instr.jtagIdcode, 0, Jtag.idcode), (.jtagBypass, 0, .bypass), (.jtagSamplePreload, 1, .samplePreload),
      (.jtagExtest, 3, .extest), (.jtagIntest, 3, .intest)],
      (x.2.1 ≤ s.sec.dlevel → Completes x.1 s fun t => t.sec.jtag = x.2.2 ∧ { t with sec := { t.sec with jtag := s.sec.jtag } } = s)
      ∧ (s.sec.dlevel < x.2.1 → Completes x.1 s fun t => t.sec.dbgFrozen = true ∧ t.sec.jtag = s.sec.jtag ∧ t.mem = s.mem))

/-! The host interface and resets. -/

/-- Every reset of the module leaves the die at its reset values and keeps the security state, the boot record and Bellows, with the
cause of R471: HIF_RESET with the key 1, RESET 2, the watchdog 3, the debug agent 4 (in DebugRequests), the loss of the PLL 5
(R413, R431, R460, R465, R470). BLW_PREQ is zero, and Bellows has not yet updated its registers (R456, R465). Each of the four
commands answers a next state in every state (RESET where the mailbox accepts it); where its cause does not stand, the key of
HIF_RESET among them, nothing changes; HIF_RESET does nothing while PERST# is held (R466). A hold goes on to its end (R369): that a
loss of the PLL resets the die all the same is the model's reading (log 163). -/
def Obligations.ModuleResets : Prop :=
  let done := fun (s t : State) (cause : Nat) =>
    t.rst.cause = cause ∧ t.rst.dieUp = false ∧ t.mem = [] ∧ t.chk = [] ∧ t.cores = [] ∧ t.job = .zero ∧ t.stp = .zero ∧ t.scc = .zero
      ∧ t.lnk = .zero ∧ t.outq = .zero ∧ t.rings = .zero ∧ t.mm = .zero ∧ t.sec.slots = [] ∧ t.sec.ownerKey = none ∧ t.sec.dlevel = 0
      ∧ t.sec.pstate = 0 ∧ t.sec.sstate = s.sec.sstate ∧ t.sec.seed = s.sec.seed ∧ t.nvm.part = s.nvm.part ∧ t.nvm.ctrs = s.nvm.ctrs
      ∧ t.blw.preq = 0 ∧ t.blw.shown = false ∧ { t.blw with preq := s.blw.preq, shown := s.blw.shown } = s.blw ∧ t.hif.phase = 0
      ∧ t.hif.mbxUp = false ∧ t.rst.core = 0 ∧ t.rst.busy = false
  (∀ (s : State) (v : W32), ∃ t, exec (.hifReset v) s = .next t
      ∧ (v = 0x0000D0E5#32 → s.rst.dieUp = true → s.hif.perst = false → s.sec.pstate < 3 → done s t 1)
      ∧ (v ≠ 0x0000D0E5#32 ∨ s.rst.dieUp = false ∨ s.hif.perst = true ∨ 3 ≤ s.sec.pstate → t = s))
  ∧ (∀ (s : State) (m : Mb), Accepts s m → ∃ t, exec (.reset m) s = .next t ∧ done s t 2)
  ∧ (∀ s : State, ∃ t, exec .wdog s = .next t
      ∧ (s.rst.wdogOn = true → 3 ≤ s.hif.phase → s.sec.pstate < 2 → 1000 ≤ s.rst.wdogMs → done s t 3)
      ∧ (s.rst.wdogOn = false ∨ s.hif.phase < 3 ∨ 2 ≤ s.sec.pstate ∨ s.rst.wdogMs < 1000 → t = s))
  ∧ (∀ s : State, ∃ t, exec .pllLockLoss s = .next t
      ∧ (s.rst.locked = true → s.sec.pstate < 3 → done s t 5)
      ∧ (s.rst.locked = true → s.sec.pstate = 3 → t.rst.cause = 5 ∧ t.rst.dieUp = false ∧ t.sec.pstate = 3 ∧ t.sec.hold = s.sec.hold ∧ t.mem = []
          ∧ t.cores = [])
      ∧ t.rst.locked = false ∧ (s.rst.locked = false → t = s))

/-- A function-level reset, a hot reset or a loss of the PCIe link (R439): the three rings, the doorbells and the MSI-X table are
cleared, a frozen requester is released, the mailbox is detached; the BAR2 map, the output queue with HEAD and TAIL and the job
stand, and so does every held reply but what 256 places cannot hold, the replies not acknowledged joining them. The registers that the
host writes return to their reset values (R431). Outside debug, whose D1 and nonce such a reset ends (DebugRequests), nothing else
changes. -/
def Obligations.HostInterfaceReset : Prop :=
  ∀ (s : State) (src : HifReset), Completes (.hostInterfaceReset src) s fun t =>
    t.hif.open' = [] ∧ t.hif.replies = [] ∧ t.hif.notifs = [] ∧ t.hif.doorbell = [0, 0, 0] ∧ t.hif.msix = [] ∧ t.hif.msixTab = msixReset
      ∧ t.hif.pba = 0 ∧ t.hif.fwLen = 0 ∧ t.hif.fwOwnk = 0 ∧ t.hif.attNlen = 16 ∧ t.hif.irq = 0 ∧ t.hif.irqEn = 0 ∧ t.sec.pcieFrozen = false
      ∧ t.hif.ver = none ∧ t.hif.bar2 = s.hif.bar2 ∧ t.outq = s.outq ∧ t.job = s.job
      ∧ (let h := s.hif.heldRep ++ s.hif.replies; t.hif.heldRep = h.drop (h.length - 256))
      ∧ (s.hif.heldRep.length + s.hif.replies.length ≤ 256 → ∀ r ∈ s.hif.heldRep, r ∈ t.hif.heldRep)
      ∧ (s.sec.dlevel ≠ 1 → { t with hif := s.hif, sec := { t.sec with pcieFrozen := s.sec.pcieFrozen, dbgNonce := s.sec.dbgNonce } } = s)
      ∧ (let sec := { t.sec with pcieFrozen := s.sec.pcieFrozen, dbgNonce := s.sec.dbgNonce, dlevel := s.sec.dlevel };
        { t with hif := s.hif, cores := s.cores, mon := s.mon, rings := s.rings, sec := sec } = s)

/-- PERST# released opens the interface (R492). A BAR2 access within one window, or across two that lie on neighbouring granules,
reaches those bytes and no others, and a read returns them; one into a closed window is a violation and freezes the requester (R420,
R385-R387). In P2, and of a frozen requester, a read returns all ones and a write is discarded (R369, R387). A block
that a write covers whole is poisoned no more (R153). An access to a package under retraining, or during a scrub, waits and changes
nothing else (R155, R372; that it waits behind one that waits is the model's, log 97). One that reads a block whose MAC fails, for a write a block it covers in part, changes no byte and leaves a record of
kind 0x21 (R154). -/
def Obligations.HostInterface : Prop :=
  (∀ s : State, Completes .perstDeassert s fun t =>
    t.hif.perst = false ∧ { t with hif := { t.hif with perst := s.hif.perst }, rst := { t.rst with pcieRef := s.rst.pcieRef } } = s)
  ∧ (∀ (s : State) (off : Nat), s.hif.perst = false → s.rst.dieUp = true → s.sec.pcieFrozen = false → s.sec.pstate < 2 →
    (∀ (b : List Byte) (len : Nat) (po : Option Nat) (g g' : Nat), b ≠ [] → s.window (off / granSize) = some g →
      s.window ((off + b.length - 1) / granSize) = some g' →
      (∀ ps, s.bar2Pieces off b.length = some ps → s.waits ps = false ∧ ∀ x ∈ readBlocks ps true, x ∉ s.mm.poisoned ∧ po ≠ some x) →
      ((off / granSize = (off + b.length - 1) / granSize ∨ g' = g + 1) → Completes (.bar2Access off (some b) ⟨len, po⟩) s fun t =>
        (let a := lpBase + g * granSize + off % granSize;
          t.mem = memWrite s.mem a b ∧ (∀ x, a ≤ 512 * x → 512 * x + 512 ≤ a + b.length → x ∉ t.mm.poisoned))
          ∧ (∀ x ∈ t.mm.poisoned, x ∈ s.mm.poisoned) ∧ { t with mem := s.mem, mm := { t.mm with poisoned := s.mm.poisoned } } = s)
      ∧ (off / granSize ≠ (off + b.length - 1) / granSize → g' ≠ g + 1 → Completes (.bar2Access off (some b) ⟨len, po⟩) s fun t =>
        (let n := granSize - off % granSize;
          t.mem = memWrite (memWrite s.mem (lpBase + g * granSize + off % granSize) (b.take n)) (lpBase + g' * granSize) (b.drop n))
          ∧ (∀ x ∈ t.mm.poisoned, x ∈ s.mm.poisoned) ∧ { t with mem := s.mem, mm := { t.mm with poisoned := s.mm.poisoned } } = s))
    ∧ (∀ len po g g', 0 < len → s.window (off / granSize) = some g → s.window ((off + len - 1) / granSize) = some g' →
      (∀ ps, s.bar2Pieces off len = some ps → s.waits ps = false ∧ ∀ x ∈ readBlocks ps false, x ∉ s.mm.poisoned ∧ po ≠ some x) →
      Completes (.bar2Access off none ⟨len, po⟩) s fun t =>
        let a := lpBase + g * granSize + off % granSize
        let n := granSize - off % granSize
        (off / granSize = (off + len - 1) / granSize ∨ g' = g + 1 → t.hif.rdata = memRange s.mem a len)
          ∧ (off / granSize ≠ (off + len - 1) / granSize → g' ≠ g + 1 →
              t.hif.rdata = memRange s.mem a n ++ memRange s.mem (lpBase + g' * granSize) (len - n))
          ∧ { t with hif := { t.hif with rdata := s.hif.rdata } } = s)
    ∧ (∀ (w : Option (List Byte)) len po ps, let n := match w with | some b => b.length | none => len
      0 < n → s.bar2Pieces off n = some ps →
      (s.waits ps = true → Completes (.bar2Access off w ⟨len, po⟩) s fun t =>
        t.mm.stalled = s.mm.stalled ++ [.bar2Access off w ⟨len, po⟩] ∧ { t with mm := { t.mm with stalled := s.mm.stalled } } = s)
      ∧ (s.waits ps = false → (∃ x ∈ readBlocks ps w.isSome, x ∈ s.mm.poisoned ∨ po = some x) →
        Completes (.bar2Access off w ⟨len, po⟩) s fun t =>
          t.mem = s.mem ∧ t.job = s.job ∧ ∃ x ∈ readBlocks ps w.isSome, x ∈ t.mm.poisoned ∧ ∃ r ∈ t.rings.fault ++ t.rings.wait,
            r.kind = 0x0021 ∧ r.addr = 512 * x))
    ∧ (∀ (w : Option (List Byte)) len po, let n := match w with | some b => b.length | none => len
      0 < n → s.bar2Pieces off n = none → Completes (.bar2Access off w ⟨len, po⟩) s fun t =>
        t.sec.pcieFrozen = true ∧ (w = none → t.hif.rdata = []) ∧ t.mem = s.mem ∧ t.cores = s.cores
          ∧ ∃ r ∈ t.rings.fault ++ t.rings.wait, r.kind = 0x0030 ∧ r.engine = engPcie ∧ r.detail = 5))
  ∧ (∀ (s : State) (off : Nat), s.hif.perst = false → s.rst.dieUp = true → s.sec.pstate < 3 → (s.sec.pcieFrozen = true ∨ s.sec.pstate = 2) →
    (∀ len po, 0 < len → Completes (.bar2Access off none ⟨len, po⟩) s fun t =>
      t.hif.rdata = List.replicate len 0xFF#8 ∧ { t with hif := { t.hif with rdata := s.hif.rdata } } = s)
    ∧ ∀ b len po, Completes (.bar2Access off (some b) ⟨len, po⟩) s fun t => t = s)

/-! Registers (R12, R488). -/

/-- A 32-bit register without a field of its own reads back what was written to it: the scalars and rates of the update engine
(R246), the bounds of the grid slots (R288), the tag window of the traces (R487), the amax table (R227), two of the emulated
registers (R431); nothing outside its block changes. During a scrub a write waits (R372). A write outside every block freezes a control processor (R385-R387). A
write of EVC_SELn sets its fields and zeroes count and WRAP; CLEAR zeroes every count and WRAP of the block; a read of the low
half latches the high one (R478, R479). The watchdog restarts on its key and on nothing else (R470); PREQ takes the low sixteen
bits (R446). -/
def Obligations.Registers : Prop :=
  ((∀ (s : State) (k : CoreId) (off : Nat) (v : W32), s.rst.dieUp = true → s.sec.pstate < 3 → s.sec.scrub = false →
      ((∃ g w, g < 64 ∧ w < 4 ∧ off = 0x1400 + 16 * g + 4 * w) ∨ (∃ n, n < 256 ∧ off = 0x1804 + 8 * n)
        ∨ (∃ n w, n < 256 ∧ w < 2 ∧ off = 0x3008 + 16 * n + 4 * w) ∨ off = 0x4404 ∨ off = 0x4408) →
      Completes (.registerWrite (.core k off) v) s fun t => t.reg (.core k off) = some v.toNat ∧ OnlyCore s t k ∧ SameVregs s t k
        ∧ (t.core k).tiles = (s.core k).tiles ∧ (t.core k).lt = (s.core k).lt ∧ (t.core k).inflight = (s.core k).inflight)
    ∧ (∀ (s : State) (h : Nat) (v : W32), s.rst.dieUp = true → s.sec.pstate < 3 → s.sec.scrub = false → h < 65536 →
      Completes (.registerWrite (.module (0x10000 + 4 * h)) v) s fun t =>
        t.reg (.module (0x10000 + 4 * h)) = some v.toNat
          ∧ (∀ q, q < 65536 → q ≠ h → t.reg (.module (0x10000 + 4 * q)) = s.reg (.module (0x10000 + 4 * q)))
          ∧ { t with scc := { t.scc with amax := s.scc.amax } } = s)
    ∧ (∀ (s : State) (off : Nat) (v : W32), s.rst.dieUp = true → s.sec.pstate < 3 → s.hif.perst = false → (off = 0x10 ∨ off = 0x14) →
      Completes (.registerWrite (.hif off) v) s fun t => t.hifReg off = v.toNat ∧ { t with hif := s.hif } = s)
    ∧ (∀ (s : State) (k : CoreId) (off : Nat) (v : W32), s.rst.dieUp = true → s.sec.pstate < 3 → s.sec.scrub = false → 0x4800 ≤ off →
      s.sec.ctrlFrozen = [] → Completes (.registerWrite (.core k off) v) s fun t => 0 ∈ t.sec.ctrlFrozen ∧ t.mem = s.mem)
    ∧ (∀ (s : State) (a : RegAddr) (v : W32), s.rst.dieUp = true → s.sec.pstate < 3 → s.sec.scrub = true →
      ((∃ k off, a = .core k off) ∨ ∃ off, a = .module off) → Completes (.registerWrite a v) s fun t =>
        t.mm.stalled = s.mm.stalled ++ [.registerWrite a v] ∧ { t with mm := { t.mm with stalled := s.mm.stalled } } = s))
  ∧ ((∀ (s : State) (b : EvcBlk) (n : Nat) (v : W32), n < evcSize b → Completes (.evcSelWrite b n v) s fun t =>
      t.evCnt b n = { src := v.toNat % 2 ^ evcBits b, en := v.getLsbD (evcBits b), mode := v.getLsbD (evcBits b + 1), wrap := false, cnt := 0, hi := 0 }
        ∧ (∀ q, q ≠ n → t.evCnt b q = s.evCnt b q) ∧ (t.evc b).freeze = (s.evc b).freeze
        ∧ { t with cores := s.cores, mon := s.mon } = s)
    ∧ (∀ (s : State) (b : EvcBlk), Completes (.evcClear b) s fun t =>
      (∀ n, (t.evCnt b n).cnt = 0 ∧ (t.evCnt b n).wrap = false) ∧ (t.evc b).freeze = (s.evc b).freeze
        ∧ { t with cores := s.cores, mon := s.mon } = s)
    ∧ (∀ (s : State) (b : EvcBlk) (n : Nat), n < evcSize b → Completes (.evcCntLoRead b n) s fun t =>
      (t.evCnt b n).hi.toNat = (s.evCnt b n).cnt.toNat / 2 ^ 32 ∧ (t.evCnt b n).cnt = (s.evCnt b n).cnt
        ∧ (∀ q, q ≠ n → t.evCnt b q = s.evCnt b q) ∧ { t with cores := s.cores, mon := s.mon } = s)
    ∧ (∀ s : State, Completes (.rstWdog 0x00005A17) s fun t => t.rst.wdogMs = 0 ∧ { t with rst := { t.rst with wdogMs := s.rst.wdogMs } } = s)
    ∧ (∀ (s : State) (v : W32), v ≠ 0x00005A17#32 → Completes (.rstWdog v) s fun t => t = s))

/-! Service of the cores. -/

/-- SEAL and UNSEAL of a code granule: unsealing is refused while a core that is not drained caches a line of it, and leaves no
cached line (R143, R144, R166). Reports of the update engine leave its FIFO by POP one by one, and by Kelgil all together into
the largest dmax of each layer (R220, R244); traces leave theirs four at a time into a log entry (R485). -/
def Obligations.CoreService : Prop :=
  ((∀ (s : State) (v : W32), Completes (.seal v) s fun t =>
      (∀ g, t.isSealed g = (decide (g = v.toNat % 65536) || s.isSealed g)) ∧ t.mm.granule = v.setWidth 16 ∧ { t with mm := s.mm } = s)
    ∧ (∀ (s : State) (v : W32), v.getLsbD 16 = false →
      let g := v.toNat % 65536
      s.isSealed g = true →
      ((∀ k, (s.core k).drained = true ∨ (s.core k).caches g = false) → Completes (.unseal v) s fun t =>
        (∀ q, t.isSealed q = (decide (q ≠ g) && s.isSealed q)) ∧ t.mm.refused = false ∧ (∀ k, (t.core k).caches g = false)
          ∧ (∀ k, SameRegs s t k ∧ SameVregs s t k) ∧ { t with mm := s.mm, cores := s.cores } = s)
      ∧ ((∃ k, (s.core k).drained = false ∧ (s.core k).caches g = true) → Completes (.unseal v) s fun t =>
        (∀ q, t.isSealed q = s.isSealed q) ∧ t.mm.refused = true ∧ { t with mm := s.mm } = s)))
  ∧ ((∀ (s : State) (k : CoreId), Completes (.upeRptPop k) s fun t =>
      (t.core k).upe.rpt = (s.core k).upe.rpt.drop 1 ∧ OnlyCore s t k ∧ SameVregs s t k ∧ (t.core k).tiles = (s.core k).tiles)
    ∧ (∀ (s : State) (k : CoreId), (128 ≤ (s.core k).upe.rpt.length ∨ (s.core k).ended = true) → Completes (.reportFifoRead k) s fun t =>
      (t.core k).upe.rpt = []
        ∧ (∀ l, (SMap.get 0 t.stp.carried.dmax l).toNat =
            ((s.core k).upe.rpt.filter fun r => ! r.skip && decide (r.layer.toNat = l)).foldl (fun a r => max a r.dmax.toNat)
              (SMap.get 0 s.stp.carried.dmax l).toNat)
        ∧ t.mem = s.mem ∧ SameVregs s t k ∧ (∀ j, j ≠ k → t.core j = s.core j))
    ∧ (∀ (s : State) (k : CoreId), 4 ≤ (s.core k).trc.fifo.length → (s.core k).waitq = [] → Completes (.traceDrain k) s fun t =>
      (t.core k).trc.fifo = (s.core k).trc.fifo.drop 4 ∧ (∃ e ∈ t.rings.log, e.kind = 0x0010 ∧ e.payload = ((s.core k).trc.fifo.take 4).flatMap TraceRec.fields)
        ∧ t.mem = s.mem ∧ SameRegs s t k ∧ SameVregs s t k ∧ (∀ j, j ≠ k → t.core j = s.core j)))

/-- In-field tests (R395-R398): a test that is asked for or due waits in line or runs; one that passes leaves its column without
contents and no mismatch charged; one that fails fences its core; a core that cannot be moved is tested in a pause, its column
march put off. -/
def Obligations.InFieldTests : Prop :=
  (∀ (s : State) (m : Mb) (c : W16), AcceptsOut s m → ∀ h : c.toNat < 192, Served (.test m c) s m 0x0063 stOk 0 .none fun t =>
    (⟨c.toNat, h⟩ ∈ t.tst.queue ∨ t.tst.running = some ⟨c.toNat, h⟩) ∧ t.sec = s.sec ∧ t.stp = s.stp)
  ∧ (∀ (s : State) (k : CoreId), s.hif.mbxUp = true → Completes (.infieldTestDue k) s fun t =>
    (t.core k).testDue = true ∧ (k ∈ t.tst.queue ∨ t.tst.running = some k) ∧ t.sec = s.sec ∧ t.stp = s.stp)
  ∧ (∀ (s : State) (k : CoreId), s.tst.running = some k → s.tst.queue = [] →
    let b := k.val * colStride
    (Completes (.infieldTestComplete true) s fun t =>
      t.tst.running = none ∧ (t.core k).mismatches = 0 ∧ (t.core k).cvu.charges = 0
        ∧ (t.core k).passed = ((s.core k).fenced && ! (s.core k).failed)
        ∧ (∀ a, memGet t.mem a = if b ≤ a ∧ a < b + colTensor then 0 else memGet s.mem a))
    ∧ (Completes (.infieldTestComplete false) s fun t =>
      t.tst.running = none ∧ (t.core k).fenced = true ∧ (t.core k).failed = true ∧ (t.core k).passed = false
        ∧ ∃ r ∈ t.rings.fault ++ t.rings.wait, r.kind = 0x0050 ∧ r.core = coreField k))
  ∧ (∀ (s : State) (k : CoreId), (s.core k).testDue = true → s.freeCore = none → k.val ∈ s.jobColumns → Completes (.testPause k) s fun t =>
    t.stp.pauseMs = 40 ∧ (t.core k).testDue = false ∧ (t.core k).marchDue = true ∧ k ∉ t.tst.queue ∧ t.mem = s.mem ∧ t.job = s.job)

/-! Jobs and steps. -/

/-- A job load: the request that passes every stage puts the module into loading, its reply deferred; one that fails a stage is
answered with the rejection record (R191, R200). When the load completes the job is loaded at step S0, with its program, its
tables in memory, the registers scoped to the job at their reset values and the code granules sealed (R84, R111, R143, R204,
R227). CHUNK_DECRYPT of the oldest chunk whose buffer is free: its plaintext stands in its Landing buffer, the rest of which is
zero, or the chunk is refused and the buffer left at zero (R350), as one is whose staged bytes cannot be read, the load's image
likewise (R154; log 156). No other byte changes. JOB_LOAD waits while the staging granules are not free to be read (R155, R372). -/
def Obligations.JobData : Prop :=
  ((∀ (s : State) (m : Mb) (e : Envelope) (body : List Byte), AcceptsOut s m → s.sec.pstate ≠ 2 → s.sec.sstate = .owned →
      (s.outq.undrained = [] ∨ s.job.st ≠ .none) → s.sec.dlevel < 2 → s.releasing = false → s.waits [s.stagePiece] = false →
      (∀ po, (s.taken m).imageBad e body po = none →
        (∀ l, (s.taken m).tryLoad m.seq e body = .ok l → Deferred (.jobLoad m e body po) s m fun t =>
          t.job.st = .loading ∧ t.job.load = some l ∧ MailFrame s { t with job := s.job })
        ∧ (∀ r, (s.taken m).tryLoad m.seq e body = .rej r →
          Served (.jobLoad m e body po) s m 0x0050 stLoader 0 (.words (r.words ++ s.capability)) fun t => t.job = s.job ∧ t.mem = s.mem))
      ∧ (∀ po x, (s.taken m).imageBad e body po = some x →
          Served (.jobLoad m e body po) s m 0x0050 stLoader 0 (.words ((Rej.plain 0x0102 1 0).words ++ s.capability)) fun t =>
            t.job = s.job ∧ t.mem = s.mem ∧ x ∈ t.mm.poisoned))
    ∧ (∀ (s : State) (l : Loading), s.job.load = some l → s.sec.trans = none → s.sec.pstate < 3 →
      (∀ n ∈ l.prog.cols, l.cols.getD n 192 ∈ s.usableCores) → Completes .jobLoadComplete s fun t =>
        t.job.st = .loaded ∧ t.job.man = some l.man ∧ t.job.prog = some l.prog ∧ t.job.scales = l.sctab ∧ t.job.layers = l.layers
          ∧ t.job.scaleImg = l.scales
          ∧ t.job.load = none ∧ t.stp.s = l.man.s0 ∧ t.stp.a = 0 ∧ t.stp.phase = .between ∧ t.mem = loadMem s.mem l ∧ t.mm.colmap = l.cols
          ∧ t.mm.jobKeys.isSome = true ∧ t.job.nonce.isSome = true ∧ t.mm.jobMarks = true ∧ t.scc.consec = 0 ∧ t.scc.skips = 0 ∧ t.scc.amax = []
          ∧ (∀ g, t.isSealed g = decide (g < (l.prog.streams.map fun ws => codeGranules ws.length).foldl (· + ·) 0))
          ∧ (∀ k, (t.core k).lcnt = [] ∧ (t.core k).tiles = [] ∧ ∀ v, ((t.core k).vreg v).ovf = false ∧ ((t.core k).vreg v).nfin = false))
    ∧ (∀ (m : List Host.Cell) (l : Loading), l.descs.length ≤ 0x400000 → l.scales.length ≤ 0x100000 →
      (∀ i, i < l.descs.length → memGet (loadMem m l) (descTable + i) = l.descs.getD i 0)
        ∧ (∀ i, i < l.scales.length → memGet (loadMem m l) (scaleTable + i) = l.scales.getD i 0)
        ∧ ∀ a, statusTable ≤ a → a < statusTable + 0x40000 → memGet (loadMem m l) a = 0))
  ∧ (∀ (s : State) (x : TokMan) (c : ChunkEntry), s.job.st = .loaded → s.sec.pstate < 2 → s.sec.scrub = false → s.nextChunk = some (x, c) →
      SMap.has s.job.landing c.buf.toNat = false →
      s.stalls (lpBase + c.off.toNat) c.clen.toNat = false →
      let a := landingAt c.buf.toNat
      let clean := fun (po : Option Nat) => s.macBad (lpBase + c.off.toNat) c.clen.toNat po = none
      (∀ plain po, clean po → s.chunkOk x c = true → s.chunkPlain c = some plain → plain.length ≤ 0x400000 → Completes (.chunkDecrypt po) s fun t =>
        (∀ i, memGet t.mem i = if a ≤ i ∧ i < a + 0x400000 then plain.getD (i - a) 0 else memGet s.mem i)
          ∧ SMap.has t.job.landing c.buf.toNat = true
          ∧ t.job.tokens = s.job.tokens.map (fun y => if y.s = x.s then { y with pos := y.pos + 1 } else y) ∧ t.cores = s.cores ∧ t.stp = s.stp)
      ∧ (∀ po, ¬ clean po ∨ s.chunkOk x c = false → Completes (.chunkDecrypt po) s fun t =>
        (∀ i, memGet t.mem i = if a ≤ i ∧ i < a + 0x400000 then 0 else memGet s.mem i) ∧ SMap.has t.job.landing c.buf.toNat = false
          ∧ t.job.tokens = s.job.tokens ∧ (clean po → t.cores = s.cores) ∧ t.stp = s.stp))

/-- A step. An attempt that may start and waits for nothing resets the synchronisation objects, the amax table, the RX
halves and every Tally tile, and starts every used core at its first word with the count registers of R182 (R84, R182, R185, R211, R258). The vote is
this module's own view of the attempt (R215). When every core has ended the step counter advances by one and the next attempt
is number 0 (R189); what was asked for this boundary has been done (R241, R320). The step watchdog freezes exactly the cores
whose WAIT is not satisfied (R187). -/
def Obligations.StepProgress : Prop :=
  (∀ (s : State) (m : Manifest) (x : TokMan), s.mayStart = true → s.waitBits = 0 → s.job.man = some m →
    s.job.tokens.find? (fun y => y.s = s.stp.s) = some x → Completes .attemptStart s fun t =>
      t.stp.phase = .running ∧ t.stp.s = s.stp.s ∧ t.stp.a = s.stp.a ∧ (∀ o, t.obj o = 0) ∧ t.stp.fault = s.faulty ∧ t.scc.amax = [] ∧ (∀ p b, t.rxFull p b = false)
        ∧ (m.pipe.sloth = 0 → t.mem = memClear s.mem statusTable 0x40000)
        ∧ (∀ k ∈ s.usedCores, (t.core k).fetching = true ∧ (t.core k).fpos = 0 ∧ (t.core k).inflight = [] ∧ (t.core k).loops = []
            ∧ (t.core k).lcnt = (if s.stp.a = 0 then (s.core k).lcnt else (s.core k).lcntRec)
            ∧ (t.core k).frozen = ((s.core k).frozen && m.vrel))
        ∧ (∀ k, k ∉ s.usedCores → t.core k = { s.core k with tiles := [] }) ∧ (∀ k, SameVregs s t k ∧ (t.core k).tiles = []))
  ∧ (∀ s : State, s.job.st = .loaded → s.stp.phase = .running → (s.stp.fault = true ∨ s.voteReady = true) →
    Completes .vote s fun t => t.stp.phase = .voted ∧ t.stp.own = some s.ownVote ∧ t.stp.s = s.stp.s ∧ t.stp.a = s.stp.a ∧ t.mem = s.mem
      ∧ t.cores = s.cores)
  ∧ (∀ s : State, s.job.st = .loaded → s.stp.phase = .committed → (∀ k ∈ s.usedCores, (s.core k).ended = true) →
    s.restorable s.stp.lost = true → Completes .stepBoundary s fun t =>
      t.stp.s = s.stp.s + 1 ∧ t.stp.a = 0 ∧ t.stp.phase = .between ∧ t.stp.first = true
      ∧ t.job.queued = s.job.queued.filter (fun x => decide ((s.stp.s + 1).toNat < x.2.1.toNat))
      ∧ t.job.audits = s.job.audits.filter (fun x => decide ((s.stp.s + 1).toNat < x.2.1.toNat)) ∧ t.scc.amax = s.scc.amax ∧ t.scc.consec = s.scc.consec)
  ∧ (∀ s : State, s.job.st = .loaded → (s.stp.phase = .running ∨ s.stp.phase = .voted ∨ s.stp.phase = .committed) → s.stp.wdogFired = false →
    (∃ k ∈ s.usedCores, ∃ e ∈ (s.core k).inflight, e.phase = .waitObj ∧ s.reached e = false) → Completes .stepWatchdog s fun t =>
      t.stp.wdogFired = true ∧ t.mem = s.mem
        ∧ ∀ k, (t.core k).frozen = true ↔ (s.core k).frozen = true
            ∨ (k ∈ s.usedCores ∧ ∃ e ∈ (s.core k).inflight, e.phase = .waitObj ∧ s.reached e = false))

/-- Outcomes. The coordinator with every vote decides by the rule of R302: a fault RETRY, an overflow or non-finite value SKIP or
STOP, else GO; members without a vote at the timeout are lost, and the outcome is RESTORE where each has a replica, ROLLBACK
otherwise (R301, R304). GO lets every core past its COMMIT and ends the count of skips; SKIP counts one, and the step is tried
again; STOP ends the job (R216, R217, R303). A second difference of the duplicate computation of what an outcome writes is a
module fault: after GO the module is lost, before it a fault of the next attempt (R245, R383). A coordinator that is lost joins the lost
modules, and the attempt stands as it is; past the boundary the job rolls back where the lost one has no replica (R304). The RESTORE of
a new coordinator loses more modules, and no more (R304). A restore makes the pod whole and leaves memory and step as they are; one whose
source is lost starts over, or rolls back (R305); on a replacement step, attempt, scales, layers,
job nonce and record numbers become those of the replica (R305, R346, R353). -/
def Obligations.Outcomes : Prop :=
  (∀ (s : State) (v : Vote), s.stp.comb = some v → s.deciding = true →
    ((∀ i ∈ s.podIds, i ∈ v.members) → Completes .outcomeDecide s fun t =>
      t.stp.decided = some ⟨s.stp.s, s.stp.a, if v.fault then outRetry else if v.ovf || v.nfin then (if s.stopCode v = 0 then outSkip else outStop) else outGo, []⟩
        ∧ t.stp.comb = some v ∧ t.mem = s.mem ∧ t.cores = s.cores ∧ t.job = s.job)
    ∧ (let lost := s.podIds.filter fun i => ! v.members.contains i;
      lost ≠ [] → Completes .voteTimeout s fun t =>
        t.stp.decided = some ⟨s.stp.s, s.stp.a, if s.restorable lost then outRestore else outRollback, lost⟩ ∧ t.mem = s.mem ∧ t.cores = s.cores
          ∧ t.job = s.job))
  ∧ (∀ (s : State) (o : OutcomeMsg) (d : Nat) (v : Vote), s.job.st = .loaded → s.stp.phase = .voted → s.stp.comb = some v →
    s.stp.decided = some o → o.s = s.stp.s → o.a = s.stp.a → (∀ m, s.job.man = some m → m.replay = false) →
    (2 ≤ d →
      (o.code = outGo → Completes (.outcomeApply ⟨o, d⟩) s fun t => t.stp.phase = .restore ∧ s.lnk.self.toNat ∈ t.stp.lost
        ∧ ∃ r ∈ t.rings.fault ++ t.rings.wait, r.kind = 0x0022 ∧ r.engine = engCtrl)
      ∧ (o.code = outSkip → Completes (.outcomeApply ⟨o, d⟩) s fun t => t.stp.phase = .redo ∧ t.stp.fault = true
        ∧ ∃ r ∈ t.rings.fault ++ t.rings.wait, r.kind = 0x0022 ∧ r.engine = engCtrl)) ∧
    (d < 2 →
    (o.code = outGo → Completes (.outcomeApply ⟨o, d⟩) s fun t =>
      t.stp.phase = .committed ∧ t.stp.s = s.stp.s ∧ t.stp.a = s.stp.a ∧ t.scc.consec = 0 ∧ t.scc.lastskip = false ∧ t.scc.skips = s.scc.skips
        ∧ t.stp.lastOut = some o ∧ (∀ k, ∀ e ∈ (t.core k).inflight, e.phase ≠ .waitCommit) ∧ (∀ k, SameVregs s t k ∧ (t.core k).tiles = (s.core k).tiles))
    ∧ (o.code = outSkip → Completes (.outcomeApply ⟨o, d⟩) s fun t =>
      t.stp.phase = .redo ∧ t.stp.s = s.stp.s ∧ t.stp.a = s.stp.a + 1 ∧ t.scc.consec = s.scc.consec + 1 ∧ t.scc.lastskip = true
        ∧ t.scc.skips = hold32 s.scc.skips 1 ∧ t.job.st = .loaded ∧ ∀ k, (t.core k).inflight = [] ∧ (t.core k).fetching = false)
    ∧ (o.code = outStop → Completes (.outcomeApply ⟨o, d⟩) s fun t => t.job.st = .stopped ∧ t.stp.s = s.stp.s ∧ ∀ k, (t.core k).inflight = [] ∧ (t.core k).fetching = false)
    ∧ (o.code = outRetry → Completes (.outcomeApply ⟨o, d⟩) s fun t =>
      t.stp.s = s.stp.s ∧ t.stp.a = s.stp.a + 1 ∧ t.scc.consec = s.scc.consec ∧ t.scc.skips = s.scc.skips ∧ ∀ k, (t.core k).inflight = [])
    ∧ (o.code = outRestore → s.restorable o.lost = true → Completes (.outcomeApply ⟨o, d⟩) s fun t =>
      t.stp.phase = .restore ∧ t.stp.lost = o.lost ∧ t.stp.s = s.stp.s ∧ t.stp.a = s.stp.a + 1 ∧ t.job.st = .loaded)
    ∧ (o.code = outRollback →
      (s.job.ckpt = true → Completes (.outcomeApply ⟨o, d⟩) s fun t => t.stp.phase = .rollback ∧ t.job.tokens = [] ∧ t.job.st = .loaded)
      ∧ (s.job.ckpt = false → Completes (.outcomeApply ⟨o, d⟩) s fun t => t.job.st = .stopped ∧ t.job.stop = 4))))
  ∧ (∀ (s : State) (o : OutcomeMsg) (d : Nat) (v : Vote), s.job.st = .loaded → s.stp.phase.after = true → s.stp.comb = some v →
    s.stp.decided = some o → s.openAt = (o.s, o.a) → o.code = outRestore → s.restorable (s.stp.lost ++ o.lost).eraseDups = true →
    Completes (.outcomeApply ⟨o, d⟩) s fun t => t.stp.phase = .restore ∧ t.stp.lost = (s.stp.lost ++ o.lost).eraseDups ∧ t.stp.lastOut = some o
      ∧ t.stp.s = s.stp.s ∧ t.stp.a = s.stp.a ∧ t.mem = s.mem ∧ t.cores = s.cores)
  ∧ (∀ s : State, s.job.st = .loaded → s.coordinator ≠ s.lnk.self.toNat →
    ((s.stp.phase = .running ∨ s.stp.phase = .voted ∨ s.stp.phase = .committed ∨ (s.stp.phase.after = true ∧ s.stp.lastOut.isSome = true)) →
      Completes .coordinatorLoss s fun t =>
        t.stp.lost = s.stp.lost ++ [s.coordinator] ∧ t.stp.s = s.stp.s ∧ t.stp.phase = s.stp.phase ∧ t.mem = s.mem ∧ t.cores = s.cores
          ∧ t.job = s.job)
    ∧ (s.stp.phase = .between → s.stp.lastOut.isSome = true → s.restorable (s.stp.lost ++ [s.coordinator]) = false → s.job.ckpt = true →
      Completes .coordinatorLoss s fun t =>
        t.stp.lost = s.stp.lost ++ [s.coordinator] ∧ t.stp.phase = .rollback ∧ t.job.tokens = [] ∧ t.job.st = .loaded ∧ t.cores = s.cores))
  ∧ (∀ (s : State) (e : RestoreEnv), s.job.st = .loaded →
    (s.stp.phase = .restore → s.lnk.self.toNat ∉ s.stp.lost → e.lost ≠ [] →
      let l := (s.stp.lost ++ e.lost).eraseDups
      (s.restorable l = true → Completes (.replicaRestore e) s fun t => t = { s with stp := { s.stp with lost := l } })
      ∧ (s.restorable l = false → s.job.ckpt = true → Completes (.replicaRestore e) s fun t =>
        t.stp.lost = l ∧ t.stp.phase = .rollback ∧ t.job.tokens = [] ∧ t.cores = s.cores))
    ∧ (s.stp.phase = .restore → s.lnk.self.toNat ∉ s.stp.lost → e.lost = [] → Completes (.replicaRestore e) s fun t =>
      t.stp.lost = [] ∧ t.stp.phase = .redo ∧ t.stp.s = s.stp.s ∧ t.mem = s.mem ∧ t.cores = s.cores)
    ∧ (s.stp.phase = .between → s.stp.a = 0 → s.stp.lastOut = none → s.stp.lost = [] → e.lost = [] → Completes (.replicaRestore e) s fun t =>
      t.stp.phase = .redo ∧ t.stp.s = e.step.s ∧ t.stp.a = e.step.a ∧ t.job.scales = e.step.scales ∧ t.job.layers = e.step.layers
        ∧ t.scc.consec = e.step.consec ∧ t.job.nonce = some e.step.nonce ∧ t.job.seqs = e.step.seqs))

/-! Links. -/

/-- Frames that arrive. The header of a frame and its 64-bit word tell each other (R250). A frame that decodes, is in order, checks
under the receiving key as the frame of its number and fits its type takes its number (R251, R252); what it acknowledges is done. A
block lands in its RX place with a new check value and is full (R257, R381); a control frame of this module is acted on, one of
another goes on toward it (R260); a resync sets the mirror (R268). One that does not decode or is out of order takes none, and
a NAK is due; one that does not check counts (R252, R273). A header that its type does not allow, or a fourth failure of the tag
in a millisecond, is a violation of the peer (R270). A data frame that comes during a scrub waits (R372). Of an outcome that the
module has applied it takes only the loss of more modules (R304). Frames that leave take the next number and pay the NAK that is due, under the
sending key: a data frame carries the oldest block not sent whose place at the peer is empty, which is full from then on (R256,
R257); control frames go first (R261); a link frame carries a resync or keeps the link alive (R250, R268; log 28). Where in the
IV salt and number stand is log 140's. -/
def Obligations.Frames : Prop :=
  ((∀ h : FrameHdr, frameHdr (frameWord h) = h) ∧ (∀ w : W64, frameWord (frameHdr w) = w))
  ∧ (∀ (s : State) (p : PortId) (a : Arrival), (s.port p.val).st = .up → (s.port p.val).keys.isSome = true →
      let h := arrHdr a
      let n := extend (s.port p.val).rxSeq h.seq
      let good := fun (bs : List Byte) => a.unc = 0 ∧ s.tagOk p.val a bs = true ∧ n = (s.port p.val).rxSeq ∧ s.hdrOk p.val h = true
      let q := p.val / 6 * 6 + h.buf.toNat
      let r := fun (bs : List Byte) => (s.receive p.val a h.type bs).1
      (∀ block, s.sec.scrub = true → Completes (.dataFrameReceive p a block) s fun t =>
        t.mm.stalled = s.mm.stalled ++ [.dataFrameReceive p a block] ∧ { t with mm := { t.mm with stalled := s.mm.stalled } } = s)
      ∧ (∀ block, s.sec.scrub = false → good (sized 4096 block) → h.type = 0 → s.rxFull q h.blk.toNat = false → NothingWaits s →
        Completes (.dataFrameReceive p a block) s fun t =>
          (t.port p.val).rxSeq = n + 1 ∧ t.rxFull q h.blk.toNat = true
            ∧ t.mem = (writeRuns (r (sized 4096 block)) 0 [(linkAddr q true h.blk.toNat, sized 4096 block)]).mem
            ∧ t.cores = s.cores ∧ t.job = s.job ∧ t.stp = s.stp)
      ∧ (∀ pkt : CtlPacket, good (ctlPacket pkt) → h.type = 1 → NothingWaits s →
        (∀ code lost v, pkt.dest = s.lnk.self → pkt.dest ≠ 0xFFFF#16 → pkt.msg = .outcome s.stp.s s.stp.a code lost v →
          Completes (.controlFrameReceive p a pkt) s fun t =>
            (t.port p.val).rxSeq = n + 1 ∧ t.stp.decided = some ⟨s.stp.s, s.stp.a, code, lost⟩ ∧ t.stp.comb = some v ∧ t.mem = s.mem
              ∧ t.cores = s.cores ∧ t.job = s.job)
        ∧ (∀ st i code lost v, pkt.dest = s.lnk.self → pkt.dest ≠ 0xFFFF#16 → pkt.msg = .outcome st i code lost v →
          (s.stp.s ≠ st ∨ s.stp.a ≠ i) →
          let more : Prop := s.stp.phase.after = true ∧ s.openAt = (st, i) ∧ code = outRestore
          Completes (.controlFrameReceive p a pkt) s fun t =>
            (t.port p.val).rxSeq = n + 1 ∧ (¬ more → t.stp = s.stp)
              ∧ (more → t.stp.decided = some ⟨st, i, code, lost⟩ ∧ { t.stp with decided := s.stp.decided } = s.stp)
              ∧ t.mem = s.mem ∧ t.cores = s.cores ∧ t.job = s.job)
        ∧ (∀ b o, pkt.dest ≠ s.lnk.self → pkt.dest ≠ 0xFFFF#16 → (r (ctlPacket pkt)).routeOn p.val pkt.dest.toNat = some b →
          (r (ctlPacket pkt)).bundleUp b = true → (r (ctlPacket pkt)).leastPort b = some o →
          Completes (.controlFrameReceive p a pkt) s fun t =>
            (t.port p.val).rxSeq = n + 1
              ∧ (∃ x, (t.port o).ctl = ((r (ctlPacket pkt)).port o).ctl ++ [x] ∧ x.dest = pkt.dest ∧ x.src = pkt.src ∧ x.msg = pkt.msg)
              ∧ t.mem = s.mem ∧ t.cores = s.cores ∧ t.job = s.job ∧ t.stp = s.stp))
      ∧ (h.type = 2 → NothingWaits s →
        (good [] → Completes (.linkFrameReceive p a none) s fun t =>
          (t.port p.val).rxSeq = n + 1 ∧ t.mem = s.mem ∧ t.cores = s.cores ∧ t.job = s.job)
        ∧ (∀ y : Resync, good (resyncPacket y) → y.buf.toNat < 6 → Completes (.linkFrameReceive p a (some y)) s fun t =>
          (t.port p.val).rxSeq = n + 1 ∧ SMap.get [] t.lnk.mirror (p.val / 6 * 6 + y.buf.toNat) = (List.range 256).filter (fun b => ! y.empty.getLsbD b)
            ∧ t.mem = s.mem ∧ t.cores = s.cores ∧ t.job = s.job))
      ∧ ∀ i ∈ [(Instr.linkFrameReceive p a none, ([] : List Byte)), (.dataFrameReceive p a [], sized 4096 [])],
        (i.1 = .linkFrameReceive p a none ∨ s.sec.scrub = false) →
        ((a.unc ≠ 0 ∨ (n ≠ (s.port p.val).rxSeq ∧ h.rtx = false)) → Completes i.1 s fun t =>
          (t.port p.val).rxSeq = (s.port p.val).rxSeq ∧ (t.port p.val).owesNak = true
            ∧ (t.port p.val).unc = (if a.unc = 0 then (s.port p.val).unc else hold32 (s.port p.val).unc a.unc)
            ∧ (t.port p.val).corr = hold32 (s.port p.val).corr a.corr ∧ { t with lnk := { t.lnk with ports := s.lnk.ports } } = s)
        ∧ (a.unc = 0 → n = (s.port p.val).rxSeq → s.tagOk p.val a i.2 = false → a.fourth = false → Completes i.1 s fun t =>
          (t.port p.val).rxSeq = (s.port p.val).rxSeq ∧ (t.port p.val).owesNak = true
            ∧ (t.port p.val).tagfail = hold32 (s.port p.val).tagfail 1 ∧ { t with lnk := { t.lnk with ports := s.lnk.ports } } = s)
        ∧ (a.unc = 0 → n = (s.port p.val).rxSeq → (if s.tagOk p.val a i.2 then s.hdrOk p.val h = false else a.fourth = true) →
          Completes i.1 s fun t =>
            (t.port p.val).keys = none ∧ (t.port p.val).frozen = true ∧ (t.port p.val).st = .keying ∧ t.mem = s.mem ∧ t.cores = s.cores))
  ∧ (∀ (s : State) (p : PortId), (s.port p.val).maySend = true →
      let x := s.port p.val
      let leaves := fun (t : State) (type buf blk : Nat) (packets : List Byte) => ∃ h : FrameHdr,
        h.type.toNat = type ∧ h.buf.toNat = buf ∧ h.blk.toNat = blk % 256 ∧ h.seq.toNat = x.txSeq % 65536 ∧ h.ack.toNat = x.rxSeq % 65536
          ∧ h.nak = x.owesNak ∧ h.rtx = x.rtxNext ∧ h.rsvd = 0
          ∧ (x.frees = [] → h.freev = false) ∧ (∀ f fs, x.frees = f :: fs → h.freev = true ∧ h.freeBuf.toNat = f.1 % 8 ∧ h.freeBlk.toNat = f.2 % 256)
          ∧ (t.port p.val).out = x.keys.map (fun k => sealFrame k.tx k.saltTx x.txSeq (frameWord h) packets)
          ∧ (t.port p.val).txSeq = x.txSeq + 1 ∧ (t.port p.val).owesNak = false ∧ (t.port p.val).rtxNext = false
          ∧ (t.port p.val).frees = x.frees.drop 1
      (∀ q b, x.ctl = [] → s.nextBuffer p.val = some (q, b) → s.txFault (linkAddr q false b / 4096) = none →
        Completes (.dataFrameSend p) s fun t =>
          leaves t 0 (q % 6) b (memRange s.mem (linkAddr q false b) 4096) ∧ b ∈ SMap.get [] t.lnk.mirror q
            ∧ (∀ y ∈ t.lnk.held, y.port = q → y.blk = b → y.sent = some (p.val, x.txSeq))
            ∧ t.lnk.held.map (fun y => (y.port, y.blk)) = s.lnk.held.map (fun y => (y.port, y.blk))
            ∧ { t with lnk := s.lnk, mon := s.mon } = s)
      ∧ (∀ c cs, x.ctl = c :: cs → Completes (.controlFrameSend p) s fun t =>
        leaves t 1 0 0 (ctlPacket c) ∧ (t.port p.val).ctl = cs ∧ (t.port p.val).ctlSent = x.ctlSent ++ [(x.txSeq, c)]
          ∧ { t with lnk := { t.lnk with ports := s.lnk.ports }, mon := s.mon } = s)
      ∧ ((x.ctl = [] ∧ s.nextBuffer p.val = none) ∨ x.owesNak = true ∨ x.resyncs ≠ [] →
        Completes (.linkFrameSend p) s fun t =>
          leaves t 2 0 0 (linkPackets (x.resyncs.head?.map (s.resyncOf p.val))) ∧ (t.port p.val).resyncs = x.resyncs.drop 1
            ∧ { t with lnk := { t.lnk with ports := s.lnk.ports }, mon := s.mon } = s))

/-- Keys of a port. A hello that fits and passes begins a negotiation; a first one that does not holds the port out (R254,
R262). A hello that opens a negotiation, and so names no nonce of this end, is answered with this end's own (the model's reading, log
145). A good key message in its turn keys the port and brings it up with sequence numbers at 0 (R263); a bad one, or one out of
turn, costs the port its keys (R270). A direction takes its next key when its number reaches the epoch, and not before (R264). -/
def Obligations.PortKeying : Prop :=
  (∀ (s : State) (p : PortId) (m : Hello), ((s.port p.val).st = .keying ∨ (s.port p.val).st = .up ∨ (s.port p.val).st = .heldOut) →
    (s.peer p.val).isSome = true → s.sec.sstate ≠ .quarantine →
    (m.verifier ≠ 0 → s.helloFits p.val m = true → s.helloPasses (s.port p.val).nonce m = true → Completes (.helloFrame p m) s fun t =>
      (t.port p.val).st = .keying ∧ (t.port p.val).hello = some m ∧ (t.port p.val).said = some (s.ownHello p.val m.nonce)
        ∧ (s.lnk.self.toNat < m.id.toNat → ∃ pair, (t.port p.val).eph = some pair ∧ (t.port p.val).keyMsg = s.signed (Config.kemPub pair))
        ∧ (t.port p.val).keys = none ∧ t.mem = s.mem ∧ t.cores = s.cores)
    ∧ (m.verifier = 0 → s.helloFits p.val m = true → m.sigOk = true → Completes (.helloFrame p m) s fun t =>
        (t.port p.val).st = .keying ∧ (∃ own, (t.port p.val).said = some own ∧ own.verifier = m.nonce)
          ∧ ((s.port p.val).st = .keying → (t.port p.val).said = some (s.ownHello p.val m.nonce)
              ∧ { t with lnk := { t.lnk with ports := s.lnk.ports } } = s)
          ∧ ((s.port p.val).st ≠ .keying → (t.port p.val).keys = none ∧ (t.port p.val).hello = none ∧ t.draws = s.draws + 1)
          ∧ t.mem = s.mem ∧ t.cores = s.cores)
    ∧ ((s.helloFits p.val m = false ∨ m.sigOk = false ∨ (m.verifier ≠ 0 ∧ s.helloPasses (s.port p.val).nonce m = false)) →
      (s.port p.val).hello = none → (s.port p.val).frozen = false →
      Completes (.helloFrame p m) s fun t => (t.port p.val).st = .heldOut ∧ (t.port p.val).keys = none ∧ t.mem = s.mem ∧ t.cores = s.cores))
  ∧ (∀ (s : State) (p : PortId) (e : LinkEntry) (ok : Bool) (msg sig : List Byte) (h own : Hello), s.peer p.val = some e →
    (s.port p.val).hello = some h → (s.port p.val).said = some own →
    let x := s.port p.val
    let fresh := fun (t : State) => (t.port p.val).st = .up ∧ (t.port p.val).txSeq = 0 ∧ (t.port p.val).rxSeq = 0
      ∧ (t.port p.val).tagfail = 0 ∧ (t.port p.val).frozen = false ∧ t.mem = s.mem ∧ t.cores = s.cores
    (x.st = .keying → ok = true → s.lnk.self.toNat < e.peer.toNat → Completes (.keyCiphertext p ok msg sig) s fun t =>
      fresh t ∧ (t.port p.val).keys = some (linkKeys (Config.kemOpen (x.eph.getD 0) msg) (transcript own h x.keyMsg (msg ++ sig)) true))
    ∧ (x.st = .keying → ok = true → ¬ s.lnk.self.toNat < e.peer.toNat → Completes (.keyEncapsulation p ok msg sig) s fun t =>
      fresh t ∧ t.draws = s.draws + 1 ∧ ∃ d : BitVec 256, let c := (Config.kemSeal msg d).1
        let mine := c ++ idSign (s.sec.seed.getD 0) (Config.helloBytes h ++ Config.helloBytes own ++ msg ++ sig ++ c)
        (t.port p.val).keyMsg = mine
          ∧ (t.port p.val).keys = some (linkKeys (Config.kemSeal msg d).2 (transcript h own (msg ++ sig) mine) false))
    ∧ ∀ i ∈ [(Instr.keyEncapsulation p ok msg sig, false), (.keyCiphertext p ok msg sig, true)],
      (x.st = .up ∨ (x.st = .keying ∧ (ok = false ∨ i.2 ≠ decide (s.lnk.self.toNat < e.peer.toNat)))) → Completes i.1 s fun t =>
        (t.port p.val).st = .keying ∧ (t.port p.val).keys = none ∧ (t.port p.val).hello = none ∧ (t.port p.val).frozen = true
          ∧ t.mem = s.mem ∧ t.cores = s.cores)
  ∧ (∀ (s : State) (p : PortId) (k : PortKeys), (s.port p.val).keys = some k → Completes (.keyEpoch p) s fun t =>
    (∃ y, (t.port p.val).keys = some y
      ∧ (y.tx, y.epTx) = (if k.epTx < (s.port p.val).txSeq / 2 ^ 32 then (nextKey k.tx (k.epTx + 1), k.epTx + 1) else (k.tx, k.epTx))
      ∧ (y.rx, y.epRx) = (if k.epRx < (s.port p.val).rxSeq / 2 ^ 32 then (nextKey k.rx (k.epRx + 1), k.epRx + 1) else (k.rx, k.epRx)))
      ∧ { t with lnk := { t.lnk with ports := s.lnk.ports } } = s)

/-- Training, retunes and formation (R254, R265, R266, R271, R274). A port that loses its lanes or retunes is reset (R465, R466), and any
reset closes D1 (R364, R365; that these are such resets is the model's reading, log 148). -/
def Obligations.PortService : Prop :=
  (∀ (s : State) (p : PortId) (l : Byte),
    (((s.port p.val).st = .up ∨ (s.port p.val).st = .keying) → Completes (.laneLockLoss p l) s fun t =>
      (t.port p.val).st = .training ∧ (t.port p.val).lock = l ∧ (t.port p.val).width = 0 ∧ (t.port p.val).keys = (s.port p.val).keys
        ∧ t.mem = s.mem ∧ t.sec.dlevel = (if s.sec.dlevel = 1 then 0 else s.sec.dlevel) ∧ t.sec.dbgNonce = none
        ∧ (s.sec.dlevel ≠ 1 → t.cores = s.cores))
    ∧ ((s.port p.val).st = .training →
      (0 < laneWidth l → Completes (.linkTrainingComplete p l) s fun t =>
        (t.port p.val).st = (if (s.port p.val).keys.isSome then .up else .keying) ∧ (t.port p.val).width = laneWidth l ∧ (t.port p.val).fails = 0
          ∧ t.mem = s.mem ∧ t.cores = s.cores)
      ∧ (laneWidth l = 0 → Completes (.linkTrainingComplete p l) s fun t =>
        (t.port p.val).st = (if l.toNat % 16 ≠ 0 ∨ 3 ≤ (s.port p.val).fails + 1 then .lost else .training)
          ∧ (t.port p.val).fails = (s.port p.val).fails + 1 ∧ t.mem = s.mem ∧ t.cores = s.cores)))
  ∧ (∀ (s : State) (p : PortId), p.val ∉ s.lnk.retQ → s.lnk.retCur ≠ some p.val → (s.port p.val).st ≠ .heldOut →
    ((s.port p.val).st = .down → (s.peer p.val).isSome = true) →
    (Completes (.portErrorThreshold p) s fun t => t.lnk.retQ = s.lnk.retQ ++ [p.val] ∧ { t with lnk := { t.lnk with retQ := s.lnk.retQ } } = s)
    ∧ (∀ v : W32, v.toNat % 64 = p.val → Completes (.lnkRetuneReq v) s fun t =>
      t.lnk.retQ = s.lnk.retQ ++ [p.val] ∧ t.lnk.retPort = p.val ∧ { t with lnk := { t.lnk with retQ := s.lnk.retQ, retPort := s.lnk.retPort } } = s)
    ∧ (∀ m c, AcceptsOut s m → min 47 (c : W16).toNat = p.val → Served (.retune m c) s m 0x0064 stOk 0 .none fun t =>
      t.lnk.retQ = s.lnk.retQ ++ [p.val] ∧ MailFrame s { t with lnk := { t.lnk with retQ := s.lnk.retQ } }))
  ∧ (∀ (s : State) (p : Nat) (ps : List Nat) (e : LinkEntry), s.lnk.retCur = none → s.lnk.retQ = p :: ps → s.peer p = some e →
    (s.port p).st ≠ .heldOut → s.mayRetune p = true → p ∉ s.lnk.announced →
    (s.lnk.self.toNat < e.peer.toNat → Completes .retuneStart s fun t =>
      t.lnk.retCur = some p ∧ (t.port p).st = .retune ∧ (t.port p).width = 0 ∧ (t.port p).lock = 0 ∧ p ∉ t.lnk.retQ ∧ t.mem = s.mem
        ∧ t.sec.dlevel = (if s.sec.dlevel = 1 then 0 else s.sec.dlevel) ∧ t.sec.dbgNonce = none ∧ (s.sec.dlevel ≠ 1 → t.cores = s.cores))
    ∧ (¬ s.lnk.self.toNat < e.peer.toNat → Completes .retuneStart s fun t => t.lnk.retCur = none ∧ (t.port p).st = (s.port p).st ∧ t.lnk.retQ = s.lnk.retQ))
  ∧ (∀ (s : State) (p : Nat) (ok : Bool) (l : Byte), s.lnk.retCur = some p → (s.port p).st = .retune → Completes (.retuneComplete ⟨ok, l⟩) s fun t =>
    t.lnk.retCur = none ∧ (t.port p).lock = l ∧ (t.port p).width = laneWidth l
      ∧ (t.port p).st = (if ok = true ∧ 0 < laneWidth l then (if (s.port p).keys.isSome then .up else .keying) else .lost)
      ∧ t.mem = s.mem ∧ t.cores = s.cores)
  ∧ (∀ s : State, Completes .lostPortRetry s fun t =>
    (∀ p ∈ s.mappedPorts, (s.port p).st = .lost → p ∈ t.lnk.retQ ∨ t.lnk.retCur = some p) ∧ { t with lnk := { t.lnk with retQ := s.lnk.retQ } } = s)
  ∧ (∀ s : State, s.hif.phase = 4 → s.lnk.formed = false → (∀ p ∈ s.mappedPorts, (s.port p).st = .up ∨ (s.port p).st = .lost ∨ (s.port p).st = .heldOut) →
    (Completes .podFormation s fun t => t.lnk.formed = true ∧ t.mem = s.mem ∧ t.cores = s.cores)
    ∧ (s.podIds = [s.lnk.self.toNat] → s.lnk.podFormed = false → s.stp.lost = [] → Completes .podFormation s fun t =>
      t.hif.phase = 5 ∧ t.lnk.podFormed = true))

/-! Power, Bellows and the boot record. -/

/-- Input power and start-up. Standby power starts Bellows with the limits of the NVM, and above 72 V the behaviour is undefined
(R441, R444). A valid input closes the switch unless the NVM is lent, the bank is worn out or a level-3 cause holds it open
(R411, R451, R452, R495), with the bank charged to 25 J; the PLL's lock releases the die, whose boot ROM takes state, links and fences
from the slot of the boot record whose GEN is counter 1 and that verifies (R253, R357, R395, R408, R411, R460), a fenced core's column
out of service with it (R149). Without an identity or a boot record it halts (R411, R431). -/
def Obligations.PowersUp : Prop :=
  (∀ (s : State) (vin : Nat), (7200 < vin → exec (.standbyStart vin) s = .fault .overRating)
    ∧ (vin ≤ 7200 → 2000 < vin → s.blw.powered = false → Completes (.standbyStart vin) s fun t =>
      t.blw.powered = true ∧ t.blw.vin = vin ∧ t.blw.lim = siteOver s.nvm.faclim s.nvm.part.sitelim ∧ t.blw.causes = [] ∧ t.blw.grant = 0
        ∧ t.blw.duty = 64 ∧ { t with blw := s.blw } = s))
  ∧ (∀ (s : State) (e : ColdEnv), e.vin ≤ 6000 → 4000 ≤ e.vin → s.blw.powered = true → s.sec.pstate = 4 → s.nvm.lent = false →
    2500 ≤ e.capacity →
    (s.blw.lock3 = none → Completes (.inputValid e) s fun t =>
      t.sec.pstate = 0 ∧ t.blw.switch = true ∧ t.blw.ramp = true ∧ t.rst.cause = 0 ∧ 2500 ≤ t.blw.ebank
        ∧ (t.blw.worn = true ↔ e.capacity < 3000) ∧ t.mem = s.mem)
    ∧ (∀ t0, s.blw.lock3 = some t0 → t0 + 60000 ≤ s.blw.ms → s.blw.tj < (s.blw.lim.tj1 : Int) - 2000 →
      Completes (.inputSwitchReclose e) s fun t => t.sec.pstate = 0 ∧ t.blw.switch = true ∧ t.blw.lock3 = none
        ∧ ((∃ c ∈ s.blw.causes, causeLevel c = 3) → t.blw.emergEnd = some s.blw.ms) ∧ ∀ c ∈ t.blw.causes, causeLevel c < 3)
    ∧ (∀ t0, s.blw.lock3 = some t0 → Completes (.inputValid e) s fun t => t = s))
  ∧ (∀ (s : State) (e : BootEnv), s.sec.pstate < 3 → s.rst.dieUp = false →
    (e.factoryOk = true → (s.sec.idOk = true ∨ (s.rst.cause = 0 ∧ (s.regenerate e.reads).isSome = true)) →
      (∀ d, s.nvm.pick e = some d → ((s.nvm.ctrs.getD 4 0).getLsbD 0 = false) → Completes (.pllLock e) s fun t =>
        t.rst.locked = true ∧ t.rst.dieUp = true ∧ t.hif.phase = 1 ∧ t.sec.idOk = true ∧ t.sec.dlevel = 0
          ∧ t.sec.sstate = d.sstate ∧ t.lnk.map = d.linkmap ∧ t.lnk.extents = d.extents
          ∧ (∀ k, k.val ∈ d.fence → (t.core k).fenced = true ∧ SMap.get false t.mm.oos k.val = true) ∧ t.nvm.part = d ∧ t.mem = s.mem)
      ∧ (s.nvm.pick e = none → Completes (.pllLock e) s fun t => t.hif.phase = 6 ∧ t.hif.fail = 2 ∧ t.mem = s.mem ∧ t.nvm = s.nvm))
    ∧ (e.factoryOk = true → s.sec.idOk = false → (s.rst.cause ≠ 0 ∨ s.regenerate e.reads = none) → Completes (.pllLock e) s fun t =>
      t.hif.phase = 6 ∧ t.hif.fail = 1 ∧ t.mem = s.mem ∧ t.nvm = s.nvm)
    ∧ (e.factoryOk = false → Completes (.pllLock e) s fun t => t.hif.phase = 6 ∧ t.hif.fail = 2 ∧ t.mem = s.mem ∧ t.nvm = s.nvm))
  ∧ (∀ d : DevPart, d.sstate =
    if d.qcause ≠ 0 then .quarantine else if d.factory then .factory else if d.ownh.isSome then .owned else .open')

/-- Loss of power. A declared loss opens the switch, brings P3 and D0, stops every core, and leaves nothing of LPDDR5X; its hold
record tells state, step and attempt, and HOLD_L is low (R373, R453, R493); the record stands in the hold ring with its check
bytes under an odd counter 4, and the module is in P4 (R374, R409, R454; log 149). Below 20 V Bellows goes off too (R441). -/
def Obligations.PowersDown : Prop :=
  (∀ s : State, s.sec.pstate < 3 → Completes .inputLoss s fun t =>
    t.sec.pstate = 3 ∧ t.sec.dlevel = 0 ∧ t.sec.sstate = s.sec.sstate ∧ t.blw.switch = false ∧ (∀ k, (t.core k).fetching = false ∧ (t.core k).inflight = [])
      ∧ (∀ a, lpBase ≤ a → memGet t.mem a = 0) ∧ ((s.sec.sstate = .owned ∨ s.sec.sstate = .quarantine ∨ s.job.st ≠ .none) → ∀ a, memGet t.mem a = 0)
      ∧ (∃ r, t.sec.hold = some r ∧ r.sstate = s.sec.sstate.code ∧ r.s = s.stepField ∧ r.a = s.stp.a
          ∧ r.flags = 1 + (if s.job.st = .loaded ∨ s.job.st = .stopped then 2 else 0) + (if s.sec.pstate = 2 then 4 else 0)) ∧ t.nvm.part = s.nvm.part ∧ t.nvm.writes = []
      ∧ t.holdLow = true)
  ∧ (∀ (s : State) (r : HoldRec), s.sec.pstate = 3 → s.sec.hold = some r → Completes .holdComplete s fun t =>
    let c4 := s.nvm.ctrs.getD 4 0
    t.sec.pstate = 4 ∧ SMap.get HoldRec.zero t.nvm.hold (c4.toNat / 2 % 2048) = r ∧ t.nvm.ctrs = s.nvm.ctrs.set 4 (c4 + 1)
      ∧ t.nvm.part = s.nvm.part ∧ t.cores = [] ∧ t.mem = [] ∧ t.rst.dieUp = false ∧ t.nvm.lent = s.nvm.req ∧ t.holdLow = false
      ∧ (s.sec.seed = none ∨ ∀ q, s.sec.seed = some q → SMap.get 0 t.nvm.holdChk (c4.toNat / 2 % 2048) = holdCheck q r c4))
  ∧ (∀ s : State,
    (s.sec.pstate = 4 → Completes .standbyOff s fun t => t.blw.powered = false ∧ { t with blw := s.blw } = s)
    ∧ (s.sec.pstate < 4 → Completes .standbyOff s fun t => t.sec.pstate = 3 ∧ t.blw.vin = 0 ∧ t.nvm.part = s.nvm.part))

/-- Requests for power (R457): PREQ takes sixteen bits, so no write puts it above 65,535; a value above PINMAX is kept, and the
grant it leads to stays within PINMAX; of two writes in one period the last alone counts for the grant. -/
def Obligations.PowerRequests : Prop :=
  (∀ (s : State) (v : W32), s.rst.dieUp = true → s.sec.pstate < 3 → Completes (.blwPreq v) s fun t =>
    t.blw.preq = v.toNat % 65536 ∧ t.blw.preq ≤ 65535 ∧ { t with blw := { t.blw with preq := s.blw.preq } } = s)
  ∧ (∀ (s : State) (v : W32), s.rst.dieUp = true → s.sec.pstate < 3 → s.blw.powered = true → Completes (.blwPreq v) s fun t =>
    t.blw.preq = v.toNat % 65536 ∧ Completes .grantTick t fun u => u.blw.preq = v.toNat % 65536 ∧ u.blw.grant ≤ u.blw.lim.pinMax)
  ∧ (∀ (s : State) (v w : W32), s.rst.dieUp = true → s.sec.pstate < 3 → s.blw.powered = true → Completes (.blwPreq v) s fun t =>
    exec (.blwPreq w) t = exec (.blwPreq w) s
      ∧ Completes (.blwPreq w) t fun u => Completes .grantTick u fun x =>
        x.blw.grant ≤ w.toNat % 65536 ∧ (w.toNat % 65536 ≤ s.blw.grant → w.toNat % 65536 ≤ x.blw.cap → x.blw.grant = w.toNat % 65536))

/-- The periods of Bellows. The grant never exceeds PREQ nor the cap, falls at once and rises by no more than RAMPUP a millisecond
(R446); the duty falls by 4 down to 8 and rises by 1 up to 64 (R447); the valve moves by at most a hundredth of SLEW, and open
under a limit (R450, R451); the flow is that of the last second (R449); the cap falls by a tenth of PINMAX down to 900 W (R451);
the watchdog of Bellows drives the valve open and holds the rest (R455). -/
def Obligations.BellowsPeriods : Prop :=
  (∀ s : State, s.blw.powered = true → s.sec.pstate < 3 → Completes .grantTick s fun t =>
    t.blw.ms = s.blw.ms + 1 ∧ t.blw.preq = s.blw.preq ∧ t.blw.duty = s.blw.duty ∧ t.blw.causes = s.blw.causes
      ∧ t.blw.grant ≤ min t.blw.preq t.blw.cap ∧ t.blw.grant ≤ s.blw.grant + (s.blw.frac + s.blw.lim.rampUp) / 1000
      ∧ (min t.blw.preq t.blw.cap ≤ s.blw.grant → t.blw.grant = min t.blw.preq t.blw.cap))
  ∧ (∀ s : State, s.blw.powered = true → 3 ≤ s.sec.pstate → Completes .grantTick s fun t =>
    t = { s with blw := { s.blw with ms := s.blw.ms + 1, shown := true }, hif := { s.hif with blwWriting := false } })
  ∧ (∀ (s : State) (pin : Nat), s.blw.powered = true → s.sec.pstate < 3 →
    (¬ (s.blw.duty ≤ 8 ∧ s.blw.lim.pPeak < pin) → Completes (.dutyTick pin) s fun t =>
      let o := if 102 * s.blw.grant < 100 * pin then s.blw.overMs + 1 else 0
      t.blw.pin = pin ∧ t.blw.overMs = o ∧ t.blw.grant = s.blw.grant
        ∧ t.blw.duty =
          (if s.blw.lim.pPeakT < o ∨ s.blw.lim.pPeak < pin then (if s.blw.duty < 12 then 8 else s.blw.duty - 4)
          else if 100 * pin < 95 * s.blw.grant ∧ 10 ≤ s.blw.lowMs + 1 then min 64 (s.blw.duty + 1) else s.blw.duty)
        ∧ t.mem = s.mem ∧ t.cores = s.cores)
    ∧ (s.blw.duty ≤ 8 → s.blw.lim.pPeak < pin → s.blw.inForce 10 = false → Completes (.dutyTick pin) s fun t =>
      t.sec.pstate = 3 ∧ t.blw.inForce 10 = true ∧ t.blw.switch = false))
  ∧ (∀ s : State, s.blw.powered = true → Completes .valveControlTick s fun t =>
    let st : Int := ((s.blw.lim.slew / 100 : Nat) : Int);
    -st ≤ t.blw.vcmd - s.blw.vcmd ∧ t.blw.vcmd - s.blw.vcmd ≤ st
      ∧ (1 ≤ s.blw.level → t.blw.vcmd = s.blw.vcmd + max (-st) (min st (10000 - s.blw.vcmd)))
      ∧ (-10000000 ≤ s.blw.integ → s.blw.integ ≤ 10000000 → -10000000 ≤ t.blw.integ ∧ t.blw.integ ≤ 10000000)
      ∧ { t with blw := { t.blw with pavg := s.blw.pavg, integ := s.blw.integ, vcmd := s.blw.vcmd } } = s)
  ∧ (∀ (s : State) (n : Nat), s.blw.powered = true → s.blw.pulses.length ≤ 10 → Completes (.flowCountTick n) s fun t =>
    t.blw.pulses.length ≤ 10 ∧ t.blw.pulses = (s.blw.pulses ++ [n]).drop (if s.blw.pulses.length = 10 then 1 else 0)
      ∧ t.blw.flow = t.blw.pulses.sum * 1000 / s.blw.lim.kFlow ∧ { t with blw := { t.blw with pulses := s.blw.pulses, flow := s.blw.flow } } = s)
  ∧ (∀ s : State, s.blw.powered = true → s.blw.steps = true → s.sec.pstate < 3 → Completes .tj1CapReduction s fun t =>
    t.blw.cap1 = max 900 (s.blw.cap - s.blw.lim.pinMax / 10)
      ∧ { t with blw := { t.blw with cap1 := s.blw.cap1, capRise := s.blw.capRise } } = s)
  ∧ (∀ s : State, s.blw.powered = true → Completes .bellowsWatchdog s fun t =>
    t.blw.vcmd = 10000 ∧ t.blw.last3 = 0 ∧ t.blw.l2 = 0 ∧ t.blw.l3 = 0
      ∧ { t with blw := { t.blw with vcmd := s.blw.vcmd, last3 := s.blw.last3, l2 := s.blw.l2, l3 := s.blw.l3 } } = s)

/-- Causes of Bellows. A reading beyond its limit brings its cause into force, with the response of its level: level 1 limits the
module to P1, level 2 sets DUTY to 32 and ends P2, level 3 opens the switch and enters P3 (R451, R455). A cause clears on
its own when its reading is back, and the end of an emergency is noted (R435, R451). -/
def Obligations.BellowsCauses : Prop :=
  (∀ s : State, s.blw.powered = true → s.sec.pstate < 2 →
    ∀ x ∈ [(Instr.tin, 4, (s.blw.lim.tinMax : Int) ≤ s.blw.tin ∧ s.blw.tinBad = false),
      (.tout, 5, (s.blw.lim.toutMax : Int) ≤ s.blw.tout ∧ s.blw.toutBad = false),
      (.flow, 6, s.blw.flow < s.blw.lim.flowMin ∧ 5000 ≤ s.blw.vpos), (.valve, 7, s.blw.adrift = true), (.bankLow, 12, s.blw.ebank < 2500),
      (.icore, 11, True), (.bankCrit, 13, s.blw.ebank < 2300), (.bus12, 14, True)],
      x.2.2 → s.blw.inForce x.2.1 = false → Completes x.1 s fun t =>
        t.blw.causes = s.blw.causes ++ [x.2.1]
          ∧ (causeLevel x.2.1 = 1 → t.sec.pstate = 1 ∧ t.blw.duty = s.blw.duty ∧ t.mem = s.mem ∧ t.cores = s.cores)
          ∧ (causeLevel x.2.1 = 2 → t.sec.pstate = 1 ∧ t.blw.duty = 32 ∧ t.blw.l2 = hold16 s.blw.l2 1 ∧ t.mem = s.mem ∧ t.cores = s.cores)
          ∧ (causeLevel x.2.1 = 3 → t.sec.pstate = 3 ∧ t.blw.switch = false ∧ t.blw.last3 = x.2.1 ∧ t.blw.l3 = hold16 s.blw.l3 1
              ∧ t.blw.lock3 = some s.blw.ms))
  ∧ (∀ (s : State) (v : Sensors), (7200 < v.vin → exec (.sensorScan v) s = .fault .overRating)
    ∧ (v.vin ≤ 7200 → s.blw.powered = true → s.sec.pstate ≠ 2 → Completes (.sensorScan v) s fun t =>
      t.blw.vin = v.vin ∧ t.blw.iin = v.iin ∧ t.blw.pin = v.pin ∧ t.blw.tin = ptTemp v.rin s.blw.lim.rlIn
        ∧ t.blw.tout = ptTemp v.rout s.blw.lim.rlOut ∧ t.blw.tinBad = ptBad v.rin s.blw.lim.rlIn
        ∧ t.blw.toutBad = ptBad v.rout s.blw.lim.rlOut ∧ t.blw.shown = true ∧ t.blw.vpos = v.vpos ∧ t.blw.vbank = v.vbank
        ∧ (∀ x, hottest (v.die.take 32) = some x → t.blw.tj = x.1 ∧ t.blw.tjsens = x.2)
        ∧ (∀ c, s.blw.inForce c = true → t.blw.inForce c = true)
        ∧ (∀ x ∈ [(8, decide (t.blw.tinBad = true ∨ t.blw.toutBad = true)), (9, decide (t.blw.nvalid < 16)), (1, decide ((s.blw.lim.tj1 : Int) ≤ t.blw.tj)),
            (2, decide ((s.blw.lim.tj2 : Int) ≤ t.blw.tj)), (3, decide ((s.blw.lim.tj3 : Int) ≤ t.blw.tj))],
            t.blw.inForce x.1 = true ↔ s.blw.inForce x.1 = true ∨ x.2 = true)))
  ∧ (∀ (s : State) (c : BlwCause), s.blw.powered = true → s.blw.inForce (clearCode c) = true → s.blw.gone c = true →
    Completes (.causeClear c) s fun t =>
      t.blw.causes = s.blw.causes.filter (fun x => x ≠ clearCode c) ∧ (2 ≤ s.blw.level → t.blw.level < 2 → t.blw.emergEnd = some s.blw.ms)
        ∧ t.mem = s.mem ∧ t.cores = s.cores)

/-- A monitor's event brings QUARANTINE about with D0 (R362); a scrub leaves no byte of the stack, no job and no slot key, and asks
for the write of a transition (R371, R372); with the write the change of the boot record is in force, the owner counter
advanced by every transition, and the state is the one the transition names (R361, R408): the new part stands in the slot that does not
hold the current one, and counter 1 is its GEN. A scrub that meets the reset of a core does not complete (R469), nor in a hold; a
monitor's event in a hold stands in the hold record (R374). The NVM bus is lent only with the
core rail down (R495); retraining of an LPDDR5X channel waits in line, never refused, and refresh changes nothing (R155). -/
def Obligations.Transitions : Prop :=
  ((∀ s : State, s.sec.pstate < 3 → s.rst.dieUp = true → s.quarantining = false →
      (s.blw.ramp = false → Completes .supply s fun t => t.quarantining = true ∧ t.sec.dlevel = 0 ∧ t.sec.pstate ≠ 2 ∧ t.mem = s.mem)
      ∧ (s.rst.locked = true → Completes .clock s fun t => t.quarantining = true ∧ t.sec.dlevel = 0 ∧ t.sec.pstate ≠ 2 ∧ t.mem = s.mem)
      ∧ (Completes .shield s fun t => t.quarantining = true ∧ t.sec.dlevel = 0 ∧ t.sec.pstate ≠ 2 ∧ t.mem = s.mem))
    ∧ (∀ (s : State) (r : HoldRec), s.sec.pstate = 3 → s.rst.dieUp = true → s.quarantining = false → s.sec.hold = some r → r.qcause = 0 →
      ∀ x ∈ [(Instr.supply, 1, s.blw.ramp = false), (.clock, 2, s.rst.locked = true), (.shield, 3, True)], x.2.2 → Completes x.1 s fun t =>
        t.sec.hold = some { r with qcause := x.2.1 } ∧ { t with sec := { t.sec with hold := s.sec.hold } } = s)
    ∧ (∀ s : State, s.sec.scrub = true → (s.rst.busy = true ∨ 3 ≤ s.sec.pstate) → Completes .scrubComplete s fun t => t = s)
    ∧ (∀ (s : State) (x : TransK), s.sec.scrub = true → s.rst.dieUp = true → s.rst.busy = false → s.sec.pstate < 3 → s.mm.stalled = [] →
      s.outq.waiting = [] → s.sec.trans = some x → Completes .scrubComplete s fun t =>
      (∀ a, a < lpBase → memGet t.mem a = 0) ∧ t.chk = [] ∧ t.job = .zero ∧ t.sec.slots = [] ∧ t.mm.jobKeys = none
        ∧ (∀ k, (t.core k).tiles = [] ∧ (t.core k).vregs = [] ∧ (t.core k).lt = [] ∧ (t.core k).inflight = [])
        ∧ (∀ l, x = .debugOpen l → s.sec.queue = [] → t.sec.dlevel = max l s.sec.dlevel ∧ t.sec.trans = none)
        ∧ ((∀ l, x ≠ .debugOpen l) → (∀ q, x ≠ .jobUnload q) → x ≠ .jobScrub →
            t.mem = [] ∧ t.sec.trans = some x ∧ t.sec.scrub = false ∧ t.sec.ownerKey = none ∧ t.nvm.writes = s.nvm.writes ++ [.trans x]))
    ∧ (∀ (s : State) (w : NvmWrite) (ws : List NvmWrite), s.nvm.writes = w :: ws → s.sec.pstate < 3 →
      Completes .authenticatedWriteComplete s fun t =>
      t.nvm.part = s.nvm.part.change w ∧ t.nvm.part.gen = s.nvm.part.gen + 1
        ∧ t.nvm.part.octr = (if w.advances s.nvm.part then s.nvm.part.octr + 1 else s.nvm.part.octr)
        ∧ (s.nvm.slotA = some s.nvm.part → t.nvm.slotA = s.nvm.slotA ∧ t.nvm.slotB = some t.nvm.part)
        ∧ (s.nvm.slotA ≠ some s.nvm.part → t.nvm.slotA = some t.nvm.part ∧ t.nvm.slotB = s.nvm.slotB)
        ∧ (let c := s.nvm.ctrs.set 1 t.nvm.part.gen; t.nvm.ctrs = if w.advances s.nvm.part then c.set 0 t.nvm.part.octr else c)
        ∧ (∀ f, w = .fence f → t.nvm.part.fence = f ∧ t.nvm.writes = ws ∧ { t with nvm := s.nvm } = s)
        ∧ (∀ c q, w = .site c q → t.nvm.part.sitelim = c.limits ∧ t.nvm.part.linkmap = c.linkmap ∧ t.nvm.part.factory = c.factory ∧ t.sec = s.sec)
        ∧ (∀ o q, w = .trans (.install o q) → t.sec.sstate = .owned ∧ t.nvm.part.ownh = some (digestOf o) ∧ t.sec.ownerKey = some o)
        ∧ (∀ q, (w = .trans (.release q) ∨ w = .trans (.reclaim q)) → t.sec.sstate = .open' ∧ t.nvm.part.ownh = none ∧ t.nvm.part.qcause = 0
            ∧ t.sec.ownerKey = none)
        ∧ (∀ q, w = .trans (.factoryEntry q) → t.sec.sstate = .factory ∧ t.nvm.part.factory = true)
        ∧ (∀ q, w = .trans (.factoryExit q) → t.sec.sstate = .open' ∧ t.nvm.part.factory = false ∧ t.rst.dieUp = false)
        ∧ (∀ c, w = .trans (.quarantine c) → t.sec.sstate = .quarantine ∧ t.nvm.part.qcause = c ∧ t.sec.dlevel = 0
            ∧ ∀ p ∈ s.mappedPorts, (t.port p).st = .heldOut ∧ (t.port p).keys = none)))
  ∧ ((∀ s : State,
      (Completes .nvmReq s fun t => t.nvm.req = true ∧ (t.nvm.lent = true ↔ s.sec.pstate = 4)
        ∧ { t with nvm := { t.nvm with req := s.nvm.req, lent := s.nvm.lent } } = s)
      ∧ (Completes .nvmReqRelease s fun t => t.nvm.req = false ∧ t.nvm.lent = false
        ∧ { t with nvm := { t.nvm with req := s.nvm.req, lent := s.nvm.lent } } = s)
      ∧ (Completes .lpddrRefresh s fun t => t = s))
    ∧ (∀ (s : State) (c : Fin 64), s.rst.dieUp = true → s.sec.pstate < 3 → Completes (.lpddrRetrain c) s fun t =>
      (c.val ∈ t.mm.retrainQ ∨ t.mm.retrain = some c.val) ∧ (s.atBoundary = false → t.mm.retrain = s.mm.retrain)
        ∧ { t with mm := { t.mm with retrainQ := s.mm.retrainQ, retrain := s.mm.retrain } } = s)
    ∧ (∀ s : State, s.mm.retrain.isSome = true → s.mm.stalled = [] → s.outq.waiting = [] →
      (∀ k, (s.core k).waitq = []) → Completes .lpddrRetrainComplete s fun t =>
      t.mm.retrain = (if s.atBoundary then s.mm.retrainQ.head? else none)
        ∧ t.mm.retrainQ = (if s.atBoundary then s.mm.retrainQ.drop 1 else s.mm.retrainQ)
        ∧ (∀ k, t.core k = s.core k) ∧ { t with cores := s.cores, mm := { t.mm with retrainQ := s.mm.retrainQ, retrain := s.mm.retrain } } = s)
    ∧ (∀ (s : State) (off : Nat) (w : Option (List Byte)) (len : Nat) (po : Option Nat) (ps : List (Nat × Nat)), s.mm.retrain.isSome = true →
      s.hif.perst = false → s.rst.dieUp = true → s.sec.pstate < 2 → s.sec.pcieFrozen = false → s.sec.scrub = false → s.outq.waiting = [] →
      s.mm.stalled = [.bar2Access off w ⟨len, po⟩] → (∀ k, (s.core k).waitq = []) → s.sec.trans = none →
      let n := match w with | some b => b.length | none => len
      0 < n → s.bar2Pieces off n = some ps →
      (∀ x ∈ readBlocks ps w.isSome, x ∉ s.mm.poisoned ∧ po ≠ some x) → Completes .lpddrRetrainComplete s fun t =>
        let u := { s with mm := { s.mm with retrain := none, stalled := [] } }.bar2 ps w po
        t.mm.stalled = [] ∧ t.mem = u.mem ∧ t.hif = u.hif ∧ t.job = s.job))

/-! The whole module. -/

/-- The module after reset: OPEN, D0 and P4, no job, nothing in flight, no key, no port up, the factory limits
and the boot record of a shipped module; an empty memory in its canonical form (R2, R84, R227, R273, R431, R444, R456). Tile
registers at zero are the model's choice (log 11). -/
def Obligations.ResetState : Prop :=
  let s := State.reset
  s.memOk = true ∧ s.sec.sstate = .open' ∧ s.sec.dlevel = 0 ∧ s.sec.pstate = 4 ∧ s.job.st = .none ∧ s.nvm.part.ownh = none ∧ s.nvm.part.qcause = 0
    ∧ s.nvm.faclim.pinMax = 1800 ∧ s.scc.hist = 16 ∧ s.scc.head = 1 ∧ s.scc.hold = 64 ∧ s.scc.skipmax = 16 ∧ s.pending = []
    ∧ (∀ k, s.core k = Core.zero) ∧ (∀ p, (s.port p).st = .down ∧ (s.port p).keys = none) ∧ (∀ h, s.status h = Fl.none)
    ∧ (∀ (k : CoreId) (b : Nat), b < 8 → (s.core k).tile b = Tile.zero) ∧ (∀ (k : CoreId) (v : VRegId), (s.core k).vreg v = VReg.zero)
    ∧ s.hifReg 0x00 = 0x325A4754 ∧ (∀ k : CoreId, s.reg (.core k 0x2060) = some 0x220200)

/-- Every step keeps the memory in its canonical form: addresses strictly rising, and no entry equal to what an unlisted
address reads as (the form is the model's; log 10). -/
def Obligations.StepKeepsMemory : Prop := ∀ s t : State, s.memOk = true → step s = .next t → t.memOk = true

/-- No command changes the queue of the commands that wait: a step takes the first and leaves the rest in their order. -/
def Obligations.StepKeepsQueue : Prop := ∀ s t : State, step s = .next t → t.pending = s.pending.tail
end

