-- ==== Sys2Proof/Laws/Map.lean ====
section
/-! SUPPORT. Laws of sparse tables: reading after writing, and that every operation keeps the canonical form. -/

set_option Elab.async false

namespace Sys2Proof.Machine

open Sys2Proof

variable {α : Type}

/-- Indexes strictly rising, as a proposition. -/
theorem SMap.wf_iff [DecidableEq α] (d : α) (m : SMap α) :
    SMap.wf d m = true ↔ m.Pairwise (fun x y => x.1 < y.1) ∧ ∀ e ∈ m, e.2 ≠ d := by
  simp [SMap.wf, List.pairwise_map]

@[simp] theorem SMap.get_nil (d : α) (k : Nat) : SMap.get d [] k = d := rfl

theorem SMap.get_cons (d : α) (i : Nat) (a : α) (m : SMap α) (k : Nat) :
    SMap.get d ((i, a) :: m) k = if i = k then a else SMap.get d m k := rfl

/-- An index that no entry has reads as the default. -/
theorem SMap.get_of_not_mem (d : α) {m : SMap α} {k : Nat} (h : ∀ e ∈ m, e.1 ≠ k) : SMap.get d m k = d := by
  induction m with
  | nil => rfl
  | cons x m ih =>
    rw [SMap.get, if_neg (h x (by simp))]
    exact ih fun e he => h e (List.mem_cons_of_mem _ he)

/-- In the concatenation of two tables the first one that lists an index gives its entry. -/
theorem SMap.get_append (d : α) (m n : SMap α) (k : Nat) :
    SMap.get d (m ++ n) k = if m.any (fun e => e.1 == k) then SMap.get d m k else SMap.get d n k := by
  induction m with
  | nil => simp
  | cons x m ih =>
    obtain ⟨i, a⟩ := x
    by_cases hi : i = k
    · simp [SMap.get_cons, hi]
    · have hb : (i == k) = false := by simpa using hi
      rw [List.cons_append, SMap.get_cons, if_neg hi, ih, List.any_cons, hb, Bool.false_or, SMap.get_cons, if_neg hi]

/-- Filtering by the index keeps the entries of the indexes kept. -/
theorem SMap.get_filter (d : α) (p : Nat → Bool) (m : SMap α) (k : Nat) :
    SMap.get d (m.filter fun e => p e.1) k = if p k then SMap.get d m k else d := by
  induction m with
  | nil => simp
  | cons x m ih =>
    obtain ⟨i, a⟩ := x
    by_cases hp : p i <;> by_cases hi : i = k
    · subst hi; simp [SMap.get_cons, hp]
    · simp [SMap.get_cons, hp, hi, ih]
    · subst hi; simp [hp, ih]
    · simp [SMap.get_cons, hp, hi, ih]

theorem SMap.get_ins (d : α) (k : Nat) (a : α) (m : SMap α) (hk : ∀ e ∈ m, e.1 ≠ k) (j : Nat) :
    SMap.get d (SMap.ins k a m) j = if j = k then a else SMap.get d m j := by
  induction m with
  | nil => by_cases h : k = j <;> simp [SMap.ins, SMap.get_cons, h, eq_comm]
  | cons x m ih =>
    obtain ⟨i, b⟩ := x
    have hi : i ≠ k := hk (i, b) (by simp)
    have ih' := ih fun e he => hk e (List.mem_cons_of_mem _ he)
    by_cases hlt : k < i
    · rw [SMap.ins, if_pos hlt, SMap.get_cons]
      by_cases h : k = j <;> simp [h, eq_comm]
    · rw [SMap.ins, if_neg hlt, SMap.get_cons, ih', SMap.get_cons]
      by_cases h : i = j
      · subst h; simp [hi]
      · simp [h]

/-- Reading after writing: the index written reads as the value, every other as before. -/
theorem SMap.get_set [DecidableEq α] (d : α) (m : SMap α) (k : Nat) (a : α) (j : Nat) :
    SMap.get d (SMap.set d m k a) j = if j = k then a else SMap.get d m j := by
  have hf : ∀ e ∈ m.filter (fun e => e.1 ≠ k), e.1 ≠ k := fun e he => by simpa using (List.mem_filter.mp he).2
  have hg : SMap.get d (m.filter fun e => e.1 ≠ k) j = if j ≠ k then SMap.get d m j else d := by
    simpa using SMap.get_filter d (fun i => decide (i ≠ k)) m j
  unfold SMap.set
  by_cases ha : a = d
  · rw [if_pos ha, hg]; by_cases h : j = k <;> simp [h, ha]
  · rw [if_neg ha, SMap.get_ins d k a _ hf, hg]; by_cases h : j = k <;> simp [h]

@[simp] theorem SMap.get_set_self [DecidableEq α] (d : α) (m : SMap α) (k : Nat) (a : α) :
    SMap.get d (SMap.set d m k a) k = a := by simp [SMap.get_set]

theorem SMap.get_set_other [DecidableEq α] (d : α) (m : SMap α) {k j : Nat} (a : α) (h : j ≠ k) :
    SMap.get d (SMap.set d m k a) j = SMap.get d m j := by simp [SMap.get_set, h]

@[simp] theorem SMap.wf_nil [DecidableEq α] (d : α) : SMap.wf d ([] : SMap α) = true := rfl

/-- Dropping entries keeps the canonical form. -/
theorem SMap.wf_filter [DecidableEq α] {d : α} {m : SMap α} (p : Nat × α → Bool) (h : SMap.wf d m = true) :
    SMap.wf d (m.filter p) = true := by
  rw [SMap.wf_iff] at *
  exact ⟨h.1.filter p, fun e he => h.2 e (List.mem_filter.mp he).1⟩

/-- Two canonical tables, the first all below the second, make one. -/
theorem SMap.wf_append [DecidableEq α] {d : α} {m n : SMap α} (hm : SMap.wf d m = true) (hn : SMap.wf d n = true)
    (hlt : ∀ x ∈ m, ∀ y ∈ n, x.1 < y.1) : SMap.wf d (m ++ n) = true := by
  rw [SMap.wf_iff] at *
  refine ⟨List.pairwise_append.mpr ⟨hm.1, hn.1, hlt⟩, fun e he => ?_⟩
  rcases List.mem_append.mp he with h | h
  · exact hm.2 e h
  · exact hn.2 e h

theorem SMap.mem_ins {k : Nat} {a : α} {m : SMap α} {e : Nat × α} (h : e ∈ SMap.ins k a m) : e = (k, a) ∨ e ∈ m := by
  induction m with
  | nil => simpa [SMap.ins] using h
  | cons x m ih =>
    obtain ⟨i, b⟩ := x
    simp only [SMap.ins] at h
    split at h
    · simpa using h
    · rcases List.mem_cons.mp h with h | h
      · exact .inr (by simp [h])
      · rcases ih h with h | h
        · exact .inl h
        · exact .inr (List.mem_cons_of_mem _ h)

theorem SMap.wf_ins [DecidableEq α] {d : α} {k : Nat} {a : α} {m : SMap α} (ha : a ≠ d) (hk : ∀ e ∈ m, e.1 ≠ k)
    (h : SMap.wf d m = true) : SMap.wf d (SMap.ins k a m) = true := by
  rw [SMap.wf_iff] at *
  obtain ⟨hp, hd⟩ := h
  refine ⟨?_, fun e he => ?_⟩
  · induction m with
    | nil => simp [SMap.ins]
    | cons x m ih =>
      obtain ⟨i, b⟩ := x
      have hi : i ≠ k := hk (i, b) (by simp)
      have hp' := List.pairwise_cons.mp hp
      have hk' : ∀ e ∈ m, e.1 ≠ k := fun e he => hk e (List.mem_cons_of_mem _ he)
      have hd' : ∀ e ∈ m, e.2 ≠ d := fun e he => hd e (List.mem_cons_of_mem _ he)
      simp only [SMap.ins]
      split
      · rename_i hlt
        refine List.pairwise_cons.mpr ⟨fun e he => ?_, hp⟩
        rcases List.mem_cons.mp he with he | he
        · simpa [he] using hlt
        · exact Nat.lt_trans hlt (hp'.1 e he)
      · rename_i hlt
        refine List.pairwise_cons.mpr ⟨fun e he => ?_, ih hk' hp'.2 hd'⟩
        rcases SMap.mem_ins he with he | he
        · subst he; simp only; omega
        · exact hp'.1 e he
  · rcases SMap.mem_ins he with he | he
    · subst he; exact ha
    · exact hd e he

/-- Writing keeps the canonical form. -/
theorem SMap.wf_set [DecidableEq α] {d : α} {m : SMap α} (k : Nat) (a : α) (h : SMap.wf d m = true) :
    SMap.wf d (SMap.set d m k a) = true := by
  have hr : SMap.wf d (m.filter fun e => e.1 ≠ k) = true := SMap.wf_filter _ h
  unfold SMap.set
  by_cases ha : a = d
  · rw [if_pos ha]; exact hr
  · rw [if_neg ha]
    exact SMap.wf_ins ha (fun e he => by simpa using (List.mem_filter.mp he).2) hr

/-- Changing every entry keeps the canonical form, and gives a canonical table whatever it starts from. -/
theorem SMap.wf_mapVals [DecidableEq α] (d : α) (f : Nat → α → α) (m : SMap α) : SMap.wf d (SMap.mapVals d f m) = true := by
  induction m with
  | nil => rfl
  | cons x m ih => exact SMap.wf_set _ _ ih

/-- What an index reads as after every listed entry has been changed. -/
theorem SMap.get_mapVals [DecidableEq α] (d : α) (f : Nat → α → α) (m : SMap α) (k : Nat) :
    SMap.get d (SMap.mapVals d f m) k = if m.any (fun e => e.1 == k) then f k (SMap.get d m k) else d := by
  induction m with
  | nil => simp [SMap.mapVals]
  | cons x m ih =>
    obtain ⟨i, a⟩ := x
    by_cases h : i = k
    · subst h; simp [SMap.mapVals, SMap.get_cons]
    · have hb : (i == k) = false := by simpa using h
      rw [SMap.mapVals, SMap.get_set_other _ _ _ (Ne.symm h), ih, List.any_cons, hb, Bool.false_or, SMap.get_cons, if_neg h]

/-- A change that keeps the default keeps it where nothing is listed, so it acts at every index alike. -/
theorem SMap.get_mapVals_of_fixed [DecidableEq α] {d : α} {f : Nat → α → α} (hf : ∀ i, f i d = d) (m : SMap α) (k : Nat) :
    SMap.get d (SMap.mapVals d f m) k = f k (SMap.get d m k) := by
  rw [SMap.get_mapVals]
  split
  · rfl
  · rename_i h
    rw [SMap.get_of_not_mem d (fun e he hk => h (List.any_eq_true.mpr ⟨e, he, by simp [hk]⟩)), hf]

/-- Writing consecutive values keeps the canonical form. -/
theorem SMap.wf_setList [DecidableEq α] {d : α} (xs : List α) {m : SMap α} (k : Nat) (h : SMap.wf d m = true) :
    SMap.wf d (SMap.setList d m k xs) = true := by
  induction xs generalizing m k with
  | nil => exact h
  | cons a xs ih => exact ih _ (SMap.wf_set k a h)

/-- What an index reads as after consecutive values were written. -/
theorem SMap.get_setList [DecidableEq α] (d : α) (xs : List α) (m : SMap α) (k j : Nat) :
    SMap.get d (SMap.setList d m k xs) j = if k ≤ j ∧ j < k + xs.length then xs.getD (j - k) d else SMap.get d m j := by
  induction xs generalizing m k with
  | nil => simp [SMap.setList]
  | cons a xs ih =>
    rw [SMap.setList, ih, SMap.get_set]
    by_cases h1 : j = k
    · subst h1; simp
    · by_cases h2 : k ≤ j ∧ j < k + (xs.length + 1)
      · have h3 : k + 1 ≤ j ∧ j < k + 1 + xs.length := by omega
        have h4 : j - k = (j - (k + 1)) + 1 := by omega
        rw [if_pos h3, if_pos (by simpa using h2), h4]; simp
      · have h3 : ¬ (k + 1 ≤ j ∧ j < k + 1 + xs.length) := by omega
        rw [if_neg h3, if_neg h1, if_neg (by simpa using h2)]

/-- A table made of values reads as they are. -/
theorem SMap.get_ofFn [DecidableEq α] (d : α) (n : Nat) (f : Nat → α) (k : Nat) :
    SMap.get d (SMap.ofFn d n f) k = if k < n then f k else d := by
  unfold SMap.ofFn
  induction n with
  | zero => simp
  | succ n ih =>
    rw [List.range_succ, List.filterMap_append, SMap.get_append, ih]
    by_cases hk : k < n
    · have h1 : k < n + 1 := by omega
      rw [if_pos hk, if_pos h1]
      split
      · rfl
      · rename_i hany
        have hfd : f k = d := by
          by_contra hne
          apply hany
          rw [List.any_eq_true]
          exact ⟨(k, f k), List.mem_filterMap.mpr ⟨k, by simpa using hk, by simp [hne]⟩, by simp⟩
        rw [hfd]
        apply SMap.get_of_not_mem
        intro e he
        obtain ⟨i, hi, hie⟩ := List.mem_filterMap.mp he
        split at hie
        · cases hie
        · simp at hi; cases hie; simp; omega
    · rw [if_neg hk]
      split
      · rename_i hany
        obtain ⟨e, he, hek⟩ := List.any_eq_true.mp hany
        obtain ⟨i, hi, hie⟩ := List.mem_filterMap.mp he
        split at hie
        · cases hie
        · cases hie; simp at hi hek; omega
      · by_cases hkn : k = n
        · subst hkn
          by_cases hd : f k = d <;> simp [hd, SMap.get_cons]
        · have h1 : ¬ k < n + 1 := by omega
          rw [if_neg h1]
          by_cases hd : f n = d
          · simp [hd]
          · simp [hd, SMap.get_cons, Ne.symm hkn]

/-- A table made of values is canonical. -/
theorem SMap.wf_ofFn [DecidableEq α] (d : α) (n : Nat) (f : Nat → α) : SMap.wf d (SMap.ofFn d n f) = true := by
  rw [SMap.wf_iff]
  unfold SMap.ofFn
  refine ⟨?_, fun e he => ?_⟩
  · rw [List.pairwise_filterMap]
    refine List.pairwise_lt_range.imp ?_
    intro a b hab x hx y hy
    split at hx
    · cases hx
    · obtain ⟨-, rfl⟩ : f b ≠ d ∧ (b, f b) = y := by simpa using hy
      cases hx; exact hab
  · obtain ⟨i, -, hie⟩ := List.mem_filterMap.mp he
    split at hie
    · cases hie
    · cases hie; assumption

/-! Changing a range of indexes in one pass. -/

/-- The one-pass test says what the pairwise form says. -/
theorem SMap.rising_iff (m : SMap α) : SMap.rising m = true ↔ m.Pairwise fun x y => x.1 < y.1 := by
  induction m with
  | nil => simp [SMap.rising]
  | cons x m ih =>
    cases m with
    | nil => simp [SMap.rising]
    | cons y m =>
      rw [SMap.rising, Bool.and_eq_true, ih, List.pairwise_cons (a := x)]
      constructor
      · rintro ⟨h1, h2⟩
        refine ⟨fun z hz => ?_, h2⟩
        rcases List.mem_cons.mp hz with rfl | hz
        · simpa using h1
        · exact Nat.lt_trans (by simpa using h1) ((List.pairwise_cons.mp h2).1 z hz)
      · rintro ⟨h1, h2⟩
        exact ⟨by simpa using h1 y (by simp), h2⟩

theorem SMap.get_updFrom [DecidableEq α] (d : α) (f : Nat → α → α) (n i : Nat) (m : SMap α)
    (hp : m.Pairwise fun x y => x.1 < y.1) (hi : ∀ e ∈ m, i ≤ e.1) (k : Nat) :
    SMap.get d (SMap.updFrom d f n i m) k = if i ≤ k ∧ k < i + n then f k (SMap.get d m k) else SMap.get d m k := by
  induction n generalizing i m with
  | zero => have h : ¬ (i ≤ k ∧ k < i + 0) := by omega
            rw [SMap.updFrom, if_neg h]
  | succ n ih =>
    have key : ∀ (v : α) (m' : SMap α), m'.Pairwise (fun x y => x.1 < y.1) → (∀ e ∈ m', i + 1 ≤ e.1) →
        SMap.get d (if v = d then SMap.updFrom d f n (i + 1) m' else (i, v) :: SMap.updFrom d f n (i + 1) m') k =
          if k = i then v else if i + 1 ≤ k ∧ k < i + 1 + n then f k (SMap.get d m' k) else SMap.get d m' k := by
      intro v m' h1 h2
      have hI := ih (i + 1) m' h1 h2
      by_cases hv : v = d
      · rw [if_pos hv, hI]
        by_cases hk : k = i
        · have h3 : ¬ (i + 1 ≤ k ∧ k < i + 1 + n) := by omega
          rw [if_neg h3, if_pos hk, hv]
          exact SMap.get_of_not_mem d fun e he => by have := h2 e he; omega
        · rw [if_neg hk]
      · rw [if_neg hv, SMap.get_cons, hI]
        by_cases hk : k = i
        · rw [if_pos hk.symm, if_pos hk]
        · rw [if_neg (Ne.symm hk), if_neg hk]
    cases m with
    | nil =>
      rw [SMap.updFrom, key _ [] (by simp) (by simp)]
      by_cases hk : k = i
      · subst hk; simp
      · by_cases h1 : i ≤ k ∧ k < i + (n + 1)
        · have h2 : i + 1 ≤ k ∧ k < i + 1 + n := by omega
          rw [if_neg hk, if_pos h2, if_pos h1]
        · have h2 : ¬ (i + 1 ≤ k ∧ k < i + 1 + n) := by omega
          rw [if_neg hk, if_neg h2, if_neg h1]
    | cons x m =>
      obtain ⟨j, b⟩ := x
      have hp' := List.pairwise_cons.mp hp
      have hj : i ≤ j := hi (j, b) (by simp)
      have hm : ∀ e ∈ m, j + 1 ≤ e.1 := fun e he => hp'.1 e he
      by_cases hji : j = i
      · subst hji
        rw [SMap.updFrom, if_pos rfl, key _ m hp'.2 hm, SMap.get_cons]
        by_cases hk : k = j
        · subst hk; simp
        · rw [if_neg hk, if_neg (Ne.symm hk)]
          by_cases h1 : j ≤ k ∧ k < j + (n + 1)
          · have h2 : j + 1 ≤ k ∧ k < j + 1 + n := by omega
            rw [if_pos h2, if_pos h1]
          · have h2 : ¬ (j + 1 ≤ k ∧ k < j + 1 + n) := by omega
            rw [if_neg h2, if_neg h1]
      · have hm' : ∀ e ∈ (j, b) :: m, i + 1 ≤ e.1 := fun e he => by
          rcases List.mem_cons.mp he with rfl | he
          · show i + 1 ≤ j; omega
          · have := hm e he; omega
        rw [SMap.updFrom, if_neg hji, key _ ((j, b) :: m) hp hm']
        by_cases hk : k = i
        · have h1 : i ≤ k ∧ k < i + (n + 1) := by omega
          have h2 : SMap.get d ((j, b) :: m) k = d := SMap.get_of_not_mem d fun e he => by have := hm' e he; omega
          rw [if_pos hk, if_pos h1, h2, hk]
        · rw [if_neg hk]
          by_cases h1 : i ≤ k ∧ k < i + (n + 1)
          · have h2 : i + 1 ≤ k ∧ k < i + 1 + n := by omega
            rw [if_pos h2, if_pos h1]
          · have h2 : ¬ (i + 1 ≤ k ∧ k < i + 1 + n) := by omega
            rw [if_neg h2, if_neg h1]

/-- What an index reads as after the entries below `n` were changed: nothing else is. -/
theorem SMap.get_upd [DecidableEq α] (d : α) (n : Nat) (f : Nat → α → α) (m : SMap α) (k : Nat) :
    SMap.get d (SMap.upd d n f m) k = if k < n then f k (SMap.get d m k) else SMap.get d m k := by
  unfold SMap.upd
  split
  · rename_i h
    rw [SMap.get_updFrom d f n 0 m ((SMap.rising_iff m).mp h) (by simp)]
    simp
  · rw [SMap.get_append, SMap.get_ofFn]
    have hg : SMap.get d (m.filter fun e => n ≤ e.1) k = if n ≤ k then SMap.get d m k else d := by
      simpa using SMap.get_filter d (fun i => decide (n ≤ i)) m k
    rw [hg]
    by_cases hk : k < n
    · have h1 : ¬ n ≤ k := by omega
      rw [if_pos hk, if_neg h1]
      split
      · rfl
      · rename_i hany
        have hz : SMap.get d (SMap.ofFn d n fun i => f i (SMap.get d m i)) k = d :=
          SMap.get_of_not_mem d fun e he hek => hany (List.any_eq_true.mpr ⟨e, he, by simp [hek]⟩)
        rw [SMap.get_ofFn, if_pos hk] at hz
        exact hz.symm
    · have h1 : n ≤ k := by omega
      rw [if_neg hk, if_pos h1]
      split
      · rename_i hany
        obtain ⟨e, he, hek⟩ := List.any_eq_true.mp hany
        obtain ⟨i, hi, hie⟩ := List.mem_filterMap.mp he
        split at hie
        · cases hie
        · cases hie; simp at hi hek; omega
      · rfl

end Sys2Proof.Machine
end

