-- ==== Sys2Proof/Laws/Memory.lean ====
section
/-! SUPPORT. Laws of device memory: a write puts its bytes where they belong and leaves every other byte, and every
operation keeps the canonical form. -/

set_option Elab.async false

namespace Sys2Proof.Machine

open Sys2Proof

/-! The canonical form. -/

@[simp] theorem Memory.wf_nil : Memory.wf [] = true := rfl

theorem cellsOf_ge (lo : Nat) (bs : List Byte) : ∀ e ∈ cellsOf lo bs, lo ≤ e.1 ∧ e.1 < lo + bs.length := by
  induction bs generalizing lo with
  | nil => simp [cellsOf]
  | cons b bs ih =>
    intro e he
    simp only [cellsOf] at he
    split at he
    · have := ih (lo + 1) e he; simp only [List.length_cons]; omega
    · rcases List.mem_cons.mp he with rfl | he
      · simp
      · have := ih (lo + 1) e he; simp only [List.length_cons]; omega

theorem cellsOf_wf (lo : Nat) (bs : List Byte) : Memory.wf (cellsOf lo bs) = true := by
  induction bs generalizing lo with
  | nil => rfl
  | cons b bs ih =>
    simp only [cellsOf]
    split
    · exact ih _
    · rename_i hb
      have h := (SMap.wf_iff _ _).mp (ih (lo + 1))
      refine (SMap.wf_iff _ _).mpr ⟨List.pairwise_cons.mpr ⟨fun e he => ?_, h.1⟩, fun e he => ?_⟩
      · have := cellsOf_ge (lo + 1) bs e he; simp only; omega
      · rcases List.mem_cons.mp he with rfl | he
        · exact hb
        · exact h.2 e he

/-- Dropping cells keeps the canonical form. -/
theorem Memory.wf_filter {m : List Host.Cell} (p : Host.Cell → Bool) (h : Memory.wf m = true) :
    Memory.wf (m.filter p) = true := SMap.wf_filter p h

/-- A write keeps the canonical form. -/
theorem memWrite_wf {m : List Host.Cell} (lo : Nat) (bs : List Byte) (h : Memory.wf m = true) :
    Memory.wf (memWrite m lo bs) = true := by
  unfold memWrite
  refine SMap.wf_append (SMap.wf_append (SMap.wf_filter _ h) (cellsOf_wf lo bs) ?_) (SMap.wf_filter _ h) ?_
  · intro x hx y hy
    have h1 : x.1 < lo := by simpa using (List.mem_filter.mp hx).2
    have h2 := cellsOf_ge lo bs y hy
    omega
  · intro x hx y hy
    have h1 : lo + bs.length ≤ y.1 := by simpa using (List.mem_filter.mp hy).2
    rcases List.mem_append.mp hx with hx | hx
    · have h2 : x.1 < lo := by simpa using (List.mem_filter.mp hx).2
      omega
    · have h2 := cellsOf_ge lo bs x hx
      omega

/-- Clearing a range keeps the canonical form. -/
theorem memClear_wf {m : List Host.Cell} (lo n : Nat) (h : Memory.wf m = true) : Memory.wf (memClear m lo n) = true :=
  SMap.wf_filter _ h

/-! Reading after writing. -/

theorem cellsOf_get (lo : Nat) (bs : List Byte) (a : Nat) :
    SMap.get memDefault (cellsOf lo bs) a = if lo ≤ a ∧ a < lo + bs.length then bs.getD (a - lo) memDefault else memDefault := by
  induction bs generalizing lo with
  | nil => simp [cellsOf]
  | cons b bs ih =>
    have key : SMap.get memDefault (cellsOf lo (b :: bs)) a =
        if a = lo then b else SMap.get memDefault (cellsOf (lo + 1) bs) a := by
      simp only [cellsOf]
      split
      · rename_i hb
        by_cases h : a = lo
        · rw [if_pos h, hb]
          exact SMap.get_of_not_mem _ fun e he => by have := cellsOf_ge (lo + 1) bs e he; omega
        · rw [if_neg h]
      · by_cases h : a = lo
        · rw [SMap.get_cons, if_pos h.symm, if_pos h]
        · rw [SMap.get_cons, if_neg (Ne.symm h), if_neg h]
    rw [key, ih]
    by_cases h : a = lo
    · subst h; simp
    · rw [if_neg h]
      by_cases h1 : lo ≤ a ∧ a < lo + (b :: bs).length
      · have h2 : lo + 1 ≤ a ∧ a < lo + 1 + bs.length := by simp only [List.length_cons] at h1; omega
        have h3 : a - lo = (a - (lo + 1)) + 1 := by omega
        rw [if_pos h2, if_pos h1, h3]; simp
      · have h2 : ¬ (lo + 1 ≤ a ∧ a < lo + 1 + bs.length) := by simp only [List.length_cons] at h1; omega
        rw [if_neg h2, if_neg h1]

/-- A byte after a write: the byte written where the write covers its address, else what it was. -/
theorem memGet_memWrite (m : List Host.Cell) (lo : Nat) (bs : List Byte) (a : Nat) :
    memGet (memWrite m lo bs) a = if lo ≤ a ∧ a < lo + bs.length then bs.getD (a - lo) memDefault else memGet m a := by
  unfold memGet memWrite
  have h1 : SMap.get memDefault (m.filter fun e => e.1 < lo) a = if a < lo then SMap.get memDefault m a else memDefault := by
    simpa using SMap.get_filter memDefault (fun i => decide (i < lo)) m a
  have h2 : SMap.get memDefault (m.filter fun e => lo + bs.length ≤ e.1) a =
      if lo + bs.length ≤ a then SMap.get memDefault m a else memDefault := by
    simpa using SMap.get_filter memDefault (fun i => decide (lo + bs.length ≤ i)) m a
  have no : ∀ (p : Host.Cell → Prop) (l : List Host.Cell), (∀ e ∈ l, e.1 ≠ a) → (l.any fun e => e.1 == a) = false := by
    intro _ l hl
    rw [List.any_eq_false]
    exact fun e he => by simpa using hl e he
  rw [List.append_assoc, SMap.get_append, SMap.get_append, h1, h2, cellsOf_get]
  by_cases hlo : a < lo
  · have hin : ¬ (lo ≤ a ∧ a < lo + bs.length) := by omega
    have hhi : ¬ lo + bs.length ≤ a := by omega
    rw [if_pos hlo, if_neg hin, if_neg hhi]
    split
    · rfl
    · rename_i hany
      have hd : SMap.get memDefault m a = memDefault := SMap.get_of_not_mem _ fun e he hea =>
        hany (List.any_eq_true.mpr ⟨e, List.mem_filter.mpr ⟨he, by simp [hea, hlo]⟩, by simp [hea]⟩)
      rw [hd]; simp
  · rw [if_neg hlo, no (fun _ => True) _ fun e he hea => by
      have : e.1 < lo := by simpa using (List.mem_filter.mp he).2
      omega]
    by_cases hin : lo ≤ a ∧ a < lo + bs.length
    · have hhi : ¬ lo + bs.length ≤ a := by omega
      simp only [if_pos hin, if_neg hhi]
      by_cases hc : (cellsOf lo bs).any (fun e => e.1 == a) = true
      · simp only [hc, Bool.false_eq_true, if_false, if_true]
      · have hd : SMap.get memDefault (cellsOf lo bs) a = memDefault := SMap.get_of_not_mem _ fun e he hea =>
          hc (List.any_eq_true.mpr ⟨e, he, by simp [hea]⟩)
        rw [cellsOf_get, if_pos hin] at hd
        simp only [hc, hd, Bool.false_eq_true, if_false]
    · have hhi : lo + bs.length ≤ a := by omega
      simp only [if_neg hin, if_pos hhi, no (fun _ => True) _ fun e he hea => by
        have := cellsOf_ge lo bs e he; omega, Bool.false_eq_true, if_false]

/-- A write leaves every byte outside it. -/
theorem memGet_memWrite_out (m : List Host.Cell) {lo : Nat} {bs : List Byte} {a : Nat} (h : a < lo ∨ lo + bs.length ≤ a) :
    memGet (memWrite m lo bs) a = memGet m a := by
  rw [memGet_memWrite, if_neg (by omega)]

/-- A byte written reads as it was written. -/
theorem memGet_memWrite_in (m : List Host.Cell) {lo : Nat} {bs : List Byte} {i : Nat} (h : i < bs.length) :
    memGet (memWrite m lo bs) (lo + i) = bs[i] := by
  rw [memGet_memWrite, if_pos (by omega)]
  simp [h]

/-- A byte after a range was cleared. -/
theorem memGet_memClear (m : List Host.Cell) (lo n a : Nat) :
    memGet (memClear m lo n) a = if a < lo ∨ lo + n ≤ a then memGet m a else memDefault := by
  simpa [memGet, memClear] using SMap.get_filter memDefault (fun i => decide (i < lo ∨ lo + n ≤ i)) m a

/-- Clearing a range leaves every byte outside it. -/
theorem memGet_memClear_out (m : List Host.Cell) {lo n a : Nat} (h : a < lo ∨ lo + n ≤ a) :
    memGet (memClear m lo n) a = memGet m a := by rw [memGet_memClear, if_pos h]

/-! Ranges of bytes. -/

theorem memFrom_get (n lo : Nat) (m : List Host.Cell) (hp : m.Pairwise fun x y => x.1 < y.1) (hlo : ∀ e ∈ m, lo ≤ e.1)
    (i : Nat) (hi : i < n) : (memFrom n lo m)[i]? = some (memGet m (lo + i)) := by
  induction n generalizing lo m i with
  | zero => omega
  | succ n ih =>
    have step : ∀ (b : Byte) (m' : List Host.Cell), m'.Pairwise (fun x y => x.1 < y.1) → (∀ e ∈ m', lo + 1 ≤ e.1) →
        b = memGet m lo → (∀ j, lo < j → memGet m' j = memGet m j) →
        (b :: memFrom n (lo + 1) m')[i]? = some (memGet m (lo + i)) := by
      intro b m' h1 h2 hb hg
      cases i with
      | zero => simp [hb]
      | succ i =>
        have h3 : lo + 1 + i = lo + (i + 1) := by omega
        rw [List.getElem?_cons_succ, ih (lo + 1) m' h1 h2 i (by omega), hg _ (by omega), h3]
    cases m with
    | nil => exact step _ [] (by simp) (by simp) rfl (fun _ _ => rfl)
    | cons x m =>
      obtain ⟨a, b⟩ := x
      have hp' := List.pairwise_cons.mp hp
      have ha : lo ≤ a := hlo (a, b) (by simp)
      simp only [memFrom]
      split
      · rename_i h
        subst h
        exact step b m hp'.2 (fun e he => hp'.1 e he) (by simp [memGet, SMap.get_cons])
          (fun j hj => by rw [memGet, memGet, SMap.get_cons, if_neg (by omega)])
      · rename_i h
        have hge : ∀ e ∈ (a, b) :: m, lo + 1 ≤ e.1 := fun e he => by
          rcases List.mem_cons.mp he with rfl | he
          · show lo + 1 ≤ a; omega
          · have := hp'.1 e he; simp only at this; omega
        exact step _ _ hp hge (SMap.get_of_not_mem _ fun e he hea => by have := hge e he; omega).symm (fun _ _ => rfl)

/-- The bytes of a range of canonical memory are those of its addresses. -/
theorem memRange_get {m : List Host.Cell} (h : Memory.wf m = true) (lo n i : Nat) (hi : i < n) :
    (memRange m lo n)[i]? = some (memGet m (lo + i)) := by
  have hw := ((SMap.wf_iff _ _).mp h).1
  have hsub := List.dropWhile_sublist (fun e : Host.Cell => decide (e.1 < lo)) (l := m)
  have hge : ∀ e ∈ m.dropWhile (fun e => decide (e.1 < lo)), lo ≤ e.1 := by
    clear hsub h
    induction m with
    | nil => simp
    | cons x m ih =>
      have hw' := List.pairwise_cons.mp hw
      by_cases hx : x.1 < lo
      · simpa [List.dropWhile_cons, hx] using ih hw'.2
      · intro e he
        simp only [List.dropWhile_cons, decide_eq_true_eq, hx, if_false] at he
        rcases List.mem_cons.mp he with rfl | he
        · omega
        · have := hw'.1 e he; omega
  have heq : memGet (m.dropWhile fun e => decide (e.1 < lo)) (lo + i) = memGet m (lo + i) := by
    clear hsub hge h
    induction m with
    | nil => rfl
    | cons x m ih =>
      by_cases hx : x.1 < lo
      · simp only [List.dropWhile_cons, decide_eq_true_eq, hx, if_true]
        rw [ih (List.pairwise_cons.mp hw).2]
        obtain ⟨a, b⟩ := x
        have hx' : a < lo := hx
        rw [memGet, memGet, SMap.get_cons, if_neg (by omega)]
      · simp [hx]
  rw [memRange, memFrom_get n lo _ (hw.sublist hsub) hge i hi, heq]

@[simp] theorem memRange_length (m : List Host.Cell) (lo n : Nat) : (memRange m lo n).length = n := by
  have key : ∀ (n lo : Nat) (m : List Host.Cell), (memFrom n lo m).length = n := by
    intro n
    induction n with
    | zero => intro lo m; cases m <;> rfl
    | succ n ih =>
      intro lo m
      cases m with
      | nil => simp [memFrom, ih]
      | cons x m => obtain ⟨a, b⟩ := x; simp only [memFrom]; split <;> simp [ih]
  exact key _ _ _

end Sys2Proof.Machine
end

