-- ==== Sys2Proof/Laws/MemoryOps.lean ====
section
/-! SUPPORT. Laws of the operations over the memory of a state: the canonical form is kept by each, and what each leaves. -/

set_option Elab.async false

namespace Sys2Proof.Machine

open Sys2Proof

/-! Before a write: invalid blocks taken as zeros (R381). -/

/-- Only memory is changed. -/
theorem zeroInvalid_eq (s : State) (bs : List Nat) : zeroInvalid s bs = { s with mem := (zeroInvalid s bs).mem } := by
  unfold zeroInvalid
  induction bs generalizing s with
  | nil => rfl
  | cons b bs ih =>
    rw [List.foldl_cons]
    split
    · exact ih { s with mem := memClear s.mem (b * 4096) 4096 }
    · exact ih s

theorem zeroInvalid_wf {s : State} (bs : List Nat) (h : Memory.wf s.mem = true) : Memory.wf (zeroInvalid s bs).mem = true := by
  unfold zeroInvalid
  induction bs generalizing s with
  | nil => exact h
  | cons b bs ih =>
    rw [List.foldl_cons]
    split
    · exact ih (s := { s with mem := memClear s.mem (b * 4096) 4096 }) (memClear_wf _ _ h)
    · exact ih h

/-- A byte whose block carries no check value, or a valid one, stands. -/
theorem zeroInvalid_kept (s : State) (bs : List Nat) {a : Nat}
    (h : carriesCheck s (a / 4096 * 4096) = false ∨ entryValid (chkGet s (a / 4096)) = true) :
    memGet (zeroInvalid s bs).mem a = memGet s.mem a := by
  unfold zeroInvalid
  induction bs generalizing s with
  | nil => rfl
  | cons b bs ih =>
    rw [List.foldl_cons]
    split
    · rename_i hb
      rw [ih { s with mem := memClear s.mem (b * 4096) 4096 } h]
      refine memGet_memClear_out _ ?_
      by_contra hc
      have hab : a / 4096 = b := by omega
      subst hab
      rcases h with h | h
      · rw [h] at hb; simp at hb
      · exact hb.2 h
    · exact ih s h

/-! Check values after a write (R379, R381). -/

/-- Only check values are changed. -/
theorem stampBlocks_eq (s : State) (cvp : Nat) (bs : List Nat) :
    stampBlocks s cvp bs = { s with chk := (stampBlocks s cvp bs).chk } := by
  unfold stampBlocks
  induction bs generalizing s with
  | nil => rfl
  | cons b bs ih =>
    rw [List.foldl_cons]
    split
    · exact ih { s with chk := SMap.set 0 s.chk b (mkEntry s.mem b cvp (s.stp.s.setWidth 16)) }
    · exact ih s

@[simp] theorem stampBlocks_mem (s : State) (cvp : Nat) (bs : List Nat) : (stampBlocks s cvp bs).mem = s.mem := by
  rw [stampBlocks_eq]

/-! Writing runs of bytes (R381). -/

/-- A write of runs changes memory and check values, and takes the blocks that it rewrites whole out of the poisoned ones. -/
theorem writeRuns_eq (s : State) (cvp : Nat) (rs : List Run) :
    writeRuns s cvp rs =
      { s with mem := (writeRuns s cvp rs).mem, chk := (writeRuns s cvp rs).chk, mm := s.mm.rewritten rs } := by
  have h1 := zeroInvalid_eq s (runBlocks rs)
  unfold writeRuns
  dsimp only
  generalize (zeroInvalid s (runBlocks rs)).mem = m at h1
  rw [h1]
  rw [stampBlocks_mem]
  exact stampBlocks_eq { s with mem := rs.foldl (fun m r => memWrite m r.1 r.2) m, mm := s.mm.rewritten rs } cvp (runBlocks rs)

theorem writes_wf (rs : List Run) {m : List Host.Cell} (h : Memory.wf m = true) :
    Memory.wf (rs.foldl (fun m r => memWrite m r.1 r.2) m) = true := by
  induction rs generalizing m with
  | nil => exact h
  | cons r rs ih => exact ih (memWrite_wf _ _ h)

/-- A write of runs keeps the canonical form. -/
theorem writeRuns_wf {s : State} (cvp : Nat) (rs : List Run) (h : Memory.wf s.mem = true) :
    Memory.wf (writeRuns s cvp rs).mem = true := by
  unfold writeRuns
  rw [stampBlocks_mem]
  exact writes_wf rs (zeroInvalid_wf _ h)

theorem writes_out (rs : List Run) (m : List Host.Cell) {a : Nat} (h : ∀ r ∈ rs, a < r.1 ∨ r.1 + r.2.length ≤ a) :
    memGet (rs.foldl (fun m r => memWrite m r.1 r.2) m) a = memGet m a := by
  induction rs generalizing m with
  | nil => rfl
  | cons r rs ih =>
    rw [List.foldl_cons, ih _ fun x hx => h x (List.mem_cons_of_mem _ hx)]
    exact memGet_memWrite_out m (h r (by simp))

/-- A byte outside the runs stands, unless its block had no valid check value and carries one. -/
theorem writeRuns_kept (s : State) (cvp : Nat) (rs : List Run) {a : Nat} (ho : ∀ r ∈ rs, a < r.1 ∨ r.1 + r.2.length ≤ a)
    (hc : carriesCheck s (a / 4096 * 4096) = false ∨ entryValid (chkGet s (a / 4096)) = true) :
    memGet (writeRuns s cvp rs).mem a = memGet s.mem a := by
  unfold writeRuns
  rw [stampBlocks_mem, writes_out rs _ ho, zeroInvalid_kept s _ hc]

/-- Where nothing is poisoned, a write of runs leaves it so. -/
@[simp] theorem MemSt.rewritten_of_nil {m : MemSt} (rs : List Run) (h : m.poisoned = []) : m.rewritten rs = m := by
  unfold MemSt.rewritten
  rw [h]
  cases m
  simp only at h
  subst h
  rfl

theorem writeRuns_mm (s : State) (cvp : Nat) (rs : List Run) : (writeRuns s cvp rs).mm = s.mm.rewritten rs := by rw [writeRuns_eq]

/-! Other operations. -/

/-- A conversion raises an amax word, and after the commit point notes the handle; nothing else (R211, R218). -/
theorem State.raiseAmax_eq (s : State) (h : W16) (v : W32) :
    s.raiseAmax h v = { s with stp := (s.raiseAmax h v).stp, scc := (s.raiseAmax h v).scc } := by
  unfold State.raiseAmax
  dsimp only
  split
  · rfl
  · split <;> split <;> rfl

/-- Keeping the bytes of some addresses keeps the canonical form. -/
theorem memKeep_wf (f : Nat → Bool) {m : List Host.Cell} (h : Memory.wf m = true) : Memory.wf (memKeep f m) = true :=
  SMap.wf_filter _ h

/-- Setting tensor status bits keeps the canonical form (R53). -/
theorem State.setStatus_wf {s : State} (h : W16) (f : Fl) (hs : Memory.wf s.mem = true) :
    Memory.wf (s.setStatus h f).mem = true := by
  unfold State.setStatus
  extract_lets old add
  split
  · exact hs
  · exact memWrite_wf _ _ hs

/-- Moving a column keeps the canonical form (R393). -/
theorem State.copyColumn_wf {s : State} (x f : CoreId) (h : Memory.wf s.mem = true) :
    Memory.wf (s.copyColumn x f).mem = true := by
  have hs := (SMap.wf_iff _ _).mp h
  unfold State.copyColumn
  dsimp only
  refine SMap.wf_append (SMap.wf_append (SMap.wf_filter _ h) ((SMap.wf_iff _ _).mpr ⟨?_, ?_⟩) ?_) (SMap.wf_filter _ h) ?_
  · rw [List.pairwise_map]
    refine List.Pairwise.imp_of_mem ?_ (hs.1.filter _)
    intro a b ha hb hab
    have h1 : x.val * colStride ≤ a.1 ∧ a.1 < x.val * colStride + colTensor := by simpa using (List.mem_filter.mp ha).2
    have h2 : x.val * colStride ≤ b.1 ∧ b.1 < x.val * colStride + colTensor := by simpa using (List.mem_filter.mp hb).2
    dsimp only; omega
  · intro e he
    obtain ⟨c, hc, rfl⟩ := List.mem_map.mp he
    exact hs.2 c (List.mem_filter.mp hc).1
  · intro a ha b hb
    obtain ⟨c, hc, rfl⟩ := List.mem_map.mp hb
    have h1 : a.1 < f.val * colStride := by simpa using (List.mem_filter.mp ha).2
    dsimp only; omega
  · intro a ha b hb
    have h1 : f.val * colStride + colTensor ≤ b.1 := by simpa using (List.mem_filter.mp hb).2
    rcases List.mem_append.mp ha with ha | ha
    · have h2 : a.1 < f.val * colStride := by simpa using (List.mem_filter.mp ha).2
      omega
    · obtain ⟨c, hc, rfl⟩ := List.mem_map.mp ha
      have h2 : x.val * colStride ≤ c.1 ∧ c.1 < x.val * colStride + colTensor := by simpa using (List.mem_filter.mp hc).2
      dsimp only; omega

theorem putGroups_wf {m : List Host.Cell} (b : List Byte) (h : Memory.wf m = true) : Memory.wf (putGroups m b) = true := by
  unfold putGroups
  split
  · exact h
  · have key : ∀ (l : List Nat) (m : List Host.Cell), Memory.wf m = true →
        Memory.wf (l.foldl (fun a g =>
          let v := leAt b (64 * g) 64
          let n := if bitAt v 0 then 16 * (bitsAt v 2 8 + 1) else 0
          memWrite a (updTable + 0x1000 + 4096 * g) (slice b (groupKnots b g) n)) m) = true := by
      intro l
      induction l with
      | nil => exact fun _ h => h
      | cons g l ih => exact fun m h => ih _ (memWrite_wf _ _ h)
    exact key _ _ (memWrite_wf _ _ h)

/-- What the loader writes keeps the canonical form (R204). -/
theorem loadMem_wf {m : List Host.Cell} (l : Loading) (h : Memory.wf m = true) : Memory.wf (loadMem m l) = true :=
  putGroups_wf _ (memWrite_wf _ _ (memWrite_wf _ _ (memClear_wf _ _ (memClear_wf _ _ h))))

/-! Reads that race (R141). -/

theorem State.blur_wf {s : State} (bs : List Span) (h : Memory.wf s.mem = true) : Memory.wf (s.blur bs).mem = true := by
  unfold State.blur
  induction bs generalizing s with
  | nil => exact h
  | cons b bs ih => exact ih (memWrite_wf _ _ h)

/-- Blurring changes memory and the count of free values alone. -/
theorem State.blur_rest (s : State) (bs : List Span) : { s.blur bs with mem := s.mem, free := s.free } = s := by
  suffices h : ∀ u : State, { bs.foldl (fun t b =>
      { t with mem := memWrite t.mem b.1 ((List.range b.2).map fun i => Config.freeByte (t.free + i)), free := t.free + b.2 }) u with
      mem := s.mem, free := s.free } = { u with mem := s.mem, free := s.free } from h s
  induction bs with
  | nil => intro u; rfl
  | cons b bs ih => intro u; exact ih _

theorem State.unblur_wf {t : State} (s : State) (bs ws : List Span) (h : Memory.wf t.mem = true) :
    Memory.wf (t.unblur s bs ws).mem = true := by
  have hw : ∀ (as : List Nat) (m : List Host.Cell), Memory.wf m = true →
      Memory.wf (as.foldl (fun m a => memWrite m a [memGet s.mem a]) m) = true := by
    intro as
    induction as with
    | nil => exact fun m h => h
    | cons a as ih => exact fun m h => ih _ (memWrite_wf _ _ h)
  have hc : ∀ (bl : List Nat) (u : State), (bl.foldl (fun (u : State) (b : Nat) =>
      { u with chk := SMap.set 0 u.chk b (mkEntry u.mem b (entryCvp (chkGet u b)) (entryStep (chkGet u b))) }) u).mem = u.mem := by
    intro bl
    induction bl with
    | nil => exact fun u => rfl
    | cons b bl ih => exact fun u => ih _
  unfold State.unblur
  simp only [hc]
  exact hw _ _ h

/-- Work that keeps memory canonical does so with bytes that race. -/
theorem State.withRaces_wf {α : Type} {s : State} {k : CoreId} {iter : List W32} {i : Instr} {f : State → Option (State × α)}
    {r : State × α} (h : Memory.wf s.mem = true)
    (hf : ∀ (u : State) (q : State × α), Memory.wf u.mem = true → f u = some q → Memory.wf q.1.mem = true)
    (hr : s.withRaces k iter i f = some r) : Memory.wf r.1.mem = true := by
  simp only [State.withRaces] at hr
  split at hr
  · exact hf s r h hr
  · cases hb : f (s.blur (s.racy k iter i)) with
    | none => simp [hb] at hr
    | some q =>
      simp only [hb, Option.map_some, Option.some.injEq] at hr
      subst hr
      exact State.unblur_wf _ _ _ (hf _ q (State.blur_wf _ h) hb)

/-- Nothing that races: the work itself. -/
theorem State.withRaces_ordered {α : Type} {s : State} {k : CoreId} {iter : List W32} {i : Instr}
    (f : State → Option (State × α)) (h : s.racy k iter i = []) : s.withRaces k iter i f = f s := by
  simp [State.withRaces, h]

/-- The memory of a module after reset lists nothing and is canonical. -/
theorem State.reset_wf : Memory.wf State.reset.mem = true := rfl

end Sys2Proof.Machine
end

