-- ==== Sys2Proof/Laws/Checks.lean ====
section
/-! SUPPORT. Laws of check values (R377-R382): an entry gives back what it was made of, and a block whose entry was made of
its contents verifies. -/

set_option Elab.async false

namespace Sys2Proof.Machine

open Sys2Proof

theorem mkEntry_toNat (m : List Host.Cell) (blk cvp : Nat) (w : W16) :
    (mkEntry m blk cvp w).toNat =
      (crvOf cvp (checkMsg m blk w)).toNat + cvp % 4 * 2 ^ 44 + 2 ^ 46 + w.toNat * 2 ^ 48 := by
  have h1 := (crvOf cvp (checkMsg m blk w)).isLt
  have h2 := w.isLt
  have h3 : cvp % 4 < 4 := Nat.mod_lt _ (by decide)
  unfold mkEntry
  rw [BitVec.toNat_ofNat, Nat.mod_eq_of_lt]
  omega

/-- An entry that was made is valid. -/
theorem entryValid_mkEntry (m : List Host.Cell) (blk cvp : Nat) (w : W16) : entryValid (mkEntry m blk cvp w) = true := by
  have h1 := (crvOf cvp (checkMsg m blk w)).isLt
  have h3 : cvp % 4 < 4 := Nat.mod_lt _ (by decide)
  unfold entryValid
  rw [BitVec.getLsbD, mkEntry_toNat, Nat.testBit_eq_decide_div_mod_eq, decide_eq_true_iff]
  omega

/-- The parts of an entry are those it was made of. -/
theorem entryCvp_mkEntry (m : List Host.Cell) (blk cvp : Nat) (w : W16) : entryCvp (mkEntry m blk cvp w) = cvp % 4 := by
  have h1 := (crvOf cvp (checkMsg m blk w)).isLt
  have h3 : cvp % 4 < 4 := Nat.mod_lt _ (by decide)
  unfold entryCvp bitsAt
  rw [mkEntry_toNat]
  omega

theorem entryStep_mkEntry (m : List Host.Cell) (blk cvp : Nat) (w : W16) : entryStep (mkEntry m blk cvp w) = w := by
  have h1 := (crvOf cvp (checkMsg m blk w)).isLt
  have h2 := w.isLt
  have h3 : cvp % 4 < 4 := Nat.mod_lt _ (by decide)
  unfold entryStep bitsAt
  apply BitVec.eq_of_toNat_eq
  rw [mkEntry_toNat, BitVec.toNat_ofNat]
  omega

theorem entryCrv_mkEntry (m : List Host.Cell) (blk cvp : Nat) (w : W16) :
    entryCrv (mkEntry m blk cvp w) = (crvOf cvp (checkMsg m blk w)).toNat := by
  have h1 := (crvOf cvp (checkMsg m blk w)).isLt
  have h3 : cvp % 4 < 4 := Nat.mod_lt _ (by decide)
  unfold entryCrv bitsAt
  rw [mkEntry_toNat]
  omega

/-- A block whose entry was made of its contents, and whose step check holds, is good (R382). -/
theorem blockFault_none {s : State} {h : Nat} {whole : Bool} {blk cvp : Nat} {w : W16} (hc : cvp < 4)
    (he : chkGet s blk = mkEntry s.mem blk cvp w) (hp : s.mm.poisoned = []) (hs : stepOk s h whole w = true) :
    blockFault s h whole blk = none := by
  unfold blockFault
  simp [he, hp, hs, entryValid_mkEntry, entryCrv_mkEntry, entryCvp_mkEntry, entryStep_mkEntry, Nat.mod_eq_of_lt hc]

/-- What is read is good when every block read is. -/
theorem State.badRead_none {s : State} {rs : List (W16 × List Span)}
    (h : ∀ r ∈ rs, ∀ b ∈ spanBlocks r.2, carriesCheck s (b * 4096) = true →
      blockFault s (s.groupLow r.1) (s.inView (s.desc r.1) b) b = none) : s.badRead rs = none := by
  unfold State.badRead
  rw [List.findSome?_eq_none_iff]
  intro r hr
  rw [List.findSome?_eq_none_iff]
  intro b hb
  split
  · rw [h r hr b hb ‹_›]; rfl
  · rfl

/-- What is written in part is good when every block that is written in part, and holds a valid entry, is. -/
theorem State.badWrite_none {s : State} {ws : List (W16 × List Span)}
    (h : ∀ r ∈ ws, let rs : List Run := r.2.map fun x => (x.1, List.replicate x.2 (0 : Byte))
      ∀ b ∈ runBlocks rs, carriesCheck s (b * 4096) = true → coversBlock rs b = false → entryValid (chkGet s b) = true →
        blockFault s (s.groupLow r.1) (s.inView (s.desc r.1) b) b = none) : s.badWrite ws = none := by
  unfold State.badWrite
  rw [List.findSome?_eq_none_iff]
  intro r hr
  unfold writeFault
  rw [Option.map_eq_none_iff, List.findSome?_eq_none_iff]
  intro b hb
  split
  · rfl
  · rename_i hn
    simp only [not_or, Bool.not_eq_true, Bool.not_eq_false] at hn
    rw [h r hr b hb hn.1 hn.2.1 hn.2.2]; rfl

end Sys2Proof.Machine
end

