-- ==== Sys2Proof/Laws/Ops.lean ====
section
/-! SUPPORT. What the shared operations do: one lemma for each, to be cited instead of its definition. -/

set_option Elab.async false

namespace Sys2Proof.Machine

open Sys2Proof

/-! Cores. -/

/-- A core's record after one was replaced. -/
theorem State.core_setCore (s : State) (k j : CoreId) (c : Core) :
    (s.setCore k c).core j = if j = k then c else s.core j := by
  simp only [State.core, State.setCore, SMap.get_set, Fin.ext_iff]

@[simp] theorem State.core_setCore_self (s : State) (k : CoreId) (c : Core) : (s.setCore k c).core k = c := by
  simp [State.core_setCore]

theorem State.core_setCore_other (s : State) {k j : CoreId} (c : Core) (h : j ≠ k) : (s.setCore k c).core j = s.core j := by
  simp [State.core_setCore, h]

@[simp] theorem State.core_modCore_self (s : State) (k : CoreId) (f : Core → Core) : (s.modCore k f).core k = f (s.core k) := by
  simp [State.modCore]

theorem State.core_modCore_other (s : State) {k j : CoreId} (f : Core → Core) (h : j ≠ k) :
    (s.modCore k f).core j = s.core j := by simp [State.modCore, State.core_setCore, h]

/-- Replacing a record changes nothing beside the records of cores. -/
theorem State.setCore_rest (s : State) (k : CoreId) (c : Core) :
    s.setCore k c = { s with cores := SMap.set Core.zero s.cores k.val c } := rfl

/-! Counting and tracing leave what a program sees. -/

@[simp] theorem Core.count_trc (c : Core) (a n : Nat) : (c.count a n).trc = c.trc := rfl
@[simp] theorem Core.count_vregs (c : Core) (a n : Nat) : (c.count a n).vregs = c.vregs := rfl
@[simp] theorem Core.count_tiles (c : Core) (a n : Nat) : (c.count a n).tiles = c.tiles := rfl
@[simp] theorem Core.count_lt (c : Core) (a n : Nat) : (c.count a n).lt = c.lt := rfl
@[simp] theorem Core.count_gexp (c : Core) (a n : Nat) : (c.count a n).gexp = c.gexp := rfl
@[simp] theorem Core.count_upe (c : Core) (a n : Nat) : (c.count a n).upe = c.upe := rfl
@[simp] theorem Core.count_lcnt (c : Core) (a n : Nat) : (c.count a n).lcnt = c.lcnt := rfl
@[simp] theorem Core.count_loops (c : Core) (a n : Nat) : (c.count a n).loops = c.loops := rfl
@[simp] theorem Core.count_inflight (c : Core) (a n : Nat) : (c.count a n).inflight = c.inflight := rfl

/-- A trace point changes the trace block alone (R484, R485). -/
theorem Core.trace_rest (c : Core) (k : CoreId) (kind engine : Nat) (tag : W32) (iter : List W32) :
    c.trace k kind engine tag iter = { c with trc := (c.trace k kind engine tag iter).trc } := by
  unfold Core.trace
  split
  · split <;> rfl
  · rfl

@[simp] theorem Core.trace_vregs (c : Core) (k : CoreId) (kind engine : Nat) (tag : W32) (iter : List W32) :
    (c.trace k kind engine tag iter).vregs = c.vregs := by rw [Core.trace_rest]
@[simp] theorem Core.trace_tiles (c : Core) (k : CoreId) (kind engine : Nat) (tag : W32) (iter : List W32) :
    (c.trace k kind engine tag iter).tiles = c.tiles := by rw [Core.trace_rest]
@[simp] theorem Core.trace_lt (c : Core) (k : CoreId) (kind engine : Nat) (tag : W32) (iter : List W32) :
    (c.trace k kind engine tag iter).lt = c.lt := by rw [Core.trace_rest]
@[simp] theorem Core.trace_gexp (c : Core) (k : CoreId) (kind engine : Nat) (tag : W32) (iter : List W32) :
    (c.trace k kind engine tag iter).gexp = c.gexp := by rw [Core.trace_rest]
@[simp] theorem Core.trace_upe (c : Core) (k : CoreId) (kind engine : Nat) (tag : W32) (iter : List W32) :
    (c.trace k kind engine tag iter).upe = c.upe := by rw [Core.trace_rest]
@[simp] theorem Core.trace_lcnt (c : Core) (k : CoreId) (kind engine : Nat) (tag : W32) (iter : List W32) :
    (c.trace k kind engine tag iter).lcnt = c.lcnt := by rw [Core.trace_rest]
@[simp] theorem Core.trace_loops (c : Core) (k : CoreId) (kind engine : Nat) (tag : W32) (iter : List W32) :
    (c.trace k kind engine tag iter).loops = c.loops := by rw [Core.trace_rest]
@[simp] theorem Core.trace_inflight (c : Core) (k : CoreId) (kind engine : Nat) (tag : W32) (iter : List W32) :
    (c.trace k kind engine tag iter).inflight = c.inflight := by rw [Core.trace_rest]

/-! Rings (R389, R480). -/

/-- A log entry stands at the end of the ring, which keeps the newest ones. -/
@[simp] theorem State.log_log (s : State) (kind cls : Nat) (payload : List Nat) :
    (s.log kind cls payload).rings.log =
      newestLogs (s.rings.log ++ [⟨kind, cls, s.rings.logNext, s.stepField, s.attemptField, payload⟩]) := rfl

@[simp] theorem State.log_logNext (s : State) (kind cls : Nat) (payload : List Nat) :
    (s.log kind cls payload).rings.logNext = s.rings.logNext + 1 := rfl

@[simp] theorem State.log_fault (s : State) (kind cls : Nat) (payload : List Nat) :
    (s.log kind cls payload).rings.fault = s.rings.fault := rfl

/-- While the ring has room nothing is lost. -/
theorem newestLogs_of_le {l : List LogEnt} (h : l.length ≤ 32768) : newestLogs l = l := by
  simp [newestLogs, List.take_of_length_le, h]

/-- A fault record stands at the end of the ring, or of those that wait where the ring is full (R389). -/
theorem State.raise_spec (s : State) (kind engine : Nat) (core handle : W16) (tag : W32) (iter : List W32) (addr detail : Nat) :
    ∃ r : FaultRec, r.kind = kind ∧ r.engine = engine ∧ r.core = core ∧ r.handle = handle ∧ r.tag = tag ∧ r.seq = s.rings.seq
      ∧ r.addr = BitVec.ofNat 48 addr ∧ r.detail = BitVec.ofNat 64 detail
      ∧ (s.raise kind engine core handle tag iter addr detail).rings =
          (if s.rings.fault.length < 16384 then { s.rings with seq := s.rings.seq + 1, fault := s.rings.fault ++ [r] }
            else { s.rings with seq := s.rings.seq + 1, wait := s.rings.wait ++ [r] }) := by
  unfold State.raise
  extract_lets r rs
  refine ⟨r, rfl, rfl, rfl, rfl, rfl, rfl, rfl, rfl, ?_⟩
  split <;> rfl

/-! Synchronisation objects (R185). -/

theorem State.obj_bump (s : State) (o : W16) (p : Nat) :
    (s.bump o).obj p = if o ≠ 0 ∧ p = o.toNat then s.obj p + 1 else s.obj p := by
  unfold State.bump
  by_cases ho : o = 0
  · rw [if_pos ho, if_neg fun h => h.1 ho]
  · rw [if_neg ho]
    simp only [State.obj, SMap.get_set]
    by_cases hp : p = o.toNat
    · rw [if_pos hp, if_pos ⟨ho, hp⟩, hp]
    · rw [if_neg hp, if_neg fun h => hp h.2]

/-! Registers of the vector engine and of the Long Tally file. -/

theorem Core.vreg_setVreg (c : Core) (v w : VRegId) (r : VReg) : (c.setVreg v r).vreg w = if w = v then r else c.vreg w := by
  simp only [Core.vreg, Core.setVreg, SMap.get_set, Fin.ext_iff]

/-- Sticky bits rise and words stand (R111). -/
theorem Core.stick_spec (c : Core) (v w : VRegId) (f : Fl) :
    ((c.stick v f).vreg w).els = (c.vreg w).els
      ∧ ((c.stick v f).vreg w).ovf = ((c.vreg w).ovf || (decide (w = v) && f.ovf))
      ∧ ((c.stick v f).vreg w).nfin = ((c.vreg w).nfin || (decide (w = v) && f.nfin)) := by
  unfold Core.stick
  rw [Core.vreg_setVreg]
  by_cases h : w = v
  · subst h; simp
  · simp [h]

theorem Core.ltReg_setLt (c : Core) (lane reg l q : Nat) (x : LtEl) :
    (c.setLt lane reg x).ltReg l q = if 4 * l + q = 4 * lane + reg then x else c.ltReg l q := by
  simp only [Core.ltReg, Core.setLt, SMap.get_set]

/-- One Long Tally register changed in every lane, no other. -/
theorem Core.ltReg_updLt (c : Core) (reg : Nat) (f : Nat → LtEl → LtEl) {l q : Nat} (hl : l < 64) (hq : q < 4) :
    (c.updLt reg f).ltReg l q = if q = reg then f l (c.ltReg l q) else c.ltReg l q := by
  have h1 : 4 * l + q < 256 := by omega
  have h2 : (4 * l + q) % 4 = q := by omega
  have h3 : (4 * l + q) / 4 = l := by omega
  simp only [Core.ltReg, Core.updLt, SMap.get_upd, h1, h2, h3, if_true]

/-- The words of a register filled in a view. -/
theorem VReg.get_fill (v : VReg) (view : BitVec 2) (f : Nat → Nat → VVal) (x : Nat) :
    SMap.get VEl.zero (v.fill view f).els x =
      if x < 4096 then
        VEl.mk (BitVec.ofNat 32 ((f (x / 64) (x % 64 / viewLanes view)).bits / 2 ^ (32 * (x % 64 % viewLanes view))))
          (if x % 64 % viewLanes view = 0 then BitVec.ofInt 8 (f (x / 64) (x % 64 / viewLanes view)).wrap else 0)
      else VEl.zero := by
  simp only [VReg.fill, SMap.get_ofFn]

@[simp] theorem VReg.fill_ovf (v : VReg) (view : BitVec 2) (f : Nat → Nat → VVal) : (v.fill view f).ovf = v.ovf := by unfold VReg.fill; dsimp only
@[simp] theorem VReg.fill_nfin (v : VReg) (view : BitVec 2) (f : Nat → Nat → VVal) : (v.fill view f).nfin = v.nfin := by unfold VReg.fill; dsimp only

end Sys2Proof.Machine
end

