-- ==== Sys2Proof/Laws/Issue.lean ====
section
/-! SUPPORT. What the issue of a command comes to (R135, R136): it changes nothing, it waits, it stands in flight, or its
engine runs it. Statements about a command go through these. -/

set_option Elab.async false

namespace Sys2Proof.Machine

open Sys2Proof

/-- A core that does not take a command leaves the state. -/
theorem State.issue_not_taken {s : State} {k : CoreId} (i : Instr) (h : (s.core k).takes = false) : s.issue k i = some s := by
  simp [State.issue, h]

/-- A command that may not issue yet joins those that wait. -/
theorem State.issue_waits {s : State} {k : CoreId} {i : Instr} (ht : (s.core k).takes = true)
    (h : (s.core k).waitq ≠ [] ∨ (s.core k).holdsIssue i = true ∨ s.fetchStalls k = true) :
    s.issue k i = some (s.modCore k fun c => { c with waitq := c.waitq ++ [i] }) := by
  have hc : ¬ (s.core k).waitq.isEmpty = true ∨ (s.core k).holdsIssue i = true ∨ s.fetchStalls k = true := by simpa using h
  simp only [State.issue, ht, not_true_eq_false, if_false, if_pos hc]
  rfl

/-- A command that a core takes now enters. -/
theorem State.issue_enters {s : State} {k : CoreId} {i : Instr} (h : Takes s k i) : s.issue k i = s.enter k i := by
  have hc : ¬ (¬ (s.core k).waitq.isEmpty = true ∨ (s.core k).holdsIssue i = true ∨ s.fetchStalls k = true) := by
    simp [h.first, h.free, h.near]
  simp only [State.issue, h.takes, not_true_eq_false, if_false, if_neg hc, h.fetch]

/-- Commands that LOOP, ENDL and SETC are not: the ones an engine runs. -/
theorem State.enter_engine {s : State} {k : CoreId} {i : Instr} (h : (engOf i).isSome = true) :
    s.enter k i =
      if (s.entered k i).clear k (s.core k).inflight ((s.core k).entryOf i) [] then
        (s.entered k i).dispatchEnt k (s.core k).inflight ((s.core k).entryOf i) []
      else some (s.entered k i) := by
  cases i <;> first | rfl | simp [engOf] at h

/-- No writes to put on record. -/
@[simp] theorem State.addWr_nil (s : State) : s.addWr [] = s := by simp [State.addWr]

/-- An engine that nothing stops runs the command: its effect on the state it sees, and the command's entry. -/
theorem State.runEnt_effect {s : State} {k : CoreId} {pre post : List Ent} {e : Ent} (hv : s.violation k e.iter e.ins = none)
    (hm : s.moveWaits e = false) (hr : s.readFault e = none)
    (hw : s.badWrite (s.writes e.iter e.ins) = none) (hc : s.found k e.ins = none ∨ checked e.ins = false)
    (ho : s.racy k e.iter e.ins = []) (hf : s.overtaken k ((s.wrOf k e.tag e.x e.iter e.ins).flatMap (·.spans)) = []) :
    s.runEnt k pre e post = (effect s k e).map fun r =>
      ((r.1.addWr (s.wrOf k e.tag e.x e.iter e.ins)).putEnt k pre { e with phase := phaseAfter s e, post := r.2 } post).noteDispatch
        k e := by
  unfold State.runEnt
  rw [hv, hm]
  simp only [Bool.false_eq_true, if_false, hr, hw, State.withRaces, ho, hf, List.isEmpty_nil, if_true, List.foldl_nil]
  rcases hc with hc | hc
  · rw [hc]
  · rw [hc]
    cases s.found k e.ins <;> rfl

/-- A ready command: its engine's effect on the state it sees, and its entry in flight. -/
theorem State.issue_ready {s : State} {k : CoreId} {i : Instr} (he : (engOf i).isSome = true) (h : Ready s k i) :
    s.issue k i = (effect (s.seen k i) k ((s.core k).entryOf i)).map fun r =>
      ((r.1.addWr ((s.seen k i).wrOf k (hdrOf i).tag ((s.core k).entryOf i).x (iterOf (s.core k).loops) i)).putEnt k (s.core k).inflight
        { (s.core k).entryOf i with phase := phaseAfter (s.seen k i) ((s.core k).entryOf i), post := r.2 } []).noteDispatch k
          ((s.core k).entryOf i) := by
  rw [State.issue_enters h.issues, State.enter_engine he, if_pos h.runs.clear]
  unfold State.dispatchEnt
  rw [h.runs.stays]
  exact State.runEnt_effect h.runs.rights h.runs.buffers h.runs.reads h.runs.writes h.runs.checks h.runs.ordered h.runs.first

/-- What an answer is a next state of. -/
theorem State.answer_some (t : State) : State.answer (some t) = .next t := rfl

/-- A fetch changes the cache and its count of misses alone (R142). -/
theorem Core.fetch_rest (c : Core) (l : Nat) : c.fetch l = { c with icache := (c.fetch l).icache, evc := (c.fetch l).evc } := by
  unfold Core.fetch
  extract_lets ways
  split <;> rfl

theorem State.fetched_rest (s : State) (k : CoreId) :
    s.fetched k = { s.core k with icache := (s.fetched k).icache, evc := (s.fetched k).evc } := by
  unfold State.fetched
  split
  · exact Core.fetch_rest _ _
  · rfl

/-- A command that issues changes none of the registers of a program. -/
theorem Core.issued_regs (c : Core) (k : CoreId) (i : Instr) :
    (c.issued k i).vregs = c.vregs ∧ (c.issued k i).tiles = c.tiles ∧ (c.issued k i).lt = c.lt ∧ (c.issued k i).gexp = c.gexp
      ∧ (c.issued k i).lcnt = c.lcnt ∧ (c.issued k i).loops = c.loops := by
  simp [Core.issued]

/-- The state an engine sees differs from the one before in the core's counters, traces and in-flight set alone. -/
theorem State.seen_core (s : State) (k : CoreId) (i : Instr) :
    ((s.seen k i).core k).vregs = (s.core k).vregs ∧ ((s.seen k i).core k).tiles = (s.core k).tiles
      ∧ ((s.seen k i).core k).lt = (s.core k).lt ∧ ((s.seen k i).core k).gexp = (s.core k).gexp
      ∧ ((s.seen k i).core k).lcnt = (s.core k).lcnt ∧ ((s.seen k i).core k).loops = (s.core k).loops := by
  simp only [State.seen, State.started, State.entered, State.core_modCore_self, State.core_setCore_self, Core.count_vregs, Core.trace_vregs,
    Core.count_tiles, Core.trace_tiles, Core.count_lt, Core.trace_lt, Core.count_gexp, Core.trace_gexp, Core.count_lcnt, Core.trace_lcnt,
    Core.count_loops, Core.trace_loops, (Core.issued_regs _ k i).1, (Core.issued_regs _ k i).2.1, (Core.issued_regs _ k i).2.2.1,
    (Core.issued_regs _ k i).2.2.2.1, (Core.issued_regs _ k i).2.2.2.2.1, (Core.issued_regs _ k i).2.2.2.2.2]
  rw [State.fetched_rest]
  exact ⟨rfl, rfl, rfl, rfl, rfl, rfl⟩

theorem State.seen_rest (s : State) (k : CoreId) (i : Instr) : { s.seen k i with cores := s.cores } = s := rfl

end Sys2Proof.Machine
end

