-- ==== Sys2Proof/Laws/Links.lean ====
section
/-! SUPPORT. What sending a control message can do (R260): it queues packets at ports, and nothing else. -/

set_option Elab.async false

namespace Sys2Proof.Machine

open Sys2Proof

/-- Two states that differ in their ports at most. -/
def OnlyPorts (s t : State) : Prop := { t with lnk := { t.lnk with ports := s.lnk.ports } } = s

theorem OnlyPorts.refl (s : State) : OnlyPorts s s := rfl

theorem OnlyPorts.trans {s t u : State} (h : OnlyPorts s t) (g : OnlyPorts t u) : OnlyPorts s u := by
  unfold OnlyPorts at *
  rw [← h]
  conv => rhs; rw [← g]

theorem onlyPorts_modPort (s : State) (p : Nat) (f : Port → Port) : OnlyPorts s (s.modPort p f) := rfl

/-- A fold of operations that change ports only. -/
theorem onlyPorts_foldl {α : Type} (f : State → α → State) (h : ∀ s x, OnlyPorts s (f s x)) :
    ∀ (xs : List α) (s : State), OnlyPorts s (xs.foldl f s)
  | [], s => .refl s
  | x :: xs, s => (h s x).trans (onlyPorts_foldl f h xs (f s x))

theorem onlyPorts_forwardTo (s : State) (pkt : CtlPacket) (b : Nat) : OnlyPorts s (s.forwardTo pkt b) := by
  simp only [State.forwardTo]
  split
  · exact .refl s
  · exact onlyPorts_modPort ..

theorem onlyPorts_castTo (s : State) (pkt : CtlPacket) (b : Nat) : OnlyPorts s (s.castTo pkt b) := by
  simp only [State.castTo]
  split
  · exact onlyPorts_forwardTo ..
  · split
    · exact onlyPorts_forwardTo ..
    · exact onlyPorts_foldl _ (fun _ _ => onlyPorts_forwardTo ..) _ _

/-- Sending a message to one module or to all. -/
theorem onlyPorts_sendCtl (s : State) (dest : W16) (m : CtlMsg) : OnlyPorts s (s.sendCtl dest m) := by
  simp only [State.sendCtl]
  split
  · exact onlyPorts_foldl _ (fun _ _ => onlyPorts_castTo ..) _ _
  · split
    · exact .refl s
    · exact onlyPorts_forwardTo ..

/-- The source of a restore (R305). -/
theorem onlyPorts_sendRestore (s : State) : OnlyPorts s s.sendRestore :=
  onlyPorts_foldl _ (fun _ _ => onlyPorts_foldl _ (fun _ _ => onlyPorts_sendCtl ..) _ _) _ _

end Sys2Proof.Machine
end

