-- ==== Sys2Proof/Laws/State.lean ====
section
/-! SUPPORT. What the shared operations leave of a state: one lemma per operation and field that it does not change. -/

set_option Elab.async false

namespace Sys2Proof.Machine

open Sys2Proof

/-- What every step of a fold keeps, the fold keeps. -/
theorem foldl_keeps {α β γ : Type} (g : β → γ) (f : β → α → β) (h : ∀ b a, g (f b a) = g b) : ∀ (xs : List α) (b : β), g (xs.foldl f b) = g b
  | [], _ => rfl
  | x :: xs, b => (foldl_keeps g f h xs (f b x)).trans (h b x)

/-- Posting a reply changes the host interface alone, once its data have their place. -/
theorem State.postReply_eq (s : State) (r : Reply) : s.postReply r = { (s.byRef r).1 with hif := (s.postReply r).hif } := by
  unfold State.postReply
  generalize s.byRef r = x
  obtain ⟨t, q⟩ := x
  dsimp only
  split <;> rfl

@[simp] theorem State.setCore_mem (s : State) (k : CoreId) (c : Core) : (s.setCore k c).mem = s.mem := rfl
@[simp] theorem State.setCore_chk (s : State) (k : CoreId) (c : Core) : (s.setCore k c).chk = s.chk := rfl
@[simp] theorem State.setCore_fws (s : State) (k : CoreId) (c : Core) : (s.setCore k c).fws = s.fws := rfl
@[simp] theorem State.setCore_lws (s : State) (k : CoreId) (c : Core) : (s.setCore k c).lws = s.lws := rfl
@[simp] theorem State.setCore_stepBase (s : State) (k : CoreId) (c : Core) : (s.setCore k c).stepBase = s.stepBase := rfl
@[simp] theorem State.setCore_stepFirst (s : State) (k : CoreId) (c : Core) : (s.setCore k c).stepFirst = s.stepFirst := rfl
@[simp] theorem State.setCore_fwsAt (s : State) (k : CoreId) (c : Core) : (s.setCore k c).fwsAt = s.fwsAt := rfl
@[simp] theorem State.setCore_mm (s : State) (k : CoreId) (c : Core) : (s.setCore k c).mm = s.mm := rfl
@[simp] theorem State.setCore_job (s : State) (k : CoreId) (c : Core) : (s.setCore k c).job = s.job := rfl
@[simp] theorem State.setCore_stp (s : State) (k : CoreId) (c : Core) : (s.setCore k c).stp = s.stp := rfl
@[simp] theorem State.setCore_scc (s : State) (k : CoreId) (c : Core) : (s.setCore k c).scc = s.scc := rfl
@[simp] theorem State.setCore_rings (s : State) (k : CoreId) (c : Core) : (s.setCore k c).rings = s.rings := rfl
@[simp] theorem State.setCore_lnk (s : State) (k : CoreId) (c : Core) : (s.setCore k c).lnk = s.lnk := rfl
@[simp] theorem State.setCore_mon (s : State) (k : CoreId) (c : Core) : (s.setCore k c).mon = s.mon := rfl
@[simp] theorem State.setCore_outq (s : State) (k : CoreId) (c : Core) : (s.setCore k c).outq = s.outq := rfl
@[simp] theorem State.setCore_sec (s : State) (k : CoreId) (c : Core) : (s.setCore k c).sec = s.sec := rfl
@[simp] theorem State.setCore_nvm (s : State) (k : CoreId) (c : Core) : (s.setCore k c).nvm = s.nvm := rfl
@[simp] theorem State.setCore_hif (s : State) (k : CoreId) (c : Core) : (s.setCore k c).hif = s.hif := rfl
@[simp] theorem State.setCore_blw (s : State) (k : CoreId) (c : Core) : (s.setCore k c).blw = s.blw := rfl
@[simp] theorem State.setCore_rst (s : State) (k : CoreId) (c : Core) : (s.setCore k c).rst = s.rst := rfl
@[simp] theorem State.setCore_tst (s : State) (k : CoreId) (c : Core) : (s.setCore k c).tst = s.tst := rfl
@[simp] theorem State.setCore_race (s : State) (k : CoreId) (c : Core) : (s.setCore k c).race = s.race := rfl
@[simp] theorem State.setCore_draws (s : State) (k : CoreId) (c : Core) : (s.setCore k c).draws = s.draws := rfl
@[simp] theorem State.setCore_free (s : State) (k : CoreId) (c : Core) : (s.setCore k c).free = s.free := rfl
@[simp] theorem State.setCore_pending (s : State) (k : CoreId) (c : Core) : (s.setCore k c).pending = s.pending := rfl
@[simp] theorem State.modCore_mem (s : State) (k : CoreId) (f : Core → Core) : (s.modCore k f).mem = s.mem := rfl
@[simp] theorem State.modCore_chk (s : State) (k : CoreId) (f : Core → Core) : (s.modCore k f).chk = s.chk := rfl
@[simp] theorem State.modCore_fws (s : State) (k : CoreId) (f : Core → Core) : (s.modCore k f).fws = s.fws := rfl
@[simp] theorem State.modCore_lws (s : State) (k : CoreId) (f : Core → Core) : (s.modCore k f).lws = s.lws := rfl
@[simp] theorem State.modCore_stepBase (s : State) (k : CoreId) (f : Core → Core) :
    (s.modCore k f).stepBase = s.stepBase := rfl
@[simp] theorem State.modCore_stepFirst (s : State) (k : CoreId) (f : Core → Core) :
    (s.modCore k f).stepFirst = s.stepFirst := rfl
@[simp] theorem State.modCore_fwsAt (s : State) (k : CoreId) (f : Core → Core) : (s.modCore k f).fwsAt = s.fwsAt := rfl
@[simp] theorem State.modCore_mm (s : State) (k : CoreId) (f : Core → Core) : (s.modCore k f).mm = s.mm := rfl
@[simp] theorem State.modCore_job (s : State) (k : CoreId) (f : Core → Core) : (s.modCore k f).job = s.job := rfl
@[simp] theorem State.modCore_stp (s : State) (k : CoreId) (f : Core → Core) : (s.modCore k f).stp = s.stp := rfl
@[simp] theorem State.modCore_scc (s : State) (k : CoreId) (f : Core → Core) : (s.modCore k f).scc = s.scc := rfl
@[simp] theorem State.modCore_rings (s : State) (k : CoreId) (f : Core → Core) : (s.modCore k f).rings = s.rings := rfl
@[simp] theorem State.modCore_lnk (s : State) (k : CoreId) (f : Core → Core) : (s.modCore k f).lnk = s.lnk := rfl
@[simp] theorem State.modCore_mon (s : State) (k : CoreId) (f : Core → Core) : (s.modCore k f).mon = s.mon := rfl
@[simp] theorem State.modCore_outq (s : State) (k : CoreId) (f : Core → Core) : (s.modCore k f).outq = s.outq := rfl
@[simp] theorem State.modCore_sec (s : State) (k : CoreId) (f : Core → Core) : (s.modCore k f).sec = s.sec := rfl
@[simp] theorem State.modCore_nvm (s : State) (k : CoreId) (f : Core → Core) : (s.modCore k f).nvm = s.nvm := rfl
@[simp] theorem State.modCore_hif (s : State) (k : CoreId) (f : Core → Core) : (s.modCore k f).hif = s.hif := rfl
@[simp] theorem State.modCore_blw (s : State) (k : CoreId) (f : Core → Core) : (s.modCore k f).blw = s.blw := rfl
@[simp] theorem State.modCore_rst (s : State) (k : CoreId) (f : Core → Core) : (s.modCore k f).rst = s.rst := rfl
@[simp] theorem State.modCore_tst (s : State) (k : CoreId) (f : Core → Core) : (s.modCore k f).tst = s.tst := rfl
@[simp] theorem State.modCore_race (s : State) (k : CoreId) (f : Core → Core) : (s.modCore k f).race = s.race := rfl
@[simp] theorem State.modCore_draws (s : State) (k : CoreId) (f : Core → Core) : (s.modCore k f).draws = s.draws := rfl
@[simp] theorem State.modCore_free (s : State) (k : CoreId) (f : Core → Core) : (s.modCore k f).free = s.free := rfl
@[simp] theorem State.modCore_pending (s : State) (k : CoreId) (f : Core → Core) :
    (s.modCore k f).pending = s.pending := rfl
@[simp] theorem State.log_mem (s : State) (kind cls : Nat) (payload : List Nat) :
    (s.log kind cls payload).mem = s.mem := rfl
@[simp] theorem State.log_chk (s : State) (kind cls : Nat) (payload : List Nat) :
    (s.log kind cls payload).chk = s.chk := rfl
@[simp] theorem State.log_fws (s : State) (kind cls : Nat) (payload : List Nat) :
    (s.log kind cls payload).fws = s.fws := rfl
@[simp] theorem State.log_lws (s : State) (kind cls : Nat) (payload : List Nat) :
    (s.log kind cls payload).lws = s.lws := rfl
@[simp] theorem State.log_stepBase (s : State) (kind cls : Nat) (payload : List Nat) :
    (s.log kind cls payload).stepBase = s.stepBase := rfl
@[simp] theorem State.log_stepFirst (s : State) (kind cls : Nat) (payload : List Nat) :
    (s.log kind cls payload).stepFirst = s.stepFirst := rfl
@[simp] theorem State.log_fwsAt (s : State) (kind cls : Nat) (payload : List Nat) :
    (s.log kind cls payload).fwsAt = s.fwsAt := rfl
@[simp] theorem State.log_mm (s : State) (kind cls : Nat) (payload : List Nat) : (s.log kind cls payload).mm = s.mm := rfl
@[simp] theorem State.log_cores (s : State) (kind cls : Nat) (payload : List Nat) :
    (s.log kind cls payload).cores = s.cores := rfl
@[simp] theorem State.log_job (s : State) (kind cls : Nat) (payload : List Nat) :
    (s.log kind cls payload).job = s.job := rfl
@[simp] theorem State.log_stp (s : State) (kind cls : Nat) (payload : List Nat) :
    (s.log kind cls payload).stp = s.stp := rfl
@[simp] theorem State.log_scc (s : State) (kind cls : Nat) (payload : List Nat) :
    (s.log kind cls payload).scc = s.scc := rfl
@[simp] theorem State.log_lnk (s : State) (kind cls : Nat) (payload : List Nat) :
    (s.log kind cls payload).lnk = s.lnk := rfl
@[simp] theorem State.log_mon (s : State) (kind cls : Nat) (payload : List Nat) :
    (s.log kind cls payload).mon = s.mon := rfl
@[simp] theorem State.log_outq (s : State) (kind cls : Nat) (payload : List Nat) :
    (s.log kind cls payload).outq = s.outq := rfl
@[simp] theorem State.log_sec (s : State) (kind cls : Nat) (payload : List Nat) :
    (s.log kind cls payload).sec = s.sec := rfl
@[simp] theorem State.log_nvm (s : State) (kind cls : Nat) (payload : List Nat) :
    (s.log kind cls payload).nvm = s.nvm := rfl
@[simp] theorem State.log_hif (s : State) (kind cls : Nat) (payload : List Nat) :
    (s.log kind cls payload).hif = s.hif := rfl
@[simp] theorem State.log_blw (s : State) (kind cls : Nat) (payload : List Nat) :
    (s.log kind cls payload).blw = s.blw := rfl
@[simp] theorem State.log_rst (s : State) (kind cls : Nat) (payload : List Nat) :
    (s.log kind cls payload).rst = s.rst := rfl
@[simp] theorem State.log_tst (s : State) (kind cls : Nat) (payload : List Nat) :
    (s.log kind cls payload).tst = s.tst := rfl
@[simp] theorem State.log_race (s : State) (kind cls : Nat) (payload : List Nat) :
    (s.log kind cls payload).race = s.race := rfl
@[simp] theorem State.log_draws (s : State) (kind cls : Nat) (payload : List Nat) :
    (s.log kind cls payload).draws = s.draws := rfl
@[simp] theorem State.log_free (s : State) (kind cls : Nat) (payload : List Nat) :
    (s.log kind cls payload).free = s.free := rfl
@[simp] theorem State.log_pending (s : State) (kind cls : Nat) (payload : List Nat) :
    (s.log kind cls payload).pending = s.pending := rfl
@[simp] theorem State.mcount_mem (s : State) (src n : Nat) : (s.mcount src n).mem = s.mem := rfl
@[simp] theorem State.mcount_chk (s : State) (src n : Nat) : (s.mcount src n).chk = s.chk := rfl
@[simp] theorem State.mcount_fws (s : State) (src n : Nat) : (s.mcount src n).fws = s.fws := rfl
@[simp] theorem State.mcount_lws (s : State) (src n : Nat) : (s.mcount src n).lws = s.lws := rfl
@[simp] theorem State.mcount_stepBase (s : State) (src n : Nat) : (s.mcount src n).stepBase = s.stepBase := rfl
@[simp] theorem State.mcount_stepFirst (s : State) (src n : Nat) : (s.mcount src n).stepFirst = s.stepFirst := rfl
@[simp] theorem State.mcount_fwsAt (s : State) (src n : Nat) : (s.mcount src n).fwsAt = s.fwsAt := rfl
@[simp] theorem State.mcount_mm (s : State) (src n : Nat) : (s.mcount src n).mm = s.mm := rfl
@[simp] theorem State.mcount_cores (s : State) (src n : Nat) : (s.mcount src n).cores = s.cores := rfl
@[simp] theorem State.mcount_job (s : State) (src n : Nat) : (s.mcount src n).job = s.job := rfl
@[simp] theorem State.mcount_stp (s : State) (src n : Nat) : (s.mcount src n).stp = s.stp := rfl
@[simp] theorem State.mcount_scc (s : State) (src n : Nat) : (s.mcount src n).scc = s.scc := rfl
@[simp] theorem State.mcount_rings (s : State) (src n : Nat) : (s.mcount src n).rings = s.rings := rfl
@[simp] theorem State.mcount_lnk (s : State) (src n : Nat) : (s.mcount src n).lnk = s.lnk := rfl
@[simp] theorem State.mcount_outq (s : State) (src n : Nat) : (s.mcount src n).outq = s.outq := rfl
@[simp] theorem State.mcount_sec (s : State) (src n : Nat) : (s.mcount src n).sec = s.sec := rfl
@[simp] theorem State.mcount_nvm (s : State) (src n : Nat) : (s.mcount src n).nvm = s.nvm := rfl
@[simp] theorem State.mcount_hif (s : State) (src n : Nat) : (s.mcount src n).hif = s.hif := rfl
@[simp] theorem State.mcount_blw (s : State) (src n : Nat) : (s.mcount src n).blw = s.blw := rfl
@[simp] theorem State.mcount_rst (s : State) (src n : Nat) : (s.mcount src n).rst = s.rst := rfl
@[simp] theorem State.mcount_tst (s : State) (src n : Nat) : (s.mcount src n).tst = s.tst := rfl
@[simp] theorem State.mcount_race (s : State) (src n : Nat) : (s.mcount src n).race = s.race := rfl
@[simp] theorem State.mcount_draws (s : State) (src n : Nat) : (s.mcount src n).draws = s.draws := rfl
@[simp] theorem State.mcount_free (s : State) (src n : Nat) : (s.mcount src n).free = s.free := rfl
@[simp] theorem State.mcount_pending (s : State) (src n : Nat) : (s.mcount src n).pending = s.pending := rfl
@[simp] theorem State.mtrace_mem (s : State) (kind : Nat) (tag : W32) :
    (s.mtrace kind tag).mem = s.mem := by unfold State.mtrace; split <;> [exact State.log_mem _ _ _ _; rfl]
@[simp] theorem State.mtrace_chk (s : State) (kind : Nat) (tag : W32) :
    (s.mtrace kind tag).chk = s.chk := by unfold State.mtrace; split <;> [exact State.log_chk _ _ _ _; rfl]
@[simp] theorem State.mtrace_fws (s : State) (kind : Nat) (tag : W32) :
    (s.mtrace kind tag).fws = s.fws := by unfold State.mtrace; split <;> [exact State.log_fws _ _ _ _; rfl]
@[simp] theorem State.mtrace_lws (s : State) (kind : Nat) (tag : W32) :
    (s.mtrace kind tag).lws = s.lws := by unfold State.mtrace; split <;> [exact State.log_lws _ _ _ _; rfl]
@[simp] theorem State.mtrace_stepBase (s : State) (kind : Nat) (tag : W32) :
    (s.mtrace kind tag).stepBase = s.stepBase := by unfold State.mtrace; split <;> [exact State.log_stepBase _ _ _ _; rfl]
@[simp] theorem State.mtrace_stepFirst (s : State) (kind : Nat) (tag : W32) :
    (s.mtrace kind tag).stepFirst = s.stepFirst := by unfold State.mtrace; split <;> [exact State.log_stepFirst _ _ _ _; rfl]
@[simp] theorem State.mtrace_fwsAt (s : State) (kind : Nat) (tag : W32) :
    (s.mtrace kind tag).fwsAt = s.fwsAt := by unfold State.mtrace; split <;> [exact State.log_fwsAt _ _ _ _; rfl]
@[simp] theorem State.mtrace_mm (s : State) (kind : Nat) (tag : W32) :
    (s.mtrace kind tag).mm = s.mm := by unfold State.mtrace; split <;> [exact State.log_mm _ _ _ _; rfl]
@[simp] theorem State.mtrace_cores (s : State) (kind : Nat) (tag : W32) :
    (s.mtrace kind tag).cores = s.cores := by unfold State.mtrace; split <;> [exact State.log_cores _ _ _ _; rfl]
@[simp] theorem State.mtrace_job (s : State) (kind : Nat) (tag : W32) :
    (s.mtrace kind tag).job = s.job := by unfold State.mtrace; split <;> [exact State.log_job _ _ _ _; rfl]
@[simp] theorem State.mtrace_stp (s : State) (kind : Nat) (tag : W32) :
    (s.mtrace kind tag).stp = s.stp := by unfold State.mtrace; split <;> [exact State.log_stp _ _ _ _; rfl]
@[simp] theorem State.mtrace_scc (s : State) (kind : Nat) (tag : W32) :
    (s.mtrace kind tag).scc = s.scc := by unfold State.mtrace; split <;> [exact State.log_scc _ _ _ _; rfl]
@[simp] theorem State.mtrace_lnk (s : State) (kind : Nat) (tag : W32) :
    (s.mtrace kind tag).lnk = s.lnk := by unfold State.mtrace; split <;> [exact State.log_lnk _ _ _ _; rfl]
@[simp] theorem State.mtrace_mon (s : State) (kind : Nat) (tag : W32) :
    (s.mtrace kind tag).mon = s.mon := by unfold State.mtrace; split <;> [exact State.log_mon _ _ _ _; rfl]
@[simp] theorem State.mtrace_outq (s : State) (kind : Nat) (tag : W32) :
    (s.mtrace kind tag).outq = s.outq := by unfold State.mtrace; split <;> [exact State.log_outq _ _ _ _; rfl]
@[simp] theorem State.mtrace_sec (s : State) (kind : Nat) (tag : W32) :
    (s.mtrace kind tag).sec = s.sec := by unfold State.mtrace; split <;> [exact State.log_sec _ _ _ _; rfl]
@[simp] theorem State.mtrace_nvm (s : State) (kind : Nat) (tag : W32) :
    (s.mtrace kind tag).nvm = s.nvm := by unfold State.mtrace; split <;> [exact State.log_nvm _ _ _ _; rfl]
@[simp] theorem State.mtrace_hif (s : State) (kind : Nat) (tag : W32) :
    (s.mtrace kind tag).hif = s.hif := by unfold State.mtrace; split <;> [exact State.log_hif _ _ _ _; rfl]
@[simp] theorem State.mtrace_blw (s : State) (kind : Nat) (tag : W32) :
    (s.mtrace kind tag).blw = s.blw := by unfold State.mtrace; split <;> [exact State.log_blw _ _ _ _; rfl]
@[simp] theorem State.mtrace_rst (s : State) (kind : Nat) (tag : W32) :
    (s.mtrace kind tag).rst = s.rst := by unfold State.mtrace; split <;> [exact State.log_rst _ _ _ _; rfl]
@[simp] theorem State.mtrace_tst (s : State) (kind : Nat) (tag : W32) :
    (s.mtrace kind tag).tst = s.tst := by unfold State.mtrace; split <;> [exact State.log_tst _ _ _ _; rfl]
@[simp] theorem State.mtrace_race (s : State) (kind : Nat) (tag : W32) :
    (s.mtrace kind tag).race = s.race := by unfold State.mtrace; split <;> [exact State.log_race _ _ _ _; rfl]
@[simp] theorem State.mtrace_draws (s : State) (kind : Nat) (tag : W32) :
    (s.mtrace kind tag).draws = s.draws := by unfold State.mtrace; split <;> [exact State.log_draws _ _ _ _; rfl]
@[simp] theorem State.mtrace_free (s : State) (kind : Nat) (tag : W32) :
    (s.mtrace kind tag).free = s.free := by unfold State.mtrace; split <;> [exact State.log_free _ _ _ _; rfl]
@[simp] theorem State.mtrace_pending (s : State) (kind : Nat) (tag : W32) :
    (s.mtrace kind tag).pending = s.pending := by unfold State.mtrace; split <;> [exact State.log_pending _ _ _ _; rfl]
@[simp] theorem State.raise_mem (s : State) (kind engine : Nat) (core handle : W16) (tag : W32) (iter : List W32) (addr detail : Nat) :
    (s.raise kind engine core handle tag iter addr detail).mem = s.mem := by unfold State.raise; extract_lets; split <;> rfl
@[simp] theorem State.raise_chk (s : State) (kind engine : Nat) (core handle : W16) (tag : W32) (iter : List W32) (addr detail : Nat) :
    (s.raise kind engine core handle tag iter addr detail).chk = s.chk := by unfold State.raise; extract_lets; split <;> rfl
@[simp] theorem State.raise_fws (s : State) (kind engine : Nat) (core handle : W16) (tag : W32) (iter : List W32) (addr detail : Nat) :
    (s.raise kind engine core handle tag iter addr detail).fws = s.fws := by unfold State.raise; extract_lets; split <;> rfl
@[simp] theorem State.raise_lws (s : State) (kind engine : Nat) (core handle : W16) (tag : W32) (iter : List W32) (addr detail : Nat) :
    (s.raise kind engine core handle tag iter addr detail).lws = s.lws := by unfold State.raise; extract_lets; split <;> rfl
@[simp] theorem State.raise_stepBase (s : State) (kind engine : Nat) (core handle : W16) (tag : W32) (iter : List W32) (addr detail : Nat) :
    (s.raise kind engine core handle tag iter addr detail).stepBase = s.stepBase := by unfold State.raise; extract_lets; split <;> rfl
@[simp] theorem State.raise_stepFirst (s : State) (kind engine : Nat) (core handle : W16) (tag : W32) (iter : List W32) (addr detail : Nat) :
    (s.raise kind engine core handle tag iter addr detail).stepFirst = s.stepFirst := by unfold State.raise; extract_lets; split <;> rfl
@[simp] theorem State.raise_fwsAt (s : State) (kind engine : Nat) (core handle : W16) (tag : W32) (iter : List W32) (addr detail : Nat) :
    (s.raise kind engine core handle tag iter addr detail).fwsAt = s.fwsAt := by unfold State.raise; extract_lets; split <;> rfl
@[simp] theorem State.raise_mm (s : State) (kind engine : Nat) (core handle : W16) (tag : W32) (iter : List W32) (addr detail : Nat) :
    (s.raise kind engine core handle tag iter addr detail).mm = s.mm := by unfold State.raise; extract_lets; split <;> rfl
@[simp] theorem State.raise_cores (s : State) (kind engine : Nat) (core handle : W16) (tag : W32) (iter : List W32) (addr detail : Nat) :
    (s.raise kind engine core handle tag iter addr detail).cores = s.cores := by unfold State.raise; extract_lets; split <;> rfl
@[simp] theorem State.raise_job (s : State) (kind engine : Nat) (core handle : W16) (tag : W32) (iter : List W32) (addr detail : Nat) :
    (s.raise kind engine core handle tag iter addr detail).job = s.job := by unfold State.raise; extract_lets; split <;> rfl
@[simp] theorem State.raise_stp (s : State) (kind engine : Nat) (core handle : W16) (tag : W32) (iter : List W32) (addr detail : Nat) :
    (s.raise kind engine core handle tag iter addr detail).stp = s.stp := by unfold State.raise; extract_lets; split <;> rfl
@[simp] theorem State.raise_scc (s : State) (kind engine : Nat) (core handle : W16) (tag : W32) (iter : List W32) (addr detail : Nat) :
    (s.raise kind engine core handle tag iter addr detail).scc = s.scc := by unfold State.raise; extract_lets; split <;> rfl
@[simp] theorem State.raise_lnk (s : State) (kind engine : Nat) (core handle : W16) (tag : W32) (iter : List W32) (addr detail : Nat) :
    (s.raise kind engine core handle tag iter addr detail).lnk = s.lnk := by unfold State.raise; extract_lets; split <;> rfl
@[simp] theorem State.raise_mon (s : State) (kind engine : Nat) (core handle : W16) (tag : W32) (iter : List W32) (addr detail : Nat) :
    (s.raise kind engine core handle tag iter addr detail).mon = s.mon := by unfold State.raise; extract_lets; split <;> rfl
@[simp] theorem State.raise_outq (s : State) (kind engine : Nat) (core handle : W16) (tag : W32) (iter : List W32) (addr detail : Nat) :
    (s.raise kind engine core handle tag iter addr detail).outq = s.outq := by unfold State.raise; extract_lets; split <;> rfl
@[simp] theorem State.raise_sec (s : State) (kind engine : Nat) (core handle : W16) (tag : W32) (iter : List W32) (addr detail : Nat) :
    (s.raise kind engine core handle tag iter addr detail).sec = s.sec := by unfold State.raise; extract_lets; split <;> rfl
@[simp] theorem State.raise_nvm (s : State) (kind engine : Nat) (core handle : W16) (tag : W32) (iter : List W32) (addr detail : Nat) :
    (s.raise kind engine core handle tag iter addr detail).nvm = s.nvm := by unfold State.raise; extract_lets; split <;> rfl
@[simp] theorem State.raise_hif (s : State) (kind engine : Nat) (core handle : W16) (tag : W32) (iter : List W32) (addr detail : Nat) :
    (s.raise kind engine core handle tag iter addr detail).hif = s.hif := by unfold State.raise; extract_lets; split <;> rfl
@[simp] theorem State.raise_blw (s : State) (kind engine : Nat) (core handle : W16) (tag : W32) (iter : List W32) (addr detail : Nat) :
    (s.raise kind engine core handle tag iter addr detail).blw = s.blw := by unfold State.raise; extract_lets; split <;> rfl
@[simp] theorem State.raise_rst (s : State) (kind engine : Nat) (core handle : W16) (tag : W32) (iter : List W32) (addr detail : Nat) :
    (s.raise kind engine core handle tag iter addr detail).rst = s.rst := by unfold State.raise; extract_lets; split <;> rfl
@[simp] theorem State.raise_tst (s : State) (kind engine : Nat) (core handle : W16) (tag : W32) (iter : List W32) (addr detail : Nat) :
    (s.raise kind engine core handle tag iter addr detail).tst = s.tst := by unfold State.raise; extract_lets; split <;> rfl
@[simp] theorem State.raise_race (s : State) (kind engine : Nat) (core handle : W16) (tag : W32) (iter : List W32) (addr detail : Nat) :
    (s.raise kind engine core handle tag iter addr detail).race = s.race := by unfold State.raise; extract_lets; split <;> rfl
@[simp] theorem State.raise_draws (s : State) (kind engine : Nat) (core handle : W16) (tag : W32) (iter : List W32) (addr detail : Nat) :
    (s.raise kind engine core handle tag iter addr detail).draws = s.draws := by unfold State.raise; extract_lets; split <;> rfl
@[simp] theorem State.raise_free (s : State) (kind engine : Nat) (core handle : W16) (tag : W32) (iter : List W32) (addr detail : Nat) :
    (s.raise kind engine core handle tag iter addr detail).free = s.free := by unfold State.raise; extract_lets; split <;> rfl
@[simp] theorem State.raise_pending (s : State) (kind engine : Nat) (core handle : W16) (tag : W32) (iter : List W32) (addr detail : Nat) :
    (s.raise kind engine core handle tag iter addr detail).pending = s.pending := by unfold State.raise; extract_lets; split <;> rfl
@[simp] theorem State.vector_mem (s : State) (v : Nat) : (s.vector v).mem = s.mem := rfl
@[simp] theorem State.vector_chk (s : State) (v : Nat) : (s.vector v).chk = s.chk := rfl
@[simp] theorem State.vector_fws (s : State) (v : Nat) : (s.vector v).fws = s.fws := rfl
@[simp] theorem State.vector_lws (s : State) (v : Nat) : (s.vector v).lws = s.lws := rfl
@[simp] theorem State.vector_stepBase (s : State) (v : Nat) : (s.vector v).stepBase = s.stepBase := rfl
@[simp] theorem State.vector_stepFirst (s : State) (v : Nat) : (s.vector v).stepFirst = s.stepFirst := rfl
@[simp] theorem State.vector_fwsAt (s : State) (v : Nat) : (s.vector v).fwsAt = s.fwsAt := rfl
@[simp] theorem State.vector_mm (s : State) (v : Nat) : (s.vector v).mm = s.mm := rfl
@[simp] theorem State.vector_cores (s : State) (v : Nat) : (s.vector v).cores = s.cores := rfl
@[simp] theorem State.vector_job (s : State) (v : Nat) : (s.vector v).job = s.job := rfl
@[simp] theorem State.vector_stp (s : State) (v : Nat) : (s.vector v).stp = s.stp := rfl
@[simp] theorem State.vector_scc (s : State) (v : Nat) : (s.vector v).scc = s.scc := rfl
@[simp] theorem State.vector_rings (s : State) (v : Nat) : (s.vector v).rings = s.rings := rfl
@[simp] theorem State.vector_lnk (s : State) (v : Nat) : (s.vector v).lnk = s.lnk := rfl
@[simp] theorem State.vector_mon (s : State) (v : Nat) : (s.vector v).mon = s.mon := rfl
@[simp] theorem State.vector_outq (s : State) (v : Nat) : (s.vector v).outq = s.outq := rfl
@[simp] theorem State.vector_sec (s : State) (v : Nat) : (s.vector v).sec = s.sec := rfl
@[simp] theorem State.vector_nvm (s : State) (v : Nat) : (s.vector v).nvm = s.nvm := rfl
@[simp] theorem State.vector_blw (s : State) (v : Nat) : (s.vector v).blw = s.blw := rfl
@[simp] theorem State.vector_rst (s : State) (v : Nat) : (s.vector v).rst = s.rst := rfl
@[simp] theorem State.vector_tst (s : State) (v : Nat) : (s.vector v).tst = s.tst := rfl
@[simp] theorem State.vector_race (s : State) (v : Nat) : (s.vector v).race = s.race := rfl
@[simp] theorem State.vector_draws (s : State) (v : Nat) : (s.vector v).draws = s.draws := rfl
@[simp] theorem State.vector_free (s : State) (v : Nat) : (s.vector v).free = s.free := rfl
@[simp] theorem State.vector_pending (s : State) (v : Nat) : (s.vector v).pending = s.pending := rfl
@[simp] theorem State.clearMasks_mem (s : State) : (s.clearMasks).mem = s.mem := rfl
@[simp] theorem State.clearMasks_chk (s : State) : (s.clearMasks).chk = s.chk := rfl
@[simp] theorem State.clearMasks_fws (s : State) : (s.clearMasks).fws = s.fws := rfl
@[simp] theorem State.clearMasks_lws (s : State) : (s.clearMasks).lws = s.lws := rfl
@[simp] theorem State.clearMasks_stepBase (s : State) : (s.clearMasks).stepBase = s.stepBase := rfl
@[simp] theorem State.clearMasks_stepFirst (s : State) : (s.clearMasks).stepFirst = s.stepFirst := rfl
@[simp] theorem State.clearMasks_fwsAt (s : State) : (s.clearMasks).fwsAt = s.fwsAt := rfl
@[simp] theorem State.clearMasks_mm (s : State) : (s.clearMasks).mm = s.mm := rfl
@[simp] theorem State.clearMasks_job (s : State) : (s.clearMasks).job = s.job := rfl
@[simp] theorem State.clearMasks_stp (s : State) : (s.clearMasks).stp = s.stp := rfl
@[simp] theorem State.clearMasks_scc (s : State) : (s.clearMasks).scc = s.scc := rfl
@[simp] theorem State.clearMasks_rings (s : State) : (s.clearMasks).rings = s.rings := rfl
@[simp] theorem State.clearMasks_lnk (s : State) : (s.clearMasks).lnk = s.lnk := rfl
@[simp] theorem State.clearMasks_outq (s : State) : (s.clearMasks).outq = s.outq := rfl
@[simp] theorem State.clearMasks_sec (s : State) : (s.clearMasks).sec = s.sec := rfl
@[simp] theorem State.clearMasks_nvm (s : State) : (s.clearMasks).nvm = s.nvm := rfl
@[simp] theorem State.clearMasks_hif (s : State) : (s.clearMasks).hif = s.hif := rfl
@[simp] theorem State.clearMasks_blw (s : State) : (s.clearMasks).blw = s.blw := rfl
@[simp] theorem State.clearMasks_rst (s : State) : (s.clearMasks).rst = s.rst := rfl
@[simp] theorem State.clearMasks_tst (s : State) : (s.clearMasks).tst = s.tst := rfl
@[simp] theorem State.clearMasks_race (s : State) : (s.clearMasks).race = s.race := rfl
@[simp] theorem State.clearMasks_draws (s : State) : (s.clearMasks).draws = s.draws := rfl
@[simp] theorem State.clearMasks_free (s : State) : (s.clearMasks).free = s.free := rfl
@[simp] theorem State.clearMasks_pending (s : State) : (s.clearMasks).pending = s.pending := rfl
@[simp] theorem State.stopCores_mem (s : State) : (s.stopCores).mem = s.mem := rfl
@[simp] theorem State.stopCores_chk (s : State) : (s.stopCores).chk = s.chk := rfl
@[simp] theorem State.stopCores_fws (s : State) : (s.stopCores).fws = s.fws := rfl
@[simp] theorem State.stopCores_lws (s : State) : (s.stopCores).lws = s.lws := rfl
@[simp] theorem State.stopCores_stepBase (s : State) : (s.stopCores).stepBase = s.stepBase := rfl
@[simp] theorem State.stopCores_stepFirst (s : State) : (s.stopCores).stepFirst = s.stepFirst := rfl
@[simp] theorem State.stopCores_fwsAt (s : State) : (s.stopCores).fwsAt = s.fwsAt := rfl
@[simp] theorem State.stopCores_mm (s : State) : (s.stopCores).mm = s.mm := rfl
@[simp] theorem State.stopCores_job (s : State) : (s.stopCores).job = s.job := rfl
@[simp] theorem State.stopCores_stp (s : State) : (s.stopCores).stp = s.stp := rfl
@[simp] theorem State.stopCores_scc (s : State) : (s.stopCores).scc = s.scc := rfl
@[simp] theorem State.stopCores_rings (s : State) : (s.stopCores).rings = s.rings := rfl
@[simp] theorem State.stopCores_lnk (s : State) : (s.stopCores).lnk = s.lnk := rfl
@[simp] theorem State.stopCores_mon (s : State) : (s.stopCores).mon = s.mon := rfl
@[simp] theorem State.stopCores_outq (s : State) : (s.stopCores).outq = s.outq := rfl
@[simp] theorem State.stopCores_sec (s : State) : (s.stopCores).sec = s.sec := rfl
@[simp] theorem State.stopCores_nvm (s : State) : (s.stopCores).nvm = s.nvm := rfl
@[simp] theorem State.stopCores_hif (s : State) : (s.stopCores).hif = s.hif := rfl
@[simp] theorem State.stopCores_blw (s : State) : (s.stopCores).blw = s.blw := rfl
@[simp] theorem State.stopCores_rst (s : State) : (s.stopCores).rst = s.rst := rfl
@[simp] theorem State.stopCores_tst (s : State) : (s.stopCores).tst = s.tst := rfl
@[simp] theorem State.stopCores_race (s : State) : (s.stopCores).race = s.race := rfl
@[simp] theorem State.stopCores_draws (s : State) : (s.stopCores).draws = s.draws := rfl
@[simp] theorem State.stopCores_free (s : State) : (s.stopCores).free = s.free := rfl
@[simp] theorem State.stopCores_pending (s : State) : (s.stopCores).pending = s.pending := rfl
@[simp] theorem State.setStatus_chk (s : State) (h : W16) (f : Fl) :
    (s.setStatus h f).chk = s.chk := by unfold State.setStatus; extract_lets; split <;> rfl
@[simp] theorem State.setStatus_fws (s : State) (h : W16) (f : Fl) :
    (s.setStatus h f).fws = s.fws := by unfold State.setStatus; extract_lets; split <;> rfl
@[simp] theorem State.setStatus_lws (s : State) (h : W16) (f : Fl) :
    (s.setStatus h f).lws = s.lws := by unfold State.setStatus; extract_lets; split <;> rfl
@[simp] theorem State.setStatus_stepBase (s : State) (h : W16) (f : Fl) :
    (s.setStatus h f).stepBase = s.stepBase := by unfold State.setStatus; extract_lets; split <;> rfl
@[simp] theorem State.setStatus_stepFirst (s : State) (h : W16) (f : Fl) :
    (s.setStatus h f).stepFirst = s.stepFirst := by unfold State.setStatus; extract_lets; split <;> rfl
@[simp] theorem State.setStatus_fwsAt (s : State) (h : W16) (f : Fl) :
    (s.setStatus h f).fwsAt = s.fwsAt := by unfold State.setStatus; extract_lets; split <;> rfl
@[simp] theorem State.setStatus_mm (s : State) (h : W16) (f : Fl) :
    (s.setStatus h f).mm = s.mm := by unfold State.setStatus; extract_lets; split <;> rfl
@[simp] theorem State.setStatus_cores (s : State) (h : W16) (f : Fl) :
    (s.setStatus h f).cores = s.cores := by unfold State.setStatus; extract_lets; split <;> rfl
@[simp] theorem State.setStatus_job (s : State) (h : W16) (f : Fl) :
    (s.setStatus h f).job = s.job := by unfold State.setStatus; extract_lets; split <;> rfl
@[simp] theorem State.setStatus_stp (s : State) (h : W16) (f : Fl) :
    (s.setStatus h f).stp = s.stp := by unfold State.setStatus; extract_lets; split <;> rfl
@[simp] theorem State.setStatus_scc (s : State) (h : W16) (f : Fl) :
    (s.setStatus h f).scc = s.scc := by unfold State.setStatus; extract_lets; split <;> rfl
@[simp] theorem State.setStatus_rings (s : State) (h : W16) (f : Fl) :
    (s.setStatus h f).rings = s.rings := by unfold State.setStatus; extract_lets; split <;> rfl
@[simp] theorem State.setStatus_lnk (s : State) (h : W16) (f : Fl) :
    (s.setStatus h f).lnk = s.lnk := by unfold State.setStatus; extract_lets; split <;> rfl
@[simp] theorem State.setStatus_mon (s : State) (h : W16) (f : Fl) :
    (s.setStatus h f).mon = s.mon := by unfold State.setStatus; extract_lets; split <;> rfl
@[simp] theorem State.setStatus_outq (s : State) (h : W16) (f : Fl) :
    (s.setStatus h f).outq = s.outq := by unfold State.setStatus; extract_lets; split <;> rfl
@[simp] theorem State.setStatus_sec (s : State) (h : W16) (f : Fl) :
    (s.setStatus h f).sec = s.sec := by unfold State.setStatus; extract_lets; split <;> rfl
@[simp] theorem State.setStatus_nvm (s : State) (h : W16) (f : Fl) :
    (s.setStatus h f).nvm = s.nvm := by unfold State.setStatus; extract_lets; split <;> rfl
@[simp] theorem State.setStatus_hif (s : State) (h : W16) (f : Fl) :
    (s.setStatus h f).hif = s.hif := by unfold State.setStatus; extract_lets; split <;> rfl
@[simp] theorem State.setStatus_blw (s : State) (h : W16) (f : Fl) :
    (s.setStatus h f).blw = s.blw := by unfold State.setStatus; extract_lets; split <;> rfl
@[simp] theorem State.setStatus_rst (s : State) (h : W16) (f : Fl) :
    (s.setStatus h f).rst = s.rst := by unfold State.setStatus; extract_lets; split <;> rfl
@[simp] theorem State.setStatus_tst (s : State) (h : W16) (f : Fl) :
    (s.setStatus h f).tst = s.tst := by unfold State.setStatus; extract_lets; split <;> rfl
@[simp] theorem State.setStatus_race (s : State) (h : W16) (f : Fl) :
    (s.setStatus h f).race = s.race := by unfold State.setStatus; extract_lets; split <;> rfl
@[simp] theorem State.setStatus_draws (s : State) (h : W16) (f : Fl) :
    (s.setStatus h f).draws = s.draws := by unfold State.setStatus; extract_lets; split <;> rfl
@[simp] theorem State.setStatus_free (s : State) (h : W16) (f : Fl) :
    (s.setStatus h f).free = s.free := by unfold State.setStatus; extract_lets; split <;> rfl
@[simp] theorem State.setStatus_pending (s : State) (h : W16) (f : Fl) :
    (s.setStatus h f).pending = s.pending := by unfold State.setStatus; extract_lets; split <;> rfl
@[simp] theorem State.raiseAmax_mem (s : State) (h : W16) (v : W32) :
    (s.raiseAmax h v).mem = s.mem := by rw [State.raiseAmax_eq]
@[simp] theorem State.raiseAmax_chk (s : State) (h : W16) (v : W32) :
    (s.raiseAmax h v).chk = s.chk := by rw [State.raiseAmax_eq]
@[simp] theorem State.raiseAmax_fws (s : State) (h : W16) (v : W32) :
    (s.raiseAmax h v).fws = s.fws := by rw [State.raiseAmax_eq]
@[simp] theorem State.raiseAmax_lws (s : State) (h : W16) (v : W32) :
    (s.raiseAmax h v).lws = s.lws := by rw [State.raiseAmax_eq]
@[simp] theorem State.raiseAmax_stepBase (s : State) (h : W16) (v : W32) :
    (s.raiseAmax h v).stepBase = s.stepBase := by rw [State.raiseAmax_eq]
@[simp] theorem State.raiseAmax_stepFirst (s : State) (h : W16) (v : W32) :
    (s.raiseAmax h v).stepFirst = s.stepFirst := by rw [State.raiseAmax_eq]
@[simp] theorem State.raiseAmax_fwsAt (s : State) (h : W16) (v : W32) :
    (s.raiseAmax h v).fwsAt = s.fwsAt := by rw [State.raiseAmax_eq]
@[simp] theorem State.raiseAmax_mm (s : State) (h : W16) (v : W32) :
    (s.raiseAmax h v).mm = s.mm := by rw [State.raiseAmax_eq]
@[simp] theorem State.raiseAmax_cores (s : State) (h : W16) (v : W32) :
    (s.raiseAmax h v).cores = s.cores := by rw [State.raiseAmax_eq]
@[simp] theorem State.raiseAmax_job (s : State) (h : W16) (v : W32) :
    (s.raiseAmax h v).job = s.job := by rw [State.raiseAmax_eq]
@[simp] theorem State.raiseAmax_rings (s : State) (h : W16) (v : W32) :
    (s.raiseAmax h v).rings = s.rings := by rw [State.raiseAmax_eq]
@[simp] theorem State.raiseAmax_lnk (s : State) (h : W16) (v : W32) :
    (s.raiseAmax h v).lnk = s.lnk := by rw [State.raiseAmax_eq]
@[simp] theorem State.raiseAmax_mon (s : State) (h : W16) (v : W32) :
    (s.raiseAmax h v).mon = s.mon := by rw [State.raiseAmax_eq]
@[simp] theorem State.raiseAmax_outq (s : State) (h : W16) (v : W32) :
    (s.raiseAmax h v).outq = s.outq := by rw [State.raiseAmax_eq]
@[simp] theorem State.raiseAmax_sec (s : State) (h : W16) (v : W32) :
    (s.raiseAmax h v).sec = s.sec := by rw [State.raiseAmax_eq]
@[simp] theorem State.raiseAmax_nvm (s : State) (h : W16) (v : W32) :
    (s.raiseAmax h v).nvm = s.nvm := by rw [State.raiseAmax_eq]
@[simp] theorem State.raiseAmax_hif (s : State) (h : W16) (v : W32) :
    (s.raiseAmax h v).hif = s.hif := by rw [State.raiseAmax_eq]
@[simp] theorem State.raiseAmax_blw (s : State) (h : W16) (v : W32) :
    (s.raiseAmax h v).blw = s.blw := by rw [State.raiseAmax_eq]
@[simp] theorem State.raiseAmax_rst (s : State) (h : W16) (v : W32) :
    (s.raiseAmax h v).rst = s.rst := by rw [State.raiseAmax_eq]
@[simp] theorem State.raiseAmax_tst (s : State) (h : W16) (v : W32) :
    (s.raiseAmax h v).tst = s.tst := by rw [State.raiseAmax_eq]
@[simp] theorem State.raiseAmax_race (s : State) (h : W16) (v : W32) :
    (s.raiseAmax h v).race = s.race := by rw [State.raiseAmax_eq]
@[simp] theorem State.raiseAmax_draws (s : State) (h : W16) (v : W32) :
    (s.raiseAmax h v).draws = s.draws := by rw [State.raiseAmax_eq]
@[simp] theorem State.raiseAmax_free (s : State) (h : W16) (v : W32) :
    (s.raiseAmax h v).free = s.free := by rw [State.raiseAmax_eq]
@[simp] theorem State.raiseAmax_pending (s : State) (h : W16) (v : W32) :
    (s.raiseAmax h v).pending = s.pending := by rw [State.raiseAmax_eq]
@[simp] theorem State.bump_mem (s : State) (o : W16) : (s.bump o).mem = s.mem := by unfold State.bump; split <;> rfl
@[simp] theorem State.bump_chk (s : State) (o : W16) : (s.bump o).chk = s.chk := by unfold State.bump; split <;> rfl
@[simp] theorem State.bump_fws (s : State) (o : W16) : (s.bump o).fws = s.fws := by unfold State.bump; split <;> rfl
@[simp] theorem State.bump_lws (s : State) (o : W16) : (s.bump o).lws = s.lws := by unfold State.bump; split <;> rfl
@[simp] theorem State.bump_stepBase (s : State) (o : W16) :
    (s.bump o).stepBase = s.stepBase := by unfold State.bump; split <;> rfl
@[simp] theorem State.bump_stepFirst (s : State) (o : W16) :
    (s.bump o).stepFirst = s.stepFirst := by unfold State.bump; split <;> rfl
@[simp] theorem State.bump_fwsAt (s : State) (o : W16) : (s.bump o).fwsAt = s.fwsAt := by unfold State.bump; split <;> rfl
@[simp] theorem State.bump_mm (s : State) (o : W16) : (s.bump o).mm = s.mm := by unfold State.bump; split <;> rfl
@[simp] theorem State.bump_cores (s : State) (o : W16) : (s.bump o).cores = s.cores := by unfold State.bump; split <;> rfl
@[simp] theorem State.bump_job (s : State) (o : W16) : (s.bump o).job = s.job := by unfold State.bump; split <;> rfl
@[simp] theorem State.bump_scc (s : State) (o : W16) : (s.bump o).scc = s.scc := by unfold State.bump; split <;> rfl
@[simp] theorem State.bump_rings (s : State) (o : W16) : (s.bump o).rings = s.rings := by unfold State.bump; split <;> rfl
@[simp] theorem State.bump_lnk (s : State) (o : W16) : (s.bump o).lnk = s.lnk := by unfold State.bump; split <;> rfl
@[simp] theorem State.bump_mon (s : State) (o : W16) : (s.bump o).mon = s.mon := by unfold State.bump; split <;> rfl
@[simp] theorem State.bump_outq (s : State) (o : W16) : (s.bump o).outq = s.outq := by unfold State.bump; split <;> rfl
@[simp] theorem State.bump_sec (s : State) (o : W16) : (s.bump o).sec = s.sec := by unfold State.bump; split <;> rfl
@[simp] theorem State.bump_nvm (s : State) (o : W16) : (s.bump o).nvm = s.nvm := by unfold State.bump; split <;> rfl
@[simp] theorem State.bump_hif (s : State) (o : W16) : (s.bump o).hif = s.hif := by unfold State.bump; split <;> rfl
@[simp] theorem State.bump_blw (s : State) (o : W16) : (s.bump o).blw = s.blw := by unfold State.bump; split <;> rfl
@[simp] theorem State.bump_rst (s : State) (o : W16) : (s.bump o).rst = s.rst := by unfold State.bump; split <;> rfl
@[simp] theorem State.bump_tst (s : State) (o : W16) : (s.bump o).tst = s.tst := by unfold State.bump; split <;> rfl
@[simp] theorem State.bump_draws (s : State) (o : W16) : (s.bump o).draws = s.draws := by unfold State.bump; split <;> rfl
@[simp] theorem State.bump_free (s : State) (o : W16) : (s.bump o).free = s.free := by unfold State.bump; split <;> rfl
@[simp] theorem State.bump_pending (s : State) (o : W16) :
    (s.bump o).pending = s.pending := by unfold State.bump; split <;> rfl
@[simp] theorem State.stampHandle_mem (s : State) (h : W16) (whole : Bool) :
    (s.stampHandle h whole).mem = s.mem := by unfold State.stampHandle; extract_lets; split <;> rfl
@[simp] theorem State.stampHandle_chk (s : State) (h : W16) (whole : Bool) :
    (s.stampHandle h whole).chk = s.chk := by unfold State.stampHandle; extract_lets; split <;> rfl
@[simp] theorem State.stampHandle_stepBase (s : State) (h : W16) (whole : Bool) :
    (s.stampHandle h whole).stepBase = s.stepBase := by unfold State.stampHandle; extract_lets; split <;> rfl
@[simp] theorem State.stampHandle_stepFirst (s : State) (h : W16) (whole : Bool) :
    (s.stampHandle h whole).stepFirst = s.stepFirst := by unfold State.stampHandle; extract_lets; split <;> rfl
@[simp] theorem State.stampHandle_mm (s : State) (h : W16) (whole : Bool) :
    (s.stampHandle h whole).mm = s.mm := by unfold State.stampHandle; extract_lets; split <;> rfl
@[simp] theorem State.stampHandle_cores (s : State) (h : W16) (whole : Bool) :
    (s.stampHandle h whole).cores = s.cores := by unfold State.stampHandle; extract_lets; split <;> rfl
@[simp] theorem State.stampHandle_job (s : State) (h : W16) (whole : Bool) :
    (s.stampHandle h whole).job = s.job := by unfold State.stampHandle; extract_lets; split <;> rfl
@[simp] theorem State.stampHandle_stp (s : State) (h : W16) (whole : Bool) :
    (s.stampHandle h whole).stp = s.stp := by unfold State.stampHandle; extract_lets; split <;> rfl
@[simp] theorem State.stampHandle_scc (s : State) (h : W16) (whole : Bool) :
    (s.stampHandle h whole).scc = s.scc := by unfold State.stampHandle; extract_lets; split <;> rfl
@[simp] theorem State.stampHandle_rings (s : State) (h : W16) (whole : Bool) :
    (s.stampHandle h whole).rings = s.rings := by unfold State.stampHandle; extract_lets; split <;> rfl
@[simp] theorem State.stampHandle_lnk (s : State) (h : W16) (whole : Bool) :
    (s.stampHandle h whole).lnk = s.lnk := by unfold State.stampHandle; extract_lets; split <;> rfl
@[simp] theorem State.stampHandle_mon (s : State) (h : W16) (whole : Bool) :
    (s.stampHandle h whole).mon = s.mon := by unfold State.stampHandle; extract_lets; split <;> rfl
@[simp] theorem State.stampHandle_outq (s : State) (h : W16) (whole : Bool) :
    (s.stampHandle h whole).outq = s.outq := by unfold State.stampHandle; extract_lets; split <;> rfl
@[simp] theorem State.stampHandle_sec (s : State) (h : W16) (whole : Bool) :
    (s.stampHandle h whole).sec = s.sec := by unfold State.stampHandle; extract_lets; split <;> rfl
@[simp] theorem State.stampHandle_nvm (s : State) (h : W16) (whole : Bool) :
    (s.stampHandle h whole).nvm = s.nvm := by unfold State.stampHandle; extract_lets; split <;> rfl
@[simp] theorem State.stampHandle_hif (s : State) (h : W16) (whole : Bool) :
    (s.stampHandle h whole).hif = s.hif := by unfold State.stampHandle; extract_lets; split <;> rfl
@[simp] theorem State.stampHandle_blw (s : State) (h : W16) (whole : Bool) :
    (s.stampHandle h whole).blw = s.blw := by unfold State.stampHandle; extract_lets; split <;> rfl
@[simp] theorem State.stampHandle_rst (s : State) (h : W16) (whole : Bool) :
    (s.stampHandle h whole).rst = s.rst := by unfold State.stampHandle; extract_lets; split <;> rfl
@[simp] theorem State.stampHandle_tst (s : State) (h : W16) (whole : Bool) :
    (s.stampHandle h whole).tst = s.tst := by unfold State.stampHandle; extract_lets; split <;> rfl
@[simp] theorem State.stampHandle_race (s : State) (h : W16) (whole : Bool) :
    (s.stampHandle h whole).race = s.race := by unfold State.stampHandle; extract_lets; split <;> rfl
@[simp] theorem State.stampHandle_draws (s : State) (h : W16) (whole : Bool) :
    (s.stampHandle h whole).draws = s.draws := by unfold State.stampHandle; extract_lets; split <;> rfl
@[simp] theorem State.stampHandle_free (s : State) (h : W16) (whole : Bool) :
    (s.stampHandle h whole).free = s.free := by unfold State.stampHandle; extract_lets; split <;> rfl
@[simp] theorem State.stampHandle_pending (s : State) (h : W16) (whole : Bool) :
    (s.stampHandle h whole).pending = s.pending := by unfold State.stampHandle; extract_lets; split <;> rfl
@[simp] theorem writeRuns_fws (s : State) (cvp : Nat) (rs : List Run) :
    (writeRuns s cvp rs).fws = s.fws := by rw [writeRuns_eq]
@[simp] theorem writeRuns_lws (s : State) (cvp : Nat) (rs : List Run) :
    (writeRuns s cvp rs).lws = s.lws := by rw [writeRuns_eq]
@[simp] theorem writeRuns_stepBase (s : State) (cvp : Nat) (rs : List Run) :
    (writeRuns s cvp rs).stepBase = s.stepBase := by rw [writeRuns_eq]
@[simp] theorem writeRuns_stepFirst (s : State) (cvp : Nat) (rs : List Run) :
    (writeRuns s cvp rs).stepFirst = s.stepFirst := by rw [writeRuns_eq]
@[simp] theorem writeRuns_fwsAt (s : State) (cvp : Nat) (rs : List Run) :
    (writeRuns s cvp rs).fwsAt = s.fwsAt := by rw [writeRuns_eq]
@[simp] theorem writeRuns_cores (s : State) (cvp : Nat) (rs : List Run) :
    (writeRuns s cvp rs).cores = s.cores := by rw [writeRuns_eq]
@[simp] theorem writeRuns_job (s : State) (cvp : Nat) (rs : List Run) :
    (writeRuns s cvp rs).job = s.job := by rw [writeRuns_eq]
@[simp] theorem writeRuns_stp (s : State) (cvp : Nat) (rs : List Run) :
    (writeRuns s cvp rs).stp = s.stp := by rw [writeRuns_eq]
@[simp] theorem writeRuns_scc (s : State) (cvp : Nat) (rs : List Run) :
    (writeRuns s cvp rs).scc = s.scc := by rw [writeRuns_eq]
@[simp] theorem writeRuns_rings (s : State) (cvp : Nat) (rs : List Run) :
    (writeRuns s cvp rs).rings = s.rings := by rw [writeRuns_eq]
@[simp] theorem writeRuns_lnk (s : State) (cvp : Nat) (rs : List Run) :
    (writeRuns s cvp rs).lnk = s.lnk := by rw [writeRuns_eq]
@[simp] theorem writeRuns_mon (s : State) (cvp : Nat) (rs : List Run) :
    (writeRuns s cvp rs).mon = s.mon := by rw [writeRuns_eq]
@[simp] theorem writeRuns_outq (s : State) (cvp : Nat) (rs : List Run) :
    (writeRuns s cvp rs).outq = s.outq := by rw [writeRuns_eq]
@[simp] theorem writeRuns_sec (s : State) (cvp : Nat) (rs : List Run) :
    (writeRuns s cvp rs).sec = s.sec := by rw [writeRuns_eq]
@[simp] theorem writeRuns_nvm (s : State) (cvp : Nat) (rs : List Run) :
    (writeRuns s cvp rs).nvm = s.nvm := by rw [writeRuns_eq]
@[simp] theorem writeRuns_hif (s : State) (cvp : Nat) (rs : List Run) :
    (writeRuns s cvp rs).hif = s.hif := by rw [writeRuns_eq]
@[simp] theorem writeRuns_blw (s : State) (cvp : Nat) (rs : List Run) :
    (writeRuns s cvp rs).blw = s.blw := by rw [writeRuns_eq]
@[simp] theorem writeRuns_rst (s : State) (cvp : Nat) (rs : List Run) :
    (writeRuns s cvp rs).rst = s.rst := by rw [writeRuns_eq]
@[simp] theorem writeRuns_tst (s : State) (cvp : Nat) (rs : List Run) :
    (writeRuns s cvp rs).tst = s.tst := by rw [writeRuns_eq]
@[simp] theorem writeRuns_race (s : State) (cvp : Nat) (rs : List Run) :
    (writeRuns s cvp rs).race = s.race := by rw [writeRuns_eq]
@[simp] theorem writeRuns_draws (s : State) (cvp : Nat) (rs : List Run) :
    (writeRuns s cvp rs).draws = s.draws := by rw [writeRuns_eq]
@[simp] theorem writeRuns_free (s : State) (cvp : Nat) (rs : List Run) :
    (writeRuns s cvp rs).free = s.free := by rw [writeRuns_eq]
@[simp] theorem writeRuns_pending (s : State) (cvp : Nat) (rs : List Run) :
    (writeRuns s cvp rs).pending = s.pending := by rw [writeRuns_eq]
@[simp] theorem State.postNotes_mem (s : State) (n : Nat) : (State.postNotes n s).mem = s.mem := by
  induction n generalizing s with
  | zero => rfl
  | succ n ih => unfold State.postNotes; split <;> [rfl; (split <;> [rfl; exact ih _])]
@[simp] theorem State.postNotes_chk (s : State) (n : Nat) : (State.postNotes n s).chk = s.chk := by
  induction n generalizing s with
  | zero => rfl
  | succ n ih => unfold State.postNotes; split <;> [rfl; (split <;> [rfl; exact ih _])]
@[simp] theorem State.postNotes_fws (s : State) (n : Nat) : (State.postNotes n s).fws = s.fws := by
  induction n generalizing s with
  | zero => rfl
  | succ n ih => unfold State.postNotes; split <;> [rfl; (split <;> [rfl; exact ih _])]
@[simp] theorem State.postNotes_lws (s : State) (n : Nat) : (State.postNotes n s).lws = s.lws := by
  induction n generalizing s with
  | zero => rfl
  | succ n ih => unfold State.postNotes; split <;> [rfl; (split <;> [rfl; exact ih _])]
@[simp] theorem State.postNotes_stepBase (s : State) (n : Nat) : (State.postNotes n s).stepBase = s.stepBase := by
  induction n generalizing s with
  | zero => rfl
  | succ n ih => unfold State.postNotes; split <;> [rfl; (split <;> [rfl; exact ih _])]
@[simp] theorem State.postNotes_stepFirst (s : State) (n : Nat) : (State.postNotes n s).stepFirst = s.stepFirst := by
  induction n generalizing s with
  | zero => rfl
  | succ n ih => unfold State.postNotes; split <;> [rfl; (split <;> [rfl; exact ih _])]
@[simp] theorem State.postNotes_fwsAt (s : State) (n : Nat) : (State.postNotes n s).fwsAt = s.fwsAt := by
  induction n generalizing s with
  | zero => rfl
  | succ n ih => unfold State.postNotes; split <;> [rfl; (split <;> [rfl; exact ih _])]
@[simp] theorem State.postNotes_mm (s : State) (n : Nat) : (State.postNotes n s).mm = s.mm := by
  induction n generalizing s with
  | zero => rfl
  | succ n ih => unfold State.postNotes; split <;> [rfl; (split <;> [rfl; exact ih _])]
@[simp] theorem State.postNotes_cores (s : State) (n : Nat) : (State.postNotes n s).cores = s.cores := by
  induction n generalizing s with
  | zero => rfl
  | succ n ih => unfold State.postNotes; split <;> [rfl; (split <;> [rfl; exact ih _])]
@[simp] theorem State.postNotes_job (s : State) (n : Nat) : (State.postNotes n s).job = s.job := by
  induction n generalizing s with
  | zero => rfl
  | succ n ih => unfold State.postNotes; split <;> [rfl; (split <;> [rfl; exact ih _])]
@[simp] theorem State.postNotes_stp (s : State) (n : Nat) : (State.postNotes n s).stp = s.stp := by
  induction n generalizing s with
  | zero => rfl
  | succ n ih => unfold State.postNotes; split <;> [rfl; (split <;> [rfl; exact ih _])]
@[simp] theorem State.postNotes_scc (s : State) (n : Nat) : (State.postNotes n s).scc = s.scc := by
  induction n generalizing s with
  | zero => rfl
  | succ n ih => unfold State.postNotes; split <;> [rfl; (split <;> [rfl; exact ih _])]
@[simp] theorem State.postNotes_rings (s : State) (n : Nat) : (State.postNotes n s).rings = s.rings := by
  induction n generalizing s with
  | zero => rfl
  | succ n ih => unfold State.postNotes; split <;> [rfl; (split <;> [rfl; exact ih _])]
@[simp] theorem State.postNotes_lnk (s : State) (n : Nat) : (State.postNotes n s).lnk = s.lnk := by
  induction n generalizing s with
  | zero => rfl
  | succ n ih => unfold State.postNotes; split <;> [rfl; (split <;> [rfl; exact ih _])]
@[simp] theorem State.postNotes_outq (s : State) (n : Nat) : (State.postNotes n s).outq = s.outq := by
  induction n generalizing s with
  | zero => rfl
  | succ n ih => unfold State.postNotes; split <;> [rfl; (split <;> [rfl; exact ih _])]
@[simp] theorem State.postNotes_sec (s : State) (n : Nat) : (State.postNotes n s).sec = s.sec := by
  induction n generalizing s with
  | zero => rfl
  | succ n ih => unfold State.postNotes; split <;> [rfl; (split <;> [rfl; exact ih _])]
@[simp] theorem State.postNotes_nvm (s : State) (n : Nat) : (State.postNotes n s).nvm = s.nvm := by
  induction n generalizing s with
  | zero => rfl
  | succ n ih => unfold State.postNotes; split <;> [rfl; (split <;> [rfl; exact ih _])]
@[simp] theorem State.postNotes_blw (s : State) (n : Nat) : (State.postNotes n s).blw = s.blw := by
  induction n generalizing s with
  | zero => rfl
  | succ n ih => unfold State.postNotes; split <;> [rfl; (split <;> [rfl; exact ih _])]
@[simp] theorem State.postNotes_rst (s : State) (n : Nat) : (State.postNotes n s).rst = s.rst := by
  induction n generalizing s with
  | zero => rfl
  | succ n ih => unfold State.postNotes; split <;> [rfl; (split <;> [rfl; exact ih _])]
@[simp] theorem State.postNotes_tst (s : State) (n : Nat) : (State.postNotes n s).tst = s.tst := by
  induction n generalizing s with
  | zero => rfl
  | succ n ih => unfold State.postNotes; split <;> [rfl; (split <;> [rfl; exact ih _])]
@[simp] theorem State.postNotes_race (s : State) (n : Nat) : (State.postNotes n s).race = s.race := by
  induction n generalizing s with
  | zero => rfl
  | succ n ih => unfold State.postNotes; split <;> [rfl; (split <;> [rfl; exact ih _])]
@[simp] theorem State.postNotes_draws (s : State) (n : Nat) : (State.postNotes n s).draws = s.draws := by
  induction n generalizing s with
  | zero => rfl
  | succ n ih => unfold State.postNotes; split <;> [rfl; (split <;> [rfl; exact ih _])]
@[simp] theorem State.postNotes_free (s : State) (n : Nat) : (State.postNotes n s).free = s.free := by
  induction n generalizing s with
  | zero => rfl
  | succ n ih => unfold State.postNotes; split <;> [rfl; (split <;> [rfl; exact ih _])]
@[simp] theorem State.postNotes_pending (s : State) (n : Nat) : (State.postNotes n s).pending = s.pending := by
  induction n generalizing s with
  | zero => rfl
  | succ n ih => unfold State.postNotes; split <;> [rfl; (split <;> [rfl; exact ih _])]
@[simp] theorem State.notify_mem (s : State) (code : Nat) (data : List Nat) :
    (s.notify code data).mem = s.mem := by unfold State.notify; extract_lets; exact State.postNotes_mem _ _
@[simp] theorem State.notify_chk (s : State) (code : Nat) (data : List Nat) :
    (s.notify code data).chk = s.chk := by unfold State.notify; extract_lets; exact State.postNotes_chk _ _
@[simp] theorem State.notify_fws (s : State) (code : Nat) (data : List Nat) :
    (s.notify code data).fws = s.fws := by unfold State.notify; extract_lets; exact State.postNotes_fws _ _
@[simp] theorem State.notify_lws (s : State) (code : Nat) (data : List Nat) :
    (s.notify code data).lws = s.lws := by unfold State.notify; extract_lets; exact State.postNotes_lws _ _
@[simp] theorem State.notify_stepBase (s : State) (code : Nat) (data : List Nat) :
    (s.notify code data).stepBase = s.stepBase := by unfold State.notify; extract_lets; exact State.postNotes_stepBase _ _
@[simp] theorem State.notify_stepFirst (s : State) (code : Nat) (data : List Nat) :
    (s.notify code data).stepFirst = s.stepFirst := by unfold State.notify; extract_lets; exact State.postNotes_stepFirst _ _
@[simp] theorem State.notify_fwsAt (s : State) (code : Nat) (data : List Nat) :
    (s.notify code data).fwsAt = s.fwsAt := by unfold State.notify; extract_lets; exact State.postNotes_fwsAt _ _
@[simp] theorem State.notify_mm (s : State) (code : Nat) (data : List Nat) :
    (s.notify code data).mm = s.mm := by unfold State.notify; extract_lets; exact State.postNotes_mm _ _
@[simp] theorem State.notify_cores (s : State) (code : Nat) (data : List Nat) :
    (s.notify code data).cores = s.cores := by unfold State.notify; extract_lets; exact State.postNotes_cores _ _
@[simp] theorem State.notify_job (s : State) (code : Nat) (data : List Nat) :
    (s.notify code data).job = s.job := by unfold State.notify; extract_lets; exact State.postNotes_job _ _
@[simp] theorem State.notify_stp (s : State) (code : Nat) (data : List Nat) :
    (s.notify code data).stp = s.stp := by unfold State.notify; extract_lets; exact State.postNotes_stp _ _
@[simp] theorem State.notify_scc (s : State) (code : Nat) (data : List Nat) :
    (s.notify code data).scc = s.scc := by unfold State.notify; extract_lets; exact State.postNotes_scc _ _
@[simp] theorem State.notify_rings (s : State) (code : Nat) (data : List Nat) :
    (s.notify code data).rings = s.rings := by unfold State.notify; extract_lets; exact State.postNotes_rings _ _
@[simp] theorem State.notify_lnk (s : State) (code : Nat) (data : List Nat) :
    (s.notify code data).lnk = s.lnk := by unfold State.notify; extract_lets; exact State.postNotes_lnk _ _
@[simp] theorem State.notify_outq (s : State) (code : Nat) (data : List Nat) :
    (s.notify code data).outq = s.outq := by unfold State.notify; extract_lets; exact State.postNotes_outq _ _
@[simp] theorem State.notify_sec (s : State) (code : Nat) (data : List Nat) :
    (s.notify code data).sec = s.sec := by unfold State.notify; extract_lets; exact State.postNotes_sec _ _
@[simp] theorem State.notify_nvm (s : State) (code : Nat) (data : List Nat) :
    (s.notify code data).nvm = s.nvm := by unfold State.notify; extract_lets; exact State.postNotes_nvm _ _
@[simp] theorem State.notify_blw (s : State) (code : Nat) (data : List Nat) :
    (s.notify code data).blw = s.blw := by unfold State.notify; extract_lets; exact State.postNotes_blw _ _
@[simp] theorem State.notify_rst (s : State) (code : Nat) (data : List Nat) :
    (s.notify code data).rst = s.rst := by unfold State.notify; extract_lets; exact State.postNotes_rst _ _
@[simp] theorem State.notify_tst (s : State) (code : Nat) (data : List Nat) :
    (s.notify code data).tst = s.tst := by unfold State.notify; extract_lets; exact State.postNotes_tst _ _
@[simp] theorem State.notify_race (s : State) (code : Nat) (data : List Nat) :
    (s.notify code data).race = s.race := by unfold State.notify; extract_lets; exact State.postNotes_race _ _
@[simp] theorem State.notify_draws (s : State) (code : Nat) (data : List Nat) :
    (s.notify code data).draws = s.draws := by unfold State.notify; extract_lets; exact State.postNotes_draws _ _
@[simp] theorem State.notify_free (s : State) (code : Nat) (data : List Nat) :
    (s.notify code data).free = s.free := by unfold State.notify; extract_lets; exact State.postNotes_free _ _
@[simp] theorem State.notify_pending (s : State) (code : Nat) (data : List Nat) :
    (s.notify code data).pending = s.pending := by unfold State.notify; extract_lets; exact State.postNotes_pending _ _
@[simp] theorem State.setStates_mem (s : State) (ss : SState) (dl ps : Nat) :
    (s.setStates ss dl ps).mem = s.mem := by unfold State.setStates; extract_lets; split <;> [rfl; exact (State.notify_mem _ _ _).trans (State.log_mem _ _ _ _)]
@[simp] theorem State.setStates_chk (s : State) (ss : SState) (dl ps : Nat) :
    (s.setStates ss dl ps).chk = s.chk := by unfold State.setStates; extract_lets; split <;> [rfl; exact (State.notify_chk _ _ _).trans (State.log_chk _ _ _ _)]
@[simp] theorem State.setStates_fws (s : State) (ss : SState) (dl ps : Nat) :
    (s.setStates ss dl ps).fws = s.fws := by unfold State.setStates; extract_lets; split <;> [rfl; exact (State.notify_fws _ _ _).trans (State.log_fws _ _ _ _)]
@[simp] theorem State.setStates_lws (s : State) (ss : SState) (dl ps : Nat) :
    (s.setStates ss dl ps).lws = s.lws := by unfold State.setStates; extract_lets; split <;> [rfl; exact (State.notify_lws _ _ _).trans (State.log_lws _ _ _ _)]
@[simp] theorem State.setStates_stepBase (s : State) (ss : SState) (dl ps : Nat) :
    (s.setStates ss dl ps).stepBase = s.stepBase := by unfold State.setStates; extract_lets; split <;> [rfl; exact (State.notify_stepBase _ _ _).trans (State.log_stepBase _ _ _ _)]
@[simp] theorem State.setStates_stepFirst (s : State) (ss : SState) (dl ps : Nat) :
    (s.setStates ss dl ps).stepFirst = s.stepFirst := by unfold State.setStates; extract_lets; split <;> [rfl; exact (State.notify_stepFirst _ _ _).trans (State.log_stepFirst _ _ _ _)]
@[simp] theorem State.setStates_fwsAt (s : State) (ss : SState) (dl ps : Nat) :
    (s.setStates ss dl ps).fwsAt = s.fwsAt := by unfold State.setStates; extract_lets; split <;> [rfl; exact (State.notify_fwsAt _ _ _).trans (State.log_fwsAt _ _ _ _)]
@[simp] theorem State.setStates_mm (s : State) (ss : SState) (dl ps : Nat) :
    (s.setStates ss dl ps).mm = s.mm := by unfold State.setStates; extract_lets; split <;> [rfl; exact (State.notify_mm _ _ _).trans (State.log_mm _ _ _ _)]
@[simp] theorem State.setStates_cores (s : State) (ss : SState) (dl ps : Nat) :
    (s.setStates ss dl ps).cores = s.cores := by unfold State.setStates; extract_lets; split <;> [rfl; exact (State.notify_cores _ _ _).trans (State.log_cores _ _ _ _)]
@[simp] theorem State.setStates_job (s : State) (ss : SState) (dl ps : Nat) :
    (s.setStates ss dl ps).job = s.job := by unfold State.setStates; extract_lets; split <;> [rfl; exact (State.notify_job _ _ _).trans (State.log_job _ _ _ _)]
@[simp] theorem State.setStates_stp (s : State) (ss : SState) (dl ps : Nat) :
    (s.setStates ss dl ps).stp = s.stp := by unfold State.setStates; extract_lets; split <;> [rfl; exact (State.notify_stp _ _ _).trans (State.log_stp _ _ _ _)]
@[simp] theorem State.setStates_scc (s : State) (ss : SState) (dl ps : Nat) :
    (s.setStates ss dl ps).scc = s.scc := by unfold State.setStates; extract_lets; split <;> [rfl; exact (State.notify_scc _ _ _).trans (State.log_scc _ _ _ _)]
@[simp] theorem State.setStates_lnk (s : State) (ss : SState) (dl ps : Nat) :
    (s.setStates ss dl ps).lnk = s.lnk := by unfold State.setStates; extract_lets; split <;> [rfl; exact (State.notify_lnk _ _ _).trans (State.log_lnk _ _ _ _)]
@[simp] theorem State.setStates_outq (s : State) (ss : SState) (dl ps : Nat) :
    (s.setStates ss dl ps).outq = s.outq := by unfold State.setStates; extract_lets; split <;> [rfl; exact (State.notify_outq _ _ _).trans (State.log_outq _ _ _ _)]
@[simp] theorem State.setStates_nvm (s : State) (ss : SState) (dl ps : Nat) :
    (s.setStates ss dl ps).nvm = s.nvm := by unfold State.setStates; extract_lets; split <;> [rfl; exact (State.notify_nvm _ _ _).trans (State.log_nvm _ _ _ _)]
@[simp] theorem State.setStates_blw (s : State) (ss : SState) (dl ps : Nat) :
    (s.setStates ss dl ps).blw = s.blw := by unfold State.setStates; extract_lets; split <;> [rfl; exact (State.notify_blw _ _ _).trans (State.log_blw _ _ _ _)]
@[simp] theorem State.setStates_rst (s : State) (ss : SState) (dl ps : Nat) :
    (s.setStates ss dl ps).rst = s.rst := by unfold State.setStates; extract_lets; split <;> [rfl; exact (State.notify_rst _ _ _).trans (State.log_rst _ _ _ _)]
@[simp] theorem State.setStates_tst (s : State) (ss : SState) (dl ps : Nat) :
    (s.setStates ss dl ps).tst = s.tst := by unfold State.setStates; extract_lets; split <;> [rfl; exact (State.notify_tst _ _ _).trans (State.log_tst _ _ _ _)]
@[simp] theorem State.setStates_race (s : State) (ss : SState) (dl ps : Nat) :
    (s.setStates ss dl ps).race = s.race := by unfold State.setStates; extract_lets; split <;> [rfl; exact (State.notify_race _ _ _).trans (State.log_race _ _ _ _)]
@[simp] theorem State.setStates_draws (s : State) (ss : SState) (dl ps : Nat) :
    (s.setStates ss dl ps).draws = s.draws := by unfold State.setStates; extract_lets; split <;> [rfl; exact (State.notify_draws _ _ _).trans (State.log_draws _ _ _ _)]
@[simp] theorem State.setStates_free (s : State) (ss : SState) (dl ps : Nat) :
    (s.setStates ss dl ps).free = s.free := by unfold State.setStates; extract_lets; split <;> [rfl; exact (State.notify_free _ _ _).trans (State.log_free _ _ _ _)]
@[simp] theorem State.setStates_pending (s : State) (ss : SState) (dl ps : Nat) :
    (s.setStates ss dl ps).pending = s.pending := by unfold State.setStates; extract_lets; split <;> [rfl; exact (State.notify_pending _ _ _).trans (State.log_pending _ _ _ _)]
@[simp] theorem State.clearHalts_mem (s : State) : (s.clearHalts).mem = s.mem := rfl
@[simp] theorem State.clearHalts_chk (s : State) : (s.clearHalts).chk = s.chk := rfl
@[simp] theorem State.clearHalts_fws (s : State) : (s.clearHalts).fws = s.fws := rfl
@[simp] theorem State.clearHalts_lws (s : State) : (s.clearHalts).lws = s.lws := rfl
@[simp] theorem State.clearHalts_stepBase (s : State) : (s.clearHalts).stepBase = s.stepBase := rfl
@[simp] theorem State.clearHalts_stepFirst (s : State) : (s.clearHalts).stepFirst = s.stepFirst := rfl
@[simp] theorem State.clearHalts_fwsAt (s : State) : (s.clearHalts).fwsAt = s.fwsAt := rfl
@[simp] theorem State.clearHalts_mm (s : State) : (s.clearHalts).mm = s.mm := rfl
@[simp] theorem State.clearHalts_job (s : State) : (s.clearHalts).job = s.job := rfl
@[simp] theorem State.clearHalts_stp (s : State) : (s.clearHalts).stp = s.stp := rfl
@[simp] theorem State.clearHalts_scc (s : State) : (s.clearHalts).scc = s.scc := rfl
@[simp] theorem State.clearHalts_rings (s : State) : (s.clearHalts).rings = s.rings := rfl
@[simp] theorem State.clearHalts_lnk (s : State) : (s.clearHalts).lnk = s.lnk := rfl
@[simp] theorem State.clearHalts_mon (s : State) : (s.clearHalts).mon = s.mon := rfl
@[simp] theorem State.clearHalts_outq (s : State) : (s.clearHalts).outq = s.outq := rfl
@[simp] theorem State.clearHalts_nvm (s : State) : (s.clearHalts).nvm = s.nvm := rfl
@[simp] theorem State.clearHalts_hif (s : State) : (s.clearHalts).hif = s.hif := rfl
@[simp] theorem State.clearHalts_blw (s : State) : (s.clearHalts).blw = s.blw := rfl
@[simp] theorem State.clearHalts_rst (s : State) : (s.clearHalts).rst = s.rst := rfl
@[simp] theorem State.clearHalts_tst (s : State) : (s.clearHalts).tst = s.tst := rfl
@[simp] theorem State.clearHalts_race (s : State) : (s.clearHalts).race = s.race := rfl
@[simp] theorem State.clearHalts_draws (s : State) : (s.clearHalts).draws = s.draws := rfl
@[simp] theorem State.clearHalts_free (s : State) : (s.clearHalts).free = s.free := rfl
@[simp] theorem State.clearHalts_pending (s : State) : (s.clearHalts).pending = s.pending := rfl
@[simp] theorem State.beginTrans_mem (s : State) (t : TransK) :
    (s.beginTrans t).mem = s.mem := by unfold State.beginTrans; split <;> rfl
@[simp] theorem State.beginTrans_chk (s : State) (t : TransK) :
    (s.beginTrans t).chk = s.chk := by unfold State.beginTrans; split <;> rfl
@[simp] theorem State.beginTrans_fws (s : State) (t : TransK) :
    (s.beginTrans t).fws = s.fws := by unfold State.beginTrans; split <;> rfl
@[simp] theorem State.beginTrans_lws (s : State) (t : TransK) :
    (s.beginTrans t).lws = s.lws := by unfold State.beginTrans; split <;> rfl
@[simp] theorem State.beginTrans_stepBase (s : State) (t : TransK) :
    (s.beginTrans t).stepBase = s.stepBase := by unfold State.beginTrans; split <;> rfl
@[simp] theorem State.beginTrans_stepFirst (s : State) (t : TransK) :
    (s.beginTrans t).stepFirst = s.stepFirst := by unfold State.beginTrans; split <;> rfl
@[simp] theorem State.beginTrans_fwsAt (s : State) (t : TransK) :
    (s.beginTrans t).fwsAt = s.fwsAt := by unfold State.beginTrans; split <;> rfl
@[simp] theorem State.beginTrans_mm (s : State) (t : TransK) :
    (s.beginTrans t).mm = s.mm := by unfold State.beginTrans; split <;> rfl
@[simp] theorem State.beginTrans_job (s : State) (t : TransK) :
    (s.beginTrans t).job = s.job := by unfold State.beginTrans; split <;> rfl
@[simp] theorem State.beginTrans_stp (s : State) (t : TransK) :
    (s.beginTrans t).stp = s.stp := by unfold State.beginTrans; split <;> rfl
@[simp] theorem State.beginTrans_scc (s : State) (t : TransK) :
    (s.beginTrans t).scc = s.scc := by unfold State.beginTrans; split <;> rfl
@[simp] theorem State.beginTrans_rings (s : State) (t : TransK) :
    (s.beginTrans t).rings = s.rings := by unfold State.beginTrans; split <;> rfl
@[simp] theorem State.beginTrans_lnk (s : State) (t : TransK) :
    (s.beginTrans t).lnk = s.lnk := by unfold State.beginTrans; split <;> rfl
@[simp] theorem State.beginTrans_mon (s : State) (t : TransK) :
    (s.beginTrans t).mon = s.mon := by unfold State.beginTrans; split <;> rfl
@[simp] theorem State.beginTrans_outq (s : State) (t : TransK) :
    (s.beginTrans t).outq = s.outq := by unfold State.beginTrans; split <;> rfl
@[simp] theorem State.beginTrans_hif (s : State) (t : TransK) :
    (s.beginTrans t).hif = s.hif := by unfold State.beginTrans; split <;> rfl
@[simp] theorem State.beginTrans_blw (s : State) (t : TransK) :
    (s.beginTrans t).blw = s.blw := by unfold State.beginTrans; split <;> rfl
@[simp] theorem State.beginTrans_rst (s : State) (t : TransK) :
    (s.beginTrans t).rst = s.rst := by unfold State.beginTrans; split <;> rfl
@[simp] theorem State.beginTrans_tst (s : State) (t : TransK) :
    (s.beginTrans t).tst = s.tst := by unfold State.beginTrans; split <;> rfl
@[simp] theorem State.beginTrans_race (s : State) (t : TransK) :
    (s.beginTrans t).race = s.race := by unfold State.beginTrans; split <;> rfl
@[simp] theorem State.beginTrans_draws (s : State) (t : TransK) :
    (s.beginTrans t).draws = s.draws := by unfold State.beginTrans; split <;> rfl
@[simp] theorem State.beginTrans_free (s : State) (t : TransK) :
    (s.beginTrans t).free = s.free := by unfold State.beginTrans; split <;> rfl
@[simp] theorem State.beginTrans_pending (s : State) (t : TransK) :
    (s.beginTrans t).pending = s.pending := by unfold State.beginTrans; split <;> rfl
@[simp] theorem State.startTrans_mem (s : State) (t : TransK) :
    (s.startTrans t).mem = s.mem := by unfold State.startTrans; split <;> [exact State.beginTrans_mem _ _; rfl]
@[simp] theorem State.startTrans_chk (s : State) (t : TransK) :
    (s.startTrans t).chk = s.chk := by unfold State.startTrans; split <;> [exact State.beginTrans_chk _ _; rfl]
@[simp] theorem State.startTrans_fws (s : State) (t : TransK) :
    (s.startTrans t).fws = s.fws := by unfold State.startTrans; split <;> [exact State.beginTrans_fws _ _; rfl]
@[simp] theorem State.startTrans_lws (s : State) (t : TransK) :
    (s.startTrans t).lws = s.lws := by unfold State.startTrans; split <;> [exact State.beginTrans_lws _ _; rfl]
@[simp] theorem State.startTrans_stepBase (s : State) (t : TransK) :
    (s.startTrans t).stepBase = s.stepBase := by unfold State.startTrans; split <;> [exact State.beginTrans_stepBase _ _; rfl]
@[simp] theorem State.startTrans_stepFirst (s : State) (t : TransK) :
    (s.startTrans t).stepFirst = s.stepFirst := by unfold State.startTrans; split <;> [exact State.beginTrans_stepFirst _ _; rfl]
@[simp] theorem State.startTrans_fwsAt (s : State) (t : TransK) :
    (s.startTrans t).fwsAt = s.fwsAt := by unfold State.startTrans; split <;> [exact State.beginTrans_fwsAt _ _; rfl]
@[simp] theorem State.startTrans_mm (s : State) (t : TransK) :
    (s.startTrans t).mm = s.mm := by unfold State.startTrans; split <;> [exact State.beginTrans_mm _ _; rfl]
@[simp] theorem State.startTrans_job (s : State) (t : TransK) :
    (s.startTrans t).job = s.job := by unfold State.startTrans; split <;> [exact State.beginTrans_job _ _; rfl]
@[simp] theorem State.startTrans_stp (s : State) (t : TransK) :
    (s.startTrans t).stp = s.stp := by unfold State.startTrans; split <;> [exact State.beginTrans_stp _ _; rfl]
@[simp] theorem State.startTrans_scc (s : State) (t : TransK) :
    (s.startTrans t).scc = s.scc := by unfold State.startTrans; split <;> [exact State.beginTrans_scc _ _; rfl]
@[simp] theorem State.startTrans_rings (s : State) (t : TransK) :
    (s.startTrans t).rings = s.rings := by unfold State.startTrans; split <;> [exact State.beginTrans_rings _ _; rfl]
@[simp] theorem State.startTrans_lnk (s : State) (t : TransK) :
    (s.startTrans t).lnk = s.lnk := by unfold State.startTrans; split <;> [exact State.beginTrans_lnk _ _; rfl]
@[simp] theorem State.startTrans_mon (s : State) (t : TransK) :
    (s.startTrans t).mon = s.mon := by unfold State.startTrans; split <;> [exact State.beginTrans_mon _ _; rfl]
@[simp] theorem State.startTrans_outq (s : State) (t : TransK) :
    (s.startTrans t).outq = s.outq := by unfold State.startTrans; split <;> [exact State.beginTrans_outq _ _; rfl]
@[simp] theorem State.startTrans_hif (s : State) (t : TransK) :
    (s.startTrans t).hif = s.hif := by unfold State.startTrans; split <;> [exact State.beginTrans_hif _ _; rfl]
@[simp] theorem State.startTrans_blw (s : State) (t : TransK) :
    (s.startTrans t).blw = s.blw := by unfold State.startTrans; split <;> [exact State.beginTrans_blw _ _; rfl]
@[simp] theorem State.startTrans_rst (s : State) (t : TransK) :
    (s.startTrans t).rst = s.rst := by unfold State.startTrans; split <;> [exact State.beginTrans_rst _ _; rfl]
@[simp] theorem State.startTrans_tst (s : State) (t : TransK) :
    (s.startTrans t).tst = s.tst := by unfold State.startTrans; split <;> [exact State.beginTrans_tst _ _; rfl]
@[simp] theorem State.startTrans_race (s : State) (t : TransK) :
    (s.startTrans t).race = s.race := by unfold State.startTrans; split <;> [exact State.beginTrans_race _ _; rfl]
@[simp] theorem State.startTrans_draws (s : State) (t : TransK) :
    (s.startTrans t).draws = s.draws := by unfold State.startTrans; split <;> [exact State.beginTrans_draws _ _; rfl]
@[simp] theorem State.startTrans_free (s : State) (t : TransK) :
    (s.startTrans t).free = s.free := by unfold State.startTrans; split <;> [exact State.beginTrans_free _ _; rfl]
@[simp] theorem State.startTrans_pending (s : State) (t : TransK) :
    (s.startTrans t).pending = s.pending := by unfold State.startTrans; split <;> [exact State.beginTrans_pending _ _; rfl]
@[simp] theorem State.quarantine_mem (s : State) (cause : Nat) : (s.quarantine cause).mem = s.mem := by
  unfold State.quarantine
  split <;> [exact State.log_mem _ _ _ _; (split <;> [rfl; skip])]
  extract_lets p s1 s2
  refine (State.startTrans_mem ..).trans ((foldl_keeps (fun x : State => x.mem) _ (fun _ _ => State.startTrans_mem ..) _ _).trans ?_)
  exact (State.setStates_mem ..).trans ((State.clearMasks_mem _).trans (State.clearHalts_mem _))
@[simp] theorem State.quarantine_chk (s : State) (cause : Nat) : (s.quarantine cause).chk = s.chk := by
  unfold State.quarantine
  split <;> [exact State.log_chk _ _ _ _; (split <;> [rfl; skip])]
  extract_lets p s1 s2
  refine (State.startTrans_chk ..).trans ((foldl_keeps (fun x : State => x.chk) _ (fun _ _ => State.startTrans_chk ..) _ _).trans ?_)
  exact (State.setStates_chk ..).trans ((State.clearMasks_chk _).trans (State.clearHalts_chk _))
@[simp] theorem State.quarantine_fws (s : State) (cause : Nat) : (s.quarantine cause).fws = s.fws := by
  unfold State.quarantine
  split <;> [exact State.log_fws _ _ _ _; (split <;> [rfl; skip])]
  extract_lets p s1 s2
  refine (State.startTrans_fws ..).trans ((foldl_keeps (fun x : State => x.fws) _ (fun _ _ => State.startTrans_fws ..) _ _).trans ?_)
  exact (State.setStates_fws ..).trans ((State.clearMasks_fws _).trans (State.clearHalts_fws _))
@[simp] theorem State.quarantine_lws (s : State) (cause : Nat) : (s.quarantine cause).lws = s.lws := by
  unfold State.quarantine
  split <;> [exact State.log_lws _ _ _ _; (split <;> [rfl; skip])]
  extract_lets p s1 s2
  refine (State.startTrans_lws ..).trans ((foldl_keeps (fun x : State => x.lws) _ (fun _ _ => State.startTrans_lws ..) _ _).trans ?_)
  exact (State.setStates_lws ..).trans ((State.clearMasks_lws _).trans (State.clearHalts_lws _))
@[simp] theorem State.quarantine_stepBase (s : State) (cause : Nat) : (s.quarantine cause).stepBase = s.stepBase := by
  unfold State.quarantine
  split <;> [exact State.log_stepBase _ _ _ _; (split <;> [rfl; skip])]
  extract_lets p s1 s2
  refine (State.startTrans_stepBase ..).trans ((foldl_keeps (fun x : State => x.stepBase) _ (fun _ _ => State.startTrans_stepBase ..) _ _).trans ?_)
  exact (State.setStates_stepBase ..).trans ((State.clearMasks_stepBase _).trans (State.clearHalts_stepBase _))
@[simp] theorem State.quarantine_stepFirst (s : State) (cause : Nat) : (s.quarantine cause).stepFirst = s.stepFirst := by
  unfold State.quarantine
  split <;> [exact State.log_stepFirst _ _ _ _; (split <;> [rfl; skip])]
  extract_lets p s1 s2
  refine (State.startTrans_stepFirst ..).trans ((foldl_keeps (fun x : State => x.stepFirst) _ (fun _ _ => State.startTrans_stepFirst ..) _ _).trans ?_)
  exact (State.setStates_stepFirst ..).trans ((State.clearMasks_stepFirst _).trans (State.clearHalts_stepFirst _))
@[simp] theorem State.quarantine_fwsAt (s : State) (cause : Nat) : (s.quarantine cause).fwsAt = s.fwsAt := by
  unfold State.quarantine
  split <;> [exact State.log_fwsAt _ _ _ _; (split <;> [rfl; skip])]
  extract_lets p s1 s2
  refine (State.startTrans_fwsAt ..).trans ((foldl_keeps (fun x : State => x.fwsAt) _ (fun _ _ => State.startTrans_fwsAt ..) _ _).trans ?_)
  exact (State.setStates_fwsAt ..).trans ((State.clearMasks_fwsAt _).trans (State.clearHalts_fwsAt _))
@[simp] theorem State.quarantine_mm (s : State) (cause : Nat) : (s.quarantine cause).mm = s.mm := by
  unfold State.quarantine
  split <;> [exact State.log_mm _ _ _ _; (split <;> [rfl; skip])]
  extract_lets p s1 s2
  refine (State.startTrans_mm ..).trans ((foldl_keeps (fun x : State => x.mm) _ (fun _ _ => State.startTrans_mm ..) _ _).trans ?_)
  exact (State.setStates_mm ..).trans ((State.clearMasks_mm _).trans (State.clearHalts_mm _))
@[simp] theorem State.quarantine_stp (s : State) (cause : Nat) : (s.quarantine cause).stp = s.stp := by
  unfold State.quarantine
  split <;> [exact State.log_stp _ _ _ _; (split <;> [rfl; skip])]
  extract_lets p s1 s2
  refine (State.startTrans_stp ..).trans ((foldl_keeps (fun x : State => x.stp) _ (fun _ _ => State.startTrans_stp ..) _ _).trans ?_)
  exact (State.setStates_stp ..).trans ((State.clearMasks_stp _).trans (State.clearHalts_stp _))
@[simp] theorem State.quarantine_scc (s : State) (cause : Nat) : (s.quarantine cause).scc = s.scc := by
  unfold State.quarantine
  split <;> [exact State.log_scc _ _ _ _; (split <;> [rfl; skip])]
  extract_lets p s1 s2
  refine (State.startTrans_scc ..).trans ((foldl_keeps (fun x : State => x.scc) _ (fun _ _ => State.startTrans_scc ..) _ _).trans ?_)
  exact (State.setStates_scc ..).trans ((State.clearMasks_scc _).trans (State.clearHalts_scc _))
@[simp] theorem State.quarantine_lnk (s : State) (cause : Nat) : (s.quarantine cause).lnk = s.lnk := by
  unfold State.quarantine
  split <;> [exact State.log_lnk _ _ _ _; (split <;> [rfl; skip])]
  extract_lets p s1 s2
  refine (State.startTrans_lnk ..).trans ((foldl_keeps (fun x : State => x.lnk) _ (fun _ _ => State.startTrans_lnk ..) _ _).trans ?_)
  exact (State.setStates_lnk ..).trans ((State.clearMasks_lnk _).trans (State.clearHalts_lnk _))
@[simp] theorem State.quarantine_outq (s : State) (cause : Nat) : (s.quarantine cause).outq = s.outq := by
  unfold State.quarantine
  split <;> [exact State.log_outq _ _ _ _; (split <;> [rfl; skip])]
  extract_lets p s1 s2
  refine (State.startTrans_outq ..).trans ((foldl_keeps (fun x : State => x.outq) _ (fun _ _ => State.startTrans_outq ..) _ _).trans ?_)
  exact (State.setStates_outq ..).trans ((State.clearMasks_outq _).trans (State.clearHalts_outq _))
@[simp] theorem State.quarantine_blw (s : State) (cause : Nat) : (s.quarantine cause).blw = s.blw := by
  unfold State.quarantine
  split <;> [exact State.log_blw _ _ _ _; (split <;> [rfl; skip])]
  extract_lets p s1 s2
  refine (State.startTrans_blw ..).trans ((foldl_keeps (fun x : State => x.blw) _ (fun _ _ => State.startTrans_blw ..) _ _).trans ?_)
  exact (State.setStates_blw ..).trans ((State.clearMasks_blw _).trans (State.clearHalts_blw _))
@[simp] theorem State.quarantine_tst (s : State) (cause : Nat) : (s.quarantine cause).tst = s.tst := by
  unfold State.quarantine
  split <;> [exact State.log_tst _ _ _ _; (split <;> [rfl; skip])]
  extract_lets p s1 s2
  refine (State.startTrans_tst ..).trans ((foldl_keeps (fun x : State => x.tst) _ (fun _ _ => State.startTrans_tst ..) _ _).trans ?_)
  exact (State.setStates_tst ..).trans ((State.clearMasks_tst _).trans (State.clearHalts_tst _))
@[simp] theorem State.quarantine_race (s : State) (cause : Nat) : (s.quarantine cause).race = s.race := by
  unfold State.quarantine
  split <;> [exact State.log_race _ _ _ _; (split <;> [rfl; skip])]
  extract_lets p s1 s2
  refine (State.startTrans_race ..).trans ((foldl_keeps (fun x : State => x.race) _ (fun _ _ => State.startTrans_race ..) _ _).trans ?_)
  exact (State.setStates_race ..).trans ((State.clearMasks_race _).trans (State.clearHalts_race _))
@[simp] theorem State.quarantine_draws (s : State) (cause : Nat) : (s.quarantine cause).draws = s.draws := by
  unfold State.quarantine
  split <;> [exact State.log_draws _ _ _ _; (split <;> [rfl; skip])]
  extract_lets p s1 s2
  refine (State.startTrans_draws ..).trans ((foldl_keeps (fun x : State => x.draws) _ (fun _ _ => State.startTrans_draws ..) _ _).trans ?_)
  exact (State.setStates_draws ..).trans ((State.clearMasks_draws _).trans (State.clearHalts_draws _))
@[simp] theorem State.quarantine_free (s : State) (cause : Nat) : (s.quarantine cause).free = s.free := by
  unfold State.quarantine
  split <;> [exact State.log_free _ _ _ _; (split <;> [rfl; skip])]
  extract_lets p s1 s2
  refine (State.startTrans_free ..).trans ((foldl_keeps (fun x : State => x.free) _ (fun _ _ => State.startTrans_free ..) _ _).trans ?_)
  exact (State.setStates_free ..).trans ((State.clearMasks_free _).trans (State.clearHalts_free _))
@[simp] theorem State.quarantine_pending (s : State) (cause : Nat) : (s.quarantine cause).pending = s.pending := by
  unfold State.quarantine
  split <;> [exact State.log_pending _ _ _ _; (split <;> [rfl; skip])]
  extract_lets p s1 s2
  refine (State.startTrans_pending ..).trans ((foldl_keeps (fun x : State => x.pending) _ (fun _ _ => State.startTrans_pending ..) _ _).trans ?_)
  exact (State.setStates_pending ..).trans ((State.clearMasks_pending _).trans (State.clearHalts_pending _))
@[simp] theorem State.macFail_mem (s : State) (a : Nat) (core : W16) :
    (s.macFail a core).mem = s.mem := by unfold State.macFail; extract_lets s1; split <;> [exact (State.quarantine_mem ..).trans (State.raise_mem ..); exact (State.quarantine_mem ..).trans (State.raise_mem ..); exact State.raise_mem ..]
@[simp] theorem State.macFail_chk (s : State) (a : Nat) (core : W16) :
    (s.macFail a core).chk = s.chk := by unfold State.macFail; extract_lets s1; split <;> [exact (State.quarantine_chk ..).trans (State.raise_chk ..); exact (State.quarantine_chk ..).trans (State.raise_chk ..); exact State.raise_chk ..]
@[simp] theorem State.macFail_fws (s : State) (a : Nat) (core : W16) :
    (s.macFail a core).fws = s.fws := by unfold State.macFail; extract_lets s1; split <;> [exact (State.quarantine_fws ..).trans (State.raise_fws ..); exact (State.quarantine_fws ..).trans (State.raise_fws ..); exact State.raise_fws ..]
@[simp] theorem State.macFail_lws (s : State) (a : Nat) (core : W16) :
    (s.macFail a core).lws = s.lws := by unfold State.macFail; extract_lets s1; split <;> [exact (State.quarantine_lws ..).trans (State.raise_lws ..); exact (State.quarantine_lws ..).trans (State.raise_lws ..); exact State.raise_lws ..]
@[simp] theorem State.macFail_stepBase (s : State) (a : Nat) (core : W16) :
    (s.macFail a core).stepBase = s.stepBase := by unfold State.macFail; extract_lets s1; split <;> [exact (State.quarantine_stepBase ..).trans (State.raise_stepBase ..); exact (State.quarantine_stepBase ..).trans (State.raise_stepBase ..); exact State.raise_stepBase ..]
@[simp] theorem State.macFail_stepFirst (s : State) (a : Nat) (core : W16) :
    (s.macFail a core).stepFirst = s.stepFirst := by unfold State.macFail; extract_lets s1; split <;> [exact (State.quarantine_stepFirst ..).trans (State.raise_stepFirst ..); exact (State.quarantine_stepFirst ..).trans (State.raise_stepFirst ..); exact State.raise_stepFirst ..]
@[simp] theorem State.macFail_fwsAt (s : State) (a : Nat) (core : W16) :
    (s.macFail a core).fwsAt = s.fwsAt := by unfold State.macFail; extract_lets s1; split <;> [exact (State.quarantine_fwsAt ..).trans (State.raise_fwsAt ..); exact (State.quarantine_fwsAt ..).trans (State.raise_fwsAt ..); exact State.raise_fwsAt ..]
@[simp] theorem State.macFail_stp (s : State) (a : Nat) (core : W16) :
    (s.macFail a core).stp = s.stp := by unfold State.macFail; extract_lets s1; split <;> [exact (State.quarantine_stp ..).trans (State.raise_stp ..); exact (State.quarantine_stp ..).trans (State.raise_stp ..); exact State.raise_stp ..]
@[simp] theorem State.macFail_scc (s : State) (a : Nat) (core : W16) :
    (s.macFail a core).scc = s.scc := by unfold State.macFail; extract_lets s1; split <;> [exact (State.quarantine_scc ..).trans (State.raise_scc ..); exact (State.quarantine_scc ..).trans (State.raise_scc ..); exact State.raise_scc ..]
@[simp] theorem State.macFail_lnk (s : State) (a : Nat) (core : W16) :
    (s.macFail a core).lnk = s.lnk := by unfold State.macFail; extract_lets s1; split <;> [exact (State.quarantine_lnk ..).trans (State.raise_lnk ..); exact (State.quarantine_lnk ..).trans (State.raise_lnk ..); exact State.raise_lnk ..]
@[simp] theorem State.macFail_outq (s : State) (a : Nat) (core : W16) :
    (s.macFail a core).outq = s.outq := by unfold State.macFail; extract_lets s1; split <;> [exact (State.quarantine_outq ..).trans (State.raise_outq ..); exact (State.quarantine_outq ..).trans (State.raise_outq ..); exact State.raise_outq ..]
@[simp] theorem State.macFail_blw (s : State) (a : Nat) (core : W16) :
    (s.macFail a core).blw = s.blw := by unfold State.macFail; extract_lets s1; split <;> [exact (State.quarantine_blw ..).trans (State.raise_blw ..); exact (State.quarantine_blw ..).trans (State.raise_blw ..); exact State.raise_blw ..]
@[simp] theorem State.macFail_tst (s : State) (a : Nat) (core : W16) :
    (s.macFail a core).tst = s.tst := by unfold State.macFail; extract_lets s1; split <;> [exact (State.quarantine_tst ..).trans (State.raise_tst ..); exact (State.quarantine_tst ..).trans (State.raise_tst ..); exact State.raise_tst ..]
@[simp] theorem State.macFail_race (s : State) (a : Nat) (core : W16) :
    (s.macFail a core).race = s.race := by unfold State.macFail; extract_lets s1; split <;> [exact (State.quarantine_race ..).trans (State.raise_race ..); exact (State.quarantine_race ..).trans (State.raise_race ..); exact State.raise_race ..]
@[simp] theorem State.macFail_draws (s : State) (a : Nat) (core : W16) :
    (s.macFail a core).draws = s.draws := by unfold State.macFail; extract_lets s1; split <;> [exact (State.quarantine_draws ..).trans (State.raise_draws ..); exact (State.quarantine_draws ..).trans (State.raise_draws ..); exact State.raise_draws ..]
@[simp] theorem State.macFail_free (s : State) (a : Nat) (core : W16) :
    (s.macFail a core).free = s.free := by unfold State.macFail; extract_lets s1; split <;> [exact (State.quarantine_free ..).trans (State.raise_free ..); exact (State.quarantine_free ..).trans (State.raise_free ..); exact State.raise_free ..]
@[simp] theorem State.macFail_pending (s : State) (a : Nat) (core : W16) :
    (s.macFail a core).pending = s.pending := by unfold State.macFail; extract_lets s1; split <;> [exact (State.quarantine_pending ..).trans (State.raise_pending ..); exact (State.quarantine_pending ..).trans (State.raise_pending ..); exact State.raise_pending ..]
@[simp] theorem State.countViol_mem (s : State) :
    (s.countViol).mem = s.mem := by unfold State.countViol; extract_lets; split <;> [exact State.quarantine_mem _ _; rfl]
@[simp] theorem State.countViol_chk (s : State) :
    (s.countViol).chk = s.chk := by unfold State.countViol; extract_lets; split <;> [exact State.quarantine_chk _ _; rfl]
@[simp] theorem State.countViol_fws (s : State) :
    (s.countViol).fws = s.fws := by unfold State.countViol; extract_lets; split <;> [exact State.quarantine_fws _ _; rfl]
@[simp] theorem State.countViol_lws (s : State) :
    (s.countViol).lws = s.lws := by unfold State.countViol; extract_lets; split <;> [exact State.quarantine_lws _ _; rfl]
@[simp] theorem State.countViol_stepBase (s : State) :
    (s.countViol).stepBase = s.stepBase := by unfold State.countViol; extract_lets; split <;> [exact State.quarantine_stepBase _ _; rfl]
@[simp] theorem State.countViol_stepFirst (s : State) :
    (s.countViol).stepFirst = s.stepFirst := by unfold State.countViol; extract_lets; split <;> [exact State.quarantine_stepFirst _ _; rfl]
@[simp] theorem State.countViol_fwsAt (s : State) :
    (s.countViol).fwsAt = s.fwsAt := by unfold State.countViol; extract_lets; split <;> [exact State.quarantine_fwsAt _ _; rfl]
@[simp] theorem State.countViol_mm (s : State) :
    (s.countViol).mm = s.mm := by unfold State.countViol; extract_lets; split <;> [exact State.quarantine_mm _ _; rfl]
@[simp] theorem State.countViol_stp (s : State) :
    (s.countViol).stp = s.stp := by unfold State.countViol; extract_lets; split <;> [exact State.quarantine_stp _ _; rfl]
@[simp] theorem State.countViol_scc (s : State) :
    (s.countViol).scc = s.scc := by unfold State.countViol; extract_lets; split <;> [exact State.quarantine_scc _ _; rfl]
@[simp] theorem State.countViol_lnk (s : State) :
    (s.countViol).lnk = s.lnk := by unfold State.countViol; extract_lets; split <;> [exact State.quarantine_lnk _ _; rfl]
@[simp] theorem State.countViol_outq (s : State) :
    (s.countViol).outq = s.outq := by unfold State.countViol; extract_lets; split <;> [exact State.quarantine_outq _ _; rfl]
@[simp] theorem State.countViol_blw (s : State) :
    (s.countViol).blw = s.blw := by unfold State.countViol; extract_lets; split <;> [exact State.quarantine_blw _ _; rfl]
@[simp] theorem State.countViol_tst (s : State) :
    (s.countViol).tst = s.tst := by unfold State.countViol; extract_lets; split <;> [exact State.quarantine_tst _ _; rfl]
@[simp] theorem State.countViol_race (s : State) :
    (s.countViol).race = s.race := by unfold State.countViol; extract_lets; split <;> [exact State.quarantine_race _ _; rfl]
@[simp] theorem State.countViol_draws (s : State) :
    (s.countViol).draws = s.draws := by unfold State.countViol; extract_lets; split <;> [exact State.quarantine_draws _ _; rfl]
@[simp] theorem State.countViol_free (s : State) :
    (s.countViol).free = s.free := by unfold State.countViol; extract_lets; split <;> [exact State.quarantine_free _ _; rfl]
@[simp] theorem State.countViol_pending (s : State) :
    (s.countViol).pending = s.pending := by unfold State.countViol; extract_lets; split <;> [exact State.quarantine_pending _ _; rfl]
@[simp] theorem State.violateCmd_mem (s : State) (k : CoreId) (code : Nat) (tag : W32) (iter : List W32) (handle : W16) (addr : Nat) :
    (s.violateCmd k code tag iter handle addr).mem = s.mem := by unfold State.violateCmd; exact (State.countViol_mem _).trans (State.raise_mem ..)
@[simp] theorem State.violateCmd_chk (s : State) (k : CoreId) (code : Nat) (tag : W32) (iter : List W32) (handle : W16) (addr : Nat) :
    (s.violateCmd k code tag iter handle addr).chk = s.chk := by unfold State.violateCmd; exact (State.countViol_chk _).trans (State.raise_chk ..)
@[simp] theorem State.violateCmd_fws (s : State) (k : CoreId) (code : Nat) (tag : W32) (iter : List W32) (handle : W16) (addr : Nat) :
    (s.violateCmd k code tag iter handle addr).fws = s.fws := by unfold State.violateCmd; exact (State.countViol_fws _).trans (State.raise_fws ..)
@[simp] theorem State.violateCmd_lws (s : State) (k : CoreId) (code : Nat) (tag : W32) (iter : List W32) (handle : W16) (addr : Nat) :
    (s.violateCmd k code tag iter handle addr).lws = s.lws := by unfold State.violateCmd; exact (State.countViol_lws _).trans (State.raise_lws ..)
@[simp] theorem State.violateCmd_stepBase (s : State) (k : CoreId) (code : Nat) (tag : W32) (iter : List W32) (handle : W16) (addr : Nat) :
    (s.violateCmd k code tag iter handle addr).stepBase = s.stepBase := by unfold State.violateCmd; exact (State.countViol_stepBase _).trans (State.raise_stepBase ..)
@[simp] theorem State.violateCmd_stepFirst (s : State) (k : CoreId) (code : Nat) (tag : W32) (iter : List W32) (handle : W16) (addr : Nat) :
    (s.violateCmd k code tag iter handle addr).stepFirst = s.stepFirst := by unfold State.violateCmd; exact (State.countViol_stepFirst _).trans (State.raise_stepFirst ..)
@[simp] theorem State.violateCmd_fwsAt (s : State) (k : CoreId) (code : Nat) (tag : W32) (iter : List W32) (handle : W16) (addr : Nat) :
    (s.violateCmd k code tag iter handle addr).fwsAt = s.fwsAt := by unfold State.violateCmd; exact (State.countViol_fwsAt _).trans (State.raise_fwsAt ..)
@[simp] theorem State.violateCmd_mm (s : State) (k : CoreId) (code : Nat) (tag : W32) (iter : List W32) (handle : W16) (addr : Nat) :
    (s.violateCmd k code tag iter handle addr).mm = s.mm := by unfold State.violateCmd; exact (State.countViol_mm _).trans (State.raise_mm ..)
@[simp] theorem State.violateCmd_stp (s : State) (k : CoreId) (code : Nat) (tag : W32) (iter : List W32) (handle : W16) (addr : Nat) :
    (s.violateCmd k code tag iter handle addr).stp = s.stp := by unfold State.violateCmd; exact (State.countViol_stp _).trans (State.raise_stp ..)
@[simp] theorem State.violateCmd_scc (s : State) (k : CoreId) (code : Nat) (tag : W32) (iter : List W32) (handle : W16) (addr : Nat) :
    (s.violateCmd k code tag iter handle addr).scc = s.scc := by unfold State.violateCmd; exact (State.countViol_scc _).trans (State.raise_scc ..)
@[simp] theorem State.violateCmd_lnk (s : State) (k : CoreId) (code : Nat) (tag : W32) (iter : List W32) (handle : W16) (addr : Nat) :
    (s.violateCmd k code tag iter handle addr).lnk = s.lnk := by unfold State.violateCmd; exact (State.countViol_lnk _).trans (State.raise_lnk ..)
@[simp] theorem State.violateCmd_outq (s : State) (k : CoreId) (code : Nat) (tag : W32) (iter : List W32) (handle : W16) (addr : Nat) :
    (s.violateCmd k code tag iter handle addr).outq = s.outq := by unfold State.violateCmd; exact (State.countViol_outq _).trans (State.raise_outq ..)
@[simp] theorem State.violateCmd_blw (s : State) (k : CoreId) (code : Nat) (tag : W32) (iter : List W32) (handle : W16) (addr : Nat) :
    (s.violateCmd k code tag iter handle addr).blw = s.blw := by unfold State.violateCmd; exact (State.countViol_blw _).trans (State.raise_blw ..)
@[simp] theorem State.violateCmd_tst (s : State) (k : CoreId) (code : Nat) (tag : W32) (iter : List W32) (handle : W16) (addr : Nat) :
    (s.violateCmd k code tag iter handle addr).tst = s.tst := by unfold State.violateCmd; exact (State.countViol_tst _).trans (State.raise_tst ..)
@[simp] theorem State.violateCmd_race (s : State) (k : CoreId) (code : Nat) (tag : W32) (iter : List W32) (handle : W16) (addr : Nat) :
    (s.violateCmd k code tag iter handle addr).race = s.race := by unfold State.violateCmd; exact (State.countViol_race _).trans (State.raise_race ..)
@[simp] theorem State.violateCmd_draws (s : State) (k : CoreId) (code : Nat) (tag : W32) (iter : List W32) (handle : W16) (addr : Nat) :
    (s.violateCmd k code tag iter handle addr).draws = s.draws := by unfold State.violateCmd; exact (State.countViol_draws _).trans (State.raise_draws ..)
@[simp] theorem State.violateCmd_free (s : State) (k : CoreId) (code : Nat) (tag : W32) (iter : List W32) (handle : W16) (addr : Nat) :
    (s.violateCmd k code tag iter handle addr).free = s.free := by unfold State.violateCmd; exact (State.countViol_free _).trans (State.raise_free ..)
@[simp] theorem State.violateCmd_pending (s : State) (k : CoreId) (code : Nat) (tag : W32) (iter : List W32) (handle : W16) (addr : Nat) :
    (s.violateCmd k code tag iter handle addr).pending = s.pending := by unfold State.violateCmd; exact (State.countViol_pending _).trans (State.raise_pending ..)
@[simp] theorem State.violateSkd_mem (s : State) (k : CoreId) (code : Nat) (tag : W32) (iter : List W32) (handle : W16) (addr : Nat) :
    (s.violateSkd k code tag iter handle addr).mem = s.mem := by unfold State.violateSkd; exact (State.countViol_mem _).trans (State.raise_mem ..)
@[simp] theorem State.violateSkd_chk (s : State) (k : CoreId) (code : Nat) (tag : W32) (iter : List W32) (handle : W16) (addr : Nat) :
    (s.violateSkd k code tag iter handle addr).chk = s.chk := by unfold State.violateSkd; exact (State.countViol_chk _).trans (State.raise_chk ..)
@[simp] theorem State.violateSkd_fws (s : State) (k : CoreId) (code : Nat) (tag : W32) (iter : List W32) (handle : W16) (addr : Nat) :
    (s.violateSkd k code tag iter handle addr).fws = s.fws := by unfold State.violateSkd; exact (State.countViol_fws _).trans (State.raise_fws ..)
@[simp] theorem State.violateSkd_lws (s : State) (k : CoreId) (code : Nat) (tag : W32) (iter : List W32) (handle : W16) (addr : Nat) :
    (s.violateSkd k code tag iter handle addr).lws = s.lws := by unfold State.violateSkd; exact (State.countViol_lws _).trans (State.raise_lws ..)
@[simp] theorem State.violateSkd_stepBase (s : State) (k : CoreId) (code : Nat) (tag : W32) (iter : List W32) (handle : W16) (addr : Nat) :
    (s.violateSkd k code tag iter handle addr).stepBase = s.stepBase := by unfold State.violateSkd; exact (State.countViol_stepBase _).trans (State.raise_stepBase ..)
@[simp] theorem State.violateSkd_stepFirst (s : State) (k : CoreId) (code : Nat) (tag : W32) (iter : List W32) (handle : W16) (addr : Nat) :
    (s.violateSkd k code tag iter handle addr).stepFirst = s.stepFirst := by unfold State.violateSkd; exact (State.countViol_stepFirst _).trans (State.raise_stepFirst ..)
@[simp] theorem State.violateSkd_fwsAt (s : State) (k : CoreId) (code : Nat) (tag : W32) (iter : List W32) (handle : W16) (addr : Nat) :
    (s.violateSkd k code tag iter handle addr).fwsAt = s.fwsAt := by unfold State.violateSkd; exact (State.countViol_fwsAt _).trans (State.raise_fwsAt ..)
@[simp] theorem State.violateSkd_mm (s : State) (k : CoreId) (code : Nat) (tag : W32) (iter : List W32) (handle : W16) (addr : Nat) :
    (s.violateSkd k code tag iter handle addr).mm = s.mm := by unfold State.violateSkd; exact (State.countViol_mm _).trans (State.raise_mm ..)
@[simp] theorem State.violateSkd_stp (s : State) (k : CoreId) (code : Nat) (tag : W32) (iter : List W32) (handle : W16) (addr : Nat) :
    (s.violateSkd k code tag iter handle addr).stp = s.stp := by unfold State.violateSkd; exact (State.countViol_stp _).trans (State.raise_stp ..)
@[simp] theorem State.violateSkd_scc (s : State) (k : CoreId) (code : Nat) (tag : W32) (iter : List W32) (handle : W16) (addr : Nat) :
    (s.violateSkd k code tag iter handle addr).scc = s.scc := by unfold State.violateSkd; exact (State.countViol_scc _).trans (State.raise_scc ..)
@[simp] theorem State.violateSkd_lnk (s : State) (k : CoreId) (code : Nat) (tag : W32) (iter : List W32) (handle : W16) (addr : Nat) :
    (s.violateSkd k code tag iter handle addr).lnk = s.lnk := by unfold State.violateSkd; exact (State.countViol_lnk _).trans (State.raise_lnk ..)
@[simp] theorem State.violateSkd_outq (s : State) (k : CoreId) (code : Nat) (tag : W32) (iter : List W32) (handle : W16) (addr : Nat) :
    (s.violateSkd k code tag iter handle addr).outq = s.outq := by unfold State.violateSkd; exact (State.countViol_outq _).trans (State.raise_outq ..)
@[simp] theorem State.violateSkd_blw (s : State) (k : CoreId) (code : Nat) (tag : W32) (iter : List W32) (handle : W16) (addr : Nat) :
    (s.violateSkd k code tag iter handle addr).blw = s.blw := by unfold State.violateSkd; exact (State.countViol_blw _).trans (State.raise_blw ..)
@[simp] theorem State.violateSkd_tst (s : State) (k : CoreId) (code : Nat) (tag : W32) (iter : List W32) (handle : W16) (addr : Nat) :
    (s.violateSkd k code tag iter handle addr).tst = s.tst := by unfold State.violateSkd; exact (State.countViol_tst _).trans (State.raise_tst ..)
@[simp] theorem State.violateSkd_race (s : State) (k : CoreId) (code : Nat) (tag : W32) (iter : List W32) (handle : W16) (addr : Nat) :
    (s.violateSkd k code tag iter handle addr).race = s.race := by unfold State.violateSkd; exact (State.countViol_race _).trans (State.raise_race ..)
@[simp] theorem State.violateSkd_draws (s : State) (k : CoreId) (code : Nat) (tag : W32) (iter : List W32) (handle : W16) (addr : Nat) :
    (s.violateSkd k code tag iter handle addr).draws = s.draws := by unfold State.violateSkd; exact (State.countViol_draws _).trans (State.raise_draws ..)
@[simp] theorem State.violateSkd_free (s : State) (k : CoreId) (code : Nat) (tag : W32) (iter : List W32) (handle : W16) (addr : Nat) :
    (s.violateSkd k code tag iter handle addr).free = s.free := by unfold State.violateSkd; exact (State.countViol_free _).trans (State.raise_free ..)
@[simp] theorem State.violateSkd_pending (s : State) (k : CoreId) (code : Nat) (tag : W32) (iter : List W32) (handle : W16) (addr : Nat) :
    (s.violateSkd k code tag iter handle addr).pending = s.pending := by unfold State.violateSkd; exact (State.countViol_pending _).trans (State.raise_pending ..)
@[simp] theorem State.setBlw_mem (s : State) (b : Blw) : (s.setBlw b).mem = s.mem := rfl
@[simp] theorem State.setBlw_chk (s : State) (b : Blw) : (s.setBlw b).chk = s.chk := rfl
@[simp] theorem State.setBlw_fws (s : State) (b : Blw) : (s.setBlw b).fws = s.fws := rfl
@[simp] theorem State.setBlw_lws (s : State) (b : Blw) : (s.setBlw b).lws = s.lws := rfl
@[simp] theorem State.setBlw_stepBase (s : State) (b : Blw) : (s.setBlw b).stepBase = s.stepBase := rfl
@[simp] theorem State.setBlw_stepFirst (s : State) (b : Blw) : (s.setBlw b).stepFirst = s.stepFirst := rfl
@[simp] theorem State.setBlw_fwsAt (s : State) (b : Blw) : (s.setBlw b).fwsAt = s.fwsAt := rfl
@[simp] theorem State.setBlw_mm (s : State) (b : Blw) : (s.setBlw b).mm = s.mm := rfl
@[simp] theorem State.setBlw_cores (s : State) (b : Blw) : (s.setBlw b).cores = s.cores := rfl
@[simp] theorem State.setBlw_job (s : State) (b : Blw) : (s.setBlw b).job = s.job := rfl
@[simp] theorem State.setBlw_stp (s : State) (b : Blw) : (s.setBlw b).stp = s.stp := rfl
@[simp] theorem State.setBlw_scc (s : State) (b : Blw) : (s.setBlw b).scc = s.scc := rfl
@[simp] theorem State.setBlw_rings (s : State) (b : Blw) : (s.setBlw b).rings = s.rings := rfl
@[simp] theorem State.setBlw_lnk (s : State) (b : Blw) : (s.setBlw b).lnk = s.lnk := rfl
@[simp] theorem State.setBlw_mon (s : State) (b : Blw) : (s.setBlw b).mon = s.mon := rfl
@[simp] theorem State.setBlw_outq (s : State) (b : Blw) : (s.setBlw b).outq = s.outq := rfl
@[simp] theorem State.setBlw_sec (s : State) (b : Blw) : (s.setBlw b).sec = s.sec := rfl
@[simp] theorem State.setBlw_nvm (s : State) (b : Blw) : (s.setBlw b).nvm = s.nvm := rfl
@[simp] theorem State.setBlw_hif (s : State) (b : Blw) : (s.setBlw b).hif = s.hif := rfl
@[simp] theorem State.setBlw_rst (s : State) (b : Blw) : (s.setBlw b).rst = s.rst := rfl
@[simp] theorem State.setBlw_tst (s : State) (b : Blw) : (s.setBlw b).tst = s.tst := rfl
@[simp] theorem State.setBlw_race (s : State) (b : Blw) : (s.setBlw b).race = s.race := rfl
@[simp] theorem State.setBlw_draws (s : State) (b : Blw) : (s.setBlw b).draws = s.draws := rfl
@[simp] theorem State.setBlw_free (s : State) (b : Blw) : (s.setBlw b).free = s.free := rfl
@[simp] theorem State.setBlw_pending (s : State) (b : Blw) : (s.setBlw b).pending = s.pending := rfl
@[simp] theorem State.setPort_mem (s : State) (p : Nat) (x : Port) : (s.setPort p x).mem = s.mem := rfl
@[simp] theorem State.setPort_chk (s : State) (p : Nat) (x : Port) : (s.setPort p x).chk = s.chk := rfl
@[simp] theorem State.setPort_fws (s : State) (p : Nat) (x : Port) : (s.setPort p x).fws = s.fws := rfl
@[simp] theorem State.setPort_lws (s : State) (p : Nat) (x : Port) : (s.setPort p x).lws = s.lws := rfl
@[simp] theorem State.setPort_stepBase (s : State) (p : Nat) (x : Port) : (s.setPort p x).stepBase = s.stepBase := rfl
@[simp] theorem State.setPort_stepFirst (s : State) (p : Nat) (x : Port) : (s.setPort p x).stepFirst = s.stepFirst := rfl
@[simp] theorem State.setPort_fwsAt (s : State) (p : Nat) (x : Port) : (s.setPort p x).fwsAt = s.fwsAt := rfl
@[simp] theorem State.setPort_mm (s : State) (p : Nat) (x : Port) : (s.setPort p x).mm = s.mm := rfl
@[simp] theorem State.setPort_cores (s : State) (p : Nat) (x : Port) : (s.setPort p x).cores = s.cores := rfl
@[simp] theorem State.setPort_job (s : State) (p : Nat) (x : Port) : (s.setPort p x).job = s.job := rfl
@[simp] theorem State.setPort_stp (s : State) (p : Nat) (x : Port) : (s.setPort p x).stp = s.stp := rfl
@[simp] theorem State.setPort_scc (s : State) (p : Nat) (x : Port) : (s.setPort p x).scc = s.scc := rfl
@[simp] theorem State.setPort_rings (s : State) (p : Nat) (x : Port) : (s.setPort p x).rings = s.rings := rfl
@[simp] theorem State.setPort_mon (s : State) (p : Nat) (x : Port) : (s.setPort p x).mon = s.mon := rfl
@[simp] theorem State.setPort_outq (s : State) (p : Nat) (x : Port) : (s.setPort p x).outq = s.outq := rfl
@[simp] theorem State.setPort_sec (s : State) (p : Nat) (x : Port) : (s.setPort p x).sec = s.sec := rfl
@[simp] theorem State.setPort_nvm (s : State) (p : Nat) (x : Port) : (s.setPort p x).nvm = s.nvm := rfl
@[simp] theorem State.setPort_hif (s : State) (p : Nat) (x : Port) : (s.setPort p x).hif = s.hif := rfl
@[simp] theorem State.setPort_blw (s : State) (p : Nat) (x : Port) : (s.setPort p x).blw = s.blw := rfl
@[simp] theorem State.setPort_rst (s : State) (p : Nat) (x : Port) : (s.setPort p x).rst = s.rst := rfl
@[simp] theorem State.setPort_tst (s : State) (p : Nat) (x : Port) : (s.setPort p x).tst = s.tst := rfl
@[simp] theorem State.setPort_race (s : State) (p : Nat) (x : Port) : (s.setPort p x).race = s.race := rfl
@[simp] theorem State.setPort_draws (s : State) (p : Nat) (x : Port) : (s.setPort p x).draws = s.draws := rfl
@[simp] theorem State.setPort_free (s : State) (p : Nat) (x : Port) : (s.setPort p x).free = s.free := rfl
@[simp] theorem State.setPort_pending (s : State) (p : Nat) (x : Port) : (s.setPort p x).pending = s.pending := rfl
@[simp] theorem State.modPort_mem (s : State) (p : Nat) (f : Port → Port) : (s.modPort p f).mem = s.mem := rfl
@[simp] theorem State.modPort_chk (s : State) (p : Nat) (f : Port → Port) : (s.modPort p f).chk = s.chk := rfl
@[simp] theorem State.modPort_fws (s : State) (p : Nat) (f : Port → Port) : (s.modPort p f).fws = s.fws := rfl
@[simp] theorem State.modPort_lws (s : State) (p : Nat) (f : Port → Port) : (s.modPort p f).lws = s.lws := rfl
@[simp] theorem State.modPort_stepBase (s : State) (p : Nat) (f : Port → Port) :
    (s.modPort p f).stepBase = s.stepBase := rfl
@[simp] theorem State.modPort_stepFirst (s : State) (p : Nat) (f : Port → Port) :
    (s.modPort p f).stepFirst = s.stepFirst := rfl
@[simp] theorem State.modPort_fwsAt (s : State) (p : Nat) (f : Port → Port) : (s.modPort p f).fwsAt = s.fwsAt := rfl
@[simp] theorem State.modPort_mm (s : State) (p : Nat) (f : Port → Port) : (s.modPort p f).mm = s.mm := rfl
@[simp] theorem State.modPort_cores (s : State) (p : Nat) (f : Port → Port) : (s.modPort p f).cores = s.cores := rfl
@[simp] theorem State.modPort_job (s : State) (p : Nat) (f : Port → Port) : (s.modPort p f).job = s.job := rfl
@[simp] theorem State.modPort_stp (s : State) (p : Nat) (f : Port → Port) : (s.modPort p f).stp = s.stp := rfl
@[simp] theorem State.modPort_scc (s : State) (p : Nat) (f : Port → Port) : (s.modPort p f).scc = s.scc := rfl
@[simp] theorem State.modPort_rings (s : State) (p : Nat) (f : Port → Port) : (s.modPort p f).rings = s.rings := rfl
@[simp] theorem State.modPort_mon (s : State) (p : Nat) (f : Port → Port) : (s.modPort p f).mon = s.mon := rfl
@[simp] theorem State.modPort_outq (s : State) (p : Nat) (f : Port → Port) : (s.modPort p f).outq = s.outq := rfl
@[simp] theorem State.modPort_sec (s : State) (p : Nat) (f : Port → Port) : (s.modPort p f).sec = s.sec := rfl
@[simp] theorem State.modPort_nvm (s : State) (p : Nat) (f : Port → Port) : (s.modPort p f).nvm = s.nvm := rfl
@[simp] theorem State.modPort_hif (s : State) (p : Nat) (f : Port → Port) : (s.modPort p f).hif = s.hif := rfl
@[simp] theorem State.modPort_blw (s : State) (p : Nat) (f : Port → Port) : (s.modPort p f).blw = s.blw := rfl
@[simp] theorem State.modPort_rst (s : State) (p : Nat) (f : Port → Port) : (s.modPort p f).rst = s.rst := rfl
@[simp] theorem State.modPort_tst (s : State) (p : Nat) (f : Port → Port) : (s.modPort p f).tst = s.tst := rfl
@[simp] theorem State.modPort_race (s : State) (p : Nat) (f : Port → Port) : (s.modPort p f).race = s.race := rfl
@[simp] theorem State.modPort_draws (s : State) (p : Nat) (f : Port → Port) : (s.modPort p f).draws = s.draws := rfl
@[simp] theorem State.modPort_free (s : State) (p : Nat) (f : Port → Port) : (s.modPort p f).free = s.free := rfl
@[simp] theorem State.modPort_pending (s : State) (p : Nat) (f : Port → Port) : (s.modPort p f).pending = s.pending := rfl
@[simp] theorem State.record_mem (s : State) (type : Nat) (payload : List Byte) :
    (s.record type payload).mem = s.mem := by unfold State.record; split <;> rfl
@[simp] theorem State.record_chk (s : State) (type : Nat) (payload : List Byte) :
    (s.record type payload).chk = s.chk := by unfold State.record; split <;> rfl
@[simp] theorem State.record_fws (s : State) (type : Nat) (payload : List Byte) :
    (s.record type payload).fws = s.fws := by unfold State.record; split <;> rfl
@[simp] theorem State.record_lws (s : State) (type : Nat) (payload : List Byte) :
    (s.record type payload).lws = s.lws := by unfold State.record; split <;> rfl
@[simp] theorem State.record_stepBase (s : State) (type : Nat) (payload : List Byte) :
    (s.record type payload).stepBase = s.stepBase := by unfold State.record; split <;> rfl
@[simp] theorem State.record_stepFirst (s : State) (type : Nat) (payload : List Byte) :
    (s.record type payload).stepFirst = s.stepFirst := by unfold State.record; split <;> rfl
@[simp] theorem State.record_fwsAt (s : State) (type : Nat) (payload : List Byte) :
    (s.record type payload).fwsAt = s.fwsAt := by unfold State.record; split <;> rfl
@[simp] theorem State.record_mm (s : State) (type : Nat) (payload : List Byte) :
    (s.record type payload).mm = s.mm := by unfold State.record; split <;> rfl
@[simp] theorem State.record_cores (s : State) (type : Nat) (payload : List Byte) :
    (s.record type payload).cores = s.cores := by unfold State.record; split <;> rfl
@[simp] theorem State.record_job (s : State) (type : Nat) (payload : List Byte) :
    (s.record type payload).job = s.job := by unfold State.record; split <;> rfl
@[simp] theorem State.record_stp (s : State) (type : Nat) (payload : List Byte) :
    (s.record type payload).stp = s.stp := by unfold State.record; split <;> rfl
@[simp] theorem State.record_scc (s : State) (type : Nat) (payload : List Byte) :
    (s.record type payload).scc = s.scc := by unfold State.record; split <;> rfl
@[simp] theorem State.record_lnk (s : State) (type : Nat) (payload : List Byte) :
    (s.record type payload).lnk = s.lnk := by unfold State.record; split <;> rfl
@[simp] theorem State.record_mon (s : State) (type : Nat) (payload : List Byte) :
    (s.record type payload).mon = s.mon := by unfold State.record; split <;> rfl
@[simp] theorem State.record_outq (s : State) (type : Nat) (payload : List Byte) :
    (s.record type payload).outq = s.outq := by unfold State.record; split <;> rfl
@[simp] theorem State.record_sec (s : State) (type : Nat) (payload : List Byte) :
    (s.record type payload).sec = s.sec := by unfold State.record; split <;> rfl
@[simp] theorem State.record_nvm (s : State) (type : Nat) (payload : List Byte) :
    (s.record type payload).nvm = s.nvm := by unfold State.record; split <;> rfl
@[simp] theorem State.record_hif (s : State) (type : Nat) (payload : List Byte) :
    (s.record type payload).hif = s.hif := by unfold State.record; split <;> rfl
@[simp] theorem State.record_blw (s : State) (type : Nat) (payload : List Byte) :
    (s.record type payload).blw = s.blw := by unfold State.record; split <;> rfl
@[simp] theorem State.record_rst (s : State) (type : Nat) (payload : List Byte) :
    (s.record type payload).rst = s.rst := by unfold State.record; split <;> rfl
@[simp] theorem State.record_tst (s : State) (type : Nat) (payload : List Byte) :
    (s.record type payload).tst = s.tst := by unfold State.record; split <;> rfl
@[simp] theorem State.record_race (s : State) (type : Nat) (payload : List Byte) :
    (s.record type payload).race = s.race := by unfold State.record; split <;> rfl
@[simp] theorem State.record_draws (s : State) (type : Nat) (payload : List Byte) :
    (s.record type payload).draws = s.draws := by unfold State.record; split <;> rfl
@[simp] theorem State.record_free (s : State) (type : Nat) (payload : List Byte) :
    (s.record type payload).free = s.free := by unfold State.record; split <;> rfl
@[simp] theorem State.record_pending (s : State) (type : Nat) (payload : List Byte) :
    (s.record type payload).pending = s.pending := by unfold State.record; split <;> rfl
@[simp] theorem State.hifIrq_mem (s : State) (b : BitVec 3) :
    (s.hifIrq b).mem = s.mem := by unfold State.hifIrq; extract_lets; split <;> rfl
@[simp] theorem State.hifIrq_chk (s : State) (b : BitVec 3) :
    (s.hifIrq b).chk = s.chk := by unfold State.hifIrq; extract_lets; split <;> rfl
@[simp] theorem State.hifIrq_fws (s : State) (b : BitVec 3) :
    (s.hifIrq b).fws = s.fws := by unfold State.hifIrq; extract_lets; split <;> rfl
@[simp] theorem State.hifIrq_lws (s : State) (b : BitVec 3) :
    (s.hifIrq b).lws = s.lws := by unfold State.hifIrq; extract_lets; split <;> rfl
@[simp] theorem State.hifIrq_stepBase (s : State) (b : BitVec 3) :
    (s.hifIrq b).stepBase = s.stepBase := by unfold State.hifIrq; extract_lets; split <;> rfl
@[simp] theorem State.hifIrq_stepFirst (s : State) (b : BitVec 3) :
    (s.hifIrq b).stepFirst = s.stepFirst := by unfold State.hifIrq; extract_lets; split <;> rfl
@[simp] theorem State.hifIrq_fwsAt (s : State) (b : BitVec 3) :
    (s.hifIrq b).fwsAt = s.fwsAt := by unfold State.hifIrq; extract_lets; split <;> rfl
@[simp] theorem State.hifIrq_mm (s : State) (b : BitVec 3) :
    (s.hifIrq b).mm = s.mm := by unfold State.hifIrq; extract_lets; split <;> rfl
@[simp] theorem State.hifIrq_cores (s : State) (b : BitVec 3) :
    (s.hifIrq b).cores = s.cores := by unfold State.hifIrq; extract_lets; split <;> rfl
@[simp] theorem State.hifIrq_job (s : State) (b : BitVec 3) :
    (s.hifIrq b).job = s.job := by unfold State.hifIrq; extract_lets; split <;> rfl
@[simp] theorem State.hifIrq_stp (s : State) (b : BitVec 3) :
    (s.hifIrq b).stp = s.stp := by unfold State.hifIrq; extract_lets; split <;> rfl
@[simp] theorem State.hifIrq_scc (s : State) (b : BitVec 3) :
    (s.hifIrq b).scc = s.scc := by unfold State.hifIrq; extract_lets; split <;> rfl
@[simp] theorem State.hifIrq_rings (s : State) (b : BitVec 3) :
    (s.hifIrq b).rings = s.rings := by unfold State.hifIrq; extract_lets; split <;> rfl
@[simp] theorem State.hifIrq_lnk (s : State) (b : BitVec 3) :
    (s.hifIrq b).lnk = s.lnk := by unfold State.hifIrq; extract_lets; split <;> rfl
@[simp] theorem State.hifIrq_mon (s : State) (b : BitVec 3) :
    (s.hifIrq b).mon = s.mon := by unfold State.hifIrq; extract_lets; split <;> rfl
@[simp] theorem State.hifIrq_outq (s : State) (b : BitVec 3) :
    (s.hifIrq b).outq = s.outq := by unfold State.hifIrq; extract_lets; split <;> rfl
@[simp] theorem State.hifIrq_sec (s : State) (b : BitVec 3) :
    (s.hifIrq b).sec = s.sec := by unfold State.hifIrq; extract_lets; split <;> rfl
@[simp] theorem State.hifIrq_nvm (s : State) (b : BitVec 3) :
    (s.hifIrq b).nvm = s.nvm := by unfold State.hifIrq; extract_lets; split <;> rfl
@[simp] theorem State.hifIrq_blw (s : State) (b : BitVec 3) :
    (s.hifIrq b).blw = s.blw := by unfold State.hifIrq; extract_lets; split <;> rfl
@[simp] theorem State.hifIrq_rst (s : State) (b : BitVec 3) :
    (s.hifIrq b).rst = s.rst := by unfold State.hifIrq; extract_lets; split <;> rfl
@[simp] theorem State.hifIrq_tst (s : State) (b : BitVec 3) :
    (s.hifIrq b).tst = s.tst := by unfold State.hifIrq; extract_lets; split <;> rfl
@[simp] theorem State.hifIrq_race (s : State) (b : BitVec 3) :
    (s.hifIrq b).race = s.race := by unfold State.hifIrq; extract_lets; split <;> rfl
@[simp] theorem State.hifIrq_draws (s : State) (b : BitVec 3) :
    (s.hifIrq b).draws = s.draws := by unfold State.hifIrq; extract_lets; split <;> rfl
@[simp] theorem State.hifIrq_free (s : State) (b : BitVec 3) :
    (s.hifIrq b).free = s.free := by unfold State.hifIrq; extract_lets; split <;> rfl
@[simp] theorem State.hifIrq_pending (s : State) (b : BitVec 3) :
    (s.hifIrq b).pending = s.pending := by unfold State.hifIrq; extract_lets; split <;> rfl
@[simp] theorem State.setPhase_mem (s : State) (p : Nat) :
    (s.setPhase p).mem = s.mem := by unfold State.setPhase; split <;> [rfl; exact State.hifIrq_mem _ _]
@[simp] theorem State.setPhase_chk (s : State) (p : Nat) :
    (s.setPhase p).chk = s.chk := by unfold State.setPhase; split <;> [rfl; exact State.hifIrq_chk _ _]
@[simp] theorem State.setPhase_fws (s : State) (p : Nat) :
    (s.setPhase p).fws = s.fws := by unfold State.setPhase; split <;> [rfl; exact State.hifIrq_fws _ _]
@[simp] theorem State.setPhase_lws (s : State) (p : Nat) :
    (s.setPhase p).lws = s.lws := by unfold State.setPhase; split <;> [rfl; exact State.hifIrq_lws _ _]
@[simp] theorem State.setPhase_stepBase (s : State) (p : Nat) :
    (s.setPhase p).stepBase = s.stepBase := by unfold State.setPhase; split <;> [rfl; exact State.hifIrq_stepBase _ _]
@[simp] theorem State.setPhase_stepFirst (s : State) (p : Nat) :
    (s.setPhase p).stepFirst = s.stepFirst := by unfold State.setPhase; split <;> [rfl; exact State.hifIrq_stepFirst _ _]
@[simp] theorem State.setPhase_fwsAt (s : State) (p : Nat) :
    (s.setPhase p).fwsAt = s.fwsAt := by unfold State.setPhase; split <;> [rfl; exact State.hifIrq_fwsAt _ _]
@[simp] theorem State.setPhase_mm (s : State) (p : Nat) :
    (s.setPhase p).mm = s.mm := by unfold State.setPhase; split <;> [rfl; exact State.hifIrq_mm _ _]
@[simp] theorem State.setPhase_cores (s : State) (p : Nat) :
    (s.setPhase p).cores = s.cores := by unfold State.setPhase; split <;> [rfl; exact State.hifIrq_cores _ _]
@[simp] theorem State.setPhase_job (s : State) (p : Nat) :
    (s.setPhase p).job = s.job := by unfold State.setPhase; split <;> [rfl; exact State.hifIrq_job _ _]
@[simp] theorem State.setPhase_stp (s : State) (p : Nat) :
    (s.setPhase p).stp = s.stp := by unfold State.setPhase; split <;> [rfl; exact State.hifIrq_stp _ _]
@[simp] theorem State.setPhase_scc (s : State) (p : Nat) :
    (s.setPhase p).scc = s.scc := by unfold State.setPhase; split <;> [rfl; exact State.hifIrq_scc _ _]
@[simp] theorem State.setPhase_rings (s : State) (p : Nat) :
    (s.setPhase p).rings = s.rings := by unfold State.setPhase; split <;> [rfl; exact State.hifIrq_rings _ _]
@[simp] theorem State.setPhase_lnk (s : State) (p : Nat) :
    (s.setPhase p).lnk = s.lnk := by unfold State.setPhase; split <;> [rfl; exact State.hifIrq_lnk _ _]
@[simp] theorem State.setPhase_mon (s : State) (p : Nat) :
    (s.setPhase p).mon = s.mon := by unfold State.setPhase; split <;> [rfl; exact State.hifIrq_mon _ _]
@[simp] theorem State.setPhase_outq (s : State) (p : Nat) :
    (s.setPhase p).outq = s.outq := by unfold State.setPhase; split <;> [rfl; exact State.hifIrq_outq _ _]
@[simp] theorem State.setPhase_sec (s : State) (p : Nat) :
    (s.setPhase p).sec = s.sec := by unfold State.setPhase; split <;> [rfl; exact State.hifIrq_sec _ _]
@[simp] theorem State.setPhase_nvm (s : State) (p : Nat) :
    (s.setPhase p).nvm = s.nvm := by unfold State.setPhase; split <;> [rfl; exact State.hifIrq_nvm _ _]
@[simp] theorem State.setPhase_blw (s : State) (p : Nat) :
    (s.setPhase p).blw = s.blw := by unfold State.setPhase; split <;> [rfl; exact State.hifIrq_blw _ _]
@[simp] theorem State.setPhase_rst (s : State) (p : Nat) :
    (s.setPhase p).rst = s.rst := by unfold State.setPhase; split <;> [rfl; exact State.hifIrq_rst _ _]
@[simp] theorem State.setPhase_tst (s : State) (p : Nat) :
    (s.setPhase p).tst = s.tst := by unfold State.setPhase; split <;> [rfl; exact State.hifIrq_tst _ _]
@[simp] theorem State.setPhase_race (s : State) (p : Nat) :
    (s.setPhase p).race = s.race := by unfold State.setPhase; split <;> [rfl; exact State.hifIrq_race _ _]
@[simp] theorem State.setPhase_draws (s : State) (p : Nat) :
    (s.setPhase p).draws = s.draws := by unfold State.setPhase; split <;> [rfl; exact State.hifIrq_draws _ _]
@[simp] theorem State.setPhase_free (s : State) (p : Nat) :
    (s.setPhase p).free = s.free := by unfold State.setPhase; split <;> [rfl; exact State.hifIrq_free _ _]
@[simp] theorem State.setPhase_pending (s : State) (p : Nat) :
    (s.setPhase p).pending = s.pending := by unfold State.setPhase; split <;> [rfl; exact State.hifIrq_pending _ _]
@[simp] theorem State.outWrite_chk (s : State) (u : Nat) (bs : List Byte) :
    (s.outWrite u bs).chk = s.chk := by unfold State.outWrite; extract_lets; split <;> [rfl; exact State.macFail_chk ..]
@[simp] theorem State.outWrite_fws (s : State) (u : Nat) (bs : List Byte) :
    (s.outWrite u bs).fws = s.fws := by unfold State.outWrite; extract_lets; split <;> [rfl; exact State.macFail_fws ..]
@[simp] theorem State.outWrite_lws (s : State) (u : Nat) (bs : List Byte) :
    (s.outWrite u bs).lws = s.lws := by unfold State.outWrite; extract_lets; split <;> [rfl; exact State.macFail_lws ..]
@[simp] theorem State.outWrite_stepBase (s : State) (u : Nat) (bs : List Byte) :
    (s.outWrite u bs).stepBase = s.stepBase := by unfold State.outWrite; extract_lets; split <;> [rfl; exact State.macFail_stepBase ..]
@[simp] theorem State.outWrite_stepFirst (s : State) (u : Nat) (bs : List Byte) :
    (s.outWrite u bs).stepFirst = s.stepFirst := by unfold State.outWrite; extract_lets; split <;> [rfl; exact State.macFail_stepFirst ..]
@[simp] theorem State.outWrite_fwsAt (s : State) (u : Nat) (bs : List Byte) :
    (s.outWrite u bs).fwsAt = s.fwsAt := by unfold State.outWrite; extract_lets; split <;> [rfl; exact State.macFail_fwsAt ..]
@[simp] theorem State.outWrite_stp (s : State) (u : Nat) (bs : List Byte) :
    (s.outWrite u bs).stp = s.stp := by unfold State.outWrite; extract_lets; split <;> [rfl; exact State.macFail_stp ..]
@[simp] theorem State.outWrite_scc (s : State) (u : Nat) (bs : List Byte) :
    (s.outWrite u bs).scc = s.scc := by unfold State.outWrite; extract_lets; split <;> [rfl; exact State.macFail_scc ..]
@[simp] theorem State.outWrite_lnk (s : State) (u : Nat) (bs : List Byte) :
    (s.outWrite u bs).lnk = s.lnk := by unfold State.outWrite; extract_lets; split <;> [rfl; exact State.macFail_lnk ..]
@[simp] theorem State.outWrite_outq (s : State) (u : Nat) (bs : List Byte) :
    (s.outWrite u bs).outq = s.outq := by unfold State.outWrite; extract_lets; split <;> [rfl; exact State.macFail_outq ..]
@[simp] theorem State.outWrite_blw (s : State) (u : Nat) (bs : List Byte) :
    (s.outWrite u bs).blw = s.blw := by unfold State.outWrite; extract_lets; split <;> [rfl; exact State.macFail_blw ..]
@[simp] theorem State.outWrite_tst (s : State) (u : Nat) (bs : List Byte) :
    (s.outWrite u bs).tst = s.tst := by unfold State.outWrite; extract_lets; split <;> [rfl; exact State.macFail_tst ..]
@[simp] theorem State.outWrite_race (s : State) (u : Nat) (bs : List Byte) :
    (s.outWrite u bs).race = s.race := by unfold State.outWrite; extract_lets; split <;> [rfl; exact State.macFail_race ..]
@[simp] theorem State.outWrite_draws (s : State) (u : Nat) (bs : List Byte) :
    (s.outWrite u bs).draws = s.draws := by unfold State.outWrite; extract_lets; split <;> [rfl; exact State.macFail_draws ..]
@[simp] theorem State.outWrite_free (s : State) (u : Nat) (bs : List Byte) :
    (s.outWrite u bs).free = s.free := by unfold State.outWrite; extract_lets; split <;> [rfl; exact State.macFail_free ..]
@[simp] theorem State.outWrite_pending (s : State) (u : Nat) (bs : List Byte) :
    (s.outWrite u bs).pending = s.pending := by unfold State.outWrite; extract_lets; split <;> [rfl; exact State.macFail_pending ..]
@[simp] theorem State.outPlace_chk (s : State) (n : Nat) : (State.outPlace n s).chk = s.chk := by
  induction n generalizing s with
  | zero => rfl
  | succ n ih => unfold State.outPlace; split <;> [rfl; (split <;> [(rw [ih]; exact State.outWrite_chk ..); rfl])]
@[simp] theorem State.outPlace_fws (s : State) (n : Nat) : (State.outPlace n s).fws = s.fws := by
  induction n generalizing s with
  | zero => rfl
  | succ n ih => unfold State.outPlace; split <;> [rfl; (split <;> [(rw [ih]; exact State.outWrite_fws ..); rfl])]
@[simp] theorem State.outPlace_lws (s : State) (n : Nat) : (State.outPlace n s).lws = s.lws := by
  induction n generalizing s with
  | zero => rfl
  | succ n ih => unfold State.outPlace; split <;> [rfl; (split <;> [(rw [ih]; exact State.outWrite_lws ..); rfl])]
@[simp] theorem State.outPlace_stepBase (s : State) (n : Nat) : (State.outPlace n s).stepBase = s.stepBase := by
  induction n generalizing s with
  | zero => rfl
  | succ n ih => unfold State.outPlace; split <;> [rfl; (split <;> [(rw [ih]; exact State.outWrite_stepBase ..); rfl])]
@[simp] theorem State.outPlace_stepFirst (s : State) (n : Nat) : (State.outPlace n s).stepFirst = s.stepFirst := by
  induction n generalizing s with
  | zero => rfl
  | succ n ih => unfold State.outPlace; split <;> [rfl; (split <;> [(rw [ih]; exact State.outWrite_stepFirst ..); rfl])]
@[simp] theorem State.outPlace_fwsAt (s : State) (n : Nat) : (State.outPlace n s).fwsAt = s.fwsAt := by
  induction n generalizing s with
  | zero => rfl
  | succ n ih => unfold State.outPlace; split <;> [rfl; (split <;> [(rw [ih]; exact State.outWrite_fwsAt ..); rfl])]
@[simp] theorem State.outPlace_stp (s : State) (n : Nat) : (State.outPlace n s).stp = s.stp := by
  induction n generalizing s with
  | zero => rfl
  | succ n ih => unfold State.outPlace; split <;> [rfl; (split <;> [(rw [ih]; exact State.outWrite_stp ..); rfl])]
@[simp] theorem State.outPlace_scc (s : State) (n : Nat) : (State.outPlace n s).scc = s.scc := by
  induction n generalizing s with
  | zero => rfl
  | succ n ih => unfold State.outPlace; split <;> [rfl; (split <;> [(rw [ih]; exact State.outWrite_scc ..); rfl])]
@[simp] theorem State.outPlace_lnk (s : State) (n : Nat) : (State.outPlace n s).lnk = s.lnk := by
  induction n generalizing s with
  | zero => rfl
  | succ n ih => unfold State.outPlace; split <;> [rfl; (split <;> [(rw [ih]; exact State.outWrite_lnk ..); rfl])]
@[simp] theorem State.outPlace_blw (s : State) (n : Nat) : (State.outPlace n s).blw = s.blw := by
  induction n generalizing s with
  | zero => rfl
  | succ n ih => unfold State.outPlace; split <;> [rfl; (split <;> [(rw [ih]; exact State.outWrite_blw ..); rfl])]
@[simp] theorem State.outPlace_tst (s : State) (n : Nat) : (State.outPlace n s).tst = s.tst := by
  induction n generalizing s with
  | zero => rfl
  | succ n ih => unfold State.outPlace; split <;> [rfl; (split <;> [(rw [ih]; exact State.outWrite_tst ..); rfl])]
@[simp] theorem State.outPlace_race (s : State) (n : Nat) : (State.outPlace n s).race = s.race := by
  induction n generalizing s with
  | zero => rfl
  | succ n ih => unfold State.outPlace; split <;> [rfl; (split <;> [(rw [ih]; exact State.outWrite_race ..); rfl])]
@[simp] theorem State.outPlace_draws (s : State) (n : Nat) : (State.outPlace n s).draws = s.draws := by
  induction n generalizing s with
  | zero => rfl
  | succ n ih => unfold State.outPlace; split <;> [rfl; (split <;> [(rw [ih]; exact State.outWrite_draws ..); rfl])]
@[simp] theorem State.outPlace_free (s : State) (n : Nat) : (State.outPlace n s).free = s.free := by
  induction n generalizing s with
  | zero => rfl
  | succ n ih => unfold State.outPlace; split <;> [rfl; (split <;> [(rw [ih]; exact State.outWrite_free ..); rfl])]
@[simp] theorem State.outPlace_pending (s : State) (n : Nat) : (State.outPlace n s).pending = s.pending := by
  induction n generalizing s with
  | zero => rfl
  | succ n ih => unfold State.outPlace; split <;> [rfl; (split <;> [(rw [ih]; exact State.outWrite_pending ..); rfl])]
@[simp] theorem State.refData_chk (s : State) (n : Nat) (bs : List Byte) :
    (s.refData n bs).chk = s.chk := by unfold State.refData; extract_lets; exact State.outPlace_chk _ _
@[simp] theorem State.refData_fws (s : State) (n : Nat) (bs : List Byte) :
    (s.refData n bs).fws = s.fws := by unfold State.refData; extract_lets; exact State.outPlace_fws _ _
@[simp] theorem State.refData_lws (s : State) (n : Nat) (bs : List Byte) :
    (s.refData n bs).lws = s.lws := by unfold State.refData; extract_lets; exact State.outPlace_lws _ _
@[simp] theorem State.refData_stepBase (s : State) (n : Nat) (bs : List Byte) :
    (s.refData n bs).stepBase = s.stepBase := by unfold State.refData; extract_lets; exact State.outPlace_stepBase _ _
@[simp] theorem State.refData_stepFirst (s : State) (n : Nat) (bs : List Byte) :
    (s.refData n bs).stepFirst = s.stepFirst := by unfold State.refData; extract_lets; exact State.outPlace_stepFirst _ _
@[simp] theorem State.refData_fwsAt (s : State) (n : Nat) (bs : List Byte) :
    (s.refData n bs).fwsAt = s.fwsAt := by unfold State.refData; extract_lets; exact State.outPlace_fwsAt _ _
@[simp] theorem State.refData_stp (s : State) (n : Nat) (bs : List Byte) :
    (s.refData n bs).stp = s.stp := by unfold State.refData; extract_lets; exact State.outPlace_stp _ _
@[simp] theorem State.refData_scc (s : State) (n : Nat) (bs : List Byte) :
    (s.refData n bs).scc = s.scc := by unfold State.refData; extract_lets; exact State.outPlace_scc _ _
@[simp] theorem State.refData_lnk (s : State) (n : Nat) (bs : List Byte) :
    (s.refData n bs).lnk = s.lnk := by unfold State.refData; extract_lets; exact State.outPlace_lnk _ _
@[simp] theorem State.refData_blw (s : State) (n : Nat) (bs : List Byte) :
    (s.refData n bs).blw = s.blw := by unfold State.refData; extract_lets; exact State.outPlace_blw _ _
@[simp] theorem State.refData_tst (s : State) (n : Nat) (bs : List Byte) :
    (s.refData n bs).tst = s.tst := by unfold State.refData; extract_lets; exact State.outPlace_tst _ _
@[simp] theorem State.refData_race (s : State) (n : Nat) (bs : List Byte) :
    (s.refData n bs).race = s.race := by unfold State.refData; extract_lets; exact State.outPlace_race _ _
@[simp] theorem State.refData_draws (s : State) (n : Nat) (bs : List Byte) :
    (s.refData n bs).draws = s.draws := by unfold State.refData; extract_lets; exact State.outPlace_draws _ _
@[simp] theorem State.refData_pending (s : State) (n : Nat) (bs : List Byte) :
    (s.refData n bs).pending = s.pending := by unfold State.refData; extract_lets; exact State.outPlace_pending _ _
@[simp] theorem State.outRecord_chk (s : State) (kind slot : Nat) (handle : W16) (plain : List Byte) :
    (s.outRecord kind slot handle plain).chk = s.chk := by unfold State.outRecord; extract_lets; exact State.outPlace_chk _ _
@[simp] theorem State.outRecord_fws (s : State) (kind slot : Nat) (handle : W16) (plain : List Byte) :
    (s.outRecord kind slot handle plain).fws = s.fws := by unfold State.outRecord; extract_lets; exact State.outPlace_fws _ _
@[simp] theorem State.outRecord_lws (s : State) (kind slot : Nat) (handle : W16) (plain : List Byte) :
    (s.outRecord kind slot handle plain).lws = s.lws := by unfold State.outRecord; extract_lets; exact State.outPlace_lws _ _
@[simp] theorem State.outRecord_stepBase (s : State) (kind slot : Nat) (handle : W16) (plain : List Byte) :
    (s.outRecord kind slot handle plain).stepBase = s.stepBase := by unfold State.outRecord; extract_lets; exact State.outPlace_stepBase _ _
@[simp] theorem State.outRecord_stepFirst (s : State) (kind slot : Nat) (handle : W16) (plain : List Byte) :
    (s.outRecord kind slot handle plain).stepFirst = s.stepFirst := by unfold State.outRecord; extract_lets; exact State.outPlace_stepFirst _ _
@[simp] theorem State.outRecord_fwsAt (s : State) (kind slot : Nat) (handle : W16) (plain : List Byte) :
    (s.outRecord kind slot handle plain).fwsAt = s.fwsAt := by unfold State.outRecord; extract_lets; exact State.outPlace_fwsAt _ _
@[simp] theorem State.outRecord_stp (s : State) (kind slot : Nat) (handle : W16) (plain : List Byte) :
    (s.outRecord kind slot handle plain).stp = s.stp := by unfold State.outRecord; extract_lets; exact State.outPlace_stp _ _
@[simp] theorem State.outRecord_scc (s : State) (kind slot : Nat) (handle : W16) (plain : List Byte) :
    (s.outRecord kind slot handle plain).scc = s.scc := by unfold State.outRecord; extract_lets; exact State.outPlace_scc _ _
@[simp] theorem State.outRecord_lnk (s : State) (kind slot : Nat) (handle : W16) (plain : List Byte) :
    (s.outRecord kind slot handle plain).lnk = s.lnk := by unfold State.outRecord; extract_lets; exact State.outPlace_lnk _ _
@[simp] theorem State.outRecord_blw (s : State) (kind slot : Nat) (handle : W16) (plain : List Byte) :
    (s.outRecord kind slot handle plain).blw = s.blw := by unfold State.outRecord; extract_lets; exact State.outPlace_blw _ _
@[simp] theorem State.outRecord_tst (s : State) (kind slot : Nat) (handle : W16) (plain : List Byte) :
    (s.outRecord kind slot handle plain).tst = s.tst := by unfold State.outRecord; extract_lets; exact State.outPlace_tst _ _
@[simp] theorem State.outRecord_race (s : State) (kind slot : Nat) (handle : W16) (plain : List Byte) :
    (s.outRecord kind slot handle plain).race = s.race := by unfold State.outRecord; extract_lets; exact State.outPlace_race _ _
@[simp] theorem State.outRecord_draws (s : State) (kind slot : Nat) (handle : W16) (plain : List Byte) :
    (s.outRecord kind slot handle plain).draws = s.draws := by unfold State.outRecord; extract_lets; exact State.outPlace_draws _ _
@[simp] theorem State.outRecord_free (s : State) (kind slot : Nat) (handle : W16) (plain : List Byte) :
    (s.outRecord kind slot handle plain).free = s.free := by unfold State.outRecord; extract_lets; exact State.outPlace_free _ _
@[simp] theorem State.outRecord_pending (s : State) (kind slot : Nat) (handle : W16) (plain : List Byte) :
    (s.outRecord kind slot handle plain).pending = s.pending := by unfold State.outRecord; extract_lets; exact State.outPlace_pending _ _
@[simp] theorem State.byRef_chk (s : State) (r : Reply) :
    ((s.byRef r).1).chk = s.chk := by unfold State.byRef; split <;> [rfl; exact State.refData_chk ..]
@[simp] theorem State.byRef_fws (s : State) (r : Reply) :
    ((s.byRef r).1).fws = s.fws := by unfold State.byRef; split <;> [rfl; exact State.refData_fws ..]
@[simp] theorem State.byRef_lws (s : State) (r : Reply) :
    ((s.byRef r).1).lws = s.lws := by unfold State.byRef; split <;> [rfl; exact State.refData_lws ..]
@[simp] theorem State.byRef_stepBase (s : State) (r : Reply) :
    ((s.byRef r).1).stepBase = s.stepBase := by unfold State.byRef; split <;> [rfl; exact State.refData_stepBase ..]
@[simp] theorem State.byRef_stepFirst (s : State) (r : Reply) :
    ((s.byRef r).1).stepFirst = s.stepFirst := by unfold State.byRef; split <;> [rfl; exact State.refData_stepFirst ..]
@[simp] theorem State.byRef_fwsAt (s : State) (r : Reply) :
    ((s.byRef r).1).fwsAt = s.fwsAt := by unfold State.byRef; split <;> [rfl; exact State.refData_fwsAt ..]
@[simp] theorem State.byRef_stp (s : State) (r : Reply) :
    ((s.byRef r).1).stp = s.stp := by unfold State.byRef; split <;> [rfl; exact State.refData_stp ..]
@[simp] theorem State.byRef_scc (s : State) (r : Reply) :
    ((s.byRef r).1).scc = s.scc := by unfold State.byRef; split <;> [rfl; exact State.refData_scc ..]
@[simp] theorem State.byRef_lnk (s : State) (r : Reply) :
    ((s.byRef r).1).lnk = s.lnk := by unfold State.byRef; split <;> [rfl; exact State.refData_lnk ..]
@[simp] theorem State.byRef_blw (s : State) (r : Reply) :
    ((s.byRef r).1).blw = s.blw := by unfold State.byRef; split <;> [rfl; exact State.refData_blw ..]
@[simp] theorem State.byRef_tst (s : State) (r : Reply) :
    ((s.byRef r).1).tst = s.tst := by unfold State.byRef; split <;> [rfl; exact State.refData_tst ..]
@[simp] theorem State.byRef_race (s : State) (r : Reply) :
    ((s.byRef r).1).race = s.race := by unfold State.byRef; split <;> [rfl; exact State.refData_race ..]
@[simp] theorem State.byRef_draws (s : State) (r : Reply) :
    ((s.byRef r).1).draws = s.draws := by unfold State.byRef; split <;> [rfl; exact State.refData_draws ..]
@[simp] theorem State.byRef_pending (s : State) (r : Reply) :
    ((s.byRef r).1).pending = s.pending := by unfold State.byRef; split <;> [rfl; exact State.refData_pending ..]
@[simp] theorem State.postReply_chk (s : State) (r : Reply) :
    (s.postReply r).chk = s.chk := by rw [State.postReply_eq]; exact State.byRef_chk ..
@[simp] theorem State.postReply_fws (s : State) (r : Reply) :
    (s.postReply r).fws = s.fws := by rw [State.postReply_eq]; exact State.byRef_fws ..
@[simp] theorem State.postReply_lws (s : State) (r : Reply) :
    (s.postReply r).lws = s.lws := by rw [State.postReply_eq]; exact State.byRef_lws ..
@[simp] theorem State.postReply_stepBase (s : State) (r : Reply) :
    (s.postReply r).stepBase = s.stepBase := by rw [State.postReply_eq]; exact State.byRef_stepBase ..
@[simp] theorem State.postReply_stepFirst (s : State) (r : Reply) :
    (s.postReply r).stepFirst = s.stepFirst := by rw [State.postReply_eq]; exact State.byRef_stepFirst ..
@[simp] theorem State.postReply_fwsAt (s : State) (r : Reply) :
    (s.postReply r).fwsAt = s.fwsAt := by rw [State.postReply_eq]; exact State.byRef_fwsAt ..
@[simp] theorem State.postReply_stp (s : State) (r : Reply) :
    (s.postReply r).stp = s.stp := by rw [State.postReply_eq]; exact State.byRef_stp ..
@[simp] theorem State.postReply_scc (s : State) (r : Reply) :
    (s.postReply r).scc = s.scc := by rw [State.postReply_eq]; exact State.byRef_scc ..
@[simp] theorem State.postReply_lnk (s : State) (r : Reply) :
    (s.postReply r).lnk = s.lnk := by rw [State.postReply_eq]; exact State.byRef_lnk ..
@[simp] theorem State.postReply_blw (s : State) (r : Reply) :
    (s.postReply r).blw = s.blw := by rw [State.postReply_eq]; exact State.byRef_blw ..
@[simp] theorem State.postReply_tst (s : State) (r : Reply) :
    (s.postReply r).tst = s.tst := by rw [State.postReply_eq]; exact State.byRef_tst ..
@[simp] theorem State.postReply_race (s : State) (r : Reply) :
    (s.postReply r).race = s.race := by rw [State.postReply_eq]; exact State.byRef_race ..
@[simp] theorem State.postReply_draws (s : State) (r : Reply) :
    (s.postReply r).draws = s.draws := by rw [State.postReply_eq]; exact State.byRef_draws ..
@[simp] theorem State.postReply_pending (s : State) (r : Reply) :
    (s.postReply r).pending = s.pending := by rw [State.postReply_eq]; exact State.byRef_pending ..
@[simp] theorem State.wait_mem (s : State) (i : Instr) : (s.wait i).mem = s.mem := rfl
@[simp] theorem State.wait_chk (s : State) (i : Instr) : (s.wait i).chk = s.chk := rfl
@[simp] theorem State.wait_fws (s : State) (i : Instr) : (s.wait i).fws = s.fws := rfl
@[simp] theorem State.wait_lws (s : State) (i : Instr) : (s.wait i).lws = s.lws := rfl
@[simp] theorem State.wait_stepBase (s : State) (i : Instr) : (s.wait i).stepBase = s.stepBase := rfl
@[simp] theorem State.wait_stepFirst (s : State) (i : Instr) : (s.wait i).stepFirst = s.stepFirst := rfl
@[simp] theorem State.wait_fwsAt (s : State) (i : Instr) : (s.wait i).fwsAt = s.fwsAt := rfl
@[simp] theorem State.wait_cores (s : State) (i : Instr) : (s.wait i).cores = s.cores := rfl
@[simp] theorem State.wait_job (s : State) (i : Instr) : (s.wait i).job = s.job := rfl
@[simp] theorem State.wait_stp (s : State) (i : Instr) : (s.wait i).stp = s.stp := rfl
@[simp] theorem State.wait_scc (s : State) (i : Instr) : (s.wait i).scc = s.scc := rfl
@[simp] theorem State.wait_rings (s : State) (i : Instr) : (s.wait i).rings = s.rings := rfl
@[simp] theorem State.wait_lnk (s : State) (i : Instr) : (s.wait i).lnk = s.lnk := rfl
@[simp] theorem State.wait_mon (s : State) (i : Instr) : (s.wait i).mon = s.mon := rfl
@[simp] theorem State.wait_outq (s : State) (i : Instr) : (s.wait i).outq = s.outq := rfl
@[simp] theorem State.wait_sec (s : State) (i : Instr) : (s.wait i).sec = s.sec := rfl
@[simp] theorem State.wait_nvm (s : State) (i : Instr) : (s.wait i).nvm = s.nvm := rfl
@[simp] theorem State.wait_hif (s : State) (i : Instr) : (s.wait i).hif = s.hif := rfl
@[simp] theorem State.wait_blw (s : State) (i : Instr) : (s.wait i).blw = s.blw := rfl
@[simp] theorem State.wait_rst (s : State) (i : Instr) : (s.wait i).rst = s.rst := rfl
@[simp] theorem State.wait_tst (s : State) (i : Instr) : (s.wait i).tst = s.tst := rfl
@[simp] theorem State.wait_race (s : State) (i : Instr) : (s.wait i).race = s.race := rfl
@[simp] theorem State.wait_draws (s : State) (i : Instr) : (s.wait i).draws = s.draws := rfl
@[simp] theorem State.wait_free (s : State) (i : Instr) : (s.wait i).free = s.free := rfl
@[simp] theorem State.wait_pending (s : State) (i : Instr) : (s.wait i).pending = s.pending := rfl
@[simp] theorem State.barData_mem (s : State) (bs : List Byte) : (s.barData bs).mem = s.mem := rfl
@[simp] theorem State.barData_chk (s : State) (bs : List Byte) : (s.barData bs).chk = s.chk := rfl
@[simp] theorem State.barData_fws (s : State) (bs : List Byte) : (s.barData bs).fws = s.fws := rfl
@[simp] theorem State.barData_lws (s : State) (bs : List Byte) : (s.barData bs).lws = s.lws := rfl
@[simp] theorem State.barData_stepBase (s : State) (bs : List Byte) : (s.barData bs).stepBase = s.stepBase := rfl
@[simp] theorem State.barData_stepFirst (s : State) (bs : List Byte) : (s.barData bs).stepFirst = s.stepFirst := rfl
@[simp] theorem State.barData_fwsAt (s : State) (bs : List Byte) : (s.barData bs).fwsAt = s.fwsAt := rfl
@[simp] theorem State.barData_mm (s : State) (bs : List Byte) : (s.barData bs).mm = s.mm := rfl
@[simp] theorem State.barData_cores (s : State) (bs : List Byte) : (s.barData bs).cores = s.cores := rfl
@[simp] theorem State.barData_job (s : State) (bs : List Byte) : (s.barData bs).job = s.job := rfl
@[simp] theorem State.barData_stp (s : State) (bs : List Byte) : (s.barData bs).stp = s.stp := rfl
@[simp] theorem State.barData_scc (s : State) (bs : List Byte) : (s.barData bs).scc = s.scc := rfl
@[simp] theorem State.barData_rings (s : State) (bs : List Byte) : (s.barData bs).rings = s.rings := rfl
@[simp] theorem State.barData_lnk (s : State) (bs : List Byte) : (s.barData bs).lnk = s.lnk := rfl
@[simp] theorem State.barData_mon (s : State) (bs : List Byte) : (s.barData bs).mon = s.mon := rfl
@[simp] theorem State.barData_outq (s : State) (bs : List Byte) : (s.barData bs).outq = s.outq := rfl
@[simp] theorem State.barData_sec (s : State) (bs : List Byte) : (s.barData bs).sec = s.sec := rfl
@[simp] theorem State.barData_nvm (s : State) (bs : List Byte) : (s.barData bs).nvm = s.nvm := rfl
@[simp] theorem State.barData_blw (s : State) (bs : List Byte) : (s.barData bs).blw = s.blw := rfl
@[simp] theorem State.barData_rst (s : State) (bs : List Byte) : (s.barData bs).rst = s.rst := rfl
@[simp] theorem State.barData_tst (s : State) (bs : List Byte) : (s.barData bs).tst = s.tst := rfl
@[simp] theorem State.barData_race (s : State) (bs : List Byte) : (s.barData bs).race = s.race := rfl
@[simp] theorem State.barData_draws (s : State) (bs : List Byte) : (s.barData bs).draws = s.draws := rfl
@[simp] theorem State.barData_free (s : State) (bs : List Byte) : (s.barData bs).free = s.free := rfl
@[simp] theorem State.barData_pending (s : State) (bs : List Byte) : (s.barData bs).pending = s.pending := rfl
@[simp] theorem State.stepFault_mem (s : State) : (s.stepFault).mem = s.mem := by unfold State.stepFault; split <;> rfl
@[simp] theorem State.stepFault_chk (s : State) : (s.stepFault).chk = s.chk := by unfold State.stepFault; split <;> rfl
@[simp] theorem State.stepFault_fws (s : State) : (s.stepFault).fws = s.fws := by unfold State.stepFault; split <;> rfl
@[simp] theorem State.stepFault_lws (s : State) : (s.stepFault).lws = s.lws := by unfold State.stepFault; split <;> rfl
@[simp] theorem State.stepFault_stepBase (s : State) :
    (s.stepFault).stepBase = s.stepBase := by unfold State.stepFault; split <;> rfl
@[simp] theorem State.stepFault_stepFirst (s : State) :
    (s.stepFault).stepFirst = s.stepFirst := by unfold State.stepFault; split <;> rfl
@[simp] theorem State.stepFault_fwsAt (s : State) :
    (s.stepFault).fwsAt = s.fwsAt := by unfold State.stepFault; split <;> rfl
@[simp] theorem State.stepFault_mm (s : State) : (s.stepFault).mm = s.mm := by unfold State.stepFault; split <;> rfl
@[simp] theorem State.stepFault_cores (s : State) :
    (s.stepFault).cores = s.cores := by unfold State.stepFault; split <;> rfl
@[simp] theorem State.stepFault_job (s : State) : (s.stepFault).job = s.job := by unfold State.stepFault; split <;> rfl
@[simp] theorem State.stepFault_scc (s : State) : (s.stepFault).scc = s.scc := by unfold State.stepFault; split <;> rfl
@[simp] theorem State.stepFault_rings (s : State) :
    (s.stepFault).rings = s.rings := by unfold State.stepFault; split <;> rfl
@[simp] theorem State.stepFault_lnk (s : State) : (s.stepFault).lnk = s.lnk := by unfold State.stepFault; split <;> rfl
@[simp] theorem State.stepFault_mon (s : State) : (s.stepFault).mon = s.mon := by unfold State.stepFault; split <;> rfl
@[simp] theorem State.stepFault_outq (s : State) : (s.stepFault).outq = s.outq := by unfold State.stepFault; split <;> rfl
@[simp] theorem State.stepFault_sec (s : State) : (s.stepFault).sec = s.sec := by unfold State.stepFault; split <;> rfl
@[simp] theorem State.stepFault_nvm (s : State) : (s.stepFault).nvm = s.nvm := by unfold State.stepFault; split <;> rfl
@[simp] theorem State.stepFault_hif (s : State) : (s.stepFault).hif = s.hif := by unfold State.stepFault; split <;> rfl
@[simp] theorem State.stepFault_blw (s : State) : (s.stepFault).blw = s.blw := by unfold State.stepFault; split <;> rfl
@[simp] theorem State.stepFault_rst (s : State) : (s.stepFault).rst = s.rst := by unfold State.stepFault; split <;> rfl
@[simp] theorem State.stepFault_tst (s : State) : (s.stepFault).tst = s.tst := by unfold State.stepFault; split <;> rfl
@[simp] theorem State.stepFault_race (s : State) : (s.stepFault).race = s.race := by unfold State.stepFault; split <;> rfl
@[simp] theorem State.stepFault_draws (s : State) :
    (s.stepFault).draws = s.draws := by unfold State.stepFault; split <;> rfl
@[simp] theorem State.stepFault_free (s : State) : (s.stepFault).free = s.free := by unfold State.stepFault; split <;> rfl
@[simp] theorem State.stepFault_pending (s : State) :
    (s.stepFault).pending = s.pending := by unfold State.stepFault; split <;> rfl
@[simp] theorem State.addWr_mem (s : State) (ws : List WrRec) : (s.addWr ws).mem = s.mem := rfl
@[simp] theorem State.addWr_chk (s : State) (ws : List WrRec) : (s.addWr ws).chk = s.chk := rfl
@[simp] theorem State.addWr_fws (s : State) (ws : List WrRec) : (s.addWr ws).fws = s.fws := rfl
@[simp] theorem State.addWr_lws (s : State) (ws : List WrRec) : (s.addWr ws).lws = s.lws := rfl
@[simp] theorem State.addWr_stepBase (s : State) (ws : List WrRec) : (s.addWr ws).stepBase = s.stepBase := rfl
@[simp] theorem State.addWr_stepFirst (s : State) (ws : List WrRec) : (s.addWr ws).stepFirst = s.stepFirst := rfl
@[simp] theorem State.addWr_fwsAt (s : State) (ws : List WrRec) : (s.addWr ws).fwsAt = s.fwsAt := rfl
@[simp] theorem State.addWr_mm (s : State) (ws : List WrRec) : (s.addWr ws).mm = s.mm := rfl
@[simp] theorem State.addWr_cores (s : State) (ws : List WrRec) : (s.addWr ws).cores = s.cores := rfl
@[simp] theorem State.addWr_job (s : State) (ws : List WrRec) : (s.addWr ws).job = s.job := rfl
@[simp] theorem State.addWr_stp (s : State) (ws : List WrRec) : (s.addWr ws).stp = s.stp := rfl
@[simp] theorem State.addWr_scc (s : State) (ws : List WrRec) : (s.addWr ws).scc = s.scc := rfl
@[simp] theorem State.addWr_rings (s : State) (ws : List WrRec) : (s.addWr ws).rings = s.rings := rfl
@[simp] theorem State.addWr_lnk (s : State) (ws : List WrRec) : (s.addWr ws).lnk = s.lnk := rfl
@[simp] theorem State.addWr_mon (s : State) (ws : List WrRec) : (s.addWr ws).mon = s.mon := rfl
@[simp] theorem State.addWr_outq (s : State) (ws : List WrRec) : (s.addWr ws).outq = s.outq := rfl
@[simp] theorem State.addWr_sec (s : State) (ws : List WrRec) : (s.addWr ws).sec = s.sec := rfl
@[simp] theorem State.addWr_nvm (s : State) (ws : List WrRec) : (s.addWr ws).nvm = s.nvm := rfl
@[simp] theorem State.addWr_hif (s : State) (ws : List WrRec) : (s.addWr ws).hif = s.hif := rfl
@[simp] theorem State.addWr_blw (s : State) (ws : List WrRec) : (s.addWr ws).blw = s.blw := rfl
@[simp] theorem State.addWr_rst (s : State) (ws : List WrRec) : (s.addWr ws).rst = s.rst := rfl
@[simp] theorem State.addWr_tst (s : State) (ws : List WrRec) : (s.addWr ws).tst = s.tst := rfl
@[simp] theorem State.addWr_draws (s : State) (ws : List WrRec) : (s.addWr ws).draws = s.draws := rfl
@[simp] theorem State.addWr_free (s : State) (ws : List WrRec) : (s.addWr ws).free = s.free := rfl
@[simp] theorem State.addWr_pending (s : State) (ws : List WrRec) : (s.addWr ws).pending = s.pending := rfl
@[simp] theorem State.release_mem (s : State) (k : CoreId) (tag : W32) (x : Nat) :
    (s.release k tag x).mem = s.mem := by unfold State.release; extract_lets; split <;> rfl
@[simp] theorem State.release_chk (s : State) (k : CoreId) (tag : W32) (x : Nat) :
    (s.release k tag x).chk = s.chk := by unfold State.release; extract_lets; split <;> rfl
@[simp] theorem State.release_fws (s : State) (k : CoreId) (tag : W32) (x : Nat) :
    (s.release k tag x).fws = s.fws := by unfold State.release; extract_lets; split <;> rfl
@[simp] theorem State.release_lws (s : State) (k : CoreId) (tag : W32) (x : Nat) :
    (s.release k tag x).lws = s.lws := by unfold State.release; extract_lets; split <;> rfl
@[simp] theorem State.release_stepBase (s : State) (k : CoreId) (tag : W32) (x : Nat) :
    (s.release k tag x).stepBase = s.stepBase := by unfold State.release; extract_lets; split <;> rfl
@[simp] theorem State.release_stepFirst (s : State) (k : CoreId) (tag : W32) (x : Nat) :
    (s.release k tag x).stepFirst = s.stepFirst := by unfold State.release; extract_lets; split <;> rfl
@[simp] theorem State.release_fwsAt (s : State) (k : CoreId) (tag : W32) (x : Nat) :
    (s.release k tag x).fwsAt = s.fwsAt := by unfold State.release; extract_lets; split <;> rfl
@[simp] theorem State.release_mm (s : State) (k : CoreId) (tag : W32) (x : Nat) :
    (s.release k tag x).mm = s.mm := by unfold State.release; extract_lets; split <;> rfl
@[simp] theorem State.release_cores (s : State) (k : CoreId) (tag : W32) (x : Nat) :
    (s.release k tag x).cores = s.cores := by unfold State.release; extract_lets; split <;> rfl
@[simp] theorem State.release_job (s : State) (k : CoreId) (tag : W32) (x : Nat) :
    (s.release k tag x).job = s.job := by unfold State.release; extract_lets; split <;> rfl
@[simp] theorem State.release_stp (s : State) (k : CoreId) (tag : W32) (x : Nat) :
    (s.release k tag x).stp = s.stp := by unfold State.release; extract_lets; split <;> rfl
@[simp] theorem State.release_scc (s : State) (k : CoreId) (tag : W32) (x : Nat) :
    (s.release k tag x).scc = s.scc := by unfold State.release; extract_lets; split <;> rfl
@[simp] theorem State.release_rings (s : State) (k : CoreId) (tag : W32) (x : Nat) :
    (s.release k tag x).rings = s.rings := by unfold State.release; extract_lets; split <;> rfl
@[simp] theorem State.release_lnk (s : State) (k : CoreId) (tag : W32) (x : Nat) :
    (s.release k tag x).lnk = s.lnk := by unfold State.release; extract_lets; split <;> rfl
@[simp] theorem State.release_mon (s : State) (k : CoreId) (tag : W32) (x : Nat) :
    (s.release k tag x).mon = s.mon := by unfold State.release; extract_lets; split <;> rfl
@[simp] theorem State.release_outq (s : State) (k : CoreId) (tag : W32) (x : Nat) :
    (s.release k tag x).outq = s.outq := by unfold State.release; extract_lets; split <;> rfl
@[simp] theorem State.release_sec (s : State) (k : CoreId) (tag : W32) (x : Nat) :
    (s.release k tag x).sec = s.sec := by unfold State.release; extract_lets; split <;> rfl
@[simp] theorem State.release_nvm (s : State) (k : CoreId) (tag : W32) (x : Nat) :
    (s.release k tag x).nvm = s.nvm := by unfold State.release; extract_lets; split <;> rfl
@[simp] theorem State.release_hif (s : State) (k : CoreId) (tag : W32) (x : Nat) :
    (s.release k tag x).hif = s.hif := by unfold State.release; extract_lets; split <;> rfl
@[simp] theorem State.release_blw (s : State) (k : CoreId) (tag : W32) (x : Nat) :
    (s.release k tag x).blw = s.blw := by unfold State.release; extract_lets; split <;> rfl
@[simp] theorem State.release_rst (s : State) (k : CoreId) (tag : W32) (x : Nat) :
    (s.release k tag x).rst = s.rst := by unfold State.release; extract_lets; split <;> rfl
@[simp] theorem State.release_tst (s : State) (k : CoreId) (tag : W32) (x : Nat) :
    (s.release k tag x).tst = s.tst := by unfold State.release; extract_lets; split <;> rfl
@[simp] theorem State.release_draws (s : State) (k : CoreId) (tag : W32) (x : Nat) :
    (s.release k tag x).draws = s.draws := by unfold State.release; extract_lets; split <;> rfl
@[simp] theorem State.release_free (s : State) (k : CoreId) (tag : W32) (x : Nat) :
    (s.release k tag x).free = s.free := by unfold State.release; extract_lets; split <;> rfl
@[simp] theorem State.release_pending (s : State) (k : CoreId) (tag : W32) (x : Nat) :
    (s.release k tag x).pending = s.pending := by unfold State.release; extract_lets; split <;> rfl
@[simp] theorem State.seeWait_mem (s : State) (k : CoreId) (obj : W16) (target : W32) :
    (s.seeWait k obj target).mem = s.mem := rfl
@[simp] theorem State.seeWait_chk (s : State) (k : CoreId) (obj : W16) (target : W32) :
    (s.seeWait k obj target).chk = s.chk := rfl
@[simp] theorem State.seeWait_fws (s : State) (k : CoreId) (obj : W16) (target : W32) :
    (s.seeWait k obj target).fws = s.fws := rfl
@[simp] theorem State.seeWait_lws (s : State) (k : CoreId) (obj : W16) (target : W32) :
    (s.seeWait k obj target).lws = s.lws := rfl
@[simp] theorem State.seeWait_stepBase (s : State) (k : CoreId) (obj : W16) (target : W32) :
    (s.seeWait k obj target).stepBase = s.stepBase := rfl
@[simp] theorem State.seeWait_stepFirst (s : State) (k : CoreId) (obj : W16) (target : W32) :
    (s.seeWait k obj target).stepFirst = s.stepFirst := rfl
@[simp] theorem State.seeWait_fwsAt (s : State) (k : CoreId) (obj : W16) (target : W32) :
    (s.seeWait k obj target).fwsAt = s.fwsAt := rfl
@[simp] theorem State.seeWait_mm (s : State) (k : CoreId) (obj : W16) (target : W32) :
    (s.seeWait k obj target).mm = s.mm := rfl
@[simp] theorem State.seeWait_cores (s : State) (k : CoreId) (obj : W16) (target : W32) :
    (s.seeWait k obj target).cores = s.cores := rfl
@[simp] theorem State.seeWait_job (s : State) (k : CoreId) (obj : W16) (target : W32) :
    (s.seeWait k obj target).job = s.job := rfl
@[simp] theorem State.seeWait_stp (s : State) (k : CoreId) (obj : W16) (target : W32) :
    (s.seeWait k obj target).stp = s.stp := rfl
@[simp] theorem State.seeWait_scc (s : State) (k : CoreId) (obj : W16) (target : W32) :
    (s.seeWait k obj target).scc = s.scc := rfl
@[simp] theorem State.seeWait_rings (s : State) (k : CoreId) (obj : W16) (target : W32) :
    (s.seeWait k obj target).rings = s.rings := rfl
@[simp] theorem State.seeWait_lnk (s : State) (k : CoreId) (obj : W16) (target : W32) :
    (s.seeWait k obj target).lnk = s.lnk := rfl
@[simp] theorem State.seeWait_mon (s : State) (k : CoreId) (obj : W16) (target : W32) :
    (s.seeWait k obj target).mon = s.mon := rfl
@[simp] theorem State.seeWait_outq (s : State) (k : CoreId) (obj : W16) (target : W32) :
    (s.seeWait k obj target).outq = s.outq := rfl
@[simp] theorem State.seeWait_sec (s : State) (k : CoreId) (obj : W16) (target : W32) :
    (s.seeWait k obj target).sec = s.sec := rfl
@[simp] theorem State.seeWait_nvm (s : State) (k : CoreId) (obj : W16) (target : W32) :
    (s.seeWait k obj target).nvm = s.nvm := rfl
@[simp] theorem State.seeWait_hif (s : State) (k : CoreId) (obj : W16) (target : W32) :
    (s.seeWait k obj target).hif = s.hif := rfl
@[simp] theorem State.seeWait_blw (s : State) (k : CoreId) (obj : W16) (target : W32) :
    (s.seeWait k obj target).blw = s.blw := rfl
@[simp] theorem State.seeWait_rst (s : State) (k : CoreId) (obj : W16) (target : W32) :
    (s.seeWait k obj target).rst = s.rst := rfl
@[simp] theorem State.seeWait_tst (s : State) (k : CoreId) (obj : W16) (target : W32) :
    (s.seeWait k obj target).tst = s.tst := rfl
@[simp] theorem State.seeWait_draws (s : State) (k : CoreId) (obj : W16) (target : W32) :
    (s.seeWait k obj target).draws = s.draws := rfl
@[simp] theorem State.seeWait_free (s : State) (k : CoreId) (obj : W16) (target : W32) :
    (s.seeWait k obj target).free = s.free := rfl
@[simp] theorem State.seeWait_pending (s : State) (k : CoreId) (obj : W16) (target : W32) :
    (s.seeWait k obj target).pending = s.pending := rfl
@[simp] theorem State.putEnt_mem (s : State) (k : CoreId) (pre : List Ent) (e : Ent) (post : List Ent) :
    (s.putEnt k pre e post).mem = s.mem := rfl
@[simp] theorem State.putEnt_chk (s : State) (k : CoreId) (pre : List Ent) (e : Ent) (post : List Ent) :
    (s.putEnt k pre e post).chk = s.chk := rfl
@[simp] theorem State.putEnt_fws (s : State) (k : CoreId) (pre : List Ent) (e : Ent) (post : List Ent) :
    (s.putEnt k pre e post).fws = s.fws := rfl
@[simp] theorem State.putEnt_lws (s : State) (k : CoreId) (pre : List Ent) (e : Ent) (post : List Ent) :
    (s.putEnt k pre e post).lws = s.lws := rfl
@[simp] theorem State.putEnt_stepBase (s : State) (k : CoreId) (pre : List Ent) (e : Ent) (post : List Ent) :
    (s.putEnt k pre e post).stepBase = s.stepBase := rfl
@[simp] theorem State.putEnt_stepFirst (s : State) (k : CoreId) (pre : List Ent) (e : Ent) (post : List Ent) :
    (s.putEnt k pre e post).stepFirst = s.stepFirst := rfl
@[simp] theorem State.putEnt_fwsAt (s : State) (k : CoreId) (pre : List Ent) (e : Ent) (post : List Ent) :
    (s.putEnt k pre e post).fwsAt = s.fwsAt := rfl
@[simp] theorem State.putEnt_mm (s : State) (k : CoreId) (pre : List Ent) (e : Ent) (post : List Ent) :
    (s.putEnt k pre e post).mm = s.mm := rfl
@[simp] theorem State.putEnt_job (s : State) (k : CoreId) (pre : List Ent) (e : Ent) (post : List Ent) :
    (s.putEnt k pre e post).job = s.job := rfl
@[simp] theorem State.putEnt_stp (s : State) (k : CoreId) (pre : List Ent) (e : Ent) (post : List Ent) :
    (s.putEnt k pre e post).stp = s.stp := rfl
@[simp] theorem State.putEnt_scc (s : State) (k : CoreId) (pre : List Ent) (e : Ent) (post : List Ent) :
    (s.putEnt k pre e post).scc = s.scc := rfl
@[simp] theorem State.putEnt_rings (s : State) (k : CoreId) (pre : List Ent) (e : Ent) (post : List Ent) :
    (s.putEnt k pre e post).rings = s.rings := rfl
@[simp] theorem State.putEnt_lnk (s : State) (k : CoreId) (pre : List Ent) (e : Ent) (post : List Ent) :
    (s.putEnt k pre e post).lnk = s.lnk := rfl
@[simp] theorem State.putEnt_mon (s : State) (k : CoreId) (pre : List Ent) (e : Ent) (post : List Ent) :
    (s.putEnt k pre e post).mon = s.mon := rfl
@[simp] theorem State.putEnt_outq (s : State) (k : CoreId) (pre : List Ent) (e : Ent) (post : List Ent) :
    (s.putEnt k pre e post).outq = s.outq := rfl
@[simp] theorem State.putEnt_sec (s : State) (k : CoreId) (pre : List Ent) (e : Ent) (post : List Ent) :
    (s.putEnt k pre e post).sec = s.sec := rfl
@[simp] theorem State.putEnt_nvm (s : State) (k : CoreId) (pre : List Ent) (e : Ent) (post : List Ent) :
    (s.putEnt k pre e post).nvm = s.nvm := rfl
@[simp] theorem State.putEnt_hif (s : State) (k : CoreId) (pre : List Ent) (e : Ent) (post : List Ent) :
    (s.putEnt k pre e post).hif = s.hif := rfl
@[simp] theorem State.putEnt_blw (s : State) (k : CoreId) (pre : List Ent) (e : Ent) (post : List Ent) :
    (s.putEnt k pre e post).blw = s.blw := rfl
@[simp] theorem State.putEnt_rst (s : State) (k : CoreId) (pre : List Ent) (e : Ent) (post : List Ent) :
    (s.putEnt k pre e post).rst = s.rst := rfl
@[simp] theorem State.putEnt_tst (s : State) (k : CoreId) (pre : List Ent) (e : Ent) (post : List Ent) :
    (s.putEnt k pre e post).tst = s.tst := rfl
@[simp] theorem State.putEnt_race (s : State) (k : CoreId) (pre : List Ent) (e : Ent) (post : List Ent) :
    (s.putEnt k pre e post).race = s.race := rfl
@[simp] theorem State.putEnt_draws (s : State) (k : CoreId) (pre : List Ent) (e : Ent) (post : List Ent) :
    (s.putEnt k pre e post).draws = s.draws := rfl
@[simp] theorem State.putEnt_free (s : State) (k : CoreId) (pre : List Ent) (e : Ent) (post : List Ent) :
    (s.putEnt k pre e post).free = s.free := rfl
@[simp] theorem State.putEnt_pending (s : State) (k : CoreId) (pre : List Ent) (e : Ent) (post : List Ent) :
    (s.putEnt k pre e post).pending = s.pending := rfl
@[simp] theorem State.started_mem (s : State) (k : CoreId) (e : Ent) : (s.started k e).mem = s.mem := rfl
@[simp] theorem State.started_chk (s : State) (k : CoreId) (e : Ent) : (s.started k e).chk = s.chk := rfl
@[simp] theorem State.started_fws (s : State) (k : CoreId) (e : Ent) : (s.started k e).fws = s.fws := rfl
@[simp] theorem State.started_lws (s : State) (k : CoreId) (e : Ent) : (s.started k e).lws = s.lws := rfl
@[simp] theorem State.started_stepBase (s : State) (k : CoreId) (e : Ent) : (s.started k e).stepBase = s.stepBase := rfl
@[simp] theorem State.started_stepFirst (s : State) (k : CoreId) (e : Ent) : (s.started k e).stepFirst = s.stepFirst := rfl
@[simp] theorem State.started_fwsAt (s : State) (k : CoreId) (e : Ent) : (s.started k e).fwsAt = s.fwsAt := rfl
@[simp] theorem State.started_mm (s : State) (k : CoreId) (e : Ent) : (s.started k e).mm = s.mm := rfl
@[simp] theorem State.started_job (s : State) (k : CoreId) (e : Ent) : (s.started k e).job = s.job := rfl
@[simp] theorem State.started_stp (s : State) (k : CoreId) (e : Ent) : (s.started k e).stp = s.stp := rfl
@[simp] theorem State.started_scc (s : State) (k : CoreId) (e : Ent) : (s.started k e).scc = s.scc := rfl
@[simp] theorem State.started_rings (s : State) (k : CoreId) (e : Ent) : (s.started k e).rings = s.rings := rfl
@[simp] theorem State.started_lnk (s : State) (k : CoreId) (e : Ent) : (s.started k e).lnk = s.lnk := rfl
@[simp] theorem State.started_mon (s : State) (k : CoreId) (e : Ent) : (s.started k e).mon = s.mon := rfl
@[simp] theorem State.started_outq (s : State) (k : CoreId) (e : Ent) : (s.started k e).outq = s.outq := rfl
@[simp] theorem State.started_sec (s : State) (k : CoreId) (e : Ent) : (s.started k e).sec = s.sec := rfl
@[simp] theorem State.started_nvm (s : State) (k : CoreId) (e : Ent) : (s.started k e).nvm = s.nvm := rfl
@[simp] theorem State.started_hif (s : State) (k : CoreId) (e : Ent) : (s.started k e).hif = s.hif := rfl
@[simp] theorem State.started_blw (s : State) (k : CoreId) (e : Ent) : (s.started k e).blw = s.blw := rfl
@[simp] theorem State.started_rst (s : State) (k : CoreId) (e : Ent) : (s.started k e).rst = s.rst := rfl
@[simp] theorem State.started_tst (s : State) (k : CoreId) (e : Ent) : (s.started k e).tst = s.tst := rfl
@[simp] theorem State.started_race (s : State) (k : CoreId) (e : Ent) : (s.started k e).race = s.race := rfl
@[simp] theorem State.started_draws (s : State) (k : CoreId) (e : Ent) : (s.started k e).draws = s.draws := rfl
@[simp] theorem State.started_free (s : State) (k : CoreId) (e : Ent) : (s.started k e).free = s.free := rfl
@[simp] theorem State.started_pending (s : State) (k : CoreId) (e : Ent) : (s.started k e).pending = s.pending := rfl
@[simp] theorem State.entered_mem (s : State) (k : CoreId) (i : Instr) : (s.entered k i).mem = s.mem := rfl
@[simp] theorem State.entered_chk (s : State) (k : CoreId) (i : Instr) : (s.entered k i).chk = s.chk := rfl
@[simp] theorem State.entered_fws (s : State) (k : CoreId) (i : Instr) : (s.entered k i).fws = s.fws := rfl
@[simp] theorem State.entered_lws (s : State) (k : CoreId) (i : Instr) : (s.entered k i).lws = s.lws := rfl
@[simp] theorem State.entered_stepBase (s : State) (k : CoreId) (i : Instr) : (s.entered k i).stepBase = s.stepBase := rfl
@[simp] theorem State.entered_stepFirst (s : State) (k : CoreId) (i : Instr) :
    (s.entered k i).stepFirst = s.stepFirst := rfl
@[simp] theorem State.entered_fwsAt (s : State) (k : CoreId) (i : Instr) : (s.entered k i).fwsAt = s.fwsAt := rfl
@[simp] theorem State.entered_mm (s : State) (k : CoreId) (i : Instr) : (s.entered k i).mm = s.mm := rfl
@[simp] theorem State.entered_job (s : State) (k : CoreId) (i : Instr) : (s.entered k i).job = s.job := rfl
@[simp] theorem State.entered_stp (s : State) (k : CoreId) (i : Instr) : (s.entered k i).stp = s.stp := rfl
@[simp] theorem State.entered_scc (s : State) (k : CoreId) (i : Instr) : (s.entered k i).scc = s.scc := rfl
@[simp] theorem State.entered_rings (s : State) (k : CoreId) (i : Instr) : (s.entered k i).rings = s.rings := rfl
@[simp] theorem State.entered_lnk (s : State) (k : CoreId) (i : Instr) : (s.entered k i).lnk = s.lnk := rfl
@[simp] theorem State.entered_mon (s : State) (k : CoreId) (i : Instr) : (s.entered k i).mon = s.mon := rfl
@[simp] theorem State.entered_outq (s : State) (k : CoreId) (i : Instr) : (s.entered k i).outq = s.outq := rfl
@[simp] theorem State.entered_sec (s : State) (k : CoreId) (i : Instr) : (s.entered k i).sec = s.sec := rfl
@[simp] theorem State.entered_nvm (s : State) (k : CoreId) (i : Instr) : (s.entered k i).nvm = s.nvm := rfl
@[simp] theorem State.entered_hif (s : State) (k : CoreId) (i : Instr) : (s.entered k i).hif = s.hif := rfl
@[simp] theorem State.entered_blw (s : State) (k : CoreId) (i : Instr) : (s.entered k i).blw = s.blw := rfl
@[simp] theorem State.entered_rst (s : State) (k : CoreId) (i : Instr) : (s.entered k i).rst = s.rst := rfl
@[simp] theorem State.entered_tst (s : State) (k : CoreId) (i : Instr) : (s.entered k i).tst = s.tst := rfl
@[simp] theorem State.entered_race (s : State) (k : CoreId) (i : Instr) : (s.entered k i).race = s.race := rfl
@[simp] theorem State.entered_draws (s : State) (k : CoreId) (i : Instr) : (s.entered k i).draws = s.draws := rfl
@[simp] theorem State.entered_free (s : State) (k : CoreId) (i : Instr) : (s.entered k i).free = s.free := rfl
@[simp] theorem State.entered_pending (s : State) (k : CoreId) (i : Instr) : (s.entered k i).pending = s.pending := rfl
@[simp] theorem State.setXchg_mem (s : State) (x : Xchg) : (s.setXchg x).mem = s.mem := rfl
@[simp] theorem State.setXchg_chk (s : State) (x : Xchg) : (s.setXchg x).chk = s.chk := rfl
@[simp] theorem State.setXchg_fws (s : State) (x : Xchg) : (s.setXchg x).fws = s.fws := rfl
@[simp] theorem State.setXchg_lws (s : State) (x : Xchg) : (s.setXchg x).lws = s.lws := rfl
@[simp] theorem State.setXchg_stepBase (s : State) (x : Xchg) : (s.setXchg x).stepBase = s.stepBase := rfl
@[simp] theorem State.setXchg_stepFirst (s : State) (x : Xchg) : (s.setXchg x).stepFirst = s.stepFirst := rfl
@[simp] theorem State.setXchg_fwsAt (s : State) (x : Xchg) : (s.setXchg x).fwsAt = s.fwsAt := rfl
@[simp] theorem State.setXchg_mm (s : State) (x : Xchg) : (s.setXchg x).mm = s.mm := rfl
@[simp] theorem State.setXchg_cores (s : State) (x : Xchg) : (s.setXchg x).cores = s.cores := rfl
@[simp] theorem State.setXchg_stp (s : State) (x : Xchg) : (s.setXchg x).stp = s.stp := rfl
@[simp] theorem State.setXchg_scc (s : State) (x : Xchg) : (s.setXchg x).scc = s.scc := rfl
@[simp] theorem State.setXchg_rings (s : State) (x : Xchg) : (s.setXchg x).rings = s.rings := rfl
@[simp] theorem State.setXchg_lnk (s : State) (x : Xchg) : (s.setXchg x).lnk = s.lnk := rfl
@[simp] theorem State.setXchg_mon (s : State) (x : Xchg) : (s.setXchg x).mon = s.mon := rfl
@[simp] theorem State.setXchg_outq (s : State) (x : Xchg) : (s.setXchg x).outq = s.outq := rfl
@[simp] theorem State.setXchg_sec (s : State) (x : Xchg) : (s.setXchg x).sec = s.sec := rfl
@[simp] theorem State.setXchg_nvm (s : State) (x : Xchg) : (s.setXchg x).nvm = s.nvm := rfl
@[simp] theorem State.setXchg_hif (s : State) (x : Xchg) : (s.setXchg x).hif = s.hif := rfl
@[simp] theorem State.setXchg_blw (s : State) (x : Xchg) : (s.setXchg x).blw = s.blw := rfl
@[simp] theorem State.setXchg_rst (s : State) (x : Xchg) : (s.setXchg x).rst = s.rst := rfl
@[simp] theorem State.setXchg_tst (s : State) (x : Xchg) : (s.setXchg x).tst = s.tst := rfl
@[simp] theorem State.setXchg_race (s : State) (x : Xchg) : (s.setXchg x).race = s.race := rfl
@[simp] theorem State.setXchg_draws (s : State) (x : Xchg) : (s.setXchg x).draws = s.draws := rfl
@[simp] theorem State.setXchg_free (s : State) (x : Xchg) : (s.setXchg x).free = s.free := rfl
@[simp] theorem State.setXchg_pending (s : State) (x : Xchg) : (s.setXchg x).pending = s.pending := rfl
@[simp] theorem State.setEvc_mem (s : State) (b : EvcBlk) (e : Evc) : (s.setEvc b e).mem = s.mem := by cases b <;> rfl
@[simp] theorem State.setEvc_chk (s : State) (b : EvcBlk) (e : Evc) : (s.setEvc b e).chk = s.chk := by cases b <;> rfl
@[simp] theorem State.setEvc_fws (s : State) (b : EvcBlk) (e : Evc) : (s.setEvc b e).fws = s.fws := by cases b <;> rfl
@[simp] theorem State.setEvc_lws (s : State) (b : EvcBlk) (e : Evc) : (s.setEvc b e).lws = s.lws := by cases b <;> rfl
@[simp] theorem State.setEvc_stepBase (s : State) (b : EvcBlk) (e : Evc) :
    (s.setEvc b e).stepBase = s.stepBase := by cases b <;> rfl
@[simp] theorem State.setEvc_stepFirst (s : State) (b : EvcBlk) (e : Evc) :
    (s.setEvc b e).stepFirst = s.stepFirst := by cases b <;> rfl
@[simp] theorem State.setEvc_fwsAt (s : State) (b : EvcBlk) (e : Evc) : (s.setEvc b e).fwsAt = s.fwsAt := by cases b <;> rfl
@[simp] theorem State.setEvc_mm (s : State) (b : EvcBlk) (e : Evc) : (s.setEvc b e).mm = s.mm := by cases b <;> rfl
@[simp] theorem State.setEvc_job (s : State) (b : EvcBlk) (e : Evc) : (s.setEvc b e).job = s.job := by cases b <;> rfl
@[simp] theorem State.setEvc_stp (s : State) (b : EvcBlk) (e : Evc) : (s.setEvc b e).stp = s.stp := by cases b <;> rfl
@[simp] theorem State.setEvc_scc (s : State) (b : EvcBlk) (e : Evc) : (s.setEvc b e).scc = s.scc := by cases b <;> rfl
@[simp] theorem State.setEvc_rings (s : State) (b : EvcBlk) (e : Evc) : (s.setEvc b e).rings = s.rings := by cases b <;> rfl
@[simp] theorem State.setEvc_lnk (s : State) (b : EvcBlk) (e : Evc) : (s.setEvc b e).lnk = s.lnk := by cases b <;> rfl
@[simp] theorem State.setEvc_outq (s : State) (b : EvcBlk) (e : Evc) : (s.setEvc b e).outq = s.outq := by cases b <;> rfl
@[simp] theorem State.setEvc_sec (s : State) (b : EvcBlk) (e : Evc) : (s.setEvc b e).sec = s.sec := by cases b <;> rfl
@[simp] theorem State.setEvc_nvm (s : State) (b : EvcBlk) (e : Evc) : (s.setEvc b e).nvm = s.nvm := by cases b <;> rfl
@[simp] theorem State.setEvc_hif (s : State) (b : EvcBlk) (e : Evc) : (s.setEvc b e).hif = s.hif := by cases b <;> rfl
@[simp] theorem State.setEvc_blw (s : State) (b : EvcBlk) (e : Evc) : (s.setEvc b e).blw = s.blw := by cases b <;> rfl
@[simp] theorem State.setEvc_rst (s : State) (b : EvcBlk) (e : Evc) : (s.setEvc b e).rst = s.rst := by cases b <;> rfl
@[simp] theorem State.setEvc_tst (s : State) (b : EvcBlk) (e : Evc) : (s.setEvc b e).tst = s.tst := by cases b <;> rfl
@[simp] theorem State.setEvc_race (s : State) (b : EvcBlk) (e : Evc) : (s.setEvc b e).race = s.race := by cases b <;> rfl
@[simp] theorem State.setEvc_draws (s : State) (b : EvcBlk) (e : Evc) : (s.setEvc b e).draws = s.draws := by cases b <;> rfl
@[simp] theorem State.setEvc_free (s : State) (b : EvcBlk) (e : Evc) : (s.setEvc b e).free = s.free := by cases b <;> rfl
@[simp] theorem State.setEvc_pending (s : State) (b : EvcBlk) (e : Evc) :
    (s.setEvc b e).pending = s.pending := by cases b <;> rfl

end Sys2Proof.Machine
end

