-- ==== Sys2Proof/Laws/Mailbox.lean ====
section
/-! SUPPORT. What an accepted request of the mailbox does (R422-R427): its effect runs on the taken state, and its reply is posted. -/

set_option Elab.async false

namespace Sys2Proof.Machine

open Sys2Proof

/-- An accepted request runs its effect on the taken state; the effect's answer is posted, or left for later. -/
theorem State.request_accepts {s : State} {m : Mb} (h : Accepts s m) {quar : Bool} (hq : quar = true ∨ s.sec.sstate ≠ .quarantine) (type : Nat)
    (f : State → State × Answer) :
    s.request m type quar f =
      match (f (s.taken m)).2 with
      | .now st d p => (f (s.taken m)).1.postReply ⟨type, m.seq, st, d, p, none⟩
      | .later => (f (s.taken m)).1 := by
  have h1 := h.up
  have h2 := h.ver
  have h3 := h.room
  have h4 := h.header
  have h5 := h.serving
  have hq' : ¬ (s.sec.sstate = .quarantine ∧ ¬ quar = true) := by
    rintro ⟨ha, hb⟩
    rcases hq with hq | hq
    · exact hb hq
    · exact hq ha
  unfold State.request
  rw [if_neg (by rw [h1]; rintro (h | h | h); exacts [h rfl, h2 h, absurd h3 (by omega)]), if_neg (by rw [h4]; exact fun h => h rfl)]
  simp only [if_neg (show ¬ s.hif.activating = true by rw [h5]; exact Bool.false_ne_true), if_neg hq']
  rfl

/-- Raising an MSI-X vector changes the count of its messages or its pending bit, and nothing else. -/
theorem State.vector_frame (s : State) (n : Nat) :
    { s.vector n with hif := { (s.vector n).hif with msix := s.hif.msix, pba := s.hif.pba } } = s := by
  unfold State.vector Hif.raised
  split <;> rfl

/-- A reply of an attached mailbox whose data fit in it stands behind the others, and nothing else but vector 0 changes. -/
theorem State.postReply_small {s : State} {r : Reply} (hv : s.hif.ver ≠ none) (ha : s.hif.activating = false) (hd : r.data.size ≤ 4080) :
    s.postReply r = { s with hif := { s.hif with replies := s.hif.replies ++ [r] } }.vector 0 := by
  unfold State.postReply State.byRef
  rw [if_pos (Or.inl hd)]
  exact if_pos ⟨Option.isSome_iff_ne_none.mpr hv, fun h => absurd (ha.symm.trans h) (by decide)⟩

/-- Writing into the output queue keeps the canonical form (R354). -/
theorem State.outWrite_wf {s : State} (u : Nat) (bs : List Byte) (h : Memory.wf s.mem = true) :
    Memory.wf (s.outWrite u bs).mem = true := by
  have key : ∀ (rs : List Run), Memory.wf (rs.foldl (fun m r => memWrite m r.1 r.2) s.mem) = true := fun rs => writes_wf rs h
  unfold State.outWrite
  extract_lets rs put
  split
  · exact key _
  · rw [State.macFail_mem]; exact key _

end Sys2Proof.Machine
end

