-- ==== Sys2Proof/Tests/Fixture.lean ====
section
/-! SUPPORT. The small states of the tests and how readiness is decided on them. -/

set_option Elab.async false

namespace Sys2Proof.Tests

open Sys2Proof Sys2Proof.Machine

/-- A module that is up, attached, with no job. -/
def up : State :=
  { State.reset with
    sec := { Sec.zero with pstate := 0, seed := some 0 }, rst := { Rst.zero with locked := true, dieUp := true },
    blw := { Blw.zero with powered := true, switch := true },
    hif := { Hif.zero with perst := false, mbxUp := true, ver := some (1, 0), phase := 5 } }

/-- A core that fetches. -/
def live : Core := { Core.zero with fetching := true }

/-- Entries of some blocks, made of their contents. -/
def stamps (m : List Host.Cell) (bs : List Nat) : SMap W64 := bs.map fun b => (b, mkEntry m b 0 0)

/-- The module with core 0 as given, a memory, and blocks with valid check values. -/
def at0 (c : Core) (m : List Host.Cell) (bs : List Nat) : State := { up with cores := [(0, c)], mem := m, chk := stamps m bs }

theorem chk_at0 {s : State} {bs : List Nat} (h : s.chk = stamps s.mem bs) {b : Nat} (hb : b ∈ bs) :
    chkGet s b = mkEntry s.mem b 0 0 := by
  unfold chkGet
  rw [h]
  unfold stamps
  clear h
  induction bs with
  | nil => simp at hb
  | cons x xs ih =>
    by_cases hx : x = b
    · subst hx; simp [SMap.get_cons]
    · rw [List.map_cons, SMap.get_cons, if_neg hx]
      exact ih ((List.mem_cons.mp hb).resolve_left (Ne.symm hx))

theorem chk_none {s : State} {bs : List Nat} (h : s.chk = stamps s.mem bs) {b : Nat} (hb : b ∉ bs) : chkGet s b = 0 := by
  unfold chkGet
  rw [h]
  exact SMap.get_of_not_mem _ fun e he => by
    obtain ⟨x, hx, rfl⟩ := List.mem_map.mp he
    rintro rfl
    exact hb hx

/-- The blocks an execution reads are among the stamped ones. -/
def readsOk (s : State) (bs : List Nat) (rs : List (W16 × List Span)) : Bool :=
  rs.all fun r => (spanBlocks r.2).all fun b =>
    ! carriesCheck s (b * 4096) || (bs.contains b && stepOk s (s.groupLow r.1) (s.inView (s.desc r.1) b) 0)

/-- The blocks an execution writes in part are not stamped, or pass the step check. -/
def writesOk (s : State) (bs : List Nat) (ws : List (W16 × List Span)) : Bool :=
  ws.all fun r => (runBlocks (r.2.map fun x => (x.1, List.replicate x.2 (0 : Byte)))).all fun b =>
    ! bs.contains b || stepOk s (s.groupLow r.1) (s.inView (s.desc r.1) b) 0

/-- Everything of readiness but the check values. -/
def readyB (s : State) (k : CoreId) (i : Instr) (bs : List Nat) : Bool :=
  let e := (s.core k).entryOf i
  let u := s.entered k i
  let v := u.started k e
  (s.core k).takes && (s.core k).waitq.isEmpty && ! (s.core k).holdsIssue i
    && u.clear k (s.core k).inflight e [] && (v.violation k e.iter e.ins).isNone && ! v.moveWaits e
    && readsOk v bs (v.reads e.iter e.ins) && writesOk v bs (v.writes e.iter e.ins) && (v.departing k e).isNone
    && ((v.found k e.ins).isNone || ! checked e.ins) && s.mm.poisoned.isEmpty && (v.racy k e.iter e.ins).isEmpty
    && (hdrOf e.ins).poison.isNone && (v.overtaken k ((v.wrOf k e.tag e.x e.iter e.ins).flatMap (·.spans))).isEmpty
    && ! s.fetchStalls k && s.mayFetch k

/-- Readiness from a decided test. -/
theorem ready {s : State} {k : CoreId} {i : Instr} (bs : List Nat) (hc : s.chk = stamps s.mem bs)
    (h : readyB s k i bs = true) : Ready s k i := by
  simp only [readyB, Bool.and_eq_true, Bool.or_eq_true, Bool.not_eq_true', List.isEmpty_iff, Option.isNone_iff_eq_none] at h
  obtain ⟨⟨⟨⟨⟨⟨⟨⟨⟨⟨⟨⟨⟨⟨⟨h1, h2⟩, h3⟩, h4⟩, h5⟩, h6⟩, h7⟩, h8⟩, hd⟩, h9⟩, h10⟩, h11⟩, h12⟩, h13⟩, h14⟩, h15⟩ := h
  have hv : ((s.entered k i).started k ((s.core k).entryOf i)).chk = stamps ((s.entered k i).started k ((s.core k).entryOf i)).mem bs := hc
  refine ⟨⟨h1, h2, h3, h14, h15⟩, ⟨h4, h5, h6, ?_, ?_, hd, h9, h11, h13⟩⟩
  · unfold State.readFault
    rw [h12]
    refine State.badRead_none fun r hr b hb hcc => ?_
    have h := List.all_eq_true.mp (List.all_eq_true.mp h7 r hr) b hb
    simp only [Bool.or_eq_true, Bool.not_eq_true', Bool.and_eq_true, hcc, Bool.true_eq_false, false_or, List.contains_iff_mem] at h
    exact blockFault_none (by decide) (chk_at0 hv h.1) h10 h.2
  · refine State.badWrite_none fun r hr b hb _ _ hev => ?_
    have h := List.all_eq_true.mp (List.all_eq_true.mp h8 r hr) b hb
    by_cases hm : b ∈ bs
    · have hm' : bs.contains b = true := by simpa using hm
      simp only [Bool.or_eq_true, Bool.not_eq_true', hm', Bool.true_eq_false, false_or] at h
      exact blockFault_none (by decide) (chk_at0 hv hm) h10 h
    · rw [chk_none hv hm] at hev
      exact absurd hev (by decide)

/-- A descriptor (R178) of class 0: base, format code, dimensions, flags from bit 64 on, extents, strides. -/
def descV (base fmt ndim : Nat) (flags : Nat) (ext str : List Nat) : Nat :=
  base + fmt * 2 ^ 48 + ndim * 2 ^ 58 + flags * 2 ^ 64
    + ((ext ++ List.replicate (6 - ext.length) 1).zipIdx.map fun (x : Nat × Nat) => x.1 * 2 ^ (120 + 32 * x.2)).sum + (str.zipIdx.map fun (x : Nat × Nat) => x.1 * 2 ^ (312 + 40 * x.2)).sum

/-- Put descriptors into a memory: handle and value. -/
def withDescs (ds : List (Nat × Nat)) (m : List Host.Cell) : List Host.Cell :=
  ds.foldl (fun a d => memWrite a (descTable + 64 * d.1) (leBytes 64 d.2)) m

/-- Run some commands and test the state they lead to; a stop fails the test. -/
def after : List Instr → State → (State → Bool) → Bool
  | [], s, p => p s
  | i :: is, s, p => match exec i s with | .next t => after is t p | _ => false

def hd1 : Hdr := { tag := 7, ixl := 0, ixm := 0, chk := none, reread := false, poison := none, ecc := 0 }
def src (k : Nat) (r : VRegId) (i : Fin 64) : Src := ⟨BitVec.ofNat 2 k, r, i⟩
def vec0 : VecF :=
  { view := 0, vd := 2, ltr := 1, axis := 0, acc := 0, imm := 0x40000000, srca := src 0 0 0, srcb := src 3 0 0, se := 0,
    srcc := src 0 1 0, nm1 := 63, fn := 0 }

/-- Tensors of column 0, one a block: handle, format, flags, extents, strides. -/
def tensors : List (Nat × Nat × Nat × List Nat × List Nat) :=
  [(1, 0x10, 0, [4, 4], [64]), (2, 0x06, 0, [32, 2], [32]), (3, 0x06, 0, [32, 3], [32]), (4, 0x0A, 0, [4, 4], [16]),
    (5, 0x11, 0, [4, 2], [160]), (6, 0x12, 0, [4], []), (7, 0x13, 0, [4], []), (8, 0x0A, 0, [4, 4], [16]),
    (9, 0x10, 256, [4, 4], [8]), (10, 0x08, 0, [32, 2], [64]), (11, 0x08, 0, [32, 3], [64]), (12, 0x11, 0, [4], []),
    (13, 0x11, 0, [4], []), (14, 0x0A, 0, [4], []), (15, 0x0A, 0, [4], []), (16, 0x13, 0, [4], []), (17, 0x12, 0, [4, 4], [16])]

/-- Their descriptors, and a byte of data in each. -/
def tmem : List Host.Cell :=
  withDescs (tensors.map fun t => (t.1, descV (4096 * t.1) t.2.1 2 t.2.2.1 t.2.2.2.1 t.2.2.2.2))
    (tensors.foldl (fun m t => memWrite m (4096 * t.1) [1]) [])

def layer5 : GLayer :=
  { num := 5, dmask := 1, wide := false, g := 1, len := 16, m := 1, e := 0, emin := -100, emax := 100, hold := 0, hist := [], dhist := [],
    dpend := 0 }

def prog1 : Program :=
  { isa := 2, nlcore := 1, ncol := 1, cols := [0], nhandle := 32, nscale := 1, nsync := 8, streams := [[0, 0, 0]], aliasTab := [], slots := [[5]],
    updLayer := [(17, 5)], groups := [[(5, 0)]], hrs := [], hasXchg := true, codeDigest := 0 }

/-- A job whose layer 5 has slot 0 of core 0. -/
def job1 : Job := { Job.zero with st := .loaded, prog := some prog1, layers := [layer5] }

/-- The first code granule sealed. -/
def sealed0 : MemSt := { up.mm with sealed := [(0, true)] }

/-- Core 0 live, the job, the tensors with valid check values. -/
def st : State := { at0 live tmem (List.range' 1 17) with job := job1, mm := sealed0 }

theorem st_chk : st.chk = stamps st.mem (List.range' 1 17) := rfl

end Sys2Proof.Tests
end

