-- ==== Sys2Proof/Tests/Witness.lean ====
section
/-! SUPPORT. For every statement with hypotheses a state and operands that meet them, clause by clause. -/

set_option Elab.async false

namespace Sys2Proof.Tests

open Sys2Proof Sys2Proof.Machine

/-- Readiness on the fixture. -/
theorem rdy (i : Instr) (h : readyB st 0 i (List.range' 1 17) = true) : Ready st 0 i := ready _ st_chk h

/-- A core that takes a command, decided. -/
def takesB (s : State) (k : CoreId) (i : Instr) : Bool :=
  (s.core k).takes && (s.core k).waitq.isEmpty && ! (s.core k).holdsIssue i && ! s.fetchStalls k && s.mayFetch k

theorem takes {s : State} {k : CoreId} {i : Instr} (h : takesB s k i = true) : Takes s k i := by
  simp only [takesB, Bool.and_eq_true, Bool.not_eq_true', List.isEmpty_iff] at h
  exact ⟨h.1.1.1.1, h.1.1.1.2, h.1.1.2, h.1.2, h.2⟩

/-! Commands that wait. -/

theorem witness_CommandsHeld_1 :
    (up.core 0).takes = false ∧ Takes st 0 (.vadd 0 hd1 vec0) ∧ coreOf (.vadd 0 hd1 vec0) = some 0
      ∧ (at0 { live with waitq := [.endl 0 hd1] } [] []).core 0 ≠ Core.zero
      ∧ ((at0 { live with waitq := [.endl 0 hd1] } [] []).core 0).takes = true
      ∧ ((at0 { live with waitq := [.endl 0 hd1] } [] []).core 0).waitq ≠ [] :=
  ⟨by decide +kernel, takes (by decide +kernel), rfl, by decide +kernel, by decide +kernel, by decide +kernel⟩

/-- An entry in flight that holds VADD back. -/
def busy : State := at0 { live with inflight := [live.entryOf (.commit 0 hd1)] } [] []

theorem witness_CommandsHeld_2 :
    Takes busy 0 (.vadd 0 hd1 vec0) ∧
      (busy.entered 0 (.vadd 0 hd1 vec0)).clear 0 (busy.core 0).inflight ((busy.core 0).entryOf (.vadd 0 hd1 vec0)) [] = false :=
  ⟨takes (by decide +kernel), by decide +kernel⟩

def bad1 : ChkFail := ⟨false, false, 1, 3, 0⟩
def hdBad : Hdr := { hd1 with chk := some bad1 }

theorem witness_CommandsHeld_3 :
    let i := Instr.vadd 0 hdBad vec0
    checked i = true ∧ (st.seen 0 i).found 0 i = some bad1 ∧ (st.seen 0 i).departing 0 ((st.core 0).entryOf i) = none ∧ Takes st 0 i ∧
      (st.entered 0 i).clear 0 (st.core 0).inflight ((st.core 0).entryOf i) [] = true ∧
      (st.seen 0 i).violation 0 (iterOf (st.core 0).loops) i = none ∧
      (st.seen 0 i).readFault ((st.core 0).entryOf i) = none ∧
      (st.seen 0 i).badWrite ((st.seen 0 i).writes (iterOf (st.core 0).loops) i) = none ∧ st.rings.fault.length < 16384 :=
  ⟨rfl, by decide +kernel, by decide +kernel, takes (by decide +kernel), by decide +kernel, by decide +kernel, by decide +kernel,
    by decide +kernel, by decide +kernel⟩

/-- A package of LPDDR5X under retraining from which the next line would have to come. -/
theorem witness_CommandsHeld_stall :
    let s : State := { st with mm := { sealed0 with retrain := some 0 } }
    (s.core 0).takes = true ∧ s.fetchStalls 0 = true := by decide +kernel

/-! Vector commands. -/

theorem witness_VectorArithmetic :
    ∀ i ∈ [Instr.vadd 0 hd1 vec0, .vsub 0 hd1 vec0, .vmul 0 hd1 vec0, .vfma 0 hd1 vec0, .vmax 0 hd1 vec0, .vmin 0 hd1 vec0, .vabs 0 hd1 vec0,
      .vneg 0 hd1 vec0], Ready st 0 i := fun i hi => rdy i (by revert i hi; decide +kernel)

theorem witness_VectorSelectsAndIntegerAdds :
    (∀ c ∈ [vec0, { vec0 with view := 1 }], (c.view = 0 ∨ c.view = 1) ∧ Ready st 0 (.vcmp 0 hd1 c) ∧ Ready st 0 (.vsel 0 hd1 c))
      ∧ ∀ v ∈ [0, 1, 2, 3], Ready st 0 (.viadd 0 hd1 { vec0 with view := BitVec.ofNat 2 v })
          ∧ Ready st 0 (.visub 0 hd1 { vec0 with view := BitVec.ofNat 2 v }) :=
  ⟨fun c hc => ⟨by revert c hc; decide +kernel, rdy _ (by revert c hc; decide +kernel), rdy _ (by revert c hc; decide +kernel)⟩,
    fun v hv => ⟨rdy _ (by revert v hv; decide +kernel), rdy _ (by revert v hv; decide +kernel)⟩⟩

theorem witness_VectorConverts :
    Ready st 0 (.vcvt 0 hd1 vec0) ∧ Ready st 0 (.vcvt 0 hd1 { vec0 with fn := 1, view := 1 })
      ∧ Ready st 0 (.vcvt 0 hd1 { vec0 with fn := 2, view := 1 }) :=
  ⟨rdy _ (by decide +kernel), rdy _ (by decide +kernel), rdy _ (by decide +kernel)⟩

theorem witness_TranscendentalCommands :
    (∀ i ∈ [Instr.vexp2 0 hd1 vec0, .vlog2 0 hd1 vec0, .vrcp 0 hd1 vec0, .vrsqrt 0 hd1 vec0, .vtanh 0 hd1 vec0, .verf 0 hd1 vec0],
      Ready st 0 i) ∧ (0 : ℚ) < 1 := ⟨fun i hi => rdy i (by revert i hi; decide +kernel), by decide⟩

theorem witness_VectorReductions :
    (∀ i ∈ [Instr.vrmax 0 hd1 vec0, .vrmin 0 hd1 vec0, .vrsum 0 hd1 vec0, .vrsum 0 hd1 { vec0 with view := 1 },
      .vrsum 0 hd1 { vec0 with acc := 2 }], Ready st 0 i)
      ∧ (redGroups 0 vec0.axis vec0.nm1.toNat).length = 64 :=
  ⟨fun i hi => rdy i (by revert i hi; decide +kernel), by decide +kernel⟩

/-- A lane at the largest weight that LTADDF takes. -/
def full : State := at0 { live with lt := [(1, ⟨5, 2 ^ 42 - 1⟩)] } [] []

theorem witness_LongTallyCommands :
    Ready st 0 (.ltclr 0 hd1 vec0) ∧ (∀ k ∈ [1, 2], Ready full 0 (.ltaddf 0 hd1 { vec0 with srca := src k 0 3 }))
      ∧ ((full.core 0).ltReg 0 1).weight + 1 = 2 ^ 42 ∧ (f32 (ltLaneEl (full.core 0) { vec0 with srca := src 1 0 3 } 0)).isFin = true
      ∧ Ready st 0 (.ltaddt 0 hd1 vec0) ∧ ((st.core 0).ltReg 0 1).weight + 63 * 2 ^ 32 ≤ 2 ^ 42
      ∧ ∀ k ∈ [1, 2], Ready st 0 (.ltrd 0 hd1 { vec0 with srca := src k 0 63 }) :=
  ⟨rdy _ (by decide +kernel), fun k hk => ready [] rfl (by revert k hk; decide +kernel), by decide +kernel, by decide +kernel,
    rdy _ (by decide +kernel), by decide +kernel, fun k hk => rdy _ (by revert k hk; decide +kernel)⟩

/-! Matrix commands. -/

def tm (h hanc : W16) (kind : BitVec 2) : TileMemF := ⟨3, kind, h, hanc⟩
def mm0 : MmulF := { tile := 3, ovw := true, acc := 0, csz := 0, ta := false, tb := true, ans := false, ha := 2, hb := 3, hanc := 0, k0 := 0, k1 := 32 }

theorem witness_TileLoads :
    Ready st 0 (.tzero 0 hd1 (tm 0 0 2)) ∧
      (∀ x ∈ [(0, 0), (1, 9), (2, 0)], let c := tm 1 (BitVec.ofNat 16 x.2) (BitVec.ofNat 2 x.1)
        (st.desc (st.handleNow 0 hd1 0 c.h)).fmt = some .t128 ∧ (st.desc (st.handleNow 0 hd1 0 c.h)).alay = false ∧ c.kind ≠ 3) ∧
      ∀ x ∈ [(0, 0), (1, 9), (2, 0)], Ready st 0 (.tfill 0 hd1 (tm 1 (BitVec.ofNat 16 x.2) (BitVec.ofNat 2 x.1))) :=
  ⟨rdy _ (by decide +kernel), by decide +kernel, fun x hx => rdy _ (by revert x hx; decide +kernel)⟩

theorem witness_TileAccumulate :
    (st.desc (st.handleNow 0 hd1 0 1)).fmt = some .t128 ∧ ((st.core 0).tile 3).kind ≠ 2 ∧ Ready st 0 (.taccm 0 hd1 (tm 1 0 0)) :=
  ⟨by decide +kernel, by decide +kernel, rdy _ (by decide +kernel)⟩

/-- An anchored tile. -/
def anch : State := { at0 { live with tiles := [(3, { Tile.zero with kind := 1 })] } tmem (List.range' 1 17) with job := job1, mm := sealed0 }

theorem witness_TileStore :
    (st.desc (st.handleNow 0 hd1 0 1)).extent 0 ≤ 128 ∧ (st.desc (st.handleNow 0 hd1 0 1)).extent 1 ≤ 128
      ∧ Ready st 0 (.tstore 0 hd1 (tm 1 0 0)) ∧ Ready anch 0 (.tstore 0 hd1 (tm 1 9 0)) ∧ ((anch.core 0).tile 3).kind = 1 :=
  ⟨by decide +kernel, by decide +kernel, rdy _ (by decide +kernel), ready _ (show anch.chk = stamps anch.mem _ from rfl) (by decide +kernel),
    by decide +kernel⟩

theorem witness_MatrixMultiply :
    (st.ops2 (st.handleNow 0 hd1 0 2) (st.handleNow 0 hd1 1 3) false true 0 32).any (fun o => modeOk o.fam 0 0) = true
      ∧ Ready st 0 (.mmul 0 hd1 mm0) ∧ (st.ops2 10 11 false true 0 32).any (fun o => modeOk o.fam 0 0 && decide (o.fam = .bx)) = true
      ∧ Ready st 0 (.mmul 0 hd1 { mm0 with ha := 10, hb := 11 }) :=
  ⟨by decide +kernel, rdy _ (by decide +kernel), by decide +kernel, rdy _ (by decide +kernel)⟩

def sweep : AsweepF := { ta := false, tb := true, ha := 10, hb := 11, hanc := 9, k0 := 0, k1 := 32 }

theorem witness_AnchorSweep :
    (st.ops2 10 11 false true 0 32).any (fun o => decide (o.fam = .bx)) = true ∧ (st.desc (st.handleNow 0 hd1 2 9)).alay = true
      ∧ (st.desc (st.handleNow 0 hd1 2 9)).fmt = some .t128 ∧ Ready st 0 (.asweep 0 hd1 sweep) :=
  ⟨by decide +kernel, by decide +kernel, by decide +kernel, rdy _ (by decide +kernel)⟩

def epi (h : W16) : EpiF := ⟨3, false, h, 0, 0, 0, 0, 5, 0, false, false⟩

theorem witness_EpilogueCompletes :
    (∀ n ∈ [1, 4, 16], (st.desc (st.handleNow 0 hd1 0 (BitVec.ofNat 16 n))).fmt = some (if n = 1 then .t128 else if n = 4 then .fp32 else .g64))
      ∧ st.slotOf 0 5 = some 0 ∧ (∀ n ∈ [1, 4, 16], Ready st 0 (.epi 0 hd1 (epi (BitVec.ofNat 16 n))))
      ∧ Ready st 0 (.epi 0 hd1 { epi 4 with stat := true, hsr := 12, hsc := 13 }) :=
  ⟨by decide +kernel, by decide +kernel, fun n hn => rdy _ (by revert n hn; decide +kernel), rdy _ (by decide +kernel)⟩

theorem witness_GridContribution : (2 ≤ (2 : Nat)) ∧ (Rnd.rne.step (3 * pow2 (-(GExp.zero.e.toInt))) : Int) ≤ 2 ^ (31 - 1) - 1 := by
  constructor <;> decide +kernel

theorem witness_GridPass :
    (st.desc (st.handleNow 0 hd1 0 17)).fmt = some .g32 ∧ Fmt.g32.grid = true ∧ st.slotOf 0 5 = some 0
      ∧ Ready st 0 (.gpass 0 hd1 ⟨17, 12, 13, 5, false, false⟩) := ⟨by decide +kernel, rfl, by decide +kernel, rdy _ (by decide +kernel)⟩

/-! Loads and stores. -/

def vm (h : W16) (view : Nat) : VmemF := ⟨BitVec.ofNat 2 view, 2, 1, 0, h, 0, 0⟩

theorem witness_VectorLoad :
    (∀ x ∈ [(4, 0), (1, 3)], ((st.desc (st.handleNow 0 hd1 0 (BitVec.ofNat 16 x.1))).fmt).any (fun f =>
        decide (f ≠ .lt320) && (decide (rawView f = some (BitVec.ofNat 2 x.2)) || (decide (rawView f = none) && decide (x.2 = 0)))) = true)
      ∧ ∀ x ∈ [(4, 0), (1, 3)], Ready st 0 (.vld 0 hd1 (vm (BitVec.ofNat 16 x.1) x.2)) :=
  ⟨by decide +kernel, fun x hx => rdy _ (by revert x hx; decide +kernel)⟩

theorem witness_VectorStore :
    (∀ x ∈ [(4, 0), (17, 0), (1, 3)], ((st.desc (st.handleNow 0 hd1 0 (BitVec.ofNat 16 x.1))).fmt).any (fun f =>
        decide (f ≠ .lt320) && ((decide (x.2 ≠ 0) && decide (rawView f = some (BitVec.ofNat 2 x.2))) || (decide (x.2 = 0) && decide (f ≠ .t128)))) = true)
      ∧ ∀ x ∈ [(4, 0), (17, 0), (1, 3)], Ready st 0 (.vst 0 hd1 (vm (BitVec.ofNat 16 x.1) x.2)) :=
  ⟨by decide +kernel, fun x hx => rdy _ (by revert x hx; decide +kernel)⟩

theorem witness_LongTallyMemory :
    (st.desc (st.handleNow 0 hd1 0 5)).fmt = some .lt320 ∧ Ready st 0 (.ltaddm 0 hd1 (vm 5 0)) ∧ Ready st 0 (.ltst 0 hd1 (vm 5 0)) :=
  ⟨by decide +kernel, rdy _ (by decide +kernel), rdy _ (by decide +kernel)⟩

theorem witness_TallyRead : Ready st 0 (.trd 0 hd1 ⟨2, 3, 1, 7⟩) := rdy _ (by decide +kernel)

theorem witness_SumsOrderFree :
    ([1, -2] : List Int).Perm [-2, 1] ∧ (∀ p ∈ ([1, -2] : List Int), p.natAbs ≤ 2 ^ 127) ∧ TEl.zero.wrap.toInt.natAbs + ([1, -2] : List Int).length < 127
      ∧ ([(1, 1), (2, 2)] : List (Int × Nat)).Perm [(2, 2), (1, 1)] ∧ LtEl.zero.weight + (([(1, 1), (2, 2)] : List (Int × Nat)).map (·.2)).sum ≤ 2 ^ 42 :=
  ⟨List.Perm.swap _ _ _, by decide, by decide, List.Perm.swap _ _ _, by decide⟩

/-! Moves, updates, synchronisation, loops. -/

/-- PERM of R158 that keeps every dimension. -/
def perm0 : BitVec 18 := BitVec.ofNat 18 (0 + 1 * 8 + 2 * 64 + 3 * 512 + 4 * 4096 + 5 * 32768)

theorem witness_MoveCopies :
    moveOk (st.desc (st.handleNow 0 hd1 0 4)) (st.desc (st.handleNow 0 hd1 1 8)) perm0 = true
      ∧ inLink (st.basePhys (st.desc (st.handleNow 0 hd1 1 8))) = false ∧ Ready st 0 (.move 0 hd1 ⟨false, 4, 8, perm0, 3⟩) :=
  ⟨by decide +kernel, by decide +kernel, rdy _ (by decide +kernel)⟩

/-- A MOVE that has done its work, from a full RX block into a TX block of a bundle with a peer. -/
def moved : State :=
  { at0 { live with inflight := [{ live.entryOf (.move 0 hd1 ⟨false, 18, 19, perm0, 0⟩) with phase := .done }] }
      (withDescs [(18, descV (linkAddr 0 true 2) 0x0A 2 0 [4, 4] [16]), (19, descV (linkAddr 6 false 3) 0x0A 2 0 [4, 4] [16])] []) [] with
    job := job1, mm := sealed0,
    lnk := { up.lnk with map := List.replicate 48 ⟨true, 1, 0⟩, full := [(0, [2])] } }

theorem witness_MoveCopies_done :
    (splitAt1 (fun x => x.tag = 7 && mayComplete (moved.core 0) x) (moved.core 0).inflight).isSome = true ∧ (moved.core 0).waitq = []
      ∧ (∀ q, ∀ x ∈ (moved.core q).inflight, x.phase ≠ .arrive) ∧ moved.moveTx 19 = [(6, 3)] ∧ moved.bundlePeer 1 = true ∧ moved.moveRx 18 = [(0, 2)] ∧ moved.rxFull 0 2 = true := by decide +kernel

def upd0 : UpdF := ⟨0, 4, 0, 17, 8, 12, 13, 14, 15⟩

/-- The same state with group 0 frozen. -/
def frozen : State := { st with mem := memWrite tmem updTable [3], chk := stamps (memWrite tmem updTable [3]) (List.range' 1 17) }

theorem witness_UpdateRuns :
    st.job.prog.bind (fun p => SMap.find p.updLayer (st.handleNow 0 hd1 2 upd0.hg).toNat) = some 5 ∧ Ready st 0 (.upd 0 hd1 upd0) ∧ st.groupFrozen upd0.group.val = false
      ∧ (st.slotOf 0 5).isSome = true ∧ (st.desc (st.handleNow 0 hd1 2 upd0.hg)).fmt = some .g32 ∧ (st.desc (st.handleNow 0 hd1 0 upd0.hw)).fmt = some .fp32
      ∧ (st.desc (st.handleNow 0 hd1 4 upd0.hsr)).fmt = some .lt320 ∧ (st.desc (st.handleNow 0 hd1 5 upd0.hsc)).fmt = some .lt320
      ∧ (st.desc (st.handleNow 0 hd1 6 upd0.hvr)).fmt = some .fp32 ∧ (st.desc (st.handleNow 0 hd1 7 upd0.hvc)).fmt = some .fp32
      ∧ (st.desc (st.handleNow 0 hd1 3 upd0.hm)).fmt = some .fp32
      ∧ (updRows (st.seen 0 (.upd 0 hd1 upd0)) 0 ((st.core 0).entryOf (.upd 0 hd1 upd0)) hd1 upd0 0 ((st.desc (st.handleNow 0 hd1 0 4)).extent 1)).isSome = true
      ∧ Ready frozen 0 (.upd 0 hd1 upd0) ∧ frozen.groupFrozen upd0.group.val = true :=
  ⟨by decide +kernel, rdy _ (by decide +kernel), by decide +kernel, by decide +kernel, by decide +kernel, by decide +kernel, by decide +kernel, by decide +kernel,
    by decide +kernel, by decide +kernel, by decide +kernel, by decide +kernel, ready _ (show frozen.chk = stamps frozen.mem _ from rfl) (by decide +kernel), by decide +kernel⟩

theorem witness_UpdateRule :
    let e := live.entryOf (.upd 0 hd1 upd0)
    let d := fun (f : Nat) (v : W16) => st.desc (effHandle hd1 e.iter f v)
    st.job.prog.bind (fun p => SMap.find p.updLayer (effHandle hd1 e.iter 2 upd0.hg).toNat) = some 5 ∧ (st.slotOf 0 5).isSome = true ∧ (d 2 upd0.hg).fmt = some .g32
      ∧ (d 0 upd0.hw).fmt = some .fp32 ∧ (d 4 upd0.hsr).fmt = some .lt320 ∧ (d 5 upd0.hsc).fmt = some .lt320 ∧ (d 6 upd0.hvr).fmt = some .fp32
      ∧ (d 7 upd0.hvc).fmt = some .fp32 ∧ (d 3 upd0.hm).fmt = some .fp32 := by decide +kernel

theorem witness_Synchronisation :
    Ready st 0 (.signal 0 hd1 5) ∧ Ready st 0 (.wait 0 hd1 ⟨5, 0, 0⟩) ∧ Ready st 0 (.wait 0 hd1 ⟨5, 0, 1⟩)
      ∧ (st.obj 5 - 0 : W32).msb = false ∧ (st.obj 5 - 1 : W32).msb = true :=
  ⟨rdy _ (by decide +kernel), rdy _ (by decide +kernel), rdy _ (by decide +kernel), by decide +kernel, by decide +kernel⟩

/-- Count register 4 at 3, inside one loop at its last iteration. -/
def loop1 : State := { at0 { live with lcnt := [(4, 3)], loops := [⟨2, 1, 1⟩] } tmem (List.range' 1 17) with job := job1, mm := sealed0 }

theorem witness_LoopsAndCounts :
    (∀ x ∈ [(5, 0), (4, 3), (4, 2)], Takes loop1 0 (.loop 0 hd1 (Fin.ofNat 16 x.1) (BitVec.ofNat 32 x.2)))
      ∧ (loop1.core 0).loops.length < 4 ∧ SMap.get 0 (loop1.core 0).lcnt 5 = 0 ∧ (SMap.get 0 (loop1.core 0).lcnt 4).toNat = 3
      ∧ Takes loop1 0 (.endl 0 hd1) ∧ (loop1.core 0).loops = [] ++ [⟨2, 1, 1⟩] ∧ Takes loop1 0 (.setc 0 hd1 4 9)
      ∧ (st.desc (st.handleNow 0 hd1 0 6)).fmt = some .g32 ∧ Ready st 0 (.ldc 0 hd1 4 6 3) ∧ (st.desc (st.handleNow 0 hd1 0 6)).count ≤ 4
      ∧ Takes st 0 (.ldc 0 hd1 4 6 4)
      ∧ (st.entered 0 (.ldc 0 hd1 4 6 4)).clear 0 (st.core 0).inflight ((st.core 0).entryOf (.ldc 0 hd1 4 6 4)) [] = true :=
  ⟨fun x hx => takes (by revert x hx; decide +kernel), by decide +kernel, by decide +kernel,
    by decide +kernel, takes (by decide +kernel), by decide +kernel,
    takes (by decide +kernel), by decide +kernel, rdy _ (by decide +kernel), by decide +kernel, takes (by decide +kernel), by decide +kernel⟩

/-! Exchanges and the step's commands. -/

/-- Two modules in dimension 0. -/
def pod2 : State := { st with lnk := { st.lnk with extents := [2, 1, 1, 1] } }

theorem witness_Exchanges_1 :
    st.layer 5 = some layer5 ∧ (∀ x ∈ [(false, 6), (true, 16)],
        (st.desc (st.handleNow 0 hd1 0 7)).fmt = some .g64
          ∧ (st.desc (st.handleNow 0 hd1 1 (BitVec.ofNat 16 x.2))).fmt = some (if x.1 then .g64 else .g32)
          ∧ (st.desc (st.handleNow 0 hd1 0 7)).ext = (st.desc (st.handleNow 0 hd1 1 (BitVec.ofNat 16 x.2))).ext
          ∧ (st.desc (st.handleNow 0 hd1 0 7)).ndim = (st.desc (st.handleNow 0 hd1 1 (BitVec.ofNat 16 x.2))).ndim)
      ∧ (∀ x ∈ [(false, 6), (true, 16)], Ready st 0 (.xchg 0 hd1 ⟨x.1, 7, BitVec.ofNat 16 x.2, 5, 3⟩)
          ∧ Ready pod2 0 (.xchg 0 hd1 ⟨x.1, 7, BitVec.ofNat 16 x.2, 5, 3⟩))
      ∧ (st.xgroup layer5.dmask).length = 1 ∧ (pod2.xgroup layer5.dmask).length = 2 :=
  ⟨by decide +kernel, by decide +kernel, fun x hx => ⟨rdy _ (by revert x hx; decide +kernel),
    ready _ (show pod2.chk = stamps pod2.mem (List.range' 1 17) from rfl) (by revert x hx; decide +kernel)⟩, by decide +kernel, by decide +kernel⟩

def xch (serial : Option Nat) : Xchg := ⟨7, 0, 5, false, 6, 3, [0, 1], serial, false, [], false, false, []⟩

theorem witness_Exchanges_2 :
    let s : State := { pod2 with stp := { pod2.stp with phase := .running }, job := { job1 with xchgs := [xch none], xreps := [⟨0, 0, 7, [0, 1], [0, 1], none⟩] } }
    s.lnk.self = 0 ∧ s.underWay = true ∧ s.job.xreps.find? (fun x => x.s = s.stp.s && x.a = s.stp.a && x.tag = 7 && x.serial = none && x.group.all fun m => x.members.contains m)
      = some ⟨0, 0, 7, [0, 1], [0, 1], none⟩ := by decide +kernel

theorem witness_Exchanges_3 :
    let s : State := { pod2 with job := { job1 with xchgs := [{ xch (some 3) with tag := 9 }, xch (some 4)] } }
    s.job.xchgs.find? (fun y => y.tag = 7) = some (xch (some 4)) ∧ (xch (some 4)).started = false
      ∧ ∀ y ∈ s.job.xchgs, ∀ q, y.serial = some q → q < 4 → q % 4 ≠ 4 % 4 := by
  refine ⟨by decide +kernel, rfl, ?_⟩
  intro y hy q hq hlt
  rcases List.mem_cons.mp hy with rfl | hy
  · cases hq; decide
  · rw [List.mem_singleton] at hy; subst hy; cases hq; exact absurd hlt (by decide)

theorem witness_StepCommands : Ready st 0 (.commit 0 hd1) ∧ Ready st 0 (.stepend 0 hd1) := ⟨rdy _ (by decide +kernel), rdy _ (by decide +kernel)⟩

/-! The scoreboard's events. -/

def waiting : State := at0 { live with inflight := [live.entryOf (.vadd 0 hd1 vec0)] } [] []

theorem witness_DispatchEvents_1 :
    let e := live.entryOf (.vadd 0 hd1 vec0)
    splitAt1 (fun x => x.tag = 7 && x.phase = .issued) (waiting.core 0).inflight = some ([], e, []) ∧ Dispatchable waiting 0 [] e []
      ∧ (effect (waiting.started 0 e) 0 e).isSome = true :=
  ⟨by decide +kernel, ⟨by decide +kernel, by decide +kernel, by decide +kernel, by decide +kernel, by decide +kernel, by decide +kernel, .inl (by decide +kernel), by decide +kernel,
    by decide +kernel⟩, by decide +kernel⟩

def waitEnt : Ent := { live.entryOf (.wait 0 hd1 ⟨5, 0, 0⟩) with phase := .waitObj }

theorem witness_DispatchEvents_2 :
    let s := at0 { live with inflight := [waitEnt] } [] []
    splitAt1 (fun x => x.phase = .waitObj && s.reached x) (s.core 0).inflight = some ([], waitEnt, []) := by decide +kernel

def doneEnt : Ent :=
  { live.entryOf (.vst 0 hd1 (vm 4 0)) with phase := .done, post := { Post.none with ovf := [4], nfin := [4], amax := [(4, 9)], sig := 5 } }

theorem witness_CompletionReleases :
    let s : State := { at0 { live with inflight := [doneEnt] } [] [] with job := job1 }
    splitAt1 (fun x => x.tag = 7 && mayComplete (s.core 0) x) (s.core 0).inflight = some ([], doneEnt, []) ∧ (s.core 0).waitq = []
      ∧ ∀ q, ∀ x ∈ (s.core q).inflight, x.phase ≠ .arrive := by
  decide +kernel

/-- Managed scale 1, named by handle 4. -/
theorem witness_CompletionReleases_amax :
    let m : MScale := ⟨1, 0, 0, 0, 0, false, none, 0, 0, [], 0, false, false⟩
    let s : State := { at0 { live with inflight := [doneEnt] } (withDescs [(4, descV 0x4000 0x0A 2 0 [4, 4] [16] + 2 ^ 80)] []) [] with
      job := { job1 with scales := [m] } }
    (s.desc 4).scale = 1 ∧ s.managed (s.desc 4).scale = true := by decide +kernel

theorem witness_InstructionFetch :
    let open' : State := { st with mm := { sealed0 with sealed := [] } }
    let l := st.codeLine 0
    (∀ x ∈ [st, open'], x.stalls (codeBase + 256 * l) 256 = false ∧ (x.core 0).fetching = true ∧ (x.core 0).frozen = false
        ∧ (x.core 0).inReset = false ∧ (cacheSet (x.core 0) (l % 256)).contains l = false)
      ∧ open'.isSealed (l / 256) = false ∧ st.isSealed (l / 256) = true ∧ regionOf (codeBase + 256 * l) = .code (l / 256)
      ∧ (codeBase + 256 * l) / 512 ∉ st.mm.poisoned ∧ st.quarantining = false ∧ st.sec.pstate ≠ 3 := by decide +kernel

/-! Faults. -/

def rec1 : FaultRec := ⟨1, engMxe, 0, 0, 7, 0, 0, [0, 0, 0, 0], 0, 0, 0⟩

theorem witness_FaultRecords :
    let s : State := { st with rings := { Rings.zero with fault := [rec1] } }
    s.rings.fault = rec1 :: [] ∧ s.rings.copies.length < 16384 ∧ s.rings.fault.length < 16384
      ∧ 16384 ≤ ({ st with rings := { Rings.zero with fault := List.replicate 16384 rec1 } } : State).rings.fault.length :=
  ⟨rfl, by decide +kernel, by decide +kernel, le_of_eq (List.length_replicate ..).symm⟩

/-- Core 0 has a mismatch charged; core 1 is free, or none is. -/
def charged (fences : List Nat) : State :=
  { st with cores := (List.range 192).map fun i =>
      (i, if i = 0 then { live with charged := 1 } else { Core.zero with testDue := true, fenced := fences.contains i }) }

theorem witness_Fences :
    (∀ fs ∈ [[], List.range 192], let s := charged fs
      1 ≤ (s.core 0).mismatches ∧ s.tst.queue = [] ∧ (s.core 0).fenced = false ∧ (0 : CoreId).val ∈ s.jobColumns ∧ s.tst.running = none)
      ∧ (∀ j : CoreId, ¬ (j ≠ 0 ∧ ((charged (List.range 192)).core j).fenced = false))
      ∧ (1 : CoreId) ≠ 0 ∧ ((charged []).core 1).fenced = false ∧ (1 : CoreId).val ∉ (charged []).jobColumns
      ∧ SMap.get false (charged []).mm.oos 1 = false := by decide +kernel

theorem witness_Fences_reset :
    st.rst.busy = false ∧ min 191 (bitsAt (0xFF : W32).toNat 0 8) = (191 : CoreId).val ∧ (st.core 191).inReset = false ∧ (st.core 0).inReset = false := by
  decide +kernel

end Sys2Proof.Tests
end

