-- ==== Sys2Proof/Tests/Witness2.lean ====
section
/-! SUPPORT. For every statement about the mailbox, the debug port, resets and the host interface a state and operands that
meet its hypotheses, clause by clause. -/

set_option Elab.async false

namespace Sys2Proof.Tests

open Sys2Proof Sys2Proof.Machine

/-- A request header with a length. -/
def mb (len : Nat) : Mb := ⟨1, 0, BitVec.ofNat 32 len, 7⟩

theorem accepts (s : State) (len : Nat) (h : (s.hif.mbxUp && s.hif.ver.isSome && decide (s.hif.open'.length < 256) && s.headerOk (mb len)
    && ! s.hif.activating) = true) : Accepts s (mb len) := by
  simp only [Bool.and_eq_true, decide_eq_true_eq, Bool.not_eq_true'] at h
  obtain ⟨⟨⟨⟨h1, h2⟩, h3⟩, h4⟩, h5⟩ := h
  exact ⟨h1, fun he => by rw [he] at h2; exact absurd h2 (by decide), h3, h4, h5⟩

/-- The owner's public key and its hash, and the module owned with its key delivered. -/
def owKey : List Byte := [5]
def ow : Digest := digestOf owKey
def owned : State :=
  { up with sec := { up.sec with sstate := .owned, ownerKey := some owKey }, nvm := { up.nvm with part := { up.nvm.part with ownh := some ow } } }
def did : W128 := deviceIdOf 0
def env (type : W16) : Envelope := ⟨did, 0, type, 0, [], some ow⟩
def venv : Envelope := ⟨did, 0, 0, 0, [], some Config.vendorKey⟩

theorem env_ownSigned (type : W16) : owned.ownSigned (env type) = true := by
  simp [State.ownSigned, State.devid, did, owned, env, up, State.reset, Nvm.shipped, DevPart.shipped]
theorem env_ownerOk (type : W16) : owned.ownerOk type.toNat (env type) = true := by
  simp [State.ownerOk, State.envelopeOk, State.devid, did, owned, env, up, State.reset, Nvm.shipped, DevPart.shipped]
theorem venv_ok (s : State) (h : s.nvm.part.octr = 0) (hd : s.sec.seed = some 0) : s.vendorOk venv = true := by
  simp [State.vendorOk, State.devid, did, venv, h, hd]

/-- A manifest of nothing, its TELREL zero. -/
def man0 : Manifest :=
  { det := false, replay := false, encimg := false, vrel := false, rmode := 0, policy := false, telrel := 0, wdog := 0, stageg := 64, outg := 64,
    s0 := 0, imgDigest := 0, ktDigest := 0,
    pipe := { pdim := 0, v := 1, cpmask := 0, repmask := 0, nslot := 1, sloth := 0, runmax := 1, fretry := 1, vto := 1000, mbatch := 1, budgets := [4096] },
    outputs := [], stateList := [], replays := [], chunks := [], mails := [], body := [] }

/-- The owned module with a loaded job. -/
def jobUp : State := { owned with job := { job1 with man := some man0 } }

theorem jobUp_ownerOk (type : W16) : jobUp.ownerOk type.toNat (env type) = true := env_ownerOk type

/-! The mailbox. -/

theorem witness_MailboxReads :
    Accepts up (mb 0) ∧ (∀ n ∈ [16, 64], Accepts up (mb n) ∧ up.sec.idOk = true ∧ 16 ≤ (mb n).length.toNat ∧ (mb n).length.toNat ≤ 64)
      ∧ AcceptsOut up (mb 4) ∧ AcceptsOut jobUp (mb 4) ∧ up.waits [recordPiece] = false
      ∧ (∀ r ∈ [(⟨5, 6, 0, 0, [1, 2], 0, 512, false⟩ : RecEnt)], up.macBad (recordBase + r.pos) r.size none = none) := by
  refine ⟨accepts _ _ (by decide +kernel), fun n hn => ⟨accepts _ _ ?_, ?_⟩, ⟨accepts _ _ (by decide +kernel), by decide +kernel⟩,
    ⟨accepts _ _ (by decide +kernel), by decide +kernel⟩, by decide +kernel, by decide +kernel⟩
  · revert n hn; decide +kernel
  · revert n hn; decide +kernel

theorem witness_MailboxReads_registers :
    (∀ a ∈ [RegAddr.module 0x84000, .core 3 0x2060], ((up.taken (mb 4)).reg a).isSome = true ∧ (up.taken (mb 4)).telBit a = none)
      ∧ ((up.taken (mb 4)).telBit (.core 3 0x3000)).any (fun b => up.released b) = true
      ∧ ((jobUp.taken (mb 4)).telBit (.core 3 0x3000)).any (fun b => ! jobUp.released b) = true
      ∧ ((jobUp.taken (mb 4)).reg (.core 3 0x3000)).isSome = true := by decide +kernel

/-- An image of a kind with no body, of the ranges of this model. -/
def fwOf (magic : Nat) : List Byte :=
  leBytes 4 magic ++ leBytes 2 1 ++ leBytes 2 0 ++ leBytes 4 1 ++ leBytes 4 0 ++ leBytes 8 0 ++ leBytes 4 8 ++ leBytes 2 0x100 ++ leBytes 2 0x100
    ++ leBytes 4 0 ++ leBytes 4 0xFFFFFFFF ++ [1, 1, 1, 1] ++ List.replicate (20 + 1280) 0
def fw0 : FwImage := ⟨fwOf kelgilMagic, true⟩

def ran : State := { up with hif := { up.hif with running := some fw0 } }

theorem witness_MailboxAttaches :
    ran.hif.mbxUp = true ∧ ran.hif.perst = false ∧ ran.commonMajor [1, 1] = true ∧ ran.commonMajor [2, 3] = false
      ∧ ran.hif.activating = false ∧ (∀ r ∈ ran.hif.heldRep ++ ran.hif.replies, r.data.size ≤ 4080 ∨ r.ref.isSome = true)
      ∧ ({ ran with hif := { ran.hif with activating := true } } : State).hif.activating = true
      ∧ Accepts up (mb 0) ∧ AcceptsOut up (mb 4) ∧ up.bellOk = true :=
  ⟨by decide +kernel, by decide +kernel, by decide +kernel, by decide +kernel, rfl, by decide +kernel, by decide +kernel, accepts _ _ (by decide +kernel),
    ⟨accepts _ _ (by decide +kernel), by decide +kernel⟩, by decide +kernel⟩

/-! Owners and keys. -/

def quar : State := { owned with sec := { owned.sec with sstate := .quarantine } }

theorem witness_OwnerMessages_release : ∀ s ∈ [owned, quar],
    Accepts s (mb 0) ∧ s.sec.pstate ≠ 2 ∧ (s.sec.sstate = .owned ∨ s.sec.sstate = .quarantine) ∧ s.releasing = false ∧ s.idleJob = true
      ∧ s.sec.trans = none ∧ s.ownSigned (env 0) = true ∧ s.vendorOk venv = true := by
  intro s hs
  rcases List.mem_cons.mp hs with rfl | hs
  · exact ⟨accepts _ _ (by decide +kernel), by decide +kernel, by decide +kernel, by decide +kernel, by decide +kernel, by decide +kernel,
      env_ownSigned 0, venv_ok _ rfl rfl⟩
  · rw [List.mem_singleton] at hs; subst hs
    exact ⟨accepts _ _ (by decide +kernel), by decide +kernel, by decide +kernel, by decide +kernel, by decide +kernel, by decide +kernel,
      env_ownSigned 0, venv_ok _ rfl rfl⟩

theorem witness_OwnerMessages_install :
    let s : State := { up with sec := { up.sec with instNonces := [76, 77] } }
    let e : Envelope := ⟨did, 1, 0, 0, [], some ow⟩
    let c : InstallMsg := ⟨owKey, 77⟩
    AcceptsOut s (mb 64) ∧ s.sec.pstate ≠ 2 ∧ s.sec.sstate = .open' ∧ s.sec.dlevel < 2 ∧ e.devid = s.devid ∧ e.octr = s.nvm.part.octr + 1
      ∧ e.signer = some (digestOf c.key) ∧ s.sec.instNonces.contains c.nonce = true ∧ s.sec.trans = none :=
  ⟨⟨accepts _ _ (by decide +kernel), by decide +kernel⟩, by decide +kernel, rfl, by decide +kernel, rfl, by decide +kernel, rfl, by decide +kernel, rfl⟩

/-- A key table with the slots its rule needs, 1 and 255 among them, each key wrapped under its table key. -/
def ktHead0 : KeyTableMsg := ⟨0x4241544B#32, 3, 0, did, ow, [9], [], [], some ow⟩
def ktEnt (slot role : Byte) : KeyEntry :=
  ⟨slot, role, 0, List.replicate 12 1, List.replicate 32 2, gcmTag (tableKey ktHead0 0) (List.replicate 12 1) [slot, role] (List.replicate 32 2)⟩
def ktab : KeyTableMsg := { ktHead0 with entries := [ktEnt 1 1, ktEnt 2 3, ktEnt 255 4] }

theorem ktEnt_opens (slot role : Byte) : (entryKey (ktEnt slot role) (tableKey ktab 0)).isSome = true := by
  show ((gcmOpen (tableKey ktHead0 0) _ _ _ _).map _).isSome = true
  simp [ktEnt, gcmOpen]

theorem witness_OwnerMessages_keys :
    AcceptsOut owned (mb 64) ∧ owned.sec.pstate ≠ 2 ∧ owned.sec.sstate = .owned ∧ owned.nvm.part.ownh = some (digestOf owKey)
      ∧ owned.releasing = false ∧ owned.job.st = .none ∧ owned.sec.dlevel < 2 ∧ ktab.devid = owned.devid
      ∧ ktab.signer = owned.nvm.part.ownh ∧ owned.nvm.part.ownh = some ktab.ownh ∧ owned.sec.ownerKey ≠ none ∧ ktFormOk ktab = true
      ∧ ktab.entries ≠ [] ∧ ktab.entries.length ≤ 255 ∧ (ktab.entries.map (·.slot)).Nodup
      ∧ (∀ x ∈ ktab.entries, x.slot ≠ 0 ∧ 1 ≤ x.role.toNat ∧ x.role.toNat ≤ 4
          ∧ (entryKey x (tableKey ktab (owned.sec.seed.getD 0))).isSome = true)
      ∧ (∃ x ∈ ktab.entries, x.role = 1) ∧ (ktab.entries.filter fun x => x.role.toNat = 3).length = 1
      ∧ owned.tableBad ktab none = none ∧ ((ktBytes ktab).length ≤ 4080 ∨ owned.waits [owned.stagePiece] = false) := by
  refine ⟨⟨accepts _ _ (by decide +kernel), by decide +kernel⟩, by decide +kernel, rfl, rfl, by decide +kernel, rfl, by decide +kernel, rfl, rfl, rfl,
    by decide, rfl, List.cons_ne_nil _ _, by decide, ?_, ?_, ⟨ktEnt 1 1, List.mem_cons_self, rfl⟩, rfl, by unfold State.tableBad; split <;> rfl,
    .inr (by decide +kernel)⟩
  · show [(1 : Byte), 2, 255].Nodup; decide
  · have h : ∀ slot role : Byte, slot ≠ 0 → 1 ≤ role.toNat → role.toNat ≤ 4 → let x := ktEnt slot role
        x.slot ≠ 0 ∧ 1 ≤ x.role.toNat ∧ x.role.toNat ≤ 4 ∧ (entryKey x (tableKey ktab 0)).isSome = true :=
      fun slot role h1 h2 h3 => ⟨h1, h2, h3, ktEnt_opens slot role⟩
    intro x hx
    rcases List.mem_cons.mp hx with rfl | hx
    · exact h 1 1 (by decide) (by decide) (by decide)
    rcases List.mem_cons.mp hx with rfl | hx
    · exact h 2 3 (by decide) (by decide) (by decide)
    rcases List.mem_cons.mp hx with rfl | hx
    · exact h 255 4 (by decide) (by decide) (by decide)
    · exact absurd hx (List.not_mem_nil)

def inFactory : State := { up with sec := { up.sec with sstate := .factory } }
def site0 : SiteCfg := ⟨[0, 0, 0, 0, 0, 0, 0, 0], [], noLimits, false⟩

theorem witness_OwnerMessages_factory :
    AcceptsOut up (mb 0) ∧ up.sec.pstate ≠ 2 ∧ up.sec.sstate = .open' ∧ up.vendorOk venv = true ∧ up.sec.trans = none
      ∧ AcceptsOut inFactory (mb 0) ∧ inFactory.sec.sstate = .factory ∧ inFactory.vendorOk venv = true ∧ inFactory.sec.trans = none :=
  ⟨⟨accepts _ _ (by decide +kernel), by decide +kernel⟩, by decide +kernel, rfl, venv_ok _ rfl rfl, rfl,
    ⟨accepts _ _ (by decide +kernel), by decide +kernel⟩, rfl, venv_ok _ rfl rfl, rfl⟩

theorem witness_OwnerMessages_site :
    (∀ s ∈ [up, owned], AcceptsOut s (mb 64)) ∧ up.job.st = .none ∧ up.releasing = false ∧ owned.releasing = false
      ∧ (owned.sec.sstate = .owned → owned.ownerOk 0x0030 (env 0x0030) = true) ∧ up.sec.sstate ≠ .owned
      ∧ limitsFit site0.limits = true
      ∧ soundLimits (siteOver up.nvm.faclim site0.limits) = true
      ∧ (0 : Nat) + 64 ≤ 64 ∧ (63 : Nat) + 1 ≤ 64 ∧ ∀ g ∈ [0, 127], isHostGranule up ((BitVec.ofNat 16 g).toNat) = true := by
  refine ⟨fun s hs => ⟨accepts _ _ ?_, ?_⟩, rfl, by decide +kernel, by decide +kernel, fun _ => env_ownerOk 0x0030, by decide +kernel, by decide +kernel, by decide +kernel,
    by decide, by decide, by decide +kernel⟩
  · revert s hs; decide +kernel
  · revert s hs; decide +kernel

/-! Messages to a job. -/

/-- The job with an update group that its rule accepts. -/
def good : State := { jobUp with mem := memWrite [] (updTable) (leBytes 64 (1 + 0x3F800000 * 2 ^ 64 + 0x3F800000 * 2 ^ 128 + 0x00800000 * 2 ^ 160)) }

theorem witness_JobMessages_job :
    AcceptsOut jobUp (mb 64) ∧ jobUp.sec.pstate ≠ 2 ∧ jobUp.sec.sstate = .owned ∧ jobUp.releasing = false
      ∧ (∀ t ∈ [0x0052#16, 0x0053, 0x0054, 0x0055], jobUp.ownerOk t.toNat (env t) = true)
      ∧ jobUp.job.st = .loaded ∧ jobUp.job.man = some man0 ∧ jobUp.sec.dlevel < 2
      ∧ (∀ n ∈ [0, 64], jobUp.tokenManOk man0 ⟨BitVec.ofNat 64 n, [⟨0, 0, 1⟩], [], []⟩ = true)
      ∧ jobUp.job.prog = some prog1 ∧ jobUp.ckptUnits ≤ jobUp.outSize :=
  ⟨⟨accepts _ _ (by decide +kernel), by decide +kernel⟩, by decide +kernel, rfl, by decide +kernel, fun t _ => jobUp_ownerOk t, rfl, rfl, by decide +kernel,
    by decide +kernel, rfl, by decide +kernel⟩

theorem witness_JobMessages_group :
    let c : List GroupUpd := [⟨0, some true, some [⟨0, 0x3F800000, 0⟩], none, none, none, none, none⟩]
    (∀ u ∈ c, u.knots.all (fun l => decide (1 ≤ l.length ∧ l.length ≤ 256)) = true)
      ∧ ∀ u ∈ c, ((good.job.queued.flatMap (·.2.2) ++ c).foldl State.applyGroup (good.taken (mb 64))).groupValid u.group.val = true := by
  decide +kernel

theorem witness_JobMessages_audit :
    let c : List CapPoint := [⟨3, 7, 31, true, [0, 0, 0, 0]⟩, ⟨3, 7, 1, false, [0, 0, 0, 0]⟩]
    c.length ≤ 256 ∧ ∀ x ∈ c, x.handle ≠ 0 ∧ x.handle.toNat < prog1.nhandle ∧ (jobUp.desc x.handle).cls ≠ 1 := by decide +kernel

def stopped : State := { jobUp with job := { jobUp.job with st := .stopped } }

theorem witness_JobMessages_stopped :
    AcceptsOut stopped (mb 64) ∧ stopped.sec.pstate ≠ 2 ∧ stopped.sec.sstate = .owned ∧ stopped.releasing = false ∧ stopped.ownerOk 0x0055 (env 0x0055) = true
      ∧ stopped.job.st = .stopped ∧ stopped.job.man = some man0 ∧ stopped.ckptUnits ≤ stopped.outSize :=
  ⟨⟨accepts _ _ (by decide +kernel), by decide +kernel⟩, by decide +kernel, rfl, by decide +kernel, jobUp_ownerOk 0x0055, rfl, rfl, by decide +kernel⟩

/-- The step state of a checkpoint of a job without state tensors, and its record as a slot of the role CHECKPOINT leaves it. -/
def step0 : StepState := ⟨3, 0, [], [], [], [layer5], .none, 0, [], 6, [], []⟩
def withSlot (role : Nat) (s : State) : State := { s with sec := { s.sec with slots := [(2, ⟨role, 8⟩)] } }
def record4 : List Byte :=
  let n := (stepBytes step0).length
  let hd := leBytes 2 4 ++ [2, 0, 0, 0, 0, 0] ++ leBytes 8 3 ++ leBytes 8 0 ++ leBytes 8 n ++ leBytes 16 6 ++ List.replicate 16 0
  let e := gcmSeal (outKeyOf ((withSlot 3 jobUp).slotKey 2) (leBytes 16 6) 2) (List.replicate 12 0) hd (stepBytes step0)
  hd ++ e.1 ++ e.2
def saved : ResumeMsg := ⟨[], record4, step0⟩
def ready4 : State := withSlot 3 jobUp
def rolled : State := withSlot 3 { jobUp with stp := { jobUp.stp with phase := .rollback } }

theorem witness_JobMessages_resume :
    (∀ s ∈ [ready4, rolled], (s.taken (mb 64)).resumeBad man0 saved = none ∧ s.waits [s.stagePiece] = false)
      ∧ ∀ s ∈ [ready4, rolled], s.sec.pstate ≠ 2 ∧ s.sec.sstate = .owned ∧ s.releasing = false ∧ s.job.st = .loaded ∧ s.job.man = some man0
        ∧ ((s.stp.phase = .between ∧ s.stp.lastOut = none) ∨ s.stp.phase = .rollback) := by
  constructor <;> decide +kernel

def running : State := { jobUp with stp := { jobUp.stp with phase := .running } }
def parked : State := { up with sec := { up.sec with pstate := 2 } }

theorem witness_JobMessages_power :
    (∀ s ∈ [jobUp, stopped], s.sec.sstate = .owned ∧ (s.job.st = .loaded ∨ s.job.st = .stopped) ∧ s.idleJob = true ∧ s.sec.pstate ≠ 2 ∧ s.sec.trans = none)
      ∧ running.sec.sstate = .owned ∧ running.job.st = .loaded ∧ running.idleJob = false ∧ running.sec.pstate ≠ 2 ∧ running.stp.phase ≠ .between ∧ running.sec.pstate < 2 ∧ running.sec.dlevel < 2
      ∧ (∀ s ∈ [up, jobUp], s.sec.pstate < 2 ∧ s.sec.dlevel < 2 ∧ (s.job.st ≠ .loaded ∨ s.stp.phase = .between) ∧ s.sec.trans = none ∧ s.quarantining = false)
      ∧ parked.sec.pstate = 2 ∧ parked.sec.ownMsgs = [] := by decide +kernel

theorem witness_JobMessages_accepted :
    AcceptsOut rolled (mb 64) ∧ AcceptsOut ready4 (mb 64) ∧ AcceptsOut running (mb 0) ∧ AcceptsOut parked (mb 0) :=
  ⟨⟨accepts _ _ (by decide +kernel), by decide +kernel⟩, ⟨accepts _ _ (by decide +kernel), by decide +kernel⟩, ⟨accepts _ _ (by decide +kernel), by decide +kernel⟩,
    ⟨accepts _ _ (by decide +kernel), by decide +kernel⟩⟩

/-! Firmware. -/

def stagedUp : State := { up with hif := { up.hif with staged := some fw0, activate := [7] } }

theorem witness_Firmware_stage :
    AcceptsOut up (mb 64) ∧ fwCheck kelgilMagic fw0 (up.nvm.ctrs.getD 2 0) = none
      ∧ fwCheck bellowsMagic ⟨fwOf bellowsMagic, true⟩ (up.nvm.ctrs.getD 3 0) = none ∧ fwCheck bellowsMagic fw0 (up.nvm.ctrs.getD 3 0) = some failFormat
      ∧ (fwCheck kelgilMagic { fw0 with sigOk := false } (up.nvm.ctrs.getD 2 0)).isSome = true
      ∧ (fwCheck kelgilMagic fw0 (({ up with nvm := { up.nvm with ctrs := [0, 0, 1, 0, 0] } } : State).nvm.ctrs.getD 2 0)).isSome = true
      ∧ AcceptsOut stagedUp (mb 0) ∧ stagedUp.sec.dlevel < 2 ∧ stagedUp.hif.staged.isSome = true :=
  ⟨⟨accepts _ _ (by decide +kernel), by decide +kernel⟩, by decide +kernel, by decide +kernel, by decide +kernel, by decide +kernel,
    by decide +kernel, ⟨accepts _ _ (by decide +kernel), by decide +kernel⟩, by decide +kernel, by decide +kernel⟩

/-- An image in window 0, of the length that HIF_FW_LEN gives. -/
def loadedFw : State := { up with mem := memWrite [] lpBase (fwOf kelgilMagic), hif := { up.hif with fwLen := 1344, phase := 1 } }

theorem witness_Firmware_image :
    loadedFw.fwBad none = none ∧ loadedFw.fwBad (some (lpBase / 512 + 2)) = some (lpBase / 512 + 2)
      ∧ fwCheck kelgilMagic (loadedFw.fwImage true) (loadedFw.nvm.ctrs.getD 2 0) = none
      ∧ fwCheck kelgilMagic (loadedFw.fwImage false) (loadedFw.nvm.ctrs.getD 2 0) = some failSig
      ∧ loadedFw.rst.dieUp = true ∧ loadedFw.hif.perst = false ∧ loadedFw.sec.pstate < 3 := by decide +kernel

theorem witness_Firmware_start :
    (∀ p ∈ [4, 5], let s : State := { stagedUp with hif := { stagedUp.hif with phase := p } }
        s.hif.activate ≠ [] ∧ s.hif.staged = some fw0 ∧ s.mayActivate = true ∧ (s.hif.phase = 4 ∨ s.hif.phase = 5))
      ∧ (∀ p ∈ [3, 7], let s : State := { up with hif := { up.hif with phase := p } }
        s.rst.dieUp = true ∧ s.job.prog = none ∧ (s.hif.phase = 3 ∨ s.hif.phase = 7) ∧ s.quarantining = false ∧ s.job.unloadReq = [] ∧ s.sec.pstate < 2
          ∧ s.sec.trans = none)
      ∧ regionOf (512 * ((lpBase + 0x7800000000) / 512)) = .kelgil
      ∧ ∀ p ∈ [(1, 0), (6, 3)], let s : State := { up with hif := { up.hif with phase := p.1, fail := p.2 } }
        s.rst.dieUp = true ∧ s.hif.perst = false ∧ s.sec.pstate < 3 ∧ (s.hif.phase = 1 ∨ (s.hif.phase = 6 ∧ 3 ≤ s.hif.fail)) := by decide +kernel

theorem witness_Firmware_attestation :
    let at' := fun (n : Nat) => ({ up with hif := { up.hif with attNlen := BitVec.ofNat 7 n } } : State)
    (∀ n ∈ [15, 16, 64, 65], (at' n).rst.dieUp = true ∧ (at' n).hif.perst = false ∧ (at' n).sec.pstate < 3 ∧ (at' n).sec.idOk = true)
      ∧ (∀ n ∈ [16, 64], 16 ≤ (at' n).hif.attNlen.toNat ∧ (at' n).hif.attNlen.toNat ≤ 64)
      ∧ ∀ n ∈ [15, 65], (at' n).hif.attNlen.toNat < 16 ∨ 64 < (at' n).hif.attNlen.toNat := by decide +kernel

/-! The debug port. -/

def atD (l : Nat) : State := { up with sec := { up.sec with dlevel := l } }

theorem witness_DebugRequests_levels :
    Reaches up (some (mb 0)) ∧ Reaches up none ∧ up.sec.dlevel = 0 ∧ Reaches (atD 1) none ∧ (atD 1).sec.dlevel = 1 :=
  ⟨accepts up 0 (by decide +kernel), show up.dbgUp = true by decide +kernel, rfl, show (atD 1).dbgUp = true by decide +kernel, rfl⟩

def nonced : State := { up with sec := { up.sec with dbgNonce := some 3 } }
def factoryNonced : State := { nonced with sec := { nonced.sec with sstate := .factory } }
def tok (l : Byte) : DbgToken := ⟨true, l, 0, true, did, 0, 3, some Config.vendorKey⟩

theorem witness_DebugRequests_token :
    nonced.dbgUp = true ∧ nonced.tokenOk (tok 2) = true ∧ factoryNonced.tokenOk (tok 3) = true ∧ factoryNonced.dbgUp = true ∧ nonced.sec.pstate < 2
      ∧ nonced.sec.dlevel < (tok 2).level.toNat ∧ nonced.sec.dlevel < (tok 3).level.toNat ∧ nonced.sec.trans = none
      ∧ nonced.tokenOk { tok 2 with magicOk := false } = false := by
  refine ⟨by decide +kernel, ?_, ?_, by decide +kernel, by decide +kernel, by decide +kernel, by decide +kernel, rfl, by decide +kernel⟩ <;>
    simp [State.tokenOk, State.devid, did, nonced, factoryNonced, tok, State.tokenKey, up, State.reset, Nvm.shipped, DevPart.shipped, Sec.zero]

theorem witness_DebugRequests_access :
    (∀ l ∈ [1, 2, 3], (atD l).dbgUp = true ∧ (atD l).sec.dlevel = l) ∧ (atD 0).dbgUp = true
      ∧ (∀ a ∈ [0, sharedBase], up.dbgStack a = true ∧ up.dbgStack (a + 3) = true)
      ∧ (csrAddr 0x0F0000003008).any (fun r => dbgBlock .registers r && ((atD 2).reg r).isSome && ((atD 3).csrWrite r 5).isSome) = true
      ∧ (∀ l ∈ [1, 2, 3], (atD l).sec.scrub = false)
      ∧ (csrAddr 0x0F0000004080).any (fun r => dbgBlock .counters r && ((atD 1).reg r).isSome && ((atD 1).telBit r).isNone) = true
      ∧ (csrAddr 0x0F0000004404).any (fun r => dbgBlock .trc r && ((atD 1).reg r).isSome && trcWritable r && ((atD 1).csrWrite r 5).isSome) = true
      ∧ (csrAddr 0x0F000000440C).any (fun r => dbgBlock .trc r && ((atD 1).reg r).isSome && ! trcWritable r) = true
      ∧ (∀ e ∈ (atD 1).rings.log, e.entry.toNat = 0 → e.cls = 2)
      ∧ (∀ p ∈ [true, false], let a : DbgAccess := ⟨.lpddr, lpBase + 0x40000, some 5, p⟩
          let s : State := { atD 3 with mm := { up.mm with poisoned := if p then [] else [(lpBase + 0x40000) / 512] } }
          (a.poison = true ∨ a.addr / 512 ∈ s.mm.poisoned) ∧ s.sec.dlevel = 3 ∧ s.waits [(a.addr, 4)] = false)
      ∧ (let s : State := { atD 1 with sec := { (atD 1).sec with scrub := true } }; s.dbgUp = true ∧ s.sec.scrub = true)
      ∧ (let s : State := { atD 3 with mm := { up.mm with retrain := some 0 } }; s.dbgUp = true ∧ s.waits [(lpBase, 4)] = true)
      ∧ dbgLp (lpBase + 0x40000) = true ∧ dbgLp (lpBase + 0x40003) = true ∧ regionOf (lpBase + 0x40000) = .granule 0 := by
  decide +kernel

end Sys2Proof.Tests
end

