-- ==== Sys2Proof/Tests/Witness3.lean ====
section
/-! SUPPORT. For every statement about resets, registers, jobs, steps and links a state and operands that meet its hypotheses,
clause by clause. -/

set_option Elab.async false

namespace Sys2Proof.Tests

open Sys2Proof Sys2Proof.Machine

/-! Resets, the host interface, registers. -/

theorem witness_ModuleResets :
    up.rst.dieUp = true ∧ (0x0000D0E5#32 ≠ 0x0000D0E5#32 ∨ State.reset.rst.dieUp = false) ∧ (0 : W32) ≠ 0x0000D0E5#32 ∧ Accepts up (mb 0)
      ∧ (∀ p ∈ [3, 5], let s : State := { up with hif := { up.hif with phase := p }, rst := { up.rst with wdogOn := true, wdogMs := 1000 } }
        s.rst.wdogOn = true ∧ 3 ≤ s.hif.phase ∧ s.sec.pstate < 2 ∧ 1000 ≤ s.rst.wdogMs)
      ∧ up.rst.wdogOn = false ∧ up.rst.locked = true ∧ up.sec.pstate < 3 ∧ up.hif.perst = false ∧ State.reset.rst.locked = false
      ∧ (let s : State := { up with sec := { up.sec with pstate := 3 } }; s.rst.locked = true ∧ s.sec.pstate = 3 ∧ 3 ≤ s.sec.pstate) :=
  ⟨by decide +kernel, .inr rfl, by decide, accepts _ _ (by decide +kernel), by decide +kernel, by decide +kernel, by decide +kernel, by decide +kernel,
    by decide +kernel, by decide +kernel, by decide +kernel⟩

theorem witness_HostInterfaceReset :
    up.hif.heldRep.length + up.hif.replies.length ≤ 256 ∧ up.sec.dlevel ≠ 1 ∧ (atD 1).sec.dlevel = 1 := by decide +kernel

/-- The windows 1 and 2 exchanged, window 5 closed. -/
def mapped : State := { up with hif := { up.hif with bar2 := ([0, 2, 1, 3, 4] : List Nat).map some ++ [none] } }

theorem witness_HostInterface :
    mapped.hif.perst = false ∧ mapped.rst.dieUp = true ∧ mapped.sec.pcieFrozen = false ∧ mapped.sec.pstate < 2 ∧ mapped.mm.retrain = none
      ∧ mapped.mm.poisoned = []
      ∧ (let off := 3 * granSize + 8; mapped.window (off / granSize) = some 3 ∧ mapped.window ((off + 4 - 1) / granSize) = some 3)
      ∧ (let off := 4 * granSize - 1; mapped.window (off / granSize) = some 3 ∧ mapped.window ((off + 2 - 1) / granSize) = some (3 + 1)
        ∧ off / granSize ≠ (off + 2 - 1) / granSize)
      ∧ (let off := granSize - 1; mapped.window (off / granSize) = some 0 ∧ mapped.window ((off + 2 - 1) / granSize) = some 2
        ∧ off / granSize ≠ (off + 2 - 1) / granSize ∧ (2 : Nat) ≠ 0 + 1)
      ∧ mapped.window (5 * granSize / granSize) = none ∧ mapped.bar2Pieces (5 * granSize) 4 = none ∧ mapped.bar2Pieces (5 * granSize - 1) 2 = none
      ∧ (let s : State := { mapped with sec := { mapped.sec with pcieFrozen := true } }; s.sec.pstate < 3 ∧ s.sec.pcieFrozen = true)
      ∧ (let s : State := { mapped with sec := { mapped.sec with pstate := 2 } }; s.sec.pstate < 3 ∧ s.sec.pstate = 2) := by decide +kernel

/-- Package 0 under retraining; a block that failed its MAC, and one that fails now. A write of a whole block reads nothing. -/
theorem witness_HostInterface_blocks :
    (∀ po ∈ [none, some (lpBase / 512 + 1)], ∀ ps, mapped.bar2Pieces 0 4 = some ps → mapped.waits ps = false ∧ ∀ x ∈ readBlocks ps false, x ∉ mapped.mm.poisoned ∧ po ≠ some x)
      ∧ (∀ ps, mapped.bar2Pieces 512 512 = some ps → readBlocks ps true = [])
      ∧ (let s : State := { mapped with mm := { mapped.mm with retrain := some 7 } }
        s.bar2Pieces 0 4 = some [(lpBase, 4)] ∧ s.waits [(lpBase, 4)] = true ∧ s.waits [(lpBase + 4096, 4)] = false)
      ∧ (let s : State := { mapped with sec := { mapped.sec with scrub := true } }
        s.bar2Pieces 0 4 = some [(lpBase, 4)] ∧ s.waits [(lpBase, 4)] = true)
      ∧ (let s : State := { mapped with mm := { mapped.mm with poisoned := [lpBase / 512] } }
        s.bar2Pieces 0 4 = some [(lpBase, 4)] ∧ s.waits [(lpBase, 4)] = false ∧ ∃ x ∈ readBlocks [(lpBase, 4)] true, x ∈ s.mm.poisoned)
      ∧ ∃ x ∈ readBlocks [(lpBase, 4)] false, some (lpBase / 512) = some x := by
  refine ⟨fun po hpo ps h => ?_, fun ps h => ?_, by decide +kernel, by decide +kernel, by decide +kernel, lpBase / 512, by decide +kernel, rfl⟩
  · rw [show mapped.bar2Pieces 0 4 = some [(lpBase, 4)] by decide +kernel] at h
    obtain rfl := Option.some.inj h
    revert po
    decide +kernel
  · rw [show mapped.bar2Pieces 512 512 = some [(lpBase + 512, 512)] by decide +kernel] at h
    obtain rfl := Option.some.inj h
    decide +kernel

theorem witness_Registers :
    up.rst.dieUp = true ∧ up.sec.pstate < 3 ∧ up.hif.perst = false ∧ up.sec.scrub = false ∧ up.sec.ctrlFrozen = []
      ∧ (let s : State := { up with sec := { up.sec with scrub := true } }; s.rst.dieUp = true ∧ s.sec.pstate < 3 ∧ s.sec.scrub = true) ∧ (0 : W32) ≠ 0x00005A17#32
      ∧ (0 : Nat) < evcSize (.core 191) ∧ 15 < evcSize (.core 0) ∧ 63 < evcSize .module := by decide +kernel

/-! Service of the cores. -/

/-- Granule 1 sealed; core 3 caches line 257 of it and is drained, or not. -/
def sealed1 (drained : Bool) : State :=
  { up with mm := { up.mm with sealed := [(1, true)] }, cores := [(3, { Core.zero with icache := [(1, [257])], fetching := ! drained })] }

theorem witness_CoreService :
    (1 : W32).getLsbD 16 = false ∧ (∀ d ∈ [true, false], (sealed1 d).isSealed ((1 : W32).toNat % 65536) = true)
      ∧ (∀ k, ((sealed1 true).core k).drained = true ∨ ((sealed1 true).core k).caches ((1 : W32).toNat % 65536) = false)
      ∧ (∃ k, ((sealed1 false).core k).drained = false ∧ ((sealed1 false).core k).caches ((1 : W32).toNat % 65536) = true) :=
  ⟨by decide, by decide +kernel, fun k => .inl (by revert k; decide +kernel), ⟨3, by decide +kernel⟩⟩

theorem witness_CoreService_queues :
    let r : Rpt := ⟨7, 5, false, 9⟩
    let x : TraceRec := ⟨7, [0, 0, 0, 0], 0, 1, 0⟩
    let full := at0 { live with upe := { Upe.zero with rpt := List.replicate 128 r }, trc := { Trc.zero with fifo := List.replicate 4 x } } [] []
    let late := at0 { Core.zero with ended := true, upe := { Upe.zero with rpt := [r] } } [] []
    128 ≤ (full.core 0).upe.rpt.length ∧ (late.core 0).ended = true ∧ 4 ≤ (full.core 0).trc.fifo.length ∧ (full.core 0).waitq = [] := by decide +kernel

theorem witness_InFieldTests :
    AcceptsOut up (mb 4) ∧ (0 : W16).toNat < 192 ∧ (191 : W16).toNat < 192 ∧ up.hif.mbxUp = true
      ∧ (let s : State := { up with tst := ⟨[], some 3⟩ }; s.tst.running = some 3 ∧ s.tst.queue = [])
      ∧ let s : State := { st with cores := (List.range 192).map fun i => (i, { Core.zero with testDue := i = 0, fenced := decide (i ≠ 0) }) }
        (s.core 0).testDue = true ∧ s.freeCore = none ∧ (0 : CoreId).val ∈ s.jobColumns :=
  ⟨⟨accepts _ _ (by decide +kernel), by decide +kernel⟩, by decide, by decide, by decide +kernel, by decide +kernel, by decide +kernel⟩

/-! A job load. -/

/-- An image of one stream, COMMIT and STEPEND, and one empty descriptor (R167-R171). -/
def img0 : List Byte :=
  leBytes 64 (0x584C5645 + 2 * 2 ^ 32 + 1 * 2 ^ 64 + 1 * 2 ^ 96 + 8 * 2 ^ 160 + 208 * 2 ^ 192 + 64 * 2 ^ 256 + 128 * 2 ^ 288 + 128 * 2 ^ 320
    + 192 * 2 ^ 352) ++ leBytes 64 (192 + 2 * 2 ^ 32) ++ leBytes 64 0 ++ leBytes 8 (1 + 7 * 2 ^ 32 + 2 * 2 ^ 36)
    ++ leBytes 8 (2 + 7 * 2 ^ 32 + 3 * 2 ^ 36)

/-- A manifest body for it (R429): seed slot 1 with the seed under the key 11 of that slot, a pipeline record of one stage. -/
def bodyPre : List Byte :=
  leBytes 0x80 (0x464D4A54 + 1 * 2 ^ 144 + leNat (gcmTag (leBytes 32 11) (List.replicate 12 0) [] (List.replicate 16 0)) * 2 ^ 480 + 208 * 2 ^ 704)
def bodyPost : List Byte :=
  leBytes 148 ((0x140 + 20 * 2 ^ 32) * 2 ^ 512 + (2 ^ 16 + 2 ^ 48 + 2 ^ 96 + 128 * 2 ^ 128) * 2 ^ 1024)
def body0 : List Byte := bodyPre ++ leBytes 64 (digestOf img0).toNat ++ bodyPost

/-- An owned module with the image staged, Kelgil running and the key table held. -/
def loadUp : State :=
  { owned with mem := memWrite [] lpBase img0, hif := { owned.hif with running := some fw0 },
               sec := { owned.sec with ktDigest := some 0, slots := [(1, ⟨1, 11⟩)] } }

theorem body0_digest : leAt body0 0x80 64 = (digestOf img0).toNat := by
  have h1 : bodyPre.length = 0x80 := leBytes_length _ _
  have h2 : slice body0 0x80 64 = leBytes 64 (digestOf img0).toNat := by
    unfold slice body0
    rw [List.append_assoc, List.drop_append_of_le_length (by rw [h1]), show bodyPre.drop 0x80 = [] from List.drop_eq_nil_of_le (by rw [h1]),
      List.nil_append, List.take_append_of_le_length (by rw [leBytes_length]), List.take_of_length_le (by rw [leBytes_length])]
    simp
  rw [leAt, h2, leNat_leBytes, show (256 : Nat) ^ 64 = 2 ^ 512 from (Nat.pow_mul 2 8 64).symm]
  exact Nat.mod_eq_of_lt (digestOf img0).isLt

theorem loads_stage1 (m : Mb) : (loadUp.taken m).stage1 (env 0x0050) body0 = .inr img0 := by
  have ho : (loadUp.taken m).ownerOk 0x0050 (env 0x0050) = true := env_ownerOk 0x0050
  have hk : (loadUp.taken m).sec.ktDigest = some (BitVec.ofNat 512 (leAt body0 0xC0 64)) := by
    rw [show leAt body0 0xC0 64 = 0 by decide +kernel]
    rfl
  have hm : memRange loadUp.mem (lpBase + (manImg body0).1) (manImg body0).2 = img0 := by decide +kernel
  have hc : (loadUp.taken m).clearImage body0 = some img0 := by
    unfold State.clearImage
    have h1 : ¬ (loadUp.taken m).mm.stageg * granSize < (manImg body0).1 + (manImg body0).2 := by
      show ¬ loadUp.mm.stageg * granSize < _
      decide +kernel
    have h2 : manFlag body0 2 = false := by decide +kernel
    have h3 : (loadUp.taken m).mem = loadUp.mem := rfl
    simp [h1, h2, h3, hm, body0_digest]
  have hman : (loadUp.taken m).manOk (env 0x0050) body0 = true := by
    unfold State.manOk
    rw [ho, hk]
    simp
  unfold State.stage1
  rw [hman, hc]
  rfl

theorem loads : ∃ l, (loadUp.taken (mb 340)).tryLoad (mb 340).seq (env 0x0050) body0 = .ok l := by
  have h0 : (loadUp.taken (mb 340)).loadRej = none := by decide +kernel
  have h2 : (loadUp.taken (mb 340)).manifestBad body0 ((loadUp.taken (mb 340)).openSeed body0).isSome = none := by
    decide +kernel
  have h3 : stage2 img0 ((manImg body0).2 - (if (manifestOf body0).encimg then 16 else 0)) = none := by decide +kernel
  have h4 : ((loadUp.taken (mb 340)).stages3to9 (manifestOf body0) img0).isRight = true := by decide +kernel
  unfold State.tryLoad
  rw [h0, loads_stage1]
  simp only [h2, h3]
  cases h5 : (loadUp.taken (mb 340)).stages3to9 (manifestOf body0) img0 with
  | inl r => rw [h5] at h4; exact absurd h4 Bool.false_ne_true
  | inr x => exact ⟨_, rfl⟩

theorem witness_JobData_load :
    AcceptsOut loadUp (mb 340) ∧ loadUp.sec.pstate ≠ 2 ∧ loadUp.sec.sstate = .owned ∧ (loadUp.outq.undrained = [] ∨ loadUp.job.st ≠ .none)
      ∧ loadUp.sec.dlevel < 2 ∧ loadUp.releasing = false ∧ (∃ l, (loadUp.taken (mb 340)).tryLoad (mb 340).seq (env 0x0050) body0 = .ok l)
      ∧ loadUp.waits [loadUp.stagePiece] = false
      ∧ (∃ r, (owned.taken (mb 0)).tryLoad (mb 0).seq (env 0x0050) [] = .rej r)
      ∧ (∀ s ∈ [loadUp.taken (mb 340), owned.taken (mb 0)], ∀ b, s.imageBad (env 0x0050) b none = none)
      ∧ (loadUp.taken (mb 340)).imageBad (env 0x0050) body0 (some (lpBase / 512)) = some (lpBase / 512) := by
  refine ⟨⟨accepts _ _ (by decide +kernel), by decide +kernel⟩, by decide +kernel, rfl, by decide +kernel, by decide +kernel, by decide +kernel, loads, by decide +kernel, ?_,
    ?_, ?_⟩
  rotate_left
  · intro s hs b
    have hp : s.mm.poisoned = [] := by revert s; decide +kernel
    unfold State.imageBad State.macBad
    simp [hp]
  · have ho : (loadUp.taken (mb 340)).ownerOk 0x0050 (env 0x0050) = true := env_ownerOk 0x0050
    have hk : (loadUp.taken (mb 340)).sec.ktDigest = some (BitVec.ofNat 512 (leAt body0 0xC0 64)) := by
      rw [show leAt body0 0xC0 64 = 0 by decide +kernel]
      rfl
    have h0 : (loadUp.taken (mb 340)).loadRej = none := by decide +kernel
    have h1 : ¬ (loadUp.taken (mb 340)).mm.stageg * granSize < (manImg body0).1 + (manImg body0).2 := by decide +kernel
    have h2 : (loadUp.taken (mb 340)).macBad (lpBase + (manImg body0).1) (manImg body0).2 (some (lpBase / 512)) = some (lpBase / 512) := by
      decide +kernel
    unfold State.imageBad State.manOk
    rw [ho, hk, h0]
    simp [h1, h2]
  have h : (owned.taken (mb 0)).loadRej = some (.plain 0x0003 0 0) := by decide +kernel
  exact ⟨.plain 0x0003 0 0, by unfold State.tryLoad; rw [h]⟩

/-- A load under way. -/
def load1 : Loading :=
  { seq := 7, cols := List.range 192, man := man0, prog := prog1, descs := leBytes 64 0, scales := [], sctab := [], layers := [layer5], groups := [],
    seed := 0, env := env 0x0050, ignored := [] }

theorem witness_JobData_complete :
    let s : State := { owned with job := { Job.zero with st := .loading, load := some load1 } }
    s.job.load = some load1 ∧ s.sec.trans = none ∧ s.sec.pstate < 3 ∧ (∀ n ∈ load1.prog.cols, load1.cols.getD n 192 ∈ s.usableCores)
      ∧ load1.descs.length ≤ 0x400000 ∧ load1.scales.length ≤ 0x100000 :=
  ⟨rfl, rfl, by decide, by decide +kernel, by decide +kernel, by decide⟩

/-- A chunk of one byte, its content key wrapped under a slot key, and its staged bytes. -/
def slotKey0 : List Byte := leBytes 32 0
def iv12 : List Byte := List.replicate 12 1
def wck0 : List Byte := List.replicate 32 2
def staged0 : List Byte := [5] ++ gcmTag (gcmCtr slotKey0 iv12 wck0) iv12 [] [5]
def chunk0 : ChunkEntry := ⟨0, 17, 1, 63, iv12, iv12, wck0, gcmTag slotKey0 iv12 [1] wck0, digestOf staged0, true⟩
def toks0 : TokMan := ⟨0, 0, [], [chunk0], []⟩
def chunked (m : List Host.Cell) : State := { jobUp with mem := m, job := { jobUp.job with tokens := [toks0] } }
def stagedMem : List Host.Cell := memWrite [] lpBase staged0

theorem witness_JobData_chunk :
    let s := chunked stagedMem
    s.job.st = .loaded ∧ s.sec.pstate < 2 ∧ s.sec.scrub = false ∧ s.nextChunk = some (toks0, chunk0) ∧ SMap.has s.job.landing chunk0.buf.toNat = false
      ∧ s.stalls (lpBase + chunk0.off.toNat) chunk0.clen.toNat = false
      ∧ s.macBad (lpBase + chunk0.off.toNat) chunk0.clen.toNat none = none
      ∧ s.macBad (lpBase + chunk0.off.toNat) chunk0.clen.toNat (some (lpBase / 512)) ≠ none := by decide +kernel

theorem witness_JobData_chunk_ok :
    let s := chunked stagedMem
    s.chunkOk toks0 chunk0 = true ∧ (s.chunkPlain chunk0).any (fun p => decide (p.length ≤ 0x400000)) = true := by decide +kernel

theorem witness_JobData_chunk_bad : (chunked []).chunkOk toks0 chunk0 = false := by decide +kernel

/-! A step. -/

/-- The job at a step whose tokens are there, in a formed pod. -/
def startable : State :=
  { jobUp with job := { jobUp.job with tokens := [⟨0, 0, [], [], []⟩] }, lnk := { jobUp.lnk with podFormed := true, formed := true } }

theorem witness_StepProgress_start : ∀ ph ∈ [StepPh.between, .redo], let s : State := { startable with stp := { startable.stp with phase := ph } }
    s.mayStart = true ∧ s.waitBits = 0 ∧ s.job.man = some man0 ∧ s.job.tokens.find? (fun y => y.s = s.stp.s) = some ⟨0, 0, [], [], []⟩
      ∧ man0.pipe.sloth = 0 ∧ (0 : CoreId) ∈ s.usedCores ∧ (1 : CoreId) ∉ s.usedCores := by decide +kernel

/-- Core 0 as given in a step phase. -/
def inStep (ph : StepPh) (c : Core) : State := { startable with stp := { startable.stp with phase := ph }, cores := [(0, c)] }

theorem witness_StepProgress_vote :
    (let s := inStep .running { live with atCommit := true };
      s.job.st = .loaded ∧ s.stp.phase = .running ∧ s.voteReady = true)
      ∧ (let s : State := { inStep .running live with stp := { (inStep .running live).stp with fault := true } }; s.stp.fault = true ∧ s.stp.phase = .running)
      ∧ (let s := inStep .committed { Core.zero with ended := true };
        s.job.st = .loaded ∧ s.stp.phase = .committed ∧ (∀ k ∈ s.usedCores, (s.core k).ended = true) ∧ s.restorable s.stp.lost = true)
      ∧ ∀ ph ∈ [StepPh.running, .voted, .committed],
        let s := inStep ph { live with inflight := [{ live.entryOf (.wait 0 hd1 ⟨5, 0, 1⟩) with phase := .waitObj, target := 1 }] };
        (s.stp.phase = .running ∨ s.stp.phase = .voted ∨ s.stp.phase = .committed) ∧ s.stp.wdogFired = false
          ∧ ∃ k ∈ s.usedCores, ∃ e ∈ (s.core k).inflight, e.phase = .waitObj ∧ s.reached e = false := by decide +kernel

def vote0 (fault ovf : Bool) (ms : List Nat) : Vote := ⟨ovf, false, fault, 0, [], [], ms, false⟩

/-- The coordinator of a pod with a combined vote. -/
def voted (n : Nat) (v : Vote) : State :=
  { inStep .voted live with lnk := { startable.lnk with extents := [n, 1, 1, 1] }, stp := { (inStep .voted live).stp with comb := some v, own := some v } }

theorem witness_Outcomes_decide :
    (∀ v ∈ [vote0 false false [0], vote0 true false [0], vote0 false true [0]],
      (voted 1 v).stp.comb = some v ∧ (voted 1 v).deciding = true ∧ ∀ i ∈ (voted 1 v).podIds, i ∈ v.members)
      ∧ (let v := vote0 false false [0]
        (voted 2 v).deciding = true ∧ (voted 2 v).podIds.filter (fun i => ! v.members.contains i) ≠ []) := by decide +kernel

def outc (code : Nat) (lost : List Nat) : OutcomeMsg := ⟨0, 0, code, lost⟩

/-- Module 0 of two, replicas of each other. -/
def decidedBy (o : OutcomeMsg) (ckpt : Bool) : State :=
  let s := voted 2 (vote0 false false [0, 1])
  { s with stp := { s.stp with decided := some o },
           job := { s.job with ckpt := ckpt, man := some { man0 with pipe := { man0.pipe with repmask := 1 } } } }

theorem witness_Outcomes_apply :
    (∀ o ∈ [outc outGo [], outc outSkip [], outc outStop [], outc outRetry [], outc outRestore [1], outc outRollback [1]], ∀ c ∈ [true, false],
      let s := decidedBy o c
      s.job.st = .loaded ∧ s.stp.phase = .voted ∧ s.stp.comb = some (vote0 false false [0, 1]) ∧ s.stp.decided = some o ∧ o.s = s.stp.s
        ∧ o.a = s.stp.a ∧ s.job.man.all (fun m => ! m.replay) = true ∧ s.job.ckpt = c)
      ∧ (decidedBy (outc outRestore [1]) true).restorable [1] = true ∧ 2 ≤ 2 ∧ ∀ d ∈ [0, 1], d < 2 := by decide +kernel

/-- Module 0 of four, replicas of each other in the pipeline dimension, that has applied a RESTORE of the attempt under way. -/
def restoring (lost : List Nat) (o : OutcomeMsg) : State :=
  let s := decidedBy o true
  { s with lnk := { s.lnk with extents := [4, 1, 1, 1] }, stp := { s.stp with phase := .restore, lost := lost, lastOut := some (outc outRestore [1]), a := 1 } }

theorem witness_Outcomes_more :
    let s := restoring [1] (outc outRestore [1, 2])
    s.job.st = .loaded ∧ s.stp.phase.after = true ∧ s.stp.comb = some (vote0 false false [0, 1]) ∧ s.stp.decided = some (outc outRestore [1, 2])
      ∧ s.openAt = ((outc outRestore [1, 2]).s, (outc outRestore [1, 2]).a) ∧ s.restorable (s.stp.lost ++ [1, 2]).eraseDups = true := by decide +kernel

theorem witness_Outcomes_losses :
    (∀ ph ∈ [StepPh.running, .voted, .committed, .redo, .restore, .rollback],
      let s0 : State := inStep ph live
      let s : State := { s0 with lnk := { startable.lnk with extents := [2, 1, 1, 1], self := 1 }, stp := { s0.stp with lastOut := some (outc outRetry []) } }
      s.job.st = .loaded ∧ (s.stp.phase = .running ∨ s.stp.phase = .voted ∨ s.stp.phase = .committed ∨ (s.stp.phase.after = true ∧ s.stp.lastOut.isSome = true))
        ∧ s.coordinator ≠ s.lnk.self.toNat)
      ∧ (let s0 : State := inStep .between live
        let s : State := { s0 with lnk := { startable.lnk with extents := [2, 1, 1, 1], self := 1 }, stp := { s0.stp with lastOut := some (outc outGo []) },
                                   job := { s0.job with ckpt := true } }
        s.stp.phase = .between ∧ s.stp.lastOut.isSome = true ∧ s.coordinator ≠ s.lnk.self.toNat
          ∧ s.restorable (s.stp.lost ++ [s.coordinator]) = false ∧ s.job.ckpt = true)
      ∧ (let s := restoring [1] (outc outRestore [1])
        s.job.st = .loaded ∧ s.stp.phase = .restore ∧ s.lnk.self.toNat ∉ s.stp.lost ∧ s.restorable (s.stp.lost ++ [2]).eraseDups = true
          ∧ s.restorable (s.stp.lost ++ [0, 2, 3]).eraseDups = false ∧ s.job.ckpt = true)
      ∧ startable.job.st = .loaded ∧ startable.stp.phase = .between ∧ startable.stp.a = 0 ∧ startable.stp.lastOut = none
      ∧ startable.stp.lost = [] := by decide +kernel

/-! Links. -/

def keys0 : PortKeys := ⟨1, 2, 3, 4, 0, 0⟩

/-- Port 0 as given; the pod has two modules in dimension 0 and port 0 leads to module 1. -/
def link (x : Port) : State :=
  { up with lnk := { up.lnk with ports := [(0, x)], extents := [2, 1, 1, 1],
                                 map := (List.range 48).map fun p => ⟨decide (p = 0), 1, 6⟩, mirror := [], held := [⟨0, 3, none⟩] },
            chk := stamps [] [linkAddr 0 false 3 / 4096] }

def upPort : Port := { Port.zero with st := .up, keys := some keys0, width := 2 }
def head (type : Nat) : FrameHdr := ⟨BitVec.ofNat 2 type, 0, 0, 0, 0, false, false, 0, 0, false, 0⟩

/-- A frame with a header and packets, as the peer's first of this epoch; and the same with another tag. -/
def arrOf (h : FrameHdr) (bs : List Byte) : Arrival := ⟨frameWord h, 0, 0, (sealFrame keys0.rx keys0.saltRx 0 (frameWord h) bs).tag, false⟩
def arr (type : Nat) (bs : List Byte) : Arrival := arrOf (head type) bs
def spoilt (a : Arrival) (fourth : Bool) : Arrival := { a with tag := a.tag + 1, fourth := fourth }

theorem linked_quiet : NothingWaits (link upPort) := by
  constructor
  · intro k e he
    have h : ∀ k, ((link upPort).core k).inflight = [] := by decide +kernel
    rw [h k] at he
    exact absurd he (List.not_mem_nil)
  · rfl

theorem linked_tagOk {a : Arrival} (hs : extend 0 (arrHdr a).seq = 0) (bs : List Byte) :
    (link upPort).tagOk 0 a bs = decide ((sealFrame keys0.rx keys0.saltRx 0 a.word bs).tag = a.tag) := by
  have hp : (link upPort).port 0 = upPort := rfl
  have hk : extend upPort.rxSeq (arrHdr a).seq = 0 := hs
  have hx : upPort.keys = some keys0 := rfl
  unfold State.tagOk
  rw [hp]
  simp only [hx, hk]
  rfl

theorem linked_tag {h : FrameHdr} (hs : extend 0 (frameHdr (frameWord h)).seq = 0) (bs : List Byte) : (link upPort).tagOk 0 (arrOf h bs) bs = true :=
  (linked_tagOk (a := arrOf h bs) hs bs).trans (decide_eq_true rfl)

theorem linked_tag_bad {h : FrameHdr} (hs : extend 0 (frameHdr (frameWord h)).seq = 0) (bs : List Byte) (f : Bool) :
    (link upPort).tagOk 0 (spoilt (arrOf h bs) f) bs = false := by
  rw [linked_tagOk (a := spoilt (arrOf h bs) f) hs bs]
  refine decide_eq_false fun he => ?_
  have h2 : (sealFrame keys0.rx keys0.saltRx 0 (frameWord h) bs).tag = (sealFrame keys0.rx keys0.saltRx 0 (frameWord h) bs).tag + 1 := he
  generalize (sealFrame keys0.rx keys0.saltRx 0 (frameWord h) bs).tag = x at h2
  bv_omega

theorem head_seq : ∀ t ∈ [0, 1, 2], extend 0 (frameHdr (frameWord (head t))).seq = 0 := by decide +kernel

theorem witness_Frames_good (block : List Byte) (pkt : CtlPacket) (y : Resync) :
    let s := link upPort
    (s.port 0).st = .up ∧ (s.port 0).keys.isSome = true ∧ s.sec.scrub = false ∧ NothingWaits s
      ∧ ({ s with sec := { s.sec with scrub := true } } : State).sec.scrub = true
      ∧ s.tagOk 0 (arr 0 (sized 4096 block)) (sized 4096 block) = true ∧ s.tagOk 0 (arr 1 (ctlPacket pkt)) (ctlPacket pkt) = true
      ∧ s.tagOk 0 (arr 2 []) [] = true ∧ s.tagOk 0 (arr 2 (resyncPacket y)) (resyncPacket y) = true ∧ (5 : BitVec 3).toNat < 6 :=
  ⟨rfl, rfl, rfl, linked_quiet, rfl, linked_tag (head_seq 0 (by decide)) _, linked_tag (head_seq 1 (by decide)) _, linked_tag (head_seq 2 (by decide)) _,
    linked_tag (head_seq 2 (by decide)) _, by decide⟩

theorem witness_Frames_arrive (bs : List Byte) :
    ∀ t ∈ [0, 1, 2], let s := link upPort; let h := arrHdr (arr t bs)
      (arr t bs).unc = 0 ∧ extend (s.port 0).rxSeq h.seq = (s.port 0).rxSeq ∧ s.hdrOk 0 h = true ∧ h.type = BitVec.ofNat 2 t
        ∧ s.rxFull (0 / 6 * 6 + h.buf.toNat) h.blk.toNat = false := by
  intro t ht
  have h : arrHdr (arr t bs) = frameHdr (frameWord (head t)) := rfl
  simp only [h, show (arr t bs).unc = 0 from rfl]
  clear h
  revert t
  decide +kernel

/-- A packet for module 1 goes on through bundle 0, one for module 0 stays. -/
theorem witness_Frames_route (pkt : CtlPacket) :
    let s := link upPort
    let u := (s.receive 0 (arr 1 (ctlPacket pkt)) (arrHdr (arr 1 (ctlPacket pkt))).type (ctlPacket pkt)).1
    (1 : W16) ≠ s.lnk.self ∧ (1 : W16) ≠ 0xFFFF#16 ∧ (0 : W16) = s.lnk.self
      ∧ ∃ b, u.routeOn 0 1 = some b ∧ u.bundleUp b = true ∧ (u.leastPort b).isSome = true := by
  have ht : (link upPort).tagOk 0 (arr 1 (ctlPacket pkt)) (ctlPacket pkt) = true := linked_tag (head_seq 1 (by decide)) _
  simp only [State.receive, ht, show arrHdr (arr 1 (ctlPacket pkt)) = frameHdr (frameWord (head 1)) from rfl,
    show (arr 1 (ctlPacket pkt)).unc = 0 from rfl, show (arr 1 (ctlPacket pkt)).corr = 0 from rfl,
    show (arr 1 (ctlPacket pkt)).fourth = false from rfl]
  decide +kernel

theorem witness_Frames_refuse (bs : List Byte) :
    let s := link upPort
    (let a := arrOf { head 2 with seq := 1 } bs; a.unc = 0 ∧ extend (s.port 0).rxSeq (arrHdr a).seq ≠ (s.port 0).rxSeq ∧ (arrHdr a).rtx = false)
      ∧ ({ arr 2 bs with unc := 1 } : Arrival).unc ≠ 0
      ∧ (∀ f ∈ [false, true], let a := spoilt (arr 2 bs) f
        a.unc = 0 ∧ extend (s.port 0).rxSeq (arrHdr a).seq = (s.port 0).rxSeq ∧ s.tagOk 0 a bs = false ∧ a.fourth = f)
      ∧ (let a := arrOf { head 2 with rsvd := 1 } bs
        a.unc = 0 ∧ extend (s.port 0).rxSeq (arrHdr a).seq = (s.port 0).rxSeq ∧ s.tagOk 0 a bs = true ∧ s.hdrOk 0 (arrHdr a) = false) := by
  have h1 : extend 0 (frameHdr (frameWord { head 2 with seq := 1 })).seq ≠ 0 ∧ (frameHdr (frameWord { head 2 with seq := 1 })).rtx = false := by decide +kernel
  have h2 : extend 0 (frameHdr (frameWord { head 2 with rsvd := 1 })).seq = 0 ∧ (link upPort).hdrOk 0 (frameHdr (frameWord { head 2 with rsvd := 1 })) = false := by
    decide +kernel
  have h3 := head_seq 2 (by decide)
  exact ⟨⟨rfl, h1.1, h1.2⟩, Nat.one_ne_zero, fun f _ => ⟨rfl, h3, linked_tag_bad h3 bs f, rfl⟩, rfl, h2.1, linked_tag h2.1 bs, h2.2⟩

theorem witness_Frames_leave_block : (link upPort).txFault (linkAddr 0 false 3 / 4096) = none := by
  have h : chkGet (link upPort) (linkAddr 0 false 3 / 4096) = mkEntry (link upPort).mem (linkAddr 0 false 3 / 4096) 0 0 :=
    chk_at0 (bs := [linkAddr 0 false 3 / 4096]) rfl (List.mem_singleton.mpr rfl)
  unfold State.txFault
  simp [h, entryValid_mkEntry, entryCrv_mkEntry, entryCvp_mkEntry, entryStep_mkEntry]

theorem witness_Frames_leave :
    ((link upPort).port 0).maySend = true ∧ ((link upPort).port 0).ctl = [] ∧ (link upPort).nextBuffer 0 = some (0, 3)
      ∧ (let c : CtlPacket := ⟨1, 0, 0, .formation⟩
        let s := link { upPort with ctl := [c] }
        (s.port 0).maySend = true ∧ (s.port 0).ctl = [c])
      ∧ (let s : State := { link upPort with lnk := { (link upPort).lnk with held := [] } }
        (s.port 0).maySend = true ∧ (s.port 0).ctl = [] ∧ s.nextBuffer 0 = none)
      ∧ ((link { upPort with owesNak := true }).port 0).owesNak = true ∧ ((link { upPort with resyncs := [(0, 0)] }).port 0).resyncs ≠ [] := by decide +kernel

/-- A hello of the module that port 0 of the pod above leads to, for this end's nonce 0. -/
def hello1 : Hello := ⟨1, 1, 1, 6, [2, 1, 1, 1], 0, fw0.digest, 1, [], 5, 8, [], true⟩

/-- Port 0 in a state, the nonce 8 of this end drawn. -/
def greeting (st : PortSt) : State := { link { Port.zero with st := st, nonce := 8 } with hif := { up.hif with running := some fw0 } }

theorem hello1_passes (st : PortSt) : (greeting st).helloPasses ((greeting st).port 0).nonce { hello1 with ownh := (greeting st).ownHash } = true := by
  have h : (greeting st).hif.running = some fw0 := rfl
  unfold State.helloPasses
  rw [h]
  simp only [hello1, Bool.and_eq_true, decide_eq_true_eq]
  exact ⟨⟨⟨⟨trivial, rfl⟩, trivial⟩, by cases st <;> decide +kernel⟩, trivial⟩

theorem witness_PortKeying :
    (∀ st ∈ [PortSt.keying, .up, .heldOut],
      let s := greeting st
      ((s.port 0).st = .keying ∨ (s.port 0).st = .up ∨ (s.port 0).st = .heldOut) ∧ (s.peer 0).isSome = true ∧ s.sec.sstate ≠ .quarantine
        ∧ s.helloFits 0 hello1 = true ∧ hello1.verifier ≠ 0 ∧ (1 : BitVec 256) ≠ 0 ∧ hello1.sigOk = true
        ∧ s.helloFits 0 { hello1 with id := 2 } = false ∧ s.helloPasses (s.port 0).nonce { hello1 with verifier := 1 } = false
        ∧ (s.port 0).hello = none ∧ (s.port 0).frozen = false)
      ∧ ∀ self ∈ [0, 2], ∀ st ∈ [PortSt.keying, .up],
        let s0 := link { Port.zero with st := st, hello := some hello1, said := some hello1 }
        let s : State := { s0 with lnk := { s0.lnk with self := BitVec.ofNat 16 self } }
        s.peer 0 = some ⟨true, 1, 6⟩ ∧ (s.port 0).hello = some hello1 ∧ (s.port 0).said = some hello1 ∧ (s.port 0).st = st
          ∧ (s.lnk.self.toNat < (1 : W16).toNat ↔ self = 0) := by decide +kernel

theorem witness_PortKeying_epochs : ∀ n ∈ [2 ^ 32 - 1, 2 ^ 32],
    let s := link { upPort with txSeq := n }
    (s.port 0).keys = some keys0 ∧ (keys0.epTx < (s.port 0).txSeq / 2 ^ 32 ↔ n = 2 ^ 32) := by decide +kernel

theorem witness_PortService :
    (∀ st ∈ [PortSt.up, .keying], ((link { Port.zero with st := st }).port 0).st = .up ∨ ((link { Port.zero with st := st }).port 0).st = .keying)
      ∧ ((link { Port.zero with st := .training }).port 0).st = .training ∧ 0 < laneWidth 0x0F ∧ 0 < laneWidth 0x03 ∧ laneWidth 0x05 = 0 ∧ laneWidth 0 = 0
      ∧ (∀ st ∈ [PortSt.up, .down, .lost], let s := link { Port.zero with st := st }
        0 ∉ s.lnk.retQ ∧ s.lnk.retCur ≠ some 0 ∧ (s.port 0).st ≠ .heldOut ∧ ((s.port 0).st = .down → (s.peer 0).isSome = true))
      ∧ (∀ v ∈ [0, 47], ∃ p : PortId, (BitVec.ofNat 32 v : W32).toNat % 64 = p.val ∧ min 47 (BitVec.ofNat 16 v : W16).toNat = p.val)
      ∧ (∀ self ∈ [0, 2], let s0 := link { Port.zero with st := .lost }
        let s : State := { s0 with lnk := { s0.lnk with self := BitVec.ofNat 16 self, retQ := [0], ports := s0.lnk.ports ++ [(1, upPort)] } }
        s.lnk.retCur = none ∧ s.lnk.retQ = [0] ∧ 0 ∉ s.lnk.announced ∧ (s.peer 0).any (fun e => decide (s.lnk.self.toNat < e.peer.toNat) = decide (self = 0)) = true
          ∧ (s.port 0).st ≠ .heldOut ∧ s.mayRetune 0 = true)
      ∧ (let s0 := link { Port.zero with st := .retune }
        let s : State := { s0 with lnk := { s0.lnk with retCur := some 0 } }
        s.lnk.retCur = some 0 ∧ (s.port 0).st = .retune)
      ∧ (∀ st ∈ [PortSt.up, .lost, .heldOut], let s0 := link { Port.zero with st := st }
        let s : State := { s0 with hif := { s0.hif with phase := 4 } }
        s.hif.phase = 4 ∧ s.lnk.formed = false ∧ ∀ p ∈ s.mappedPorts, (s.port p).st = .up ∨ (s.port p).st = .lost ∨ (s.port p).st = .heldOut)
      ∧ up.podIds = [up.lnk.self.toNat] ∧ up.lnk.podFormed = false ∧ up.stp.lost = [] := by decide +kernel

theorem witness_PortService_retune : AcceptsOut (link upPort) (mb 4) := ⟨accepts _ _ (by decide +kernel), by decide +kernel⟩

end Sys2Proof.Tests
end

