-- ==== Sys2Proof/Tests/Witness4.lean ====
section
/-! SUPPORT. For every statement about power, Bellows, the security transitions and the whole module a state and operands that
meet its hypotheses, clause by clause. -/

set_option Elab.async false

namespace Sys2Proof.Tests

open Sys2Proof Sys2Proof.Machine

/-! Power on and off. -/

/-- The module with Bellows as given. -/
def blwUp (b : Blw) : State := { up with blw := b }

/-- Bellows running without input to the die. -/
def standby : State := { State.reset with blw := { Blw.zero with powered := true } }

theorem witness_PowersUp :
    (7200 : Nat) < 7201 ∧ State.reset.blw.powered = false ∧ (∀ v ∈ [2001, 7200], 2000 < v ∧ v ≤ 7200)
      ∧ (∀ e ∈ [(⟨4000, 2500, true⟩ : ColdEnv), ⟨6000, 3000, false⟩], e.vin ≤ 6000 ∧ 4000 ≤ e.vin ∧ 2500 ≤ e.capacity)
      ∧ standby.blw.powered = true ∧ standby.sec.pstate = 4 ∧ standby.nvm.lent = false ∧ standby.blw.lock3 = none
      ∧ (let s : State := { standby with blw := { standby.blw with lock3 := some 0, ms := 60000 } }
        s.blw.powered = true ∧ s.sec.pstate = 4 ∧ s.nvm.lent = false ∧ s.blw.lock3 = some 0 ∧ 0 + 60000 ≤ s.blw.ms
          ∧ s.blw.tj < (s.blw.lim.tj1 : Int) - 2000) := by decide +kernel

theorem witness_PowersUp_boot :
    (let s : State := { standby with sec := { standby.sec with pstate := 0 } };
      s.sec.pstate < 3 ∧ s.rst.dieUp = false ∧ s.rst.cause = 0 ∧ (s.nvm.ctrs.getD 4 0).getLsbD 0 = false)
      ∧ (let s : State := { standby with nvm := { standby.nvm with fac := { standby.nvm.fac with check := seedCheck 3 } } }
        (s.regenerate [4, 3]).isSome = true ∧ s.regenerate [4, 5] = none)
      ∧ (let s : State := { standby with sec := { standby.sec with pstate := 0, seed := some 0 }, rst := { standby.rst with cause := 2 } }
        s.sec.pstate < 3 ∧ s.rst.dieUp = false ∧ s.sec.idOk = true)
      ∧ (∀ e ∈ [(⟨[4, 3], true, true, true, true⟩ : BootEnv), ⟨[4, 3], true, true, false, true⟩], (standby.nvm.pick e).isSome = true)
      ∧ standby.nvm.pick ⟨[4, 3], true, false, false, true⟩ = none := by decide +kernel

theorem witness_PowersDown :
    (∀ p ∈ [0, 2], ({ up with sec := { up.sec with pstate := p } } : State).sec.pstate < 3)
      ∧ (let s : State := { up with sec := { up.sec with pstate := 3, hold := some HoldRec.zero } }; s.sec.pstate = 3 ∧ s.sec.hold = some HoldRec.zero)
      ∧ standby.sec.pstate = 4 ∧ up.sec.pstate < 4 ∧ up.job.st = .none
      ∧ ({ up with sec := { up.sec with sstate := .owned } } : State).sec.sstate = .owned := by decide +kernel

theorem witness_PowerRequests :
    up.rst.dieUp = true ∧ up.sec.pstate < 3 ∧ up.blw.powered = true ∧ (∀ w ∈ [0, 65535], (BitVec.ofNat 32 w : W32).toNat % 65536 = w)
      ∧ (let s := blwUp { up.blw with grant := 100 }; (100 : W32).toNat % 65536 ≤ s.blw.grant ∧ (100 : W32).toNat % 65536 ≤ s.blw.cap) := by
  decide +kernel

/-! Bellows. -/

theorem witness_BellowsPeriods :
    up.blw.powered = true ∧ up.sec.pstate < 3 ∧ min up.blw.preq up.blw.cap ≤ up.blw.grant
      ∧ (let s : State := { up with sec := { up.sec with pstate := 3 } }; 3 ≤ s.sec.pstate ∧ s.blw.powered = true)
      ∧ (∀ d ∈ [8, 64], ∀ pin ∈ [2100, 2101], let s := blwUp { up.blw with duty := d };
          ¬ (s.blw.duty ≤ 8 ∧ s.blw.lim.pPeak < pin) ∨ (s.blw.duty ≤ 8 ∧ s.blw.lim.pPeak < pin ∧ s.blw.inForce 10 = false))
      ∧ (let s := blwUp { up.blw with causes := [1], integ := -10000000, pulses := List.replicate 10 1 }
        1 ≤ s.blw.level ∧ s.blw.steps = true ∧ -10000000 ≤ s.blw.integ ∧ s.blw.integ ≤ 10000000 ∧ s.blw.pulses.length = 10 ∧ s.blw.powered = true)
      ∧ up.blw.pulses.length ≤ 10 := by decide +kernel

/-- Every reading at its limit, or beyond it where that is what brings the cause. -/
def hot : State :=
  blwUp { up.blw with tin := 4000, tout := 6000, flow := 29, vpos := 5000, vcmd := 3999, vbank := 5000 }

theorem witness_BellowsCauses :
    hot.blw.powered = true ∧ hot.sec.pstate < 2 ∧ (hot.blw.lim.tinMax : Int) ≤ hot.blw.tin ∧ hot.blw.tinBad = false
      ∧ (hot.blw.lim.toutMax : Int) ≤ hot.blw.tout ∧ hot.blw.toutBad = false ∧ hot.blw.flow < hot.blw.lim.flowMin ∧ 5000 ≤ hot.blw.vpos
      ∧ hot.blw.adrift = true ∧ hot.blw.ebank < 2500 ∧ hot.blw.ebank < 2300
      ∧ (∀ c ∈ [4, 5, 6, 7, 11, 12, 13, 14], hot.blw.inForce c = false) := by decide +kernel

def scan (vin : Nat) (die : List Int) : Sensors := ⟨vin, 10, 50, 80, 90, die, 10780, 11170, 5000, 9000⟩

theorem witness_BellowsCauses_scan :
    7200 < (scan 7201 []).vin ∧ (scan 7200 (List.replicate 32 2000)).vin ≤ 7200 ∧ up.blw.powered = true ∧ up.sec.pstate ≠ 2
      ∧ (hottest ((scan 5000 (List.replicate 32 11500)).die.take 32)).isSome = true := by decide +kernel

theorem witness_BellowsCauses_clear :
    ∀ c ∈ [BlwCause.tj1, .tj2, .tin, .tout, .flow, .valve, .coolsens, .diesens, .bankLow],
      let s := blwUp { up.blw with causes := [clearCode c], flow := 30, nvalid := 16, vbank := 12000 };
      s.blw.powered = true ∧ s.blw.inForce (clearCode c) = true ∧ s.blw.gone c = true := by decide +kernel

/-! Transitions. -/

theorem witness_Transitions_monitors :
    up.sec.pstate < 3 ∧ up.rst.dieUp = true ∧ up.quarantining = false ∧ up.blw.ramp = false ∧ up.rst.locked = true
      ∧ (let s : State := { up with sec := { up.sec with pstate := 3, hold := some HoldRec.zero } }
        s.sec.pstate = 3 ∧ s.rst.dieUp = true ∧ s.quarantining = false ∧ s.sec.hold = some HoldRec.zero ∧ HoldRec.zero.qcause = 0
          ∧ s.blw.ramp = false ∧ s.rst.locked = true)
      ∧ (let s : State := { up with sec := { up.sec with scrub := true }, rst := { up.rst with busy := true } }; s.sec.scrub = true ∧ s.rst.busy = true)
      ∧ (let s : State := { up with sec := { up.sec with scrub := true, pstate := 3 } }; s.sec.scrub = true ∧ 3 ≤ s.sec.pstate) := by decide +kernel

theorem witness_Transitions_scrub :
    ∀ x ∈ [TransK.release 7, .reclaim 7, .factoryEntry 7, .factoryExit 7, .quarantine 4, .jobScrub, .jobUnload 7, .debugOpen 2],
      let s : State := { up with sec := { up.sec with scrub := true, trans := some x } };
      s.sec.scrub = true ∧ s.rst.dieUp = true ∧ s.rst.busy = false ∧ s.sec.pstate < 3 ∧ s.mm.stalled = [] ∧ s.outq.waiting = [] ∧ s.sec.trans = some x ∧ s.sec.queue = [] := by decide +kernel

theorem witness_Transitions_write :
    ∀ w ∈ [NvmWrite.fence [191], .site ⟨[], [], noLimits, false⟩ 7, .trans (.install [5] 7), .trans (.release 7), .trans (.reclaim 7),
        .trans (.factoryEntry 7), .trans (.factoryExit 7), .trans (.quarantine 4)],
      let s : State := { up with nvm := { up.nvm with writes := [w] } };
      s.nvm.writes = [w] ∧ s.sec.pstate < 3 := by decide +kernel

theorem witness_Transitions_retrain :
    up.rst.dieUp = true ∧ up.sec.pstate < 3
      ∧ (let s : State := { up with job := { Job.zero with st := .loaded }, stp := { Stp.zero with phase := .running } }
        s.atBoundary = false ∧ s.rst.dieUp = true)
      ∧ (let s : State := { up with mm := { MemSt.zero with retrain := some 63 } }
        s.mm.retrain.isSome = true ∧ s.mm.stalled = [] ∧ s.outq.waiting = [] ∧ ∀ k, (s.core k).waitq = [])
      ∧ (let s : State := { up with hif := { up.hif with bar2 := [some 0] },
                                    mm := { MemSt.zero with retrain := some 7, stalled := [.bar2Access 0 none ⟨4, none⟩] } }
        s.mm.retrain.isSome = true ∧ s.hif.perst = false ∧ s.rst.dieUp = true ∧ s.sec.pstate < 2 ∧ s.sec.pcieFrozen = false ∧ s.sec.scrub = false
          ∧ s.outq.waiting = [] ∧ s.mm.stalled = [.bar2Access 0 none ⟨4, none⟩] ∧ (∀ k, (s.core k).waitq = []) ∧ s.sec.trans = none
          ∧ s.bar2Pieces 0 4 = some [(lpBase, 4)] ∧ ∀ x ∈ readBlocks [(lpBase, 4)] false, x ∉ s.mm.poisoned) := by decide +kernel

/-! The whole module. -/

theorem witness_StepRunsFront :
    ({ up with pending := [.tin, .tout] } : State).pending = [.tin, .tout] ∧ up.pending = [] := by decide +kernel

/-- A step from reset, and one on a module with a byte of memory. -/
theorem witness_StepKeepsMemory :
    State.reset.memOk = true ∧ step State.reset = .next State.reset
      ∧ (let s : State := { up with mem := [(0, 5)], pending := [.nvmReq] }; s.memOk = true ∧ ∃ t, step s = .next t) :=
  ⟨by decide +kernel, rfl, by decide +kernel, _, rfl⟩

theorem witness_StepKeepsQueue : ∃ t, step { up with pending := [.nvmReq, .tin] } = .next t := ⟨_, rfl⟩

end Sys2Proof.Tests
end

