-- ==== Sys2Proof/Tests/Commands.lean ====
section
/-! SUPPORT. Tests of single commands beside the engines': loops, synchronisation, memory access, steps, links, the mailbox, the
debug port, registers, power. Each expected value follows from a rule of the spec by hand. -/

set_option Elab.async false

namespace Sys2Proof.Tests

open Sys2Proof Sys2Proof.Machine

/-! Loops and synchronisation (R182-R189). -/

def bare : State := { at0 live [] [] with job := job1, mm := sealed0 }

theorem test_loops :
    after [.setc 0 hd1 4 2, .loop 0 hd1 4 5, .endl 0 hd1] bare (fun t => (t.core 0).loops.map (fun l => (l.latched, l.remain)) = [(2, 1)]) = true
      ∧ after [.setc 0 hd1 4 2, .loop 0 hd1 4 5, .endl 0 hd1, .endl 0 hd1] bare (fun t => (t.core 0).loops = []) = true := by decide +kernel

/-- A count above MAXC is a protocol violation (R183). -/
theorem test_loop_above_maxc : after [.setc 0 hd1 4 6, .loop 0 hd1 4 5] bare (fun t => (t.core 0).frozen) = true := by decide +kernel

theorem test_signal_and_wait :
    after [.signal 0 hd1 5, .commandComplete 0 7] bare (fun t => t.obj 5 = 1 && (t.core 0).inflight.isEmpty) = true
      ∧ after [.wait 0 hd1 ⟨5, 0, 1⟩] bare (fun t => (t.core 0).inflight.map (·.phase) = [.waitObj]) = true
      ∧ after [.wait 0 { hd1 with tag := 8 } ⟨5, 0, 1⟩, .waitSatisfied 0] bare (fun t => (t.core 0).inflight.map (·.phase) = [.waitObj]) = true := by
  decide +kernel

theorem test_commit_and_stepend :
    after [.commit 0 hd1] bare (fun t => (t.core 0).atCommit && (t.core 0).inflight.map (·.phase) = [.waitCommit]) = true
      ∧ after [.stepend 0 hd1, .commandComplete 0 7] bare (fun t => ! (t.core 0).fetching && (t.core 0).ended) = true := by decide +kernel

/-- LDC takes an element of the view; an index beyond it is a violation (R182, R385). -/
theorem test_ldc :
    (st.seen 0 (.ldc 0 hd1 4 6 3)).violation 0 [] (.ldc 0 hd1 4 6 3) = none
      ∧ after [.ldc 0 hd1 4 6 4] st (fun t => (t.core 0).frozen && t.rings.fault.map (fun r => (r.kind, r.detail)) = [(0x0030, 0x20)]) = true := by decide +kernel

/-- A tag in flight twice is told apart by its execution: the first completes first (R138). -/
theorem test_completion_order :
    after [.signal 0 hd1 5, .signal 0 hd1 6, .commandComplete 0 7] bare (fun t => t.obj 5 = 1 && t.obj 6 = 0) = true := by decide +kernel

/-- Bytes of tensor 4 that another stream has written: its release was the second in the attempt. -/
def raced : State := { st with race := { Race.zero with wr := [⟨1, 9, 0, [(4096 * 4, 4)], some 2⟩], rel := 2, adds := [(5, [1, 2])] } }

/-- Another core's write is undefined until a WAIT covers its release (R141, R186): one for the first addition does not, one for
the second does; what the core writes itself is not in doubt. -/
theorem test_racing_read :
    let i : Instr := .vld 0 hd1 (vm 4 0)
    raced.racy 0 [] i = [(4096 * 4, 4)] ∧ (raced.seeWait 0 5 1).racy 0 [] i = [(4096 * 4, 4)] ∧ (raced.seeWait 0 5 2).racy 0 [] i = []
      ∧ { raced with race := { raced.race with wr := [⟨0, 9, 0, [(4096 * 4, 4)], none⟩] } }.racy 0 [] i = [] := by decide +kernel

/-- A command's writes stand on record from its dispatch, released at its completion (R137). -/
theorem test_writes_on_record :
    let i : Instr := .vst 0 hd1 (vm 4 0)
    let t := st.addWr (st.wrOf 0 7 0 [] i)
    t.race.wr.map (fun w => (w.core, w.rel)) = [(0, none)] ∧ (t.release 0 7 0).race.wr.map (fun w => w.rel) = [some 1]
      ∧ (t.release 0 7 1).race.wr.map (fun w => w.rel) = [none] := by decide +kernel

/-! Faults and cores. -/

theorem test_fault_record :
    let s := bare.raise 1 engMxe 0 0 7 [1, 2, 3, 4] 0 9
    after [.faultRecord ⟨none⟩] s (fun t => t.rings.copies.map (fun r => (r.tag, r.seq)) = [(7, 0)] && t.rings.fault.isEmpty) = true := by decide +kernel

theorem test_icache :
    after [.icacheMissFill 0 false] { bare with mm := up.mm } (fun t => (t.core 0).frozen) = true
      ∧ after [.icacheMissFill 0 false] bare (fun t => ! (t.core 0).frozen && cacheSet (t.core 0) (bare.codeLine 0 % 256) = [bare.codeLine 0]) = true := by
  decide +kernel

theorem test_seal_unseal :
    after [.seal 5] bare (fun t => t.isSealed 5 && ! t.isSealed 6) = true ∧ after [.seal 5, .unseal 5] bare (fun t => ! t.isSealed 5) = true := by decide +kernel

theorem test_core_reset : after [.rstCoreGo 3] up (fun t => (t.core 3).fenced && (t.core 3).inReset && t.rst.busy) = true := by decide +kernel

/-! Steps (R189, R302, R303). -/

theorem test_attempt_starts :
    after [.attemptStart] startable (fun t => t.stp.phase = .running && (t.core 0).fetching && ! (t.core 1).fetching) = true := by decide +kernel

theorem test_go :
    after [.outcomeDecide, .outcomeApply ⟨⟨0, 0, outGo, []⟩, 0⟩] (voted 1 (vote0 false false [0])) (fun t => t.stp.phase = .committed && t.stp.s = 0) = true := by
  decide +kernel

/-- An overflow that changes no scale and no grid stops the job with code 1; where a grid exponent rises it is skipped (R216, R217). -/
theorem test_stop_and_skip :
    after [.outcomeDecide, .outcomeApply ⟨⟨0, 0, outStop, []⟩, 0⟩] (voted 1 (vote0 false true [0])) (fun t => t.job.st = .stopped && t.scc.stop = 1) = true
      ∧ after [.outcomeDecide, .outcomeApply ⟨⟨0, 0, outSkip, []⟩, 0⟩] (voted 1 { vote0 false true [0] with layers := [⟨5, 0, 0, true⟩] })
        (fun t => t.stp.a = 1 && t.stp.s = 0 && t.scc.consec = 1) = true := by decide +kernel

theorem test_step_boundary :
    after [.stepBoundary] (inStep .committed { Core.zero with ended := true }) (fun t => t.stp.s = 1 && t.stp.a = 0 && t.stp.phase = .between) = true := by
  decide +kernel

theorem test_watchdog :
    after [.stepWatchdog] (inStep .running { live with inflight := [{ live.entryOf (.wait 0 hd1 ⟨5, 0, 1⟩) with phase := .waitObj, target := 1 }] })
      (fun t => (t.core 0).frozen) = true := by decide +kernel

theorem test_job_load_complete :
    after [.jobLoadComplete] { owned with job := { Job.zero with st := .loading, load := some load1 } }
      (fun t => t.job.st = .loaded && t.isSealed 0 && t.mm.jobKeys.isSome) = true := by decide +kernel

/-! Links (R252, R257, R263, R265). -/

/-- A link frame in order takes its number; one out of order is discarded and owes a NAK. -/
theorem test_frame_order :
    after [.linkFrameReceive 0 (arr 2 []) none] (link upPort) (fun t => ! (t.port 0).owesNak && (t.port 0).rxSeq = 1) = true
      ∧ after [.linkFrameReceive 0 (arrOf { head 2 with seq := 2 } []) none] (link upPort) (fun t => (t.port 0).owesNak && (t.port 0).rxSeq = 0) = true := by
  decide +kernel

/-- The header of R250 with every field at a value of its own, bit by bit. -/
theorem test_frame_word :
    frameWord ⟨2, 5, 0x81, 0x8001, 0xC003, true, true, 4, 0xFE, true, 0x15⟩
      = BitVec.ofNat 64 (2 + 5 * 2 ^ 2 + 0x81 * 2 ^ 5 + 0x8001 * 2 ^ 13 + 0xC003 * 2 ^ 29 + 2 ^ 45 + 2 ^ 46 + 4 * 2 ^ 47 + 0xFE * 2 ^ 50 + 2 ^ 58 + 0x15 * 2 ^ 59) := by
  decide +kernel

theorem test_data_frame_leaves :
    after [.linkFrameSend 0] { link upPort with lnk := { (link upPort).lnk with held := [] } } (fun t => (t.port 0).txSeq = 1) = true := by decide +kernel

theorem test_key_message :
    after [.keyEncapsulation 0 true [5] [6]] (link { Port.zero with st := .keying, hello := some hello1, said := some hello1 })
      (fun t => (t.port 0).st = .keying && (t.port 0).frozen) = true
      ∧ after [.lnkRetuneReq 0] (link upPort) (fun t => t.lnk.retQ = [0]) = true := by decide +kernel

theorem test_lanes :
    after [.laneLockLoss 0 0x03, .linkTrainingComplete 0 0x03] (link upPort) (fun t => (t.port 0).width = 1 && (t.port 0).st = .up) = true := by decide +kernel

/-! The mailbox (R422-R428). -/

/-- The status and detail of the last reply. -/
def lastReply (t : State) : Option (Nat × Nat × Nat) := t.hif.replies.getLast?.map fun r => (r.type, r.status, r.detail)

theorem test_status : after [.status (mb 0)] up (fun t => lastReply t = some (0x0011, stOk, 0)) = true := by decide +kernel

theorem test_sequence_gap : after [.status (mb 0), .status (mb 0)] up (fun t => t.hif.replies.length = 1 && t.sec.pcieFrozen) = true := by decide +kernel

theorem test_unassigned_type : after [.unassignedType (mb 0) 0x0099] up (fun t => lastReply t = some (0x0099, stType, 0)) = true := by decide +kernel

/-- An image in window 0 is loaded by its length; its signature decides (R415, R433). -/
theorem test_fwgo :
    after [.fwgo true none] loadedFw (fun t => t.hif.phase = 3 && t.hif.running.isSome) = true
      ∧ after [.fwgo false none] loadedFw (fun t => t.hif.phase = 6 && t.hif.fwFail = failSig) = true := by decide +kernel

theorem test_hello :
    after [.hello (mb 2) [1, 1]] ran (fun t => t.hif.ver = some (1, 0) && lastReply t = some (0x0001, stOk, 0)) = true := by decide +kernel

theorem test_bar2 :
    after [.bar2Access 8 (some [1, 2]) ⟨0, none⟩, .bar2Access 7 none ⟨3, none⟩] up (fun t => t.hif.rdata = [0, 1, 2]) = true
      ∧ after [.bar2Access (5 * granSize) none ⟨4, none⟩] mapped (fun t => t.sec.pcieFrozen) = true := by decide +kernel

theorem test_park : after [.park (mb 0)] up (fun t => t.sec.pstate = 2 && lastReply t = some (0x0060, stOk, 0)) = true := by decide +kernel

/-! Registers and counters (R470, R478, R479). -/

theorem test_counter_select :
    after [.evcSelWrite (.core 0) 4 0x305, .registerWrite (.core 0 0x4404) 9] up
      (fun t => t.evCnt (.core 0) 4 = ⟨5, true, true, false, 0, 0⟩ && t.reg (.core 0 0x4404) = some 9) = true := by decide +kernel

theorem test_hif_reset : after [.hifReset 0xD0E5] up (fun t => t.rst.cause = 1 && ! t.rst.dieUp) = true ∧ exec (.hifReset 1) up = .next up :=
  ⟨by decide +kernel, rfl⟩

/-! Power (R411, R441, R446-R454). -/

/-- A cold start from a shipped module: standby power, valid input, the PLL's lock. -/
theorem test_cold_start :
    after [.standbyStart 4800, .inputValid ⟨4800, 4000, true⟩, .pllLock ⟨[4, 3], true, true, true, true⟩]
        { State.reset with nvm := { State.reset.nvm with fac := { State.reset.nvm.fac with check := seedCheck 3 } } }
      (fun t => t.sec.pstate = 0 && t.sec.sstate = .open' && t.hif.phase = 1 && t.rst.dieUp && t.blw.switch) = true := by decide +kernel

/-- The hold of the example in chapter 16: SSTATE 2, FLAGS 0x03, S 4,812, A 0 (R374). -/
theorem test_hold_record :
    let s : State := { inStep .running live with stp := { (inStep .running live).stp with s := 4812 }, sec := { owned.sec with dlevel := 1 } }
    after [.inputLoss] s (fun t => t.sec.hold.map (fun r => (r.sstate, r.flags, r.qcause, r.s, r.a)) = some (2, 3, 0, 4812, 0) && t.sec.dlevel = 0 && t.sec.pstate = 3) = true
      ∧ after [.inputLoss, .holdComplete] s (fun t => t.sec.pstate = 4 && let r := SMap.get HoldRec.zero t.nvm.hold 0; (r.sstate, r.flags, r.qcause, r.s, r.a) = (2, 3, 0, 4812, 0)
          && t.nvm.ctrs.getD 4 0 = 1) = true := by decide +kernel

/-- RAMPUP is 500 W a second: half a watt a millisecond (R446). -/
theorem test_grant_ramp :
    let s : State := { up with blw := { up.blw with preq := 1800, preqWas := 1800, grant := 600 } }
    after [.grantTick, .grantTick] s (fun t => t.blw.grant = 601) = true := by decide +kernel

/-- TIN above its limit is level 1: P1 (R451, R369). -/
theorem test_causes :
    after [.tin] hot (fun t => t.sec.pstate = 1 && t.blw.causes = [4]) = true
      ∧ after [.icore] hot (fun t => t.sec.pstate = 3 && t.blw.last3 = 11 && ! t.blw.switch) = true := by decide +kernel

theorem test_monitors : after [.supply] up (fun t => t.quarantining && t.sec.scrub) = true := by decide +kernel

theorem test_over_rating : exec (.standbyStart 7201) State.reset = .fault .overRating := rfl

theorem test_jtag : after [.jtagBypass] up (fun t => t.sec.jtag = .bypass) = true ∧ after [.jtagExtest] up (fun t => t.sec.dbgFrozen) = true := by decide +kernel

end Sys2Proof.Tests
end

