-- ==== Sys2Proof/Tests/Examples.lean ====
section
/-! SUPPORT. The worked examples of the spec: what the shared operations give for the numbers that its chapters work out by
hand. -/

set_option Elab.async false

namespace Sys2Proof.Tests

open Sys2Proof Sys2Proof.Machine

/-! Chapter 02: number formats. -/

/-- The table after R50: RNE at halfway points and at the top of the range. -/
theorem test_convert_rne :
    Fmt.e4m3.convert .rne false (.fin false (23 / 8)) = (0x44, Fl.none) ∧ Fmt.e4m3.convert .rne false (.fin false (3 / 1024)) = (0x02, Fl.none)
      ∧ Fmt.e4m3.convert .rne false (.fin false 456) = (0x7E, Fl.none) ∧ Fmt.e4m3.convert .rne false (.fin false 464) = (0x7E, Fl.mkOvf)
      ∧ Fmt.e4m3.convert .rne true (.fin false 464) = (0x7F, Fl.mkOvf) ∧ Fmt.e5m2.convert .rne false (.fin true 70000) = (0xFB, Fl.mkOvf)
      ∧ Fmt.e5m2.convert .rne true (.fin true 70000) = (0xFC, Fl.mkOvf) ∧ Fmt.e2m1.convert .rne false (.fin false (69 / 10)) = (0x7, Fl.none)
      ∧ Fmt.e2m1.convert .rne true (.fin false 7) = (0x7, Fl.mkOvf) := by decide +kernel

/-- Stochastic rounding of 5.3125 to E5M2 (R51). -/
theorem test_convert_stochastic :
    (Fmt.e5m2.convert (.sr 0xC0000000) false (.fin false (85 / 16))).1 = 0x46
      ∧ (Fmt.e5m2.convert (.sr 0x40000000) false (.fin false (85 / 16))).1 = 0x45 := by decide +kernel

/-- The AUTO block scale of an E4M3 store (R57), and two codes under it. -/
theorem test_auto_block_scale :
    autoBe .e4m3 (3 / 64) = 13 ∧ (Fmt.e4m3.convert .rne false (.fin false 384)).1 = 0x7C ∧ (Fmt.e4m3.convert .rne false (.fin false 88)).1 = 0x6B := by
  decide +kernel

/-- One BF16 block converted to BX16 (R43). -/
theorem test_load_bx16 :
    let vs := [0x4140, 0xBF50, 0x3C81, 0x3A40, 0x3980].map fun c => (Fmt.bf16.decode c).toRat
    toBx16 (vs ++ List.replicate 27 0) = (0x82, [0x6000, -1664, 0x20, 2, 0] ++ List.replicate 27 0) := by decide +kernel

/-! Chapter 03: Tally. -/

/-- The example of R62 to R69: one element in EXACT mode, split eight ways, its words and their sum. -/
theorem test_exact_split :
    let a : Int := 49 * 2 ^ 84
    let t : Int := 2 ^ 54
    let plus := (TEl.zero.add a).add t
    let minus := (TEl.zero.add (-a)).add t
    plus.w = 0x00000000031000000040000000000000#128 ∧ minus.w = 0xFFFFFFFFFCF000000040000000000000#128
      ∧ (plus.add minus.w.toInt).w = 0x00000000000000000080000000000000#128 ∧ (plus.add minus.w.toInt).wrap = 0 := by decide +kernel

/-- The same in CHUNK mode with C = 16: t is lost beside A (R69). -/
theorem test_chunk_split :
    let a : Int := 49 * 2 ^ 84
    let t : Int := 2 ^ 54
    let ps := [a, t, -a, t]
    (chunkFrom 16 true 0 (ps ++ ps ++ ps ++ ps) 0 TEl.zero).w = 0x00000000000000000040000000000000#128
      ∧ (chunkFrom 16 true 0 (ps ++ ps) 0 TEl.zero).w = 0x00000000000000000040000000000000#128
      ∧ (chunkFrom 16 true 0 [a, t] 0 TEl.zero).w.toInt = a := by decide +kernel

/-! Chapter 05: long sums and transcendental functions. -/

/-- The order-free row sum of R122, and the sequential FP32 sum that it differs from. -/
theorem test_long_sum :
    let u := fun (w : W32) => ltUnits (f32 w).toRat
    (ltToF32 (BitVec.ofInt 320 (u 0x4B800000 + u 0x3F800000 + u 0xCB800000)) 0).1 = 0x3F800000
      ∧ fadd (fadd 0x4B800000 0x3F800000) 0xCB800000 = 0 := by decide +kernel

/-- VEXP2 of -0.5 (R126). -/
theorem test_vexp2 : vexp2 0 (f32 0xBF000000) = 0x3F3504F3 := by decide +kernel

/-! Chapter 06: addresses. -/

/-- The column address of the example of R147, and where its check value stands. -/
theorem test_column_address :
    let s : State := { up with mm := { up.mm with colmap := (List.range 192).map fun c => if c = 5 then 17 else c } }
    physOf s 0x2A012380 = some (17 * 0x08000000 + 0x02012380) ∧ regionOf (17 * 0x08000000 + 0x02012380) = .column 17
      ∧ regionOf 0x00008CFE8090 = .columnCheck 17 := by decide +kernel

/-! Chapter 09: scales. -/

def scale0 : MScale := { sh := 1, len := 16, head := 1, tmin := -126, tmax := 127, pinned := false, lexp := some 8, t := -4, hold := 0, hist := [], pend := 0, pendOvf := false, written := false }

/-- One managed E4M3 scale through an overflow and its hold (R212): rise at once, overflow, commit. -/
theorem test_managed_scale :
    let v := fun (w : W32) (o : Bool) => (⟨1, w, o, 0, false⟩ : ScaleVote)
    let m1 := (sccUpdate 64 scale0 (v 0x4134CCCD false) true).1
    let m2 := (sccUpdate 64 m1 (v 0x42700000 true) false).1
    let m3 := (sccUpdate 64 m2 (v 0x42700000 false) true).1
    m1.t = -3 ∧ m2.t = -1 ∧ m2.hold = 64 ∧ m3.t = -1 ∧ m3.hold = 63 := by decide +kernel

/-- The keep mask with p = 0.9 (R51, R224). -/
theorem test_keep_mask :
    let p := (f32 0x3F666666).toRat
    srNat p 0x01234567 = 0 ∧ srNat p 0x199999FF = 0 ∧ srNat p 0x19999A00 = 1 ∧ srNat p 0x80000000 = 1 := by decide +kernel

/-- Two branches of 2^-24 added to 1.0: a VADD chain loses both (R221). -/
theorem test_vadd_chain : fadd (fadd 0x3F800000 0x33800000) 0x33800000 = 0x3F800000 := by decide +kernel

/-! Chapter 10: schedules. -/

/-- LR of the example: knots (0, 0) and (1,000, 2^-10) at step 250 give 2^-12 (R237). -/
theorem test_schedule : schedAt [(0, 0), (1000, 0x3A800000)] 250 = 0x39800000 := by decide +kernel

/-! Chapter 11: link buffers. -/

/-- The decoding example of R255. -/
theorem test_link_address :
    linkPlace 0x008001303000 = (1, true, 3) ∧ linkAddr 1 true 3 = 0x008001303000 := by decide +kernel

/-! Chapter 12: the common grid. -/

def layer8 : GLayer := { layer5 with m := 8, e := -40, emin := -200, emax := 120, hist := [], len := 16 }

/-- E of the example of R279, and the words N it gives (R55). -/
theorem test_grid_words :
    (gridUpdate 64 layer8 ⟨5, 0, 0x3F400000, false⟩ true).1.e = -27
      ∧ ([536870915, -201326588, 12, -805306368, 4, 268435460, -20, 100] : List Int).map
          (fun u => (toGrid 32 .rne (-27) (decide (u < 0)) (u.natAbs * pow2 (-30))).1)
        = [67108864, -25165824, 2, -100663296, 0, 33554432, -2, 12] := by decide +kernel

/-! Chapter 13: the slot table. -/

def pipe8 : Pipe := { man0pipe with nslot := 8, runmax := 5, mbatch := 3, budgets := [65536] }
  where man0pipe : Pipe :=
    { pdim := 0, v := 1, cpmask := 0, repmask := 0, nslot := 1, sloth := 0, runmax := 1, fretry := 1, vto := 1000, mbatch := 1, budgets := [4096] }

/-- The slot table of R294 for micro-batches 12, 13 and 14. -/
theorem test_slot_table :
    (up.slotTable pipe8 ⟨0, 0, [⟨12, 0, 300000⟩, ⟨13, 0, 40000⟩, ⟨14, 0, 70000⟩], [], []⟩).map (fun w => (w.take 7).map (·.toNat))
      = [[12, 0, 65536, 1, 4, 0, 5], [12, 65536, 65536, 0x10000, 3, 0, 5], [12, 131072, 65536, 0x20000, 2, 0, 5],
        [12, 196608, 65536, 0x30000, 1, 0, 5], [12, 262144, 37856, 0x40002, 0, 0, 5], [13, 0, 40000, 3, 5, 5, 1], [14, 0, 65536, 1, 7, 6, 2],
        [14, 65536, 4464, 0x10002, 6, 6, 2]] := by decide +kernel

/-! Chapters 15, 18, 21: addresses, units, register windows. -/

/-- Landing buffer 9 (R350), the units of an output record (R353), and three register addresses (R488). -/
theorem test_addresses :
    landingAt 9 = 0x008009400000 ∧ recUnits 1073741824 = 262145 ∧ csrAddr 0x0F0000113074 = some (.core 17 0x3074)
      ∧ csrAddr 0x0F0000114120 = some (.core 17 0x4120) ∧ csrAddr 0x0F0100125000 = some (.module 0x125000)
      ∧ modBlk 0x125000 = some (.port 37, 0) := by decide +kernel

/-- MXE_GEXP slot 7, word 1, and EVC_CNT4_LO, of C017: each reads the register it names. -/
theorem test_register_windows :
    let c : Core := { Core.zero with gexp := [(7, { GExp.zero with gmax := 9 })], evc := { Evc.zero with cnts := [(4, ⟨1, true, false, false, 77, 0⟩)] } }
    let s : State := { up with cores := [(17, c)] }
    s.reg (.core 17 0x3074) = some 9 ∧ s.reg (.core 17 0x4120) = some 77 := by decide +kernel

/-! Chapter 19: a load step. -/

/-- From 600 W to 1,800 W with factory values (R446, R450): the feed-forward and the move of the valve; the grant's first step. -/
theorem test_load_step :
    let b : Blw := { Blw.zero with powered := true, preq := 600, preqWas := 600, grant := 600, pavg := 600, vcmd := 4333, tj := 8500, tjsens := 1, nvalid := 32 }
    let s : State := { up with blw := b }
    after [.valveControlTick] s (fun t => t.blw.vcmd = 4333) = true
      ∧ after [.blwPreq 1800, .valveControlTick] s (fun t => t.blw.vcmd = 4358 && t.blw.grant = 600) = true := by decide +kernel

end Sys2Proof.Tests
end

