-- ==== Sys2Proof/WellFormed.lean ====
section
/-! DEFINITION. When a command is one that the loader lets through by its own fields (R169-R176, R180, R501): what
depends on descriptors, on the program or on the pod is no part of it. -/

namespace Sys2Proof

/-- A tag a program may carry (R180). -/
def Tag.ok (t : W32) : Bool := t ≠ 0 && decide (t.toNat < 0xFFFF0000)

/-- Header of a command with `n` handle fields (R169, R184): no bit of IXM beyond them. -/
def Hdr.ok (h : Hdr) (n : Nat) : Bool :=
  Tag.ok h.tag && ((List.range 4).all fun f => ! h.ixm.getLsbD f || (decide (f < n)))

/-- At most one source is IMM32 (R114). -/
def VecF.oneImm (c : VecF) : Bool := decide (([c.srca, c.srcb, c.srcc].filter fun s => s.kind = 3).length ≤ 1)

/-- A row or a column of a register (LTADDF, LTRD: R122). -/
def Src.isLine (s : Src) : Bool := s.kind = 1 || s.kind = 2

/-- MMUL (R67, R172, R173, R501). -/
def MmulF.ok (c : MmulF) : Bool := (c.acc = 1 || c.csz = 0) && decide (c.k0.toNat < c.k1.toNat)

/-- EPI (R172, R501). -/
def EpiF.ok (h : Hdr) (c : EpiF) : Bool :=
  c.gmode ≠ 3 && (c.gmode ≠ 2 || h.ixl ≠ 0) && c.hd ≠ 0

/-- MOVE (R158): PERM names each dimension once. -/
def MoveF.ok (c : MoveF) : Bool :=
  ((List.range 6).all fun d => (List.range 6).any fun i => decide (c.perm.toNat / 2 ^ (3 * i) % 8 = d)) && c.src ≠ 0 && c.dst ≠ 0

/-- The mailbox rows take any header; what it says wrong is answered (R423). -/
def wellFormed : Instr → Bool
  | .mmul _ h c => h.ok 3 && c.ok
  | .asweep _ h c => h.ok 3 && decide (c.k0.toNat < c.k1.toNat) && c.hanc ≠ 0
  | .tzero _ h c => h.ok 0 && c.kind ≠ 3 && c.h = 0 && c.hanc = 0
  | .tfill _ h c => h.ok 2 && c.kind ≠ 3 && c.h ≠ 0 && (c.kind = 1 || c.hanc = 0)
  | .taccm _ h c | .tstore _ h c => h.ok 2 && c.kind = 0 && c.h ≠ 0
  | .epi _ h c => h.ok 3 && c.ok h
  | .gpass _ h c => h.ok 3 && c.hg ≠ 0 && c.hsr ≠ 0 && c.hsc ≠ 0
  | .vcmp _ h c => h.ok 0 && decide (c.fn.toNat ≤ 5) && c.oneImm
  | .vcvt _ h c => h.ok 0 && decide (c.fn.toNat ≤ 2)
  | .vrsum _ h c => h.ok 0 && (c.acc = 0 || (c.acc = 2 && c.view = 0))
  | .ltaddf _ h c | .ltrd _ h c => h.ok 0 && c.srca.isLine
  | .vadd _ h c | .vsub _ h c | .vmul _ h c | .vfma _ h c | .vmax _ h c | .vmin _ h c | .vabs _ h c | .vneg _ h c
  | .vsel _ h c | .viadd _ h c | .visub _ h c | .vexp2 _ h c | .vlog2 _ h c | .vrcp _ h c | .vrsqrt _ h c
  | .vtanh _ h c | .verf _ h c | .vrmax _ h c | .vrmin _ h c => h.ok 0 && c.oneImm
  | .ltclr _ h _ | .ltaddt _ h _ => h.ok 0
  | .ltaddm _ h c | .ltst _ h c | .vld _ h c | .vst _ h c => h.ok 1 && c.h ≠ 0
  | .trd _ h _ => h.ok 0
  | .move _ h c => h.ok 2 && c.ok
  | .upd _ h c => h.ok 4 && c.hw ≠ 0 && c.hg ≠ 0 && c.hsr ≠ 0 && c.hsc ≠ 0 && c.hvr ≠ 0 && c.hvc ≠ 0
  | .signal _ h o => h.ok 0 && o ≠ 0
  | .wait _ h c => h.ok 0 && c.obj ≠ 0
  | .loop _ h _ _ | .setc _ h _ _ => h.ok 0
  | .endl _ h | .commit _ h | .stepend _ h => h.ok 0
  | .ldc _ h _ hnd _ => h.ok 1 && hnd ≠ 0
  | .xchg _ h c => h.ok 2 && c.hl ≠ 0 && c.hr ≠ 0
  | .commandDispatch _ t | .commandComplete _ t | .exchangeSerial t | .exchangeStart t => Tag.ok t
  | .evcSelWrite (.core _) n _ | .evcCntLoRead (.core _) n => decide (n < 16)
  | .evcSelWrite .module n _ | .evcCntLoRead .module n => decide (n < 64)
  | .bar2Access off w e => decide (off + (match w with | some b => b.length | none => e.len) ≤ 2 ^ 36)
  | .bar2Map _ first es => decide (first + es.length ≤ 64)
  | _ => true

end Sys2Proof
end

