-- ==== Sys2Proof/Tests/Slice0.lean ====
section
/-! SUPPORT. Tests: well-formedness, each check with a term it refuses, and small runs of single commands whose results follow
from the rules of the spec by hand. -/

set_option Elab.async false

namespace Sys2Proof.Tests

open Sys2Proof Sys2Proof.Machine

/-! Well-formed commands. -/

def hx (t : Nat) (ixm : Nat) : Hdr := { hd1 with tag := BitVec.ofNat 32 t, ixm := BitVec.ofNat 4 ixm }
def mm1 : MmulF := { tile := 3, ovw := true, acc := 0, csz := 0, ta := false, tb := true, ans := false, ha := 2, hb := 3, hanc := 0, k0 := 0, k1 := 32 }
def as1 : AsweepF := { ta := false, tb := true, ha := 10, hb := 11, hanc := 9, k0 := 0, k1 := 32 }
def tl (h hanc : W16) (kind : BitVec 2) : TileMemF := ⟨3, kind, h, hanc⟩
def ep1 : EpiF := ⟨3, false, 4, 0, 0, 0, 0, 5, 0, false, false⟩
def gp1 : GpassF := ⟨17, 12, 13, 5, false, false⟩
def vm1 (h : W16) : VmemF := ⟨0, 2, 1, 0, h, 0, 0⟩
def pm0 : BitVec 18 := 0x2C688
def mv1 : MoveF := ⟨false, 4, 8, pm0, 3⟩
def up1 : UpdF := ⟨0, 4, 0, 17, 8, 12, 13, 14, 15⟩

/-- A command of each shape that passes. -/
theorem test_wellFormed_accepts :
    ([Instr.mmul 0 hd1 mm1, .mmul 0 hd1 { mm1 with acc := 1, csz := 3 }, .asweep 0 hd1 as1, .tzero 0 hd1 (tl 0 0 2), .tfill 0 hd1 (tl 1 9 1),
      .taccm 0 hd1 (tl 1 0 0), .tstore 0 hd1 (tl 1 9 0), .epi 0 hd1 ep1, .epi 0 { hd1 with ixl := 1 } { ep1 with gmode := 2 }, .gpass 0 hd1 gp1,
      .vadd 0 hd1 vec0, .vcmp 0 hd1 { vec0 with fn := 5 }, .vcvt 0 hd1 { vec0 with fn := 2 }, .vrsum 0 hd1 { vec0 with acc := 2 },
      .ltaddf 0 hd1 { vec0 with srca := src 1 0 0 }, .ltaddm 0 hd1 (vm1 5), .vld 0 hd1 (vm1 4), .move 0 hd1 mv1, .upd 0 hd1 up1, .signal 0 hd1 5,
      .wait 0 hd1 ⟨5, 0, 1⟩, .ldc 0 hd1 4 6 0, .xchg 0 hd1 ⟨false, 7, 6, 5, 3⟩, .commit 0 hd1, .commandDispatch 0 7, .evcSelWrite (.core 0) 15 0,
      .evcCntLoRead .module 63, .bar2Access (2 ^ 36 - 1) none ⟨1, none⟩, .bar2Map ⟨1, 0, 0, 7⟩ 63 [0], .commit 0 (hx 1 0), .commit 0 (hx 0xFFFEFFFF 0),
      .vld 0 (hx 7 1) (vm1 4), .gpass 0 (hx 7 7) gp1] : List Instr).all wellFormed = true := by decide +kernel

/-- Tags 0 and from 0xFFFF_0000 on (R180), and bits of IXM beyond the handle fields (R169). -/
theorem test_wellFormed_header :
    ([Instr.commit 0 (hx 0 0), .commit 0 (hx 0xFFFF0000 0), .commit 0 (hx 7 1), .vadd 0 (hx 0 0) vec0, .mmul 0 (hx 7 8) mm1, .vld 0 (hx 7 2) (vm1 4),
      .tfill 0 (hx 7 4) (tl 1 9 1), .tzero 0 (hx 7 1) (tl 0 0 0), .commandDispatch 0 0, .commandComplete 0 0xFFFF0000, .exchangeSerial 0,
      .exchangeStart 0xFFFFFFFF, .ltclr 0 (hx 0 0) vec0, .loop 0 (hx 0 0) 0 1, .endl 0 (hx 7 1), .trd 0 (hx 7 1) ⟨2, 3, 1, 7⟩] : List Instr).any wellFormed
      = false := by decide +kernel

/-- Matrix commands (R67, R73, R172, R501). -/
theorem test_wellFormed_matrix :
    ([Instr.mmul 0 hd1 { mm1 with csz := 1 }, .mmul 0 hd1 { mm1 with k1 := 0 }, .asweep 0 hd1 { as1 with k0 := 32 }, .asweep 0 hd1 { as1 with hanc := 0 },
      .tzero 0 hd1 (tl 0 0 3), .tzero 0 hd1 (tl 1 0 0), .tzero 0 hd1 (tl 0 9 0), .tfill 0 hd1 (tl 1 0 3), .tfill 0 hd1 (tl 0 0 0), .tfill 0 hd1 (tl 1 9 0),
      .taccm 0 hd1 (tl 1 0 1), .tstore 0 hd1 (tl 1 0 2), .taccm 0 hd1 (tl 0 0 0), .tstore 0 hd1 (tl 0 9 0), .epi 0 hd1 { ep1 with gmode := 3 },
      .epi 0 hd1 { ep1 with gmode := 2 }, .epi 0 hd1 { ep1 with hd := 0 }, .gpass 0 hd1 { gp1 with hg := 0 }, .gpass 0 hd1 { gp1 with hsr := 0 },
      .gpass 0 hd1 { gp1 with hsc := 0 }] : List Instr).any wellFormed = false := by decide +kernel

/-- Vector commands (R114, R119, R122, R174). -/
theorem test_wellFormed_vector :
    ([Instr.vcmp 0 hd1 { vec0 with fn := 6 }, .vadd 0 hd1 { vec0 with srca := src 3 0 0 }, .vsel 0 hd1 { vec0 with srcc := src 3 0 0 },
      .vcvt 0 hd1 { vec0 with fn := 3 }, .vrsum 0 hd1 { vec0 with acc := 1 }, .vrsum 0 hd1 { vec0 with acc := 3 }, .vrsum 0 hd1 { vec0 with acc := 2, view := 1 },
      .ltaddf 0 hd1 vec0, .ltrd 0 hd1 { vec0 with srca := src 3 0 0 }, .ltaddm 0 hd1 (vm1 0), .ltst 0 hd1 (vm1 0), .vld 0 hd1 (vm1 0),
      .vst 0 hd1 (vm1 0)] : List Instr).any wellFormed = false := by decide +kernel

/-- The others (R158, R176, R186, R420, R479). -/
theorem test_wellFormed_others :
    ([Instr.move 0 hd1 { mv1 with perm := 0 }, .move 0 hd1 { mv1 with src := 0 }, .move 0 hd1 { mv1 with dst := 0 }, .upd 0 hd1 { up1 with hw := 0 },
      .upd 0 hd1 { up1 with hg := 0 }, .upd 0 hd1 { up1 with hsr := 0 }, .upd 0 hd1 { up1 with hsc := 0 }, .upd 0 hd1 { up1 with hvr := 0 },
      .upd 0 hd1 { up1 with hvc := 0 }, .signal 0 hd1 0, .wait 0 hd1 ⟨0, 0, 1⟩, .ldc 0 hd1 4 0 0, .xchg 0 hd1 ⟨false, 0, 6, 5, 3⟩,
      .xchg 0 hd1 ⟨false, 7, 0, 5, 3⟩, .evcSelWrite (.core 0) 16 0, .evcCntLoRead (.core 0) 16, .evcSelWrite .module 64 0, .evcCntLoRead .module 64,
      .bar2Access (2 ^ 36) none ⟨1, none⟩, .bar2Access (2 ^ 36 - 1) (some [0, 0]) ⟨0, none⟩, .bar2Map ⟨1, 0, 0, 7⟩ 64 [0]] : List Instr).any wellFormed
      = false := by decide +kernel

/-! The vector engine: 3.0 in element (0, 0) of register 0, 1.0 in that of register 1, IMM32 2.0. -/

def vreg1 (w : W32) : VReg := ⟨[(0, ⟨w, 0⟩)], false, false⟩
def vst0 : State := at0 { live with vregs := [(0, vreg1 0x40400000), (1, vreg1 0x3F800000)] } [] []

/-- The first element of VD after a command, in a view. -/
def first (i : Instr) (s : State) (view : BitVec 2) : Option (Nat × Int) :=
  match exec i s with | .next t => let x := t.velem 0 2 view 0 0; some (x.bits, x.wrap) | _ => none

theorem test_vector_arithmetic :
    first (.vadd 0 hd1 vec0) vst0 0 = some (0x40A00000, 0) ∧ first (.vsub 0 hd1 vec0) vst0 0 = some (0x3F800000, 0)
      ∧ first (.vmul 0 hd1 vec0) vst0 0 = some (0x40C00000, 0) ∧ first (.vfma 0 hd1 vec0) vst0 0 = some (0x40E00000, 0)
      ∧ first (.vmax 0 hd1 vec0) vst0 0 = some (0x40400000, 0) ∧ first (.vmin 0 hd1 vec0) vst0 0 = some (0x40000000, 0)
      ∧ first (.vabs 0 hd1 vec0) vst0 0 = some (0x40400000, 0) ∧ first (.vneg 0 hd1 vec0) vst0 0 = some (0xC0400000, 0) := by decide +kernel

/-- SE scales by a power of two (R115). -/
theorem test_vector_scale : first (.vmul 0 hd1 { vec0 with se := 0xFF }) vst0 0 = some (0x40400000, 0) := by decide +kernel

/-- An overflow gives an infinity; a signed zero and a NaN under VMAX (R116, R119). -/
theorem test_vector_edges :
    first (.vmul 0 hd1 { vec0 with imm := 0x7F7FFFFF }) vst0 0 = some (0x7F800000, 0) ∧ fmax 0x80000000 0 = 0 ∧ fmin 0x80000000 0 = 0x80000000
      ∧ fmax 0x7F800001 0x3F800000 = 0x7FC00000 := by decide +kernel

theorem test_vector_compare :
    first (.vcmp 0 hd1 { vec0 with fn := 4 }) vst0 1 = some (1, 0) ∧ first (.vsel 0 hd1 vec0) vst0 0 = some (0x40400000, 0)
      ∧ cmpF32 2 0x40400000 0x40000000 = false ∧ cmpF32 1 0x7FC00000 0x7FC00000 = true ∧ cmpF32 3 0x7FC00000 0x7FC00000 = false := by decide +kernel

/-- VIADD wraps and counts the wrap; VISUB takes it back (R62, R110). -/
theorem test_vector_integer :
    let s := at0 { live with vregs := [(0, vreg1 0x7FFFFFFF), (1, vreg1 0x80000000)] } [] []
    first (.viadd 0 hd1 { vec0 with view := 1, imm := 1 }) s 1 = some (0x80000000, 1)
      ∧ first (.visub 0 hd1 { vec0 with view := 1, srca := src 0 1 0, imm := 1 }) s 1 = some (0x7FFFFFFF, -1) := by decide +kernel

/-- VCVT: 2.5 to 2 and 3.0 to 3, to nearest even, 2^31 saturates; I32 to F32; I32 to I64 (R117). -/
theorem test_vector_convert :
    toI32 (.fin false (5 / 2)) = (2, Fl.none) ∧ toI32 (.fin false (2 ^ 31)) = (2 ^ 31 - 1, Fl.mkOvf)
      ∧ first (.vcvt 0 hd1 vec0) vst0 1 = some (3, 0) ∧ first (.vcvt 0 hd1 { vec0 with fn := 1, view := 1 }) vst0 0 = some (0x4E808000, 0)
      ∧ first (.vcvt 0 hd1 { vec0 with fn := 2, view := 1, srca := src 0 7 0 }) (at0 { live with vregs := [(7, vreg1 0xFFFFFFFE)] } [] []) 2
        = some (2 ^ 64 - 2, 0) := by decide +kernel

/-- Transcendental functions where the exact value is known: 2^3, log2 of 1, 1/2, 1/sqrt 4, tanh and erf of 0 (R126-R130). -/
theorem test_vector_transcendental :
    first (.vexp2 0 hd1 vec0) vst0 0 = some (0x41000000, 0) ∧ vlog2 0 (f32 0x3F800000) = 0 ∧ vrcp 0 (f32 0x40000000) = 0x3F000000
      ∧ vrsqrt 0 (f32 0x40800000) = 0x3F000000 ∧ vtanh 0 (f32 0) = 0 ∧ verf 0 (f32 0) = 0 := by decide +kernel

/-- The sum of the first two elements, its Long Tally register, and the extremes (R119). -/
theorem test_vector_reduce :
    let s := at0 { live with vregs := [(0, ⟨[(0, ⟨0x40400000, 0⟩), (1, ⟨0xBF800000, 0⟩)], false, false⟩)] } [] []
    let c := { vec0 with axis := 3, nm1 := 1 }
    first (.vrsum 0 hd1 c) s 0 = some (0x40000000, 0) ∧ first (.vrmax 0 hd1 c) s 0 = some (0x40400000, 0)
      ∧ first (.vrmin 0 hd1 c) s 0 = some (0xBF800000, 0)
      ∧ after [.vrsum 0 hd1 c] s (fun t => ((t.core 0).ltReg 0 1).w = BitVec.ofNat 320 (2 ^ 150)) = true := by decide +kernel

/-- Long Tally registers: a column is added lane by lane, read back, cleared (R122). -/
theorem test_long_tally :
    let a : Instr := .ltaddf 0 hd1 { vec0 with srca := src 2 0 0 }
    after [a] vst0 (fun t => ((t.core 0).ltReg 0 1).w = BitVec.ofNat 320 (3 * 2 ^ 149)) = true
      ∧ (let s := at0 { live with lt := [(1, ⟨BitVec.ofNat 320 (3 * 2 ^ 149), 1⟩), (5, ⟨BitVec.ofNat 320 (2 ^ 149), 1⟩)] } [] []
        after [.ltaddt 0 hd1 vec0] s (fun t => ((t.core 0).ltReg 0 1).w = BitVec.ofNat 320 (2 ^ 151)) = true
          ∧ after [.ltclr 0 hd1 vec0] s (fun t => (t.core 0).ltReg 1 1 = LtEl.zero) = true
          ∧ first (.ltrd 0 hd1 { vec0 with srca := src 1 0 0 }) s 0 = some (0x40400000, 0)) := by decide +kernel

/-! The matrix engine. -/

/-- Two INT8 operands, 2 × 3 in one place and 1 × 1 in the next: 7 in units of 2^-72 (R60, R67). -/
theorem test_matrix_multiply :
    let m := memWrite (memWrite tmem (4096 * 2) [2, 1]) (4096 * 3) [3, 1]
    let s : State := { at0 live m (List.range' 1 17) with job := job1 }
    ((s.ops2 2 3 false true 0 32).map fun o => (mmulTile o mm1 (fun _ _ => 0) 32 Tile.zero).els.head?.map (fun x => (x.1, x.2.w, x.2.wrap)))
      = some (some (0, 7 * 2 ^ 72, 0)) := by decide +kernel

/-- TZERO, TFILL of a T128 tensor, and TRD of its first word (R82, R113, R172). -/
theorem test_tiles :
    let s := { at0 { live with tiles := [(3, { Tile.zero with sat := true, els := [(5, { TEl.zero with w := 9 })] })] } [] [] with job := job1, mm := sealed0 }
    after [.tzero 0 hd1 (tl 0 0 0)] s (fun t => { (t.core 0).tile 3 with used := [] } = Tile.zero) = true
      ∧ after [.trd 0 hd1 ⟨2, 3, 0, 0⟩] s (fun t => (t.velem 0 2 3 0 5).bits = 9) = true := by decide +kernel


end Sys2Proof.Tests
end

section
/-! The module at reset (O58). -/

namespace Sys2Proof.Machine

open Sys2Proof

/-- An empty memory reads as zero (log 10). -/
@[simp] theorem memLe_nil (lo n : Nat) : memLe [] lo n = 0 := by
  change leNat (memFrom n lo []) = 0
  induction n generalizing lo with
  | zero => rfl
  | succ n ih => simp [memFrom, leNat, memDefault, ih]

theorem State.status_of_mem_nil {s : State} (hm : s.mem = []) (h : W16) : s.status h = Fl.none := by
  simp [State.status, hm, Fl.none, bitAt]

theorem State.core_reset (k : CoreId) : State.reset.core k = Core.zero := rfl

/-- Settles O58: each clause is the value of a field of `State.reset`, whose memory is empty and whose cores are all
at zero. -/
theorem resetState : Obligations.ResetState := by
  unfold Obligations.ResetState
  refine ⟨State.reset_wf, rfl, rfl, rfl, rfl, rfl, rfl, rfl, rfl, rfl, rfl, rfl, rfl, State.core_reset,
    fun _ => ⟨rfl, rfl⟩, State.status_of_mem_nil rfl, fun k b _ => ?_, fun k v => ?_, rfl, fun _ => rfl⟩
  · rw [State.core_reset]
    rfl
  · rw [State.core_reset]
    rfl

end Sys2Proof.Machine
end

section
/-! What every command keeps (O59): `s.Keeps s₀` says that `s` has a memory in canonical form where `s₀` has one, and
the queue of `s₀`. The memory changes only through `memWrite`, `memClear`, `memKeep`, `loadMem` and the copy of a column,
each of which keeps the canonical form, and nothing writes the queue.

There is one lemma for each function of the model that answers a state, in the model's order and under the function's own
name: `Kept.f` where the function answers a state or a pair with one, `OptKeeps.f` and `ResultKeeps.f` where it may answer
none, `OutcomeKeeps.f` where it answers the outcome of a command. A proof follows the function's branches and names, from
the last operation to the first, the lemmas of the operations that the branch performs. -/

set_option Elab.async false

namespace Sys2Proof.Machine

open Sys2Proof

/-- What is kept from `s₀` on of a memory and a queue: the memory's canonical form, and the commands that wait. -/
structure Kept (s₀ : State) (m : List Host.Cell) (q : List Instr) : Prop where
  canonical : Memory.wf s₀.mem = true → Memory.wf m = true
  queue : q = s₀.pending

/-- `s` keeps the canonical form and the queue of `s₀`. -/
abbrev State.Keeps (s s₀ : State) : Prop := Kept s₀ s.mem s.pending

/-- The state that an operation answers, where it answers one. -/
def OptKeeps (o : Option State) (s₀ : State) : Prop := ∀ t ∈ o, t.Keeps s₀

/-- The state among an operation's results, where there are any. -/
def ResultKeeps {α : Type} (o : Option (State × α)) (s₀ : State) : Prop := ∀ r ∈ o, r.1.Keeps s₀

/-- The next state of a command, where it answers one. -/
def OutcomeKeeps (o : Host.Outcome State Fault Refusal) (s₀ : State) : Prop := ∀ t, o = .next t → t.Keeps s₀

section
variable {α β : Type} {s s₀ t : State} {m : List Host.Cell} {q : List Instr}

/-! What the queue and memory primitives keep, and how `Keeps` passes through folds and options. -/

theorem Kept.refl (s : State) : s.Keeps s := ⟨id, rfl⟩

theorem Kept.of_eq (h : s.Keeps s₀) (hm : t.mem = s.mem) (hp : t.pending = s.pending) : t.Keeps s₀ := by
  rw [State.Keeps, hm, hp]; exact h

theorem Kept.fst {a : α} (h : s.Keeps s₀) : (s, a).1.Keeps s₀ := h

theorem Kept.nil (h : Kept s₀ m q) : Kept s₀ [] q := ⟨fun _ => rfl, h.queue⟩

theorem Kept.memWrite {a : Nat} {bs : List Byte} (h : Kept s₀ m q) : Kept s₀ (memWrite m a bs) q :=
  ⟨fun w => memWrite_wf a bs (h.canonical w), h.queue⟩

theorem Kept.memClear {a n : Nat} (h : Kept s₀ m q) : Kept s₀ (memClear m a n) q :=
  ⟨fun w => memClear_wf a n (h.canonical w), h.queue⟩

theorem Kept.memKeep {f : Nat → Bool} (h : Kept s₀ m q) : Kept s₀ (memKeep f m) q :=
  ⟨fun w => memKeep_wf f (h.canonical w), h.queue⟩

theorem Kept.writes {rs : List Run} (h : Kept s₀ m q) : Kept s₀ (rs.foldl (fun m r => Machine.memWrite m r.1 r.2) m) q :=
  ⟨fun w => writes_wf rs (h.canonical w), h.queue⟩

theorem Kept.loadMem {l : Loading} (h : Kept s₀ m q) : Kept s₀ (loadMem m l) q :=
  ⟨fun w => loadMem_wf l (h.canonical w), h.queue⟩

/-- What every step of a fold keeps, the fold keeps. -/
theorem Kept.foldl {f : State → α → State} {xs : List α} (hf : ∀ t a, t.Keeps s₀ → (f t a).Keeps s₀)
    (h : s.Keeps s₀) : (xs.foldl f s).Keeps s₀ :=
  List.foldlRecOn (motive := (State.Keeps · s₀)) xs f h fun t ht a _ => hf t a ht

theorem Kept.ite {c : Prop} [Decidable c] (hs : s.Keeps s₀) (ht : t.Keeps s₀) : State.Keeps (if c then s else t) s₀ := by
  split
  · exact hs
  · exact ht

theorem Kept.getD {o : Option State} (ho : OptKeeps o s₀) (h : s.Keeps s₀) : (o.getD s).Keeps s₀ := by
  cases o with
  | none => exact h
  | some t => exact ho t rfl

theorem Kept.getD_fst {o : Option (State × α)} {r : State × α} (ho : ResultKeeps o s₀) (h : r.1.Keeps s₀) :
    (o.getD r).1.Keeps s₀ := by
  cases o with
  | none => exact h
  | some t => exact ho t rfl

theorem OptKeeps.none : OptKeeps none s₀ := fun _ h => by cases h

theorem OptKeeps.some (h : s.Keeps s₀) : OptKeeps (some s) s₀ := fun _ ht => Option.some.inj ht ▸ h

theorem OptKeeps.map_any {o : Option β} {f : β → State} (hf : ∀ b, (f b).Keeps s₀) : OptKeeps (o.map f) s₀ := by
  intro t ht
  obtain ⟨b, -, rfl⟩ := Option.map_eq_some_iff.mp ht
  exact hf b

theorem OptKeeps.map {o : Option (State × α)} {f : State × α → State} (hf : ∀ r, r.1.Keeps s₀ → (f r).Keeps s₀)
    (h : ResultKeeps o s₀) : OptKeeps (o.map f) s₀ := by
  intro t ht
  obtain ⟨r, hr, rfl⟩ := Option.map_eq_some_iff.mp ht
  exact hf r (h r hr)

theorem OptKeeps.bind {o : Option State} {f : State → Option State} (hf : ∀ t, t.Keeps s₀ → OptKeeps (f t) s₀)
    (h : OptKeeps o s₀) : OptKeeps (o.bind f) s₀ := by
  intro t ht
  obtain ⟨u, hu, hf'⟩ := Option.bind_eq_some_iff.mp ht
  exact hf u (h u hu) t hf'

theorem ResultKeeps.none : ResultKeeps (α := α) none s₀ := fun _ h => by cases h

theorem ResultKeeps.some {a : α} (h : s.Keeps s₀) : ResultKeeps (some (s, a)) s₀ := fun _ hr => Option.some.inj hr ▸ h

theorem ResultKeeps.map_any {o : Option β} {f : β → State × α} (hf : ∀ b, (f b).1.Keeps s₀) :
    ResultKeeps (o.map f) s₀ := by
  intro r hr
  obtain ⟨b, -, rfl⟩ := Option.map_eq_some_iff.mp hr
  exact hf b

theorem ResultKeeps.map {o : Option (State × β)} {f : State × β → State × α}
    (hf : ∀ r, r.1.Keeps s₀ → (f r).1.Keeps s₀) (h : ResultKeeps o s₀) : ResultKeeps (o.map f) s₀ := by
  intro r hr
  obtain ⟨b, hb, rfl⟩ := Option.map_eq_some_iff.mp hr
  exact hf b (h b hb)

theorem OutcomeKeeps.next (h : s.Keeps s₀) : OutcomeKeeps (.next s) s₀ := fun _ e => by cases e; exact h

theorem OutcomeKeeps.fault {r : Fault} : OutcomeKeeps (.fault r) s₀ := fun _ e => by cases e

theorem OutcomeKeeps.ite {c : Prop} [Decidable c] {a b : Host.Outcome State Fault Refusal} (ha : OutcomeKeeps a s₀)
    (hb : OutcomeKeeps b s₀) : OutcomeKeeps (if c then a else b) s₀ := by
  split
  · exact ha
  · exact hb

theorem OutcomeKeeps.answer {o : Option State} (h : OptKeeps o s₀) : OutcomeKeeps (State.answer o) s₀ := by
  cases o with
  | none => exact .fault
  | some t => exact .next (h t rfl)

theorem Kept.setCore {k : CoreId} {c : Core} (h : s.Keeps s₀) : (s.setCore k c).Keeps s₀ := h
end

/-! The operations of the model. -/

section
variable {s s₀ : State}

/-! Writes of runs of bytes, with their check values. -/

theorem Kept.zeroInvalid {bs : List Nat} (h : s.Keeps s₀) : (zeroInvalid s bs).Keeps s₀ :=
  .foldl (fun _ _ hu => .ite (.memClear hu) hu) h

theorem Kept.stampBlocks {cvp : Nat} {bs : List Nat} (h : s.Keeps s₀) : (stampBlocks s cvp bs).Keeps s₀ :=
  .foldl (fun _ _ hu => .ite hu hu) h

theorem Kept.writeRuns {cvp : Nat} {rs : List Run} (h : s.Keeps s₀) : (writeRuns s cvp rs).Keeps s₀ :=
  .stampBlocks (.writes (.zeroInvalid h))

/-! What the commands share: core records, rings, faults, transitions and the tables of the handles. -/

theorem Kept.modCore {k : CoreId} {f : Core → Core} (h : s.Keeps s₀) : (s.modCore k f).Keeps s₀ := h

theorem Kept.log {kind cls : Nat} {payload : List Nat} (h : s.Keeps s₀) : (s.log kind cls payload).Keeps s₀ := h

theorem Kept.mcount {src n : Nat} (h : s.Keeps s₀) : (s.mcount src n).Keeps s₀ := h

theorem Kept.mtrace {kind : Nat} {tag : W32} (h : s.Keeps s₀) : (s.mtrace kind tag).Keeps s₀ :=
  h.of_eq (State.mtrace_mem ..) (State.mtrace_pending ..)

theorem Kept.raise {kind engine : Nat} {core handle : W16} {tag : W32} {iter : List W32} {addr detail : Nat}
    (h : s.Keeps s₀) : (s.raise kind engine core handle tag iter addr detail).Keeps s₀ :=
  h.of_eq (State.raise_mem ..) (State.raise_pending ..)

theorem Kept.vector {v : Nat} (h : s.Keeps s₀) : (s.vector v).Keeps s₀ := h

theorem Kept.postNotes {a : Nat} (h : s.Keeps s₀) : (State.postNotes a s).Keeps s₀ :=
  h.of_eq (State.postNotes_mem ..) (State.postNotes_pending ..)

theorem Kept.notify {code : Nat} {data : List Nat} (h : s.Keeps s₀) : (s.notify code data).Keeps s₀ :=
  h.of_eq (State.notify_mem ..) (State.notify_pending ..)

theorem Kept.setStates {ss : SState} {dl ps : Nat} (h : s.Keeps s₀) : (s.setStates ss dl ps).Keeps s₀ :=
  h.of_eq (State.setStates_mem ..) (State.setStates_pending ..)

theorem Kept.clearMasks (h : s.Keeps s₀) : s.clearMasks.Keeps s₀ := h

theorem Kept.closeD1 (h : s.Keeps s₀) : s.closeD1.Keeps s₀ :=
  .ite (.clearMasks (.setStates h)) h

theorem Kept.stopCores (h : s.Keeps s₀) : s.stopCores.Keeps s₀ := h

theorem Kept.beginTrans {t : TransK} (h : s.Keeps s₀) : (s.beginTrans t).Keeps s₀ :=
  h.of_eq (State.beginTrans_mem ..) (State.beginTrans_pending ..)

theorem Kept.startTrans {t : TransK} (h : s.Keeps s₀) : (s.startTrans t).Keeps s₀ :=
  h.of_eq (State.startTrans_mem ..) (State.startTrans_pending ..)

theorem Kept.quarantine {cause : Nat} (h : s.Keeps s₀) : (s.quarantine cause).Keeps s₀ :=
  h.of_eq (State.quarantine_mem ..) (State.quarantine_pending ..)

theorem Kept.countViol (h : s.Keeps s₀) : s.countViol.Keeps s₀ :=
  h.of_eq (State.countViol_mem ..) (State.countViol_pending ..)

theorem Kept.violateCmd {k : CoreId} {code : Nat} {tag : W32} {iter : List W32} {handle : W16} {addr : Nat}
    (h : s.Keeps s₀) : (s.violateCmd k code tag iter handle addr).Keeps s₀ :=
  h.of_eq (State.violateCmd_mem ..) (State.violateCmd_pending ..)

theorem Kept.macFail {a : Nat} {core : W16} (h : s.Keeps s₀) : (s.macFail a core).Keeps s₀ :=
  h.of_eq (State.macFail_mem ..) (State.macFail_pending ..)

theorem Kept.violateSkd {k : CoreId} {code : Nat} {tag : W32} {iter : List W32} {handle : W16} {addr : Nat}
    (h : s.Keeps s₀) : (s.violateSkd k code tag iter handle addr).Keeps s₀ :=
  h.of_eq (State.violateSkd_mem ..) (State.violateSkd_pending ..)

theorem Kept.setStatus {hd : W16} {f : Fl} (h : s.Keeps s₀) : (s.setStatus hd f).Keeps s₀ :=
  .ite h (.memWrite h)

theorem Kept.raiseAmax {hd : W16} {v : W32} (h : s.Keeps s₀) : (s.raiseAmax hd v).Keeps s₀ :=
  h.of_eq (State.raiseAmax_mem ..) (State.raiseAmax_pending ..)

theorem Kept.bump {o : W16} (h : s.Keeps s₀) : (s.bump o).Keeps s₀ :=
  h.of_eq (State.bump_mem ..) (State.bump_pending ..)

theorem Kept.stampHandle {hd : W16} {whole : Bool} (h : s.Keeps s₀) : (s.stampHandle hd whole).Keeps s₀ :=
  h.of_eq (State.stampHandle_mem ..) (State.stampHandle_pending ..)

theorem Kept.draw (h : s.Keeps s₀) : s.draw.2.Keeps s₀ := h

/-! The effects of the commands of the matrix engine. -/

theorem ResultKeeps.effMmul {k : CoreId} {e : Ent} {hd : Hdr} {c : MmulF}
    (h : s.Keeps s₀) : ResultKeeps (effMmul s k e hd c) s₀ := by
  unfold Machine.effMmul
  extract_lets
  split
  · exact .none
  split
  · exact .none
  · exact .some h

theorem ResultKeeps.effAsweep {e : Ent} {hd : Hdr} {c : AsweepF} (h : s.Keeps s₀) : ResultKeeps (effAsweep s e hd c) s₀ := by
  unfold Machine.effAsweep
  extract_lets
  split
  · exact .none
  split
  · exact .none
  · exact .some (.writeRuns h)

theorem Kept.effTzero {k : CoreId} {c : TileMemF} (h : s.Keeps s₀) : (effTzero s k c).1.Keeps s₀ :=
  .fst (.modCore h)

theorem ResultKeeps.effTfill {k : CoreId} {e : Ent} {hd : Hdr} {c : TileMemF}
    (h : s.Keeps s₀) : ResultKeeps (effTfill s k e hd c) s₀ := by
  unfold Machine.effTfill
  extract_lets
  split
  · exact .none
  · exact .some (.modCore h)

theorem ResultKeeps.effTaccm {k : CoreId} {e : Ent} {hd : Hdr} {c : TileMemF}
    (h : s.Keeps s₀) : ResultKeeps (effTaccm s k e hd c) s₀ := by
  unfold Machine.effTaccm
  extract_lets
  split
  · exact .none
  · exact .some (.modCore h)

theorem ResultKeeps.effTstore {k : CoreId} {e : Ent} {hd : Hdr} {c : TileMemF}
    (h : s.Keeps s₀) : ResultKeeps (effTstore s k e hd c) s₀ := by
  unfold Machine.effTstore
  extract_lets _ _ _ _ _ _ _ s1 _ _ s2
  have h_s1 : s1.Keeps s₀ := .writeRuns h
  have h_s2 : s2.Keeps s₀ := .ite (.writeRuns h_s1) h_s1
  split
  · exact .none
  · exact .some (.modCore h_s2)

theorem Kept.writeStat {hd : W16} {d : Desc} {add : Bool} {vs : List Int} {p : Post}
    (h : s.Keeps s₀) : (s.writeStat hd d add vs p).1.Keeps s₀ :=
  .fst (.writeRuns h)

theorem Kept.stats {hd hsr hsc : W16} {dr dc : Desc} {radd cadd : Bool} {m n : Nat} {ys : List StatEl} {p : Post}
    (h : s.Keeps s₀) : (s.stats hd hsr hsc dr dc radd cadd m n ys p).1.Keeps s₀ :=
  .writeStat (.writeStat h)

theorem Kept.epiConvert {e : Ent} {hd : W16} {d : Desc} {f : Fmt} {vals : List StatEl} {p : Post} (h : s.Keeps s₀) :
    (epiConvert s e hd d f vals p).st.Keeps s₀ := by
  unfold Machine.epiConvert
  extract_lets _ _ s1 _ s2
  have h_s1 : s1.Keeps s₀ := .writeRuns h
  have h_s2 : s2.Keeps s₀ := by
    unfold s2
    split
    · exact h_s1
    · exact .writeRuns h_s1
  exact h_s2

theorem Kept.epiGrid {k : CoreId} {e : Ent} {hd : W16} {d : Desc} {w slot : Nat} {addInto : Bool} {vals : List StatEl} {p : Post}
    (h : s.Keeps s₀) : (epiGrid s k e hd d w slot addInto vals p).st.Keeps s₀ :=
  .writeRuns h

theorem ResultKeeps.effEpi {k : CoreId} {e : Ent} {hd : Hdr} {c : EpiF}
    (h : s.Keeps s₀) : ResultKeeps (effEpi s k e hd c) s₀ := by
  unfold Machine.effEpi
  extract_lets
  split
  · exact .none
  split
  · exact .none
  extract_lets _ _ _ _ out
  have h_out : ∀ o ∈ out, o.st.Keeps s₀ := by
    intro o ho
    unfold out at ho
    split at ho
    · cases ho
      exact .writeRuns h
    split at ho
    · obtain ⟨_, -, rfl⟩ := Option.map_eq_some_iff.mp ho
      exact .epiGrid h
    · cases ho
      exact .epiConvert h
  intro r hr
  obtain ⟨o, ho, rfl⟩ := Option.map_eq_some_iff.mp hr
  refine .fst (.modCore ?_)
  split
  · exact .stats (h_out o ho)
  · exact h_out o ho

theorem ResultKeeps.effGpass {k : CoreId} {e : Ent} {hd : Hdr} {c : GpassF}
    (h : s.Keeps s₀) : ResultKeeps (effGpass s k e hd c) s₀ := by
  unfold Machine.effGpass
  extract_lets
  split
  · split
    · exact .none
    · exact .some (.modCore (.stats h))
  · exact .none

/-! The effects of the commands of the vector engine that reach memory. -/

theorem ResultKeeps.effLtaddm {k : CoreId} {e : Ent} {hd : Hdr} {c : VmemF}
    (h : s.Keeps s₀) : ResultKeeps (effLtaddm s k e hd c) s₀ := by
  unfold Machine.effLtaddm
  extract_lets
  split
  · exact .none
  · exact .some h

theorem ResultKeeps.effLtst {k : CoreId} {e : Ent} {hd : Hdr} {c : VmemF}
    (h : s.Keeps s₀) : ResultKeeps (effLtst s k e hd c) s₀ := by
  unfold Machine.effLtst
  extract_lets
  split
  · exact .none
  · exact .some (.writeRuns h)

theorem ResultKeeps.effVld {k : CoreId} {e : Ent} {hd : Hdr} {c : VmemF}
    (h : s.Keeps s₀) : ResultKeeps (effVld s k e hd c) s₀ := by
  unfold Machine.effVld
  extract_lets
  split
  · exact .none
  split
  · exact .none
  split
  · split
    · exact .none
    · exact .some (.setCore h)
  · split
    · exact .none
    · exact .some (.setCore h)

theorem Kept.vstGrid {e : Ent} {hh : W16} {d : Desc} {w : Nat} {se : Int} {els : List StEl}
    (h : s.Keeps s₀) : (vstGrid s e hh d w se els).1.Keeps s₀ :=
  .fst (.writeRuns h)

theorem ResultKeeps.effVst {k : CoreId} {e : Ent} {hd : Hdr} {c : VmemF}
    (h : s.Keeps s₀) : ResultKeeps (effVst s k e hd c) s₀ := by
  unfold Machine.effVst
  extract_lets
  split
  · exact .none
  split
  · exact .none
  split
  · split
    · exact .none
    split
    · exact .some (.modCore (.vstGrid h))
    · exact .some (.modCore (.fst (.modCore (.ite (.writeRuns h) (.writeRuns (.writeRuns h))))))
  · split
    · exact .none
    · exact .some (.modCore (.fst (.writeRuns h)))

/-! Accesses that race, and the records of writes and waits. -/

theorem Kept.blur {bs : List Span} (h : s.Keeps s₀) : (s.blur bs).Keeps s₀ :=
  .foldl (fun _ _ hu => .memWrite hu) h

theorem Kept.unblur {u : State} {bs ws : List Span} (h : s.Keeps s₀) : (s.unblur u bs ws).Keeps s₀ := by
  unfold State.unblur
  extract_lets _ keep s1
  have h_s1 : s1.Keeps s₀ := List.foldlRecOn (motive := (Kept s₀ · s.pending)) keep _ h fun _ hm _ _ => .memWrite hm
  exact .foldl (fun _ _ ht => ht) h_s1

theorem ResultKeeps.withRaces {α : Type} {k : CoreId} {iter : List W32} {i : Instr} {f : State → Option (State × α)}
    (hf : ∀ t, t.Keeps s₀ → ResultKeeps (f t) s₀) (h : s.Keeps s₀) : ResultKeeps (s.withRaces k iter i f) s₀ := by
  unfold State.withRaces
  extract_lets
  split
  · exact hf _ h
  · exact .map (fun _ hr => .unblur hr) (hf _ (.blur h))

theorem Kept.addWr {ws : List WrRec} (h : s.Keeps s₀) : (s.addWr ws).Keeps s₀ := h

theorem Kept.release {k : CoreId} {tag : W32} {x : Nat} (h : s.Keeps s₀) : (s.release k tag x).Keeps s₀ :=
  h.of_eq (State.release_mem ..) (State.release_pending ..)

theorem Kept.seeWait {k : CoreId} {obj : W16} {target : W32} (h : s.Keeps s₀) : (s.seeWait k obj target).Keeps s₀ := h

/-! Ports, buffers and control packets. -/

theorem Kept.modPort {p : Nat} {f : Port → Port} (h : s.Keeps s₀) : (s.modPort p f).Keeps s₀ := h

theorem Kept.holdTx {bs : List (Nat × Nat)} (h : s.Keeps s₀) : (s.holdTx bs).Keeps s₀ := h

theorem Kept.rxTake {p b : Nat} (h : s.Keeps s₀) : (s.rxTake p b).Keeps s₀ := h

theorem Kept.rxFree {p b : Nat} (h : s.Keeps s₀) : (s.rxFree p b).Keeps s₀ :=
  .modPort h

theorem Kept.holdPorts (h : s.Keeps s₀) : s.holdPorts.Keeps s₀ :=
  .foldl (fun _ _ hu => .modPort hu) h

theorem Kept.forwardTo {pkt : CtlPacket} {b : Nat} (h : s.Keeps s₀) : (s.forwardTo pkt b).Keeps s₀ := by
  unfold State.forwardTo
  extract_lets
  split
  · exact h
  · exact .modPort h

theorem Kept.castTo {pkt : CtlPacket} {b : Nat} (h : s.Keeps s₀) : (s.castTo pkt b).Keeps s₀ :=
  .ite (.forwardTo h) (.ite (.forwardTo h) (.foldl (fun _ _ hu => .forwardTo hu) h))

theorem Kept.sendCtl {dest : W16} {m : CtlMsg} (h : s.Keeps s₀) : (s.sendCtl dest m).Keeps s₀ := by
  unfold State.sendCtl
  extract_lets
  split
  · exact .foldl (fun _ _ hu => .castTo hu) h
  split
  · exact h
  · exact .forwardTo h

/-! MOVE. -/

theorem ResultKeeps.effMove {k : CoreId} {e : Ent} {hd : Hdr} {c : MoveF}
    (h : s.Keeps s₀) : ResultKeeps (effMove s k e hd c) s₀ := by
  unfold Machine.effMove
  extract_lets _ _ _ _ _ _ _ _ s1
  have h_s1 : s1.Keeps s₀ := .writeRuns h
  split
  · exact .none
  · exact .some (.modCore h_s1)

theorem Kept.moveFrees {src dst : W16} (h : s.Keeps s₀) : (s.moveFrees src dst).Keeps s₀ :=
  .holdTx (.foldl (fun _ _ ht => .rxFree (.rxTake ht)) h)

/-! Exchanges. -/

theorem Kept.setXchg {x : Xchg} (h : s.Keeps s₀) : (s.setXchg x).Keeps s₀ := h

theorem ResultKeeps.xTry {x : Xchg} {o : XOp} (h : s.Keeps s₀) : ResultKeeps (s.xTry x o) s₀ := by
  unfold State.xTry
  extract_lets _ _ _ _ s1
  have h_s1 : s1.Keeps s₀ := .holdTx (.writeRuns h)
  split
  · split
    · exact .none
    · exact .some (.modCore h_s1)
  · split
    · exact .none
    split
    · exact .some (.raise (.modCore h))
    · exact .some (.rxFree (.rxTake (.modCore h)))

theorem Kept.xPass {x : Xchg} (h : s.Keeps s₀) : (s.xPass x).1.Keeps s₀ := by
  refine List.foldlRecOn (motive := fun a : State × Xchg × List XOp => a.1.Keeps s₀) x.ops _ h fun a ha o _ => ?_
  split
  · exact ha
  split
  · exact ha
  next r hr => exact ResultKeeps.xTry ha r hr

theorem Kept.xEnt {x : Xchg} {p : Post} (h : s.Keeps s₀) : (s.xEnt x p).Keeps s₀ :=
  .modCore h

theorem Kept.xFinish {x : Xchg} (h : s.Keeps s₀) : (s.xFinish x).Keeps s₀ := by
  unfold State.xFinish
  extract_lets _ _ _ _ _ _ s1
  have h_s1 : s1.Keeps s₀ := .xEnt (.writeRuns h)
  exact .mtrace (.modCore h_s1)

theorem Kept.xAdvance {tag : W32} (h : s.Keeps s₀) : (s.xAdvance tag).Keeps s₀ := by
  unfold State.xAdvance
  split
  · exact h
  · exact .ite h (.ite (.xFinish (.xPass h)) (.setXchg (.xPass h)))

theorem Kept.xAll (h : s.Keeps s₀) : s.xAll.Keeps s₀ :=
  .foldl (fun _ _ hu => .xAdvance hu) h

theorem Kept.xReport {member : Nat} {st : W64} {a tag : W32} {group : List Nat}
    (h : s.Keeps s₀) : (s.xReport member st a tag group).Keeps s₀ :=
  .ite h h

theorem Kept.xSerial {st : W64} {a tag : W32} {group : List Nat} {n : Nat}
    (h : s.Keeps s₀) : (s.xSerial st a tag group n).Keeps s₀ :=
  .ite h h

theorem ResultKeeps.effXchg {k : CoreId} {e : Ent} {hd : Hdr} {c : XchgF}
    (h : s.Keeps s₀) : ResultKeeps (effXchg s k e hd c) s₀ := by
  unfold Machine.effXchg
  extract_lets _ _ _ _ _ _ _ _ _ _ s1
  have h_s1 : s1.Keeps s₀ := .modCore h
  split
  · exact .none
  split
  · split
    · exact .none
    extract_lets _ _ s2 s3
    have h_s3 : s3.Keeps s₀ := .ite (.xReport h_s1) (.sendCtl h_s1)
    split
    · exact .some (.modCore (.writeRuns h_s1))
    · exact .some h_s3
  · split
    · exact .none
    extract_lets _ _ _ s3
    have h_s3 : s3.Keeps s₀ := .ite (.xReport h_s1) (.sendCtl h_s1)
    split
    · exact .some (.modCore (.writeRuns h_s1))
    · exact .some h_s3

theorem OutcomeKeeps.execExchangeSerial {tag : W32} (h : s.Keeps s₀) : OutcomeKeeps (execExchangeSerial tag s) s₀ := by
  unfold Machine.execExchangeSerial
  split
  · exact .next h
  · exact .ite (.next h) (.next (.sendCtl (.xSerial h)))

theorem OutcomeKeeps.execExchangeStart {tag : W32} (h : s.Keeps s₀) : OutcomeKeeps (execExchangeStart tag s) s₀ := by
  unfold Machine.execExchangeStart
  split
  · exact .next h
  split
  · exact .next h
  · exact .ite (.next h) (.next (.xAdvance (.mtrace (.setXchg h))))

/-! Draws of keys. -/

theorem Kept.drawSet (h : s.Keeps s₀) : s.drawSet.2.Keeps s₀ :=
  .draw (.draw (.draw h))

/-! The outgoing queue. -/

theorem Kept.outWrite {u : Nat} {bs : List Byte} (h : s.Keeps s₀) : (s.outWrite u bs).Keeps s₀ := by
  unfold State.outWrite
  extract_lets
  split
  · exact .writes h
  · exact .macFail (.writes h)

theorem Kept.outPlace {n : Nat} (h : s.Keeps s₀) : (State.outPlace n s).Keeps s₀ := by
  induction n generalizing s with
  | zero => exact h
  | succ n ih =>
    unfold State.outPlace
    split
    · exact h
    split
    · exact ih (.vector (.outWrite h))
    · exact h

theorem Kept.outRecord {kind slot : Nat} {handle : W16} {plain : List Byte}
    (h : s.Keeps s₀) : (s.outRecord kind slot handle plain).Keeps s₀ :=
  .outPlace h

theorem Kept.refData {n : Nat} {bs : List Byte} (h : s.Keeps s₀) : (s.refData n bs).Keeps s₀ :=
  .outPlace h

theorem Kept.outView {kind slot : Nat} {handle : W16} {bs : List Byte}
    (h : s.Keeps s₀) : (s.outView kind slot handle bs).Keeps s₀ :=
  .foldl (fun _ _ hu => .outRecord hu) h

theorem Kept.outDrain {tail : Nat} (h : s.Keeps s₀) : (s.outDrain tail).Keeps s₀ :=
  .outPlace h

theorem Kept.capture {p : CapPoint} (h : s.Keeps s₀) : (s.capture p).Keeps s₀ :=
  .outView h

theorem Kept.captures {tag : W32} {iter : List W32} {wrote : List (W16 × Bool)}
    (h : s.Keeps s₀) : (s.captures tag iter wrote).Keeps s₀ :=
  .foldl (fun _ _ hu => .capture hu) h

/-! UPD. -/

theorem ResultKeeps.updRows {k : CoreId} {e : Ent} {hd : Hdr} {c : UpdF} {lo hi : Nat}
    (h : s.Keeps s₀) : ResultKeeps (updRows s k e hd c lo hi) s₀ := by
  unfold Machine.updRows
  extract_lets
  split
  · split
    · exact .none
    split
    · exact .none
    extract_lets _ _ _ _ _ s1 s2 _ s3 s4 s5
    have h_s1 : s1.Keeps s₀ := .writeRuns h
    have h_s2 : s2.Keeps s₀ := .ite h_s1 (.writeRuns h_s1)
    have h_s3 : s3.Keeps s₀ := by
      unfold s3
      split
      · exact .ite (.writeRuns h_s2) (.writeRuns (.writeRuns h_s2))
      · exact h_s2
    have h_s4 : s4.Keeps s₀ := .writeRuns h_s3
    have h_s5 : s5.Keeps s₀ := .ite (.writeRuns h_s4) h_s4
    exact .some (.modCore h_s5)
  · exact .none

theorem ResultKeeps.effUpd {k : CoreId} {e : Ent} {hd : Hdr} {c : UpdF}
    (h : s.Keeps s₀) : ResultKeeps (effUpd s k e hd c) s₀ := by
  unfold Machine.effUpd
  split
  · split
    · exact .none
    · exact .some (.modCore h)
  · exact .updRows h

/-! Issue, dispatch and completion of a command. -/

theorem ResultKeeps.effLdc {k : CoreId} {e : Ent} {hd : Hdr} {creg : Fin 16} {hnd : W16} {idx : W32}
    (h : s.Keeps s₀) : ResultKeeps (effLdc s k e hd creg hnd idx) s₀ := by
  unfold Machine.effLdc
  extract_lets
  split
  · exact .none
  · exact .some (.modCore h)

theorem ResultKeeps.vecDone {k : CoreId} {r : Option Core} (h : s.Keeps s₀) : ResultKeeps (vecDone s k r) s₀ :=
  .map_any (fun _ => .fst (.setCore h))

theorem ResultKeeps.effect {k : CoreId} {e : Ent} (h : s.Keeps s₀) : ResultKeeps (effect s k e) s₀ := by
  unfold Machine.effect
  extract_lets
  split
  any_goals exact .vecDone h
  · exact .effMmul h
  · exact .effAsweep h
  · exact .some (.effTzero h)
  · exact .effTfill h
  · exact .effTaccm h
  · exact .effTstore h
  · exact .effEpi h
  · exact .effGpass h
  · exact .effLtaddm h
  · exact .effLtst h
  · exact .effVld h
  · exact .effVst h
  · exact .effMove h
  · exact .effUpd h
  · exact .some (.modCore (.bump h))
  · exact .effLdc h
  · exact .map (fun _ hu => hu) (.effXchg h)
  · exact .some h
  · exact .some h
  · exact .some h
  · exact .none

theorem Kept.putEnt {k : CoreId} {pre : List Ent} {e : Ent} {post : List Ent}
    (h : s.Keeps s₀) : (s.putEnt k pre e post).Keeps s₀ := h

theorem Kept.cvFail {k : CoreId} {e : Ent} {b : W16 × Nat × Nat} (h : s.Keeps s₀) : (s.cvFail k e b).Keeps s₀ :=
  .raise (.modCore h)

theorem Kept.chkFail {k : CoreId} {e : Ent} {f : ChkFail} (h : s.Keeps s₀) : (s.chkFail k e f).Keeps s₀ := by
  unfold State.chkFail
  extract_lets
  split
  · exact .raise h
  split
  · exact .raise h
  · split <;> exact .raise (.modCore h)

theorem Kept.noteDispatch {k : CoreId} {e : Ent} (h : s.Keeps s₀) : (s.noteDispatch k e).Keeps s₀ := by
  unfold State.noteDispatch
  split
  · exact .modCore h
  · exact .ite (.modCore (.seeWait h)) h
  · exact h

theorem Kept.updHeld {k : CoreId} {e : Ent} {f : ChkFail} (h : s.Keeps s₀) : (s.updHeld k e f).1.Keeps s₀ := by
  unfold State.updHeld
  split
  · split
    · exact h
    · exact .getD_fst (.withRaces (fun _ ht => .updRows ht) h) h
  · exact h

theorem Kept.spoil {x : CoreId × Ent} (h : s.Keeps s₀) : (s.spoil x).Keeps s₀ :=
  .foldl (fun _ _ hu => .ite hu hu) (.blur (.modCore h))

theorem OptKeeps.runEnt {k : CoreId} {pre : List Ent} {e : Ent} {post : List Ent} (h : s.Keeps s₀) :
    OptKeeps (s.runEnt k pre e post) s₀ := by
  unfold State.runEnt
  split
  · refine .some ?_
    split
    · exact .violateSkd (.putEnt h)
    · exact .violateCmd (.putEnt h)
  extract_lets
  split
  · exact .some (.putEnt (.addWr h))
  split
  · exact .some (.cvFail (.putEnt h))
  split
  · exact .some (.cvFail (.putEnt h))
  split
  · exact .some (.chkFail (.putEnt (.addWr (.updHeld h))))
  · refine .map (fun r hr => ?_) (.withRaces (fun _ ht => .effect ht) h)
    exact .noteDispatch (.putEnt (.foldl (fun _ _ ht => .spoil ht) (.addWr hr)))

theorem Kept.started {k : CoreId} {e : Ent} (h : s.Keeps s₀) : (s.started k e).Keeps s₀ := h

theorem OptKeeps.dispatchEnt {k : CoreId} {pre : List Ent} {e : Ent} {post : List Ent}
    (h : s.Keeps s₀) : OptKeeps (s.dispatchEnt k pre e post) s₀ := by
  unfold State.dispatchEnt
  split
  · exact .runEnt (.started h)
  · exact .runEnt (.chkFail (.started h))

theorem Kept.entered {k : CoreId} {i : Instr} (h : s.Keeps s₀) : (s.entered k i).Keeps s₀ := h

theorem OptKeeps.loopEnter {k : CoreId} {i : Instr} {r : Fin 16} {maxc : W32}
    (h : s.Keeps s₀) : OptKeeps (s.loopEnter k i r maxc) s₀ := by
  unfold State.loopEnter
  extract_lets
  split
  · exact .none
  split
  · exact .some (.violateCmd (.setCore h))
  · split <;> exact .some (.setCore h)

theorem OptKeeps.loopEnd {k : CoreId} {i : Instr} (h : s.Keeps s₀) : OptKeeps (s.loopEnd k i) s₀ := by
  unfold State.loopEnd
  extract_lets
  split
  · exact .none
  · split <;> exact .some (.setCore h)

theorem OptKeeps.enter {k : CoreId} {i : Instr} (h : s.Keeps s₀) : OptKeeps (s.enter k i) s₀ := by
  unfold State.enter
  split
  · exact .loopEnter h
  · exact .loopEnd h
  · exact .some (.setCore h)
  extract_lets _ _ s1
  have h_s1 : s1.Keeps s₀ := .entered h
  split
  · exact .dispatchEnt h_s1
  · exact .some h_s1

theorem OptKeeps.issue {k : CoreId} {i : Instr} (h : s.Keeps s₀) : OptKeeps (s.issue k i) s₀ := by
  unfold State.issue
  extract_lets
  split
  · exact .some h
  split
  · exact .some (.setCore h)
  split
  · exact .some (.violateCmd h)
  · exact .enter h

theorem OptKeeps.reissue {k : CoreId} (h : s.Keeps s₀) : OptKeeps (s.reissue k) s₀ :=
  List.foldlRecOn (motive := (OptKeeps · s₀)) (s.core k).waitq _ (.some h) fun _ ho _ _ => .bind (fun _ ht => .issue ht) ho

theorem Kept.applyPost {k : CoreId} {e : Ent} {p : Post} (h : s.Keeps s₀) : (s.applyPost k e p).Keeps s₀ := by
  unfold State.applyPost
  extract_lets s1 s2 s3 s4 s5 s6 s7
  have h_s1 : s1.Keeps s₀ := .foldl (fun _ _ hu => .setStatus hu) h
  have h_s2 : s2.Keeps s₀ := .foldl (fun _ _ hu => .setStatus hu) h_s1
  have h_s3 : s3.Keeps s₀ := .foldl (fun _ _ hu => .raiseAmax hu) h_s2
  have h_s4 : s4.Keeps s₀ := .foldl (fun _ _ hu => .modCore hu) h_s3
  have h_s5 : s5.Keeps s₀ := .foldl (fun _ _ hu => .stampHandle hu) h_s4
  have h_s6 : s6.Keeps s₀ := .bump h_s5
  have h_s7 : s7.Keeps s₀ := by
    unfold s7
    split
    · exact h_s6
    · exact .modCore h_s6
  exact .captures h_s7

theorem Kept.arrivals (h : s.Keeps s₀) : s.arrivals.Keeps s₀ := by
  refine .foldl (fun t k ht => .foldl (fun u n hu => ?_) ht) h
  extract_lets
  split
  · split
    · exact .getD (.runEnt hu) hu
    · exact hu
  · exact hu

theorem Kept.noteComplete {k : CoreId} {e : Ent} (h : s.Keeps s₀) : (s.noteComplete k e).Keeps s₀ := by
  unfold State.noteComplete
  split
  any_goals exact .modCore h
  · exact .arrivals (.moveFrees (.modCore h))
  · exact h

theorem Kept.complete {k : CoreId} {pre : List Ent} {e : Ent} {post : List Ent}
    (h : s.Keeps s₀) : (s.complete k pre e post).Keeps s₀ :=
  .noteComplete (.applyPost (.release (.modCore h)))

theorem OutcomeKeeps.execCommandDispatch {k : CoreId} {tag : W32}
    (h : s.Keeps s₀) : OutcomeKeeps (execCommandDispatch k tag s) s₀ := by
  unfold Machine.execCommandDispatch
  split
  · exact .next h
  · exact .ite (.answer (.dispatchEnt h)) (.next h)

theorem OutcomeKeeps.execCommandComplete {k : CoreId} {tag : W32}
    (h : s.Keeps s₀) : OutcomeKeeps (execCommandComplete k tag s) s₀ := by
  unfold Machine.execCommandComplete
  split
  · exact .next h
  · exact .answer (.reissue (.complete h))

theorem OutcomeKeeps.execWaitSatisfied {k : CoreId} (h : s.Keeps s₀) : OutcomeKeeps (execWaitSatisfied k s) s₀ := by
  unfold Machine.execWaitSatisfied
  split
  · exact .next h
  extract_lets s1
  have h_s1 : s1.Keeps s₀ := by
    unfold s1
    split
    · exact .seeWait h
    · exact h
  exact .next (.modCore (.putEnt h_s1))

/-! Mailbox requests and their replies. -/

theorem Kept.hifIrq {b : BitVec 3} (h : s.Keeps s₀) : (s.hifIrq b).Keeps s₀ :=
  h.of_eq (State.hifIrq_mem ..) (State.hifIrq_pending ..)

theorem Kept.setPhase {p : Nat} (h : s.Keeps s₀) : (s.setPhase p).Keeps s₀ :=
  h.of_eq (State.setPhase_mem ..) (State.setPhase_pending ..)

theorem Kept.byRef {r : Reply} (h : s.Keeps s₀) : (s.byRef r).1.Keeps s₀ := by
  unfold State.byRef
  split
  · exact h
  · exact .fst (.refData h)

theorem Kept.postReply {r : Reply} (h : s.Keeps s₀) : (s.postReply r).Keeps s₀ := by
  rw [State.postReply_eq]
  exact .byRef h

theorem Kept.violatePcie {code addr : Nat} (h : s.Keeps s₀) : (s.violatePcie code addr).Keeps s₀ :=
  .raise h

theorem Kept.request {m : Mb} {type : Nat} {quar : Bool} {f : State → State × Answer}
    (hf : ∀ t, t.Keeps s₀ → (f t).1.Keeps s₀) (h : s.Keeps s₀) : (s.request m type quar f).Keeps s₀ := by
  unfold State.request
  split
  · exact h
  split
  · exact .violatePcie h
  extract_lets _ s1 r
  have h_s1 : s1.Keeps s₀ := .mcount h
  have h_r : r.1.Keeps s₀ := by
    unfold r
    split
    · exact h_s1
    split
    · exact h_s1
    · exact hf _ h_s1
  split
  · exact .postReply h_r
  · exact h_r

theorem Kept.logRefused {type : Nat} {seq : W32} {st : Nat} (h : s.Keeps s₀) : (s.logRefused type seq st).Keeps s₀ :=
  .log h

theorem Kept.ownAnswer {m : Mb} {type : Nat} {a : Answer} (h : s.Keeps s₀) : (s.ownAnswer m type a).1.Keeps s₀ := by
  unfold State.ownAnswer
  split
  · exact .fst (.ite h (.logRefused h))
  · exact h

theorem Kept.ownGate {m : Mb} {type : Nat} {e : Envelope} {f : State → State × Answer}
    (hf : ∀ t, t.Keeps s₀ → (f t).1.Keeps s₀) (h : s.Keeps s₀) : (ownGate m type e f s).1.Keeps s₀ := by
  unfold Machine.ownGate
  split
  · exact .ownAnswer h
  split
  · exact .ownAnswer h
  · exact .ownAnswer (hf _ h)

theorem Kept.parkRequest {m : Mb} {type : Nat} {quar : Bool} {i : Instr} {f : State → State × Answer}
    (hf : ∀ t, t.Keeps s₀ → (f t).1.Keeps s₀) (h : s.Keeps s₀) : (s.parkRequest m type quar i f).Keeps s₀ := by
  refine .request (fun t ht => ?_) h
  split
  · exact ht
  · exact hf t ht

theorem Kept.wait {i : Instr} (h : s.Keeps s₀) : (s.wait i).Keeps s₀ := h

theorem Kept.whenFree {ps : State → List (Nat × Nat)} {i : Instr} {f : State → State × Answer}
    (hf : ∀ t, t.Keeps s₀ → (f t).1.Keeps s₀) (h : s.Keeps s₀) : (whenFree ps i f s).1.Keeps s₀ := by
  unfold Machine.whenFree
  split
  · exact .wait h
  · exact hf _ h

theorem Kept.lateRequest {m : Mb} {type : Nat} {f : State → State × Answer} (hf : ∀ t, t.Keeps s₀ → (f t).1.Keeps s₀)
    (h : s.Keeps s₀) : (s.lateRequest m type f).Keeps s₀ := by
  unfold State.lateRequest
  extract_lets r
  have h_r : r.1.Keeps s₀ := by
    unfold r
    split
    · exact h
    · exact hf _ h
  split
  · exact .postReply h_r
  · exact h_r

/-! The chained record. -/

theorem Kept.record {type : Nat} {payload : List Byte} (h : s.Keeps s₀) : (s.record type payload).Keeps s₀ :=
  h.of_eq (State.record_mem ..) (State.record_pending ..)

theorem Kept.event {code n : Nat} (h : s.Keeps s₀) : (s.event code n).Keeps s₀ :=
  .record h

/-! Fault records and what is done about them. -/

theorem Kept.copyColumn {x f : CoreId} (h : s.Keeps s₀) : (s.copyColumn x f).Keeps s₀ :=
  ⟨fun w => State.copyColumn_wf x f (h.canonical w), h.queue⟩

theorem Kept.copyFaults {x f : CoreId} (h : s.Keeps s₀) : (s.copyFaults x f).Keeps s₀ :=
  .foldl (fun _ _ hu => .raise (.modCore hu)) h

theorem Kept.moveCore {x f : CoreId} (h : s.Keeps s₀) : (s.moveCore x f).Keeps s₀ := by
  unfold State.moveCore
  extract_lets s1
  have h_s1 : s1.Keeps s₀ := .copyColumn (.copyFaults h)
  exact h_s1

theorem Kept.startTests (h : s.Keeps s₀) : s.startTests.Keeps s₀ := by
  unfold State.startTests
  split
  · exact h
  split
  · exact h
  extract_lets
  split
  · exact h
  split
  · exact h
  split
  · exact h
  split
  · exact .moveCore h
  · exact h

theorem Kept.queueTest {k : CoreId} (h : s.Keeps s₀) : (s.queueTest k).Keeps s₀ :=
  .startTests (.ite h h)

theorem Kept.noteFence {x : CoreId} {f l : Option Nat} {write : Bool}
    (h : s.Keeps s₀) : (s.noteFence x f l write).Keeps s₀ := by
  unfold State.noteFence
  extract_lets _ s2
  have h_s2 : s2.Keeps s₀ := .log (.event (.raise h))
  exact .ite h_s2 h_s2

theorem Kept.vecAway {x : CoreId} {f : Option CoreId} (h : s.Keeps s₀) : (s.vecAway x f).Keeps s₀ := h

theorem Kept.testFenced {x : CoreId} (h : s.Keeps s₀) : (s.testFenced x).Keeps s₀ :=
  .ite h (.queueTest h)

theorem Kept.fence {x : CoreId} {write : Bool} (h : s.Keeps s₀) : (s.fence x write).Keeps s₀ := by
  unfold State.fence
  split
  · exact h
  split
  · exact .noteFence (.modCore h)
  extract_lets s1
  have h_s1 : s1.Keeps s₀ := .modCore h
  split
  · exact .testFenced (.noteFence (.vecAway h_s1))
  split
  · exact .noteFence (.vecAway h_s1)
  · exact .testFenced (.noteFence (.vecAway (.moveCore h_s1)))

theorem Kept.stopJob {reason ordinal : Nat} (h : s.Keeps s₀) : (s.stopJob reason ordinal).Keeps s₀ :=
  .ite h (.notify (.stopCores h))

theorem Kept.charge {k : CoreId} {eng : Nat} (h : s.Keeps s₀) : (s.charge k eng).Keeps s₀ :=
  .ite (.fence (.modCore h)) (.modCore h)

theorem Kept.countReexec {k : CoreId} {eng : Nat} (h : s.Keeps s₀) : (s.countReexec k eng).Keeps s₀ :=
  .modCore h

theorem Kept.stepFault (h : s.Keeps s₀) : s.stepFault.Keeps s₀ :=
  h.of_eq (State.stepFault_mem ..) (State.stepFault_pending ..)

theorem ResultKeeps.redone {k : CoreId} {e : Ent} (h : s.Keeps s₀) : ResultKeeps (s.redone k e) s₀ := by
  unfold State.redone
  split
  · split
    · exact .effect h
    · exact .map (fun _ hu => hu) (.updRows h)
  · exact .effect h

theorem Kept.unhold {k : CoreId} {tag : W32} {f : CoreId} (h : s.Keeps s₀) : (s.unhold k tag f).Keeps s₀ := by
  unfold State.unhold
  split
  · exact h
  split
  · exact .modCore h
  split
  · exact .cvFail (.putEnt h)
  split
  · exact h
  next q hq =>
  have h_q : q.1.Keeps s₀ := ResultKeeps.withRaces (fun _ ht => .redone ht) h q hq
  extract_lets _ s1
  have h_s1 : s1.Keeps s₀ := .noteDispatch (.putEnt h_q)
  split
  · exact h_s1
  · exact .modCore h_s1
  · exact h_s1

theorem Kept.moduleLost (h : s.Keeps s₀) : s.moduleLost.Keeps s₀ :=
  .ite h (.stopCores h)

theorem Kept.sign {r : FaultRec} {ops : List W16} {re : Nat} {on : Option CoreId} {fenced : Bool}
    (h : s.Keeps s₀) : (s.sign r ops re on fenced).Keeps s₀ :=
  .ite (.log h) h

theorem Kept.giveUp {eng : Nat} (h : s.Keeps s₀) : (s.giveUp eng).Keeps s₀ :=
  .ite (.moduleLost h) (.stepFault h)

theorem Kept.tryNext {hd : CoreId} {tag : W32} {tried : List CoreId} {eng : Nat} {again : Option ChkFail}
    (h : s.Keeps s₀) : (s.tryNext hd tag tried eng again).1.Keeps s₀ := by
  unfold State.tryNext
  split
  · split
    · exact .fst (.giveUp h)
    extract_lets s1
    have h_s1 : s1.Keeps s₀ := .countReexec h
    split
    · exact .fst (.chkFail (.putEnt h_s1))
    · exact .fst (.unhold h_s1)
  · exact .fst (.giveUp h)

theorem Kept.actMismatch {r : FaultRec} {again : Option ChkFail} (h : s.Keeps s₀) : (s.actMismatch r again).Keeps s₀ := by
  unfold State.actMismatch
  split
  · exact h
  · exact .ite (.sign (.stepFault (.charge h))) (.ite (.sign (.charge h)) (.sign (.tryNext (.charge h))))

theorem Kept.actBlock {r : FaultRec} (h : s.Keeps s₀) : (s.actBlock r).Keeps s₀ := by
  unfold State.actBlock
  extract_lets _ s1
  have h_s1 : s1.Keeps s₀ := .stepFault h
  split
  · split
    · exact .sign h_s1
    · exact .sign (.ite (.fence (.modCore h_s1)) (.modCore h_s1))
  · exact .sign h_s1

theorem Kept.actViolation {r : FaultRec} (h : s.Keeps s₀) : (s.actViolation r).Keeps s₀ := by
  unfold State.actViolation
  split
  · exact h
  extract_lets _ s1 s2
  have h_s1 : s1.Keeps s₀ := .ite (.stepFault h) h
  have h_s2 : s2.Keeps s₀ := by
    unfold s2
    split
    · exact .ite (.fence h_s1) h_s1
    · exact h_s1
  exact .ite (.stopJob h_s2) h_s2

theorem Kept.actRecord {r : FaultRec} {again : Option ChkFail} (h : s.Keeps s₀) : (s.actRecord r again).Keeps s₀ := by
  unfold State.actRecord
  split
  any_goals exact .actMismatch h
  · exact .actBlock h
  · exact .actBlock h
  · exact .actBlock h
  · split
    · exact .sign h
    · exact .sign h
    · exact .actBlock h
  · exact .actViolation h
  · exact .sign h

theorem OutcomeKeeps.execFaultRecord {e : FaultEnv} (h : s.Keeps s₀) : OutcomeKeeps (execFaultRecord e s) s₀ := by
  unfold Machine.execFaultRecord
  split
  · exact .next h
  extract_lets s1 _ _ _ _ _ s3
  have h_s1 : s1.Keeps s₀ := .log (.actRecord h)
  have h_s3 : s3.Keeps s₀ := .notify h_s1
  exact .next (.ite h_s3 (.notify h_s3))

/-! What a core does besides its commands: fetch, reports, traces, event counters, tests. -/

theorem OutcomeKeeps.execIcacheMissFill {k : CoreId} {poison : Bool}
    (h : s.Keeps s₀) : OutcomeKeeps (execIcacheMissFill k poison s) s₀ :=
  .ite (.next h) <|
  .ite (.next h) <|
  .ite (.next (.setCore h)) <|
  .ite (.next (.violateCmd (.setCore h))) <|
  .ite (.next (.macFail (.modCore (.setCore h)))) (.next (.modCore (.setCore h)))

theorem Kept.unsealGranule {g : Nat} (h : s.Keeps s₀) : (s.unsealGranule g).Keeps s₀ :=
  .ite h (.ite h h)

theorem Kept.sealWrite {v : W32} (h : s.Keeps s₀) : (s.sealWrite v).Keeps s₀ :=
  .ite h (.ite (.unsealGranule h) h)

theorem OutcomeKeeps.execSeal {value : W32} (h : s.Keeps s₀) : OutcomeKeeps (execSeal value s) s₀ :=
  .next (.sealWrite h)

theorem OutcomeKeeps.execUnseal {value : W32} (h : s.Keeps s₀) : OutcomeKeeps (execUnseal value s) s₀ :=
  .next (.sealWrite h)

theorem OutcomeKeeps.execUpeRptPop {k : CoreId} (h : s.Keeps s₀) : OutcomeKeeps (execUpeRptPop k s) s₀ :=
  .next (.modCore h)

theorem Kept.takeReports {k : CoreId} (h : s.Keeps s₀) : (s.takeReports k).Keeps s₀ :=
  .modCore h

theorem OutcomeKeeps.execReportFifoRead {k : CoreId} (h : s.Keeps s₀) : OutcomeKeeps (execReportFifoRead k s) s₀ :=
  .ite (.next (.takeReports h)) (.next h)

theorem Kept.traceLost {k : CoreId} (h : s.Keeps s₀) : (s.traceLost k).Keeps s₀ :=
  .ite h (.modCore (.log h))

theorem Kept.moveTrace {k : CoreId} {n : Nat} (h : s.Keeps s₀) : (s.moveTrace k n).Keeps s₀ :=
  .ite (.traceLost h) (.traceLost (.modCore (.log h)))

theorem OutcomeKeeps.execTraceDrain {k : CoreId} (h : s.Keeps s₀) : OutcomeKeeps (execTraceDrain k s) s₀ :=
  .ite (.next (.moveTrace h)) (.answer (.reissue (.moveTrace h)))

theorem Kept.moveTraces (h : s.Keeps s₀) : s.moveTraces.Keeps s₀ :=
  .foldl (fun _ _ hu => .foldl (fun _ _ hu => .moveTrace hu) hu) h

theorem Kept.setEvc {b : EvcBlk} {e : Evc} (h : s.Keeps s₀) : (s.setEvc b e).Keeps s₀ :=
  h.of_eq (State.setEvc_mem ..) (State.setEvc_pending ..)

theorem Kept.setCnt {b : EvcBlk} {n : Nat} {c : EvCnt} (h : s.Keeps s₀) : (s.setCnt b n c).Keeps s₀ :=
  .ite (.setEvc h) h

theorem Kept.selWrite {b : EvcBlk} {n : Nat} {v : W32} (h : s.Keeps s₀) : (s.selWrite b n v).Keeps s₀ :=
  .setCnt h

theorem OutcomeKeeps.execEvcSelWrite {blk : EvcBlk} {n : Nat} {value : W32}
    (h : s.Keeps s₀) : OutcomeKeeps (execEvcSelWrite blk n value s) s₀ :=
  .next (.selWrite h)

theorem Kept.evcZero {b : EvcBlk} (h : s.Keeps s₀) : (s.evcZero b).Keeps s₀ :=
  .setEvc h

theorem OutcomeKeeps.execEvcClear {blk : EvcBlk} (h : s.Keeps s₀) : OutcomeKeeps (execEvcClear blk s) s₀ :=
  .next (.evcZero h)

theorem OutcomeKeeps.execEvcCntLoRead {blk : EvcBlk} {n : Nat}
    (h : s.Keeps s₀) : OutcomeKeeps (execEvcCntLoRead blk n s) s₀ :=
  .next (.setCnt h)

theorem Kept.evcStart (h : s.Keeps s₀) : s.evcStart.Keeps s₀ :=
  .foldl (fun _ _ hu => .modCore hu) h

theorem Kept.coreReset {k : CoreId} (h : s.Keeps s₀) : (s.coreReset k).Keeps s₀ := by
  unfold State.coreReset
  extract_lets _ _ s2
  have h_s2 : s2.Keeps s₀ := .closeD1 (.modCore (.fence (.modCore (.raise h))))
  exact .ite h (.ite (.moduleLost h_s2) h_s2)

theorem Kept.rstCoreWrite {v : W32} (h : s.Keeps s₀) : (s.rstCoreWrite v).Keeps s₀ :=
  .ite h (.ite h (.coreReset h))

theorem OutcomeKeeps.execRstCoreGo {value : W32} (h : s.Keeps s₀) : OutcomeKeeps (execRstCoreGo value s) s₀ :=
  .next (.rstCoreWrite h)

theorem Kept.resynced (h : s.Keeps s₀) : s.resynced.Keeps s₀ :=
  .ite h (.ite (.coreReset h) (.startTests h))

theorem Kept.startRetrain (h : s.Keeps s₀) : s.startRetrain.Keeps s₀ := by
  unfold State.startRetrain
  split
  · exact .ite h h
  · exact h

theorem OutcomeKeeps.execTest {m : Mb} {core : W16} (h : s.Keeps s₀) : OutcomeKeeps (execTest m core s) s₀ := by
  unfold Machine.execTest
  refine .next (.request (fun t ht => ?_) h)
  split
  · exact .fst (.queueTest ht)
  · exact ht

theorem OutcomeKeeps.execInfieldTestDue {k : CoreId} (h : s.Keeps s₀) : OutcomeKeeps (execInfieldTestDue k s) s₀ :=
  .ite (.next h) (.next (.queueTest (.modCore h)))

theorem Kept.tested {k : CoreId} {pass : Bool} (h : s.Keeps s₀) : (s.tested k pass).Keeps s₀ := by
  unfold State.tested
  extract_lets _ s1 s2
  have h_s1 : s1.Keeps s₀ := Kept.memClear h
  have h_s2 : s2.Keeps s₀ := .modCore h_s1
  exact .ite (.ite h_s2 h_s2) (.fence (.modCore (.raise h_s1)))

theorem OutcomeKeeps.execInfieldTestComplete {pass : Bool}
    (h : s.Keeps s₀) : OutcomeKeeps (execInfieldTestComplete pass s) s₀ := by
  unfold Machine.execInfieldTestComplete
  split
  · exact .next h
  · exact .next (.startTests (.tested h))

theorem OutcomeKeeps.execTestPause {k : CoreId} (h : s.Keeps s₀) : OutcomeKeeps (execTestPause k s) s₀ :=
  .ite (.next h) (.next (.ite (.modCore h) (.sendCtl (.modCore h))))

/-! Scrubs and resets. -/

theorem Kept.dropJob (h : s.Keeps s₀) : s.dropJob.Keeps s₀ := by
  unfold State.dropJob
  extract_lets s'
  have h_s' : s'.Keeps s₀ := by
    unfold s'
    split
    · exact .postReply h
    · exact h
  exact h_s'

theorem Kept.jobScrub (h : s.Keeps s₀) : s.jobScrub.Keeps s₀ := by
  unfold State.jobScrub
  extract_lets _ _ _ _ _ _ _ s1
  have h_s1 : s1.Keeps s₀ := Kept.memKeep (f := fun a => ! isSram a && ! s.jobLp a) h
  exact .dropJob h_s1

theorem Kept.fullScrub (h : s.Keeps s₀) : s.fullScrub.Keeps s₀ := by
  unfold State.fullScrub
  extract_lets s1 _ _ fw host
  have h_s1 : s1.Keeps s₀ := .jobScrub h
  have h_fw : fw.2.Keeps s₀ := .drawSet h_s1
  have h_host : host.2.Keeps s₀ := .drawSet h_fw
  exact .nil h_host

theorem Kept.moduleReset {cause : Nat} (h : s.Keeps s₀) : (s.moduleReset cause).Keeps s₀ :=
  .nil h

/-! Transitions of the security state, evidence and the ownership requests. -/

theorem Kept.negotiate {p : Nat} {st : PortSt} (h : s.Keeps s₀) : (s.negotiate p st).Keeps s₀ :=
  .ite (.modPort (.modPort (.draw h))) (.modPort (.draw h))

theorem Kept.rekey (h : s.Keeps s₀) : s.rekey.Keeps s₀ :=
  .foldl (fun _ _ hu => .negotiate hu) h

theorem OutcomeKeeps.execEvidence {m : Mb} {nonce : Digest} (h : s.Keeps s₀) : OutcomeKeeps (execEvidence m nonce s) s₀ := by
  unfold Machine.execEvidence
  refine .next (.request (fun t ht => ?_) h)
  extract_lets
  split <;> exact ht

theorem OutcomeKeeps.execAttgo (h : s.Keeps s₀) : OutcomeKeeps (execAttgo s) s₀ :=
  .ite (.next h) (.ite (.next (.hifIrq h)) (.next (.hifIrq h)))

theorem Kept.transReply {t : TransK} {st : Nat} {p : Payload} (h : s.Keeps s₀) : (s.transReply t st p).Keeps s₀ := by
  unfold State.transReply
  split
  · exact .postReply h
  · exact h

theorem Kept.followTrans {n : Nat} (h : s.Keeps s₀) : (State.followTrans n s).Keeps s₀ := by
  induction n generalizing s with
  | zero => exact h
  | succ n ih =>
    unfold State.followTrans
    extract_lets
    split
    · exact h
    extract_lets s2
    have h_s2 : s2.Keeps s₀ := h
    split
    · exact .beginTrans h_s2
    · refine ih ?_
      split
      · exact .log h_s2
      · exact .transReply h_s2

theorem Kept.parkDue (h : s.Keeps s₀) : s.parkDue.Keeps s₀ :=
  .ite h (.ite h (.setStates h))

theorem Kept.settleStep (h : s.Keeps s₀) : s.settleStep.Keeps s₀ :=
  .ite h (.parkDue (.foldl (fun _ _ hu => .startTrans hu) h))

theorem Kept.endTrans (h : s.Keeps s₀) : s.endTrans.Keeps s₀ :=
  .startRetrain (.ite (.parkDue (.followTrans h)) (.followTrans h))

theorem Kept.logUnload {was : State} {reason : Nat} (h : s.Keeps s₀) : (s.logUnload was reason).Keeps s₀ :=
  .ite h (.log h)

theorem Kept.marchTests (h : s.Keeps s₀) : s.marchTests.Keeps s₀ :=
  .foldl (fun _ _ hu => .queueTest hu) h

theorem Kept.writePart {w : NvmWrite} (h : s.Keeps s₀) : (s.writePart w).Keeps s₀ := h

theorem Kept.dropOwnMsgs (h : s.Keeps s₀) : s.dropOwnMsgs.Keeps s₀ := by
  unfold State.dropOwnMsgs
  refine .foldl (fun t _ ht => ?_) h
  split
  · exact .postReply ht
  · exact ht

theorem Kept.effectTrans {t : TransK} (h : s.Keeps s₀) : (s.effectTrans t).Keeps s₀ := by
  unfold State.effectTrans
  split
  · exact .endTrans (.transReply (.setStates (.rekey h)))
  · exact .endTrans (.transReply (.setStates (.rekey h)))
  · exact .endTrans (.transReply (.setStates (.rekey h)))
  · exact .endTrans (.transReply (.setStates (.rekey h)))
  · exact .moduleReset (.endTrans (.transReply (.setStates h)))
  · exact .endTrans (.dropOwnMsgs (.setStates (.holdPorts h)))
  · exact .endTrans h

theorem OutcomeKeeps.execAuthenticatedWriteComplete
    (h : s.Keeps s₀) : OutcomeKeeps (execAuthenticatedWriteComplete s) s₀ := by
  unfold Machine.execAuthenticatedWriteComplete
  split
  · exact .next h
  split
  · exact .next h
  extract_lets _ s1
  have h_s1 : s1.Keeps s₀ := .writePart h
  split
  · exact .next (.effectTrans h_s1)
  · exact .next (.postReply h_s1)
  · exact .next h_s1

theorem OutcomeKeeps.execInstallNonce {m : Mb} (h : s.Keeps s₀) : OutcomeKeeps (execInstallNonce m s) s₀ := by
  unfold Machine.execInstallNonce
  refine .next (.request (fun t ht => ?_) h)
  split
  · exact ht
  · exact .fst (.draw ht)

theorem Kept.doInstall {m : Mb} {e : Envelope} {c : InstallMsg} (h : s.Keeps s₀) : (doInstall m e c s).1.Keeps s₀ := by
  unfold Machine.doInstall
  split
  · exact .ownAnswer h
  split
  · exact .ownAnswer h
  split
  · exact .ownAnswer h
  · exact .fst (.startTrans h)

theorem OutcomeKeeps.execInstall {m : Mb} {e : Envelope} {c : InstallMsg}
    (h : s.Keeps s₀) : OutcomeKeeps (execInstall m e c s) s₀ :=
  .next (.parkRequest (fun _ ht => .doInstall ht) h)

theorem Kept.doOwnerKey {key : List Byte} (h : s.Keeps s₀) : (doOwnerKey key s).1.Keeps s₀ := by
  unfold Machine.doOwnerKey
  split
  · exact h
  · split <;> exact h

theorem OutcomeKeeps.execOwnerKey {m : Mb} {key : List Byte} (h : s.Keeps s₀) : OutcomeKeeps (execOwnerKey m key s) s₀ :=
  .next (.parkRequest (fun _ ht => .doOwnerKey ht) h)

theorem Kept.unloadFor {t : TransK} (h : s.Keeps s₀) : (s.unloadFor t).Keeps s₀ :=
  .ite (.startTrans h) h

theorem Kept.doRelease {m : Mb} {e : Envelope} (h : s.Keeps s₀) : (doRelease m e s).1.Keeps s₀ := by
  unfold Machine.doRelease
  split
  · exact .ownAnswer h
  split
  · exact .ownAnswer h
  · exact .fst (.unloadFor h)

theorem OutcomeKeeps.execRelease {m : Mb} {e : Envelope} (h : s.Keeps s₀) : OutcomeKeeps (execRelease m e s) s₀ :=
  .next (.parkRequest (fun _ ht => .doRelease ht) h)

theorem Kept.doKeyTable {m : Mb} {c : KeyTableMsg} {poison : Option Nat}
    (h : s.Keeps s₀) : (doKeyTable m c poison s).1.Keeps s₀ := by
  unfold Machine.doKeyTable
  extract_lets
  split
  · exact .ownAnswer h
  split
  · exact .ownAnswer h
  split
  · exact .ownAnswer (.macFail h)
  split
  · exact .ownAnswer h
  split
  · exact .ownAnswer h
  · exact h

theorem Kept.keyTableAt {m : Mb} {c : KeyTableMsg} {poison : Option Nat}
    (h : s.Keeps s₀) : (keyTableAt m c poison s).1.Keeps s₀ :=
  .whenFree (fun _ hu => .doKeyTable hu) h

theorem OutcomeKeeps.execKeyTable {m : Mb} {c : KeyTableMsg} {poison : Option Nat}
    (h : s.Keeps s₀) : OutcomeKeeps (execKeyTable m c poison s) s₀ :=
  .next (.parkRequest (fun _ ht => .keyTableAt ht) h)

theorem Kept.doJobUnload {m : Mb} (h : s.Keeps s₀) : (doJobUnload m s).1.Keeps s₀ := by
  unfold Machine.doJobUnload
  split
  · exact h
  · exact .fst (.unloadFor h)

theorem OutcomeKeeps.execJobUnload {m : Mb} (h : s.Keeps s₀) : OutcomeKeeps (execJobUnload m s) s₀ :=
  .next (.parkRequest (fun _ ht => .doJobUnload ht) h)

/-! Start-up, resets and the hold sequence. -/

theorem Kept.halt {code : Nat} (h : s.Keeps s₀) : (s.halt code).Keeps s₀ :=
  .setPhase h

theorem Kept.readHold {ok : Bool} (h : s.Keeps s₀) : (s.readHold ok).Keeps s₀ := by
  unfold State.readHold
  extract_lets _ _ _ r s1
  split
  · exact h
  have h_s1 : s1.Keeps s₀ := by
    unfold s1
    cases r with
    | none => exact h
    | some x => exact .ite h (.writePart h)
  exact h_s1

theorem Kept.applyPart (h : s.Keeps s₀) : s.applyPart.Keeps s₀ := by
  unfold State.applyPart
  exact .foldl (fun _ _ hu => hu) h

theorem Kept.bootRom {e : BootEnv} (h : s.Keeps s₀) : (s.bootRom e).Keeps s₀ := by
  unfold State.bootRom
  extract_lets
  split
  · exact .halt h
  · exact .halt h
  extract_lets
  split
  · exact .halt h
  · exact .setPhase (.drawSet (.drawSet (.applyPart (.readHold h))))

theorem OutcomeKeeps.execPllLock {e : BootEnv} (h : s.Keeps s₀) : OutcomeKeeps (execPllLock e s) s₀ :=
  .ite (.next h) (.next (.bootRom h))

theorem OutcomeKeeps.execPllLockLoss (h : s.Keeps s₀) : OutcomeKeeps (execPllLockLoss s) s₀ := by
  unfold Machine.execPllLockLoss
  split
  · exact .next h
  split
  · exact .next h
  extract_lets s1
  have h_s1 : s1.Keeps s₀ := .moduleReset h
  exact .next h_s1

theorem OutcomeKeeps.execStandbyStart {vin : Nat} (h : s.Keeps s₀) : OutcomeKeeps (execStandbyStart vin s) s₀ :=
  .ite .fault (.ite (.next h) (.next h))

theorem Kept.blwBank {ok : Bool} (h : s.Keeps s₀) : (s.blwBank ok).Keeps s₀ := by
  unfold State.blwBank
  split
  · exact h
  · exact .ite h h

theorem Kept.coldStart {vin capacity : Nat} {bankOk : Bool} (h : s.Keeps s₀) : (s.coldStart vin capacity bankOk).Keeps s₀ :=
  .ite h (.ite (.blwBank h) (.blwBank h))

theorem OutcomeKeeps.execInputValid {e : ColdEnv} (h : s.Keeps s₀) : OutcomeKeeps (execInputValid e s) s₀ :=
  .ite .fault (.ite (.next h) (.next (.coldStart h)))

theorem Kept.fwFailed {c : Nat} (h : s.Keeps s₀) : (s.fwFailed c).Keeps s₀ :=
  .hifIrq (.halt h)

theorem OutcomeKeeps.execFwgo {sigOk : Bool} {poison : Option Nat}
    (h : s.Keeps s₀) : OutcomeKeeps (execFwgo sigOk poison s) s₀ := by
  unfold Machine.execFwgo
  split
  · exact .next h
  extract_lets s0
  have h_s0 : s0.Keeps s₀ := .setPhase h
  split
  · exact .next (.fwFailed (.macFail h_s0))
  split
  · exact .next (.fwFailed h_s0)
  · exact .next (.setPhase h_s0)

theorem Kept.logHolds (h : s.Keeps s₀) : s.logHolds.Keeps s₀ :=
  .foldl (fun _ _ hu => .log hu) h

theorem Kept.kelgilStart {e : InitEnv} {train : Bool} (h : s.Keeps s₀) : (s.kelgilStart e train).Keeps s₀ := by
  unfold State.kelgilStart
  extract_lets _ s0 _ s1 _ s2 s3 _ _ _ _ _ _ s4 s5
  have h_s0 : s0.Keeps s₀ := by
    unfold s0
    split
    · split
      · exact .macFail h
      · exact h
    · exact h
  have h_s1 : s1.Keeps s₀ := Kept.memKeep (f := fun a => ! isSram a) h_s0
  have h_s2 : s2.Keeps s₀ := .logHolds (.evcStart (.foldl (fun _ _ hu => .modCore hu) h_s1))
  have h_s3 : s3.Keeps s₀ := .foldl (fun _ _ hu => .fence (.raise hu)) h_s2
  have h_s4 : s4.Keeps s₀ := h_s3
  have h_s5 : s5.Keeps s₀ := .ite (.foldl (fun _ _ hu => .modPort hu) h_s4) h_s4
  exact .hifIrq (.setPhase h_s5)

theorem OutcomeKeeps.execHifReset {value : W32} (h : s.Keeps s₀) : OutcomeKeeps (execHifReset value s) s₀ :=
  .ite (.next (.moduleReset h)) (.next h)

theorem OutcomeKeeps.execReset {m : Mb} (h : s.Keeps s₀) : OutcomeKeeps (execReset m s) s₀ :=
  .next (.request (fun _ ht => .fst (.moduleReset ht)) h)

theorem OutcomeKeeps.execRstWdog {value : W32} (h : s.Keeps s₀) : OutcomeKeeps (execRstWdog value s) s₀ :=
  .ite (.next h) (.next h)

theorem OutcomeKeeps.execWdog (h : s.Keeps s₀) : OutcomeKeeps (execWdog s) s₀ :=
  .ite (.next (.moduleReset h)) (.next h)

theorem OutcomeKeeps.execDebugResetRequest (h : s.Keeps s₀) : OutcomeKeeps (execDebugResetRequest s) s₀ :=
  .ite (.next (.moduleReset h)) (.next h)

theorem Kept.detach (h : s.Keeps s₀) : s.detach.Keeps s₀ := h

theorem OutcomeKeeps.execHostInterfaceReset {src : HifReset}
    (h : s.Keeps s₀) : OutcomeKeeps (execHostInterfaceReset src s) s₀ :=
  .next (.closeD1 (.detach h))

theorem Kept.inputLost (h : s.Keeps s₀) : s.inputLost.Keeps s₀ :=
  .ite h (.memKeep (.ite (.jobScrub (.stopCores (.setStates h))) (.stopCores (.setStates h))))

theorem OutcomeKeeps.execInputLoss (h : s.Keeps s₀) : OutcomeKeeps (execInputLoss s) s₀ :=
  .next (.inputLost h)

theorem Kept.dieOff (h : s.Keeps s₀) : s.dieOff.Keeps s₀ := by
  unfold State.dieOff
  extract_lets s1
  have h_s1 : s1.Keeps s₀ := .moduleReset h
  exact h_s1

theorem Kept.standbyGone (h : s.Keeps s₀) : s.standbyGone.Keeps s₀ := h

theorem OutcomeKeeps.execHoldComplete (h : s.Keeps s₀) : OutcomeKeeps (execHoldComplete s) s₀ := by
  unfold Machine.execHoldComplete
  split
  · exact .next h
  extract_lets _ _ _ s1 _ s0 _ s2
  have h_s1 : s1.Keeps s₀ := by
    unfold s1
    split <;> exact h
  have h_s0 : s0.Keeps s₀ := .dieOff h_s1
  have h_s2 : s2.Keeps s₀ := .ite h_s0 h_s0
  exact .next (.ite (.standbyGone h_s2) h_s2)

theorem OutcomeKeeps.execStandbyOff (h : s.Keeps s₀) : OutcomeKeeps (execStandbyOff s) s₀ :=
  .ite (.next (.standbyGone h)) (.next (.inputLost h))

/-! The host interface and debug. -/

theorem Kept.repost (h : s.Keeps s₀) : s.repost.Keeps s₀ :=
  .foldl (fun _ _ hu => .postReply hu) h

theorem OutcomeKeeps.execHello {m : Mb} {body : List Byte} (h : s.Keeps s₀) : OutcomeKeeps (execHello m body s) s₀ := by
  unfold Machine.execHello
  split
  · exact .next h
  split
  · exact .next (.vector h)
  extract_lets s0 _ _ _ _ s2
  have h_s0 : s0.Keeps s₀ := .mcount (.detach h)
  have h_s2 : s2.Keeps s₀ := .repost (.postReply h_s0)
  split
  · exact .next (.vector h_s0)
  · exact .next (.postNotes h_s2)

theorem OutcomeKeeps.execGoodbye {m : Mb} (h : s.Keeps s₀) : OutcomeKeeps (execGoodbye m s) s₀ :=
  .next (.request (fun _ ht => .fst (.detach (.postReply ht))) h)

theorem OutcomeKeeps.execOutqDrain {m : Mb} {tail : W32} (h : s.Keeps s₀) : OutcomeKeeps (execOutqDrain m tail s) s₀ :=
  .next (.request (fun _ ht => .fst (.outDrain ht)) h)

theorem OutcomeKeeps.execHifOutqTailWrite {value : W32} (h : s.Keeps s₀) : OutcomeKeeps (execHifOutqTailWrite value s) s₀ :=
  .ite (.next (.outDrain h)) (.next h)

theorem OutcomeKeeps.execFwStage {m : Mb} {f : FwImage} (h : s.Keeps s₀) : OutcomeKeeps (execFwStage m f s) s₀ := by
  unfold Machine.execFwStage
  refine .next (.request (fun t ht => ?_) h)
  split <;> exact ht

theorem OutcomeKeeps.execFwActivate {m : Mb} (h : s.Keeps s₀) : OutcomeKeeps (execFwActivate m s) s₀ := by
  unfold Machine.execFwActivate
  refine .next (.request (fun t ht => ?_) h)
  split
  · exact ht
  · split <;> exact ht

theorem OutcomeKeeps.execKelgilActivation (h : s.Keeps s₀) : OutcomeKeeps (execKelgilActivation s) s₀ := by
  unfold Machine.execKelgilActivation
  split
  · exact .ite (.next h) (.next (.setPhase (.event h)))
  · exact .next h

theorem OutcomeKeeps.execKelgilInit {e : InitEnv} (h : s.Keeps s₀) : OutcomeKeeps (execKelgilInit e s) s₀ := by
  have h_d : s.detach.Keeps s₀ := .detach h
  unfold Machine.execKelgilInit
  generalize s.detach = d at h_d ⊢
  refine .ite (.next h) (.ite (.next (.hifIrq (.halt h_d))) (.ite (.next (.kelgilStart h)) ?_))
  extract_lets _ _ _ s1 _ _ s2 s3 _ s4
  have h_s2 : s2.Keeps s₀ := Kept.rekey (s := s1) h_d
  have h_s3 : s3.Keeps s₀ := .kelgilStart h_s2
  have h_s4 : s4.Keeps s₀ := .foldl (fun _ _ ht => .postReply ht) (.log h_s3)
  exact .next (.notify h_s4)

theorem OutcomeKeeps.execBlwStage {m : Mb} {f : FwImage} (h : s.Keeps s₀) : OutcomeKeeps (execBlwStage m f s) s₀ := by
  refine .next (.request (fun t ht => ?_) h)
  split
  · exact ht
  · exact ht

theorem Kept.doSiteConfig {m : Mb} {e : Envelope} {c : SiteCfg} (h : s.Keeps s₀) : (doSiteConfig m e c s).1.Keeps s₀ := by
  unfold Machine.doSiteConfig
  split
  · exact h
  split
  · exact .ownAnswer h
  · split <;> exact h

theorem OutcomeKeeps.execSiteConfig {m : Mb} {e : Envelope} {c : SiteCfg}
    (h : s.Keeps s₀) : OutcomeKeeps (execSiteConfig m e c s) s₀ :=
  .next (.parkRequest (fun _ ht => .doSiteConfig ht) h)

theorem OutcomeKeeps.execBar2Map {m : Mb} {first : Nat} {entries : List W16}
    (h : s.Keeps s₀) : OutcomeKeeps (execBar2Map m first entries s) s₀ := by
  unfold Machine.execBar2Map
  refine .next (.request (fun t ht => ?_) h)
  split <;> exact ht

theorem Kept.doRecordRead {entry : W64} {count : W32} (h : s.Keeps s₀) : (doRecordRead entry count s).1.Keeps s₀ := by
  unfold Machine.doRecordRead
  extract_lets
  refine .fst ?_
  split
  · exact .macFail h
  · exact h

theorem Kept.recordReadAt {m : Mb} {entry : W64} {count : W32}
    (h : s.Keeps s₀) : (recordReadAt m entry count s).1.Keeps s₀ :=
  .whenFree (fun _ hu => .doRecordRead hu) h

theorem OutcomeKeeps.execRecordRead {m : Mb} {entry : W64} {count : W32}
    (h : s.Keeps s₀) : OutcomeKeeps (execRecordRead m entry count s) s₀ :=
  .next (.request (fun _ ht => .recordReadAt ht) h)

theorem Kept.barData {bs : List Byte} (h : s.Keeps s₀) : (s.barData bs).Keeps s₀ := h

theorem Kept.bar2 {ps : List (Nat × Nat)} {write : Option (List Byte)} {poison : Option Nat}
    (h : s.Keeps s₀) : (s.bar2 ps write poison).Keeps s₀ := by
  unfold State.bar2
  split
  · exact .macFail (.ite (.barData h) h)
  split
  · exact .barData h
  · exact .writes h

theorem OutcomeKeeps.execBar2Access {off : Nat} {write : Option (List Byte)} {e : BarEnv}
    (h : s.Keeps s₀) : OutcomeKeeps (execBar2Access off write e s) s₀ := by
  unfold Machine.execBar2Access
  extract_lets
  split
  · exact .next h
  split
  · exact .next (.ite (.barData h) h)
  split
  · exact .next (.violatePcie (.ite (.barData h) h))
  · exact .ite (.next (.wait h)) (.next (.bar2 h))

theorem Kept.ackReply {seq : W32} (h : s.Keeps s₀) : (s.ackReply seq).Keeps s₀ :=
  .ite h h

theorem OutcomeKeeps.execReplyAck {seq : W32} (h : s.Keeps s₀) : OutcomeKeeps (execReplyAck seq s) s₀ :=
  .next (.ackReply h)

theorem Kept.ackNote {v : W32} (h : s.Keeps s₀) : (s.ackNote v).Keeps s₀ :=
  .ite h (.postNotes h)

theorem OutcomeKeeps.execNotificationAck {value : W32} (h : s.Keeps s₀) : OutcomeKeeps (execNotificationAck value s) s₀ :=
  .next (.ackNote h)

theorem Kept.violateDebug {code addr : Nat} (h : s.Keeps s₀) : (s.violateDebug code addr).Keeps s₀ :=
  .countViol (.raise h)

theorem Kept.debugReq {via : Option Mb} {f : State → State × Answer} (hf : ∀ t, t.Keeps s₀ → (f t).1.Keeps s₀)
    (h : s.Keeps s₀) : (s.debugReq via f).Keeps s₀ := by
  unfold State.debugReq
  split
  · exact .request hf h
  split
  · exact hf _ h
  · exact h

theorem OutcomeKeeps.execDbgOpen1 {via : Option Mb} (h : s.Keeps s₀) : OutcomeKeeps (execDbgOpen1 via s) s₀ := by
  unfold Machine.execDbgOpen1
  refine .next (.debugReq (fun t ht => ?_) h)
  split
  · exact .fst (.setStates ht)
  · exact ht

theorem OutcomeKeeps.execDebugClose {via : Option Mb} (h : s.Keeps s₀) : OutcomeKeeps (execDebugClose via s) s₀ := by
  unfold Machine.execDebugClose
  refine .next (.debugReq (fun t ht => ?_) h)
  split
  · exact ht
  split
  · exact .fst (.clearMasks (.setStates ht))
  · exact ht

theorem OutcomeKeeps.execDebugNonce {via : Option Mb} (h : s.Keeps s₀) : OutcomeKeeps (execDebugNonce via s) s₀ :=
  .next (.debugReq (fun _ ht => .fst (.draw ht)) h)

theorem OutcomeKeeps.execDebugToken {t : DbgToken} (h : s.Keeps s₀) : OutcomeKeeps (execDebugToken t s) s₀ :=
  .ite (.next h) <| .ite (.next (.violateDebug h)) <| .ite (.next h) <| .ite (.next (.startTrans h)) (.next (.setStates h))

theorem Kept.setHalt {u : DbgUnit} {on : Bool} (h : s.Keeps s₀) : (s.setHalt u on).Keeps s₀ := by
  unfold State.setHalt
  split
  · exact .modCore h
  · exact h

theorem Kept.atLevel {level : Nat} {f : State → State} (hf : ∀ t, t.Keeps s₀ → (f t).Keeps s₀) (h : s.Keeps s₀) :
    (s.atLevel level f).Keeps s₀ := by
  unfold State.atLevel
  split
  · exact h
  split
  · exact .violateDebug h
  · exact hf _ h

theorem OutcomeKeeps.execDebugHalt {u : DbgUnit} (h : s.Keeps s₀) : OutcomeKeeps (execDebugHalt u s) s₀ :=
  .next (.atLevel (fun _ ht => .setHalt ht) h)

theorem OutcomeKeeps.execDebugSingleStep {u : DbgUnit} (h : s.Keeps s₀) : OutcomeKeeps (execDebugSingleStep u s) s₀ := by
  unfold Machine.execDebugSingleStep
  refine .next (.atLevel (fun t ht => ?_) h)
  split
  · exact .modCore ht
  · exact ht

theorem OutcomeKeeps.execDebugResume {u : DbgUnit} (h : s.Keeps s₀) : OutcomeKeeps (execDebugResume u s) s₀ :=
  .next (.atLevel (fun _ ht => .setHalt ht) h)

theorem Kept.jtag {level : Nat} {j : Jtag} (h : s.Keeps s₀) : (s.jtag level j).Keeps s₀ :=
  .atLevel (fun _ hu => hu) h

/-! Votes. -/

theorem Kept.retime (h : s.Keeps s₀) : s.retime.Keeps s₀ :=
  .ite h h

theorem Kept.voteUp (h : s.Keeps s₀) : s.voteUp.Keeps s₀ := by
  unfold State.voteUp
  split
  · exact h
  · exact .ite (.ite h h) (.ite h (.sendCtl h))

theorem Kept.heardVote {src : Nat} {st : W64} {a : W32} {v : Vote} (h : s.Keeps s₀) : (s.heardVote src st a v).Keeps s₀ :=
  .voteUp h

theorem Kept.heardOutcome {st : W64} {a : W32} {code : Nat} {lost : List Nat} {v : Vote}
    (h : s.Keeps s₀) : (s.heardOutcome st a code lost v).Keeps s₀ :=
  .ite h (.ite h h)

theorem Kept.announceAt {st : W64} {a : W32} {code : Nat} {lost : List Nat} {v : Vote}
    (h : s.Keeps s₀) : (s.announceAt st a code lost v).Keeps s₀ :=
  .sendCtl (.heardOutcome h)

theorem Kept.announce {code : Nat} {lost : List Nat} {v : Vote} (h : s.Keeps s₀) : (s.announce code lost v).Keeps s₀ :=
  .announceAt h

theorem Kept.answerLast {who : W16} {st : W64} {a : W32} (h : s.Keeps s₀) : (s.answerLast who st a).Keeps s₀ :=
  .sendCtl h

theorem Kept.closeAsk (h : s.Keeps s₀) : s.closeAsk.Keeps s₀ :=
  .ite h (.ite (.announceAt h) (.ite (.announceAt h) h))

theorem Kept.heardLast {m code : Nat} {v : Option Vote} (h : s.Keeps s₀) : (s.heardLast m code v).Keeps s₀ :=
  .ite h (.closeAsk h)

/-! Scale records, layers and scalars. -/

theorem Kept.putScaleRec {sh : Nat} {t : Int} (h : s.Keeps s₀) : (s.putScaleRec sh t).Keeps s₀ :=
  .memWrite h

theorem Kept.writeScale {sh : Nat} {t : Int} (h : s.Keeps s₀) : (s.writeScale sh t).Keeps s₀ :=
  .putScaleRec h

theorem Kept.stepScale {v : Vote} {committed : Bool} {m : MScale}
    (h : s.Keeps s₀) : (State.stepScale v committed s m).Keeps s₀ :=
  .ite (.log (.ite (.writeScale h) h)) (.ite (.writeScale h) h)

theorem Kept.stepLayer {v : Vote} {committed : Bool} {l : GLayer}
    (h : s.Keeps s₀) : (State.stepLayer v committed s l).Keeps s₀ := by
  unfold State.stepLayer
  extract_lets _ _ _ _ s2
  have h_s2 : s2.Keeps s₀ := by
    unfold s2
    split
    · exact .memWrite h
    · exact h
  exact .ite (.log h_s2) h_s2

theorem Kept.applyVote {v : Vote} {committed : Bool} (h : s.Keeps s₀) : (s.applyVote v committed).Keeps s₀ :=
  .foldl (fun _ _ hu => .stepLayer hu) (.foldl (fun _ _ ht => .stepScale ht) h)

theorem Kept.writeGexp (h : s.Keeps s₀) : s.writeGexp.Keeps s₀ := by
  unfold State.writeGexp
  refine .foldl (fun t _ ht => .foldl (fun t _ ht => ?_) ht) h
  split
  · exact ht
  · exact .modCore ht

theorem Kept.advanceGroup {g : Nat} (h : s.Keeps s₀) : (s.advanceGroup g).Keeps s₀ :=
  .ite h (.memWrite h)

theorem Kept.coreScalars {k : CoreId} (h : s.Keeps s₀) : (s.coreScalars k).Keeps s₀ := by
  unfold State.coreScalars
  split
  · exact .foldl (fun _ _ hu => .modCore hu) (.foldl (fun _ _ ht => .modCore ht) h)
  · exact h

theorem Kept.commitScalars (h : s.Keeps s₀) : s.commitScalars.Keeps s₀ :=
  .foldl (fun _ _ hu => .coreScalars hu) (.foldl (fun _ _ ht => .advanceGroup ht) h)

theorem Kept.writeSlots {p : Pipe} {t : TokMan} (h : s.Keeps s₀) : (s.writeSlots p t).Keeps s₀ :=
  .ite h (.stampHandle (.writeRuns h))

/-! Loading a job. -/

theorem Kept.doJobLoad {m : Mb} {e : Envelope} {body : List Byte} {poison : Option Nat}
    (h : s.Keeps s₀) : (doJobLoad m e body poison s).1.Keeps s₀ := by
  unfold Machine.doJobLoad
  split
  · exact .ownAnswer h
  split
  · exact .ownAnswer h
  split
  · exact .ownAnswer h
  split
  · exact .ownAnswer (.macFail h)
  split
  · exact .ownAnswer h
  · exact .ownAnswer h
  · exact h

theorem Kept.jobLoadAt {m : Mb} {e : Envelope} {body : List Byte} {poison : Option Nat}
    (h : s.Keeps s₀) : (jobLoadAt m e body poison s).1.Keeps s₀ :=
  .whenFree (fun _ hu => .doJobLoad hu) h

theorem OutcomeKeeps.execJobLoad {m : Mb} {e : Envelope} {body : List Byte} {poison : Option Nat}
    (h : s.Keeps s₀) : OutcomeKeeps (execJobLoad m e body poison s) s₀ :=
  .next (.parkRequest (fun _ ht => .jobLoadAt ht) h)

theorem Kept.slotTables (h : s.Keeps s₀) : s.slotTables.Keeps s₀ := by
  unfold State.slotTables
  refine .foldl (fun t _ ht => .foldl (fun t _ ht => ?_) ht) h
  split
  · exact ht
  · exact .modCore ht

theorem Kept.loaded {l : Loading} (h : s.Keeps s₀) : (s.loaded l).Keeps s₀ :=
  .foldl (fun _ _ hu => .log hu) (.log (.record (.slotTables (.loadMem (.drawSet (.draw h))))))

theorem OutcomeKeeps.execJobLoadComplete (h : s.Keeps s₀) : OutcomeKeeps (execJobLoadComplete s) s₀ := by
  unfold Machine.execJobLoadComplete
  split
  · exact .next h
  · exact .ite (.next h) <|
      .ite (.next (.settleStep (.postReply (.logRefused h)))) (.next (.settleStep (.postReply (.loaded h))))

/-! Training, keys and retuning of ports. -/

theorem Kept.adopt {p last : Nat} (h : s.Keeps s₀) : (s.adopt p last).Keeps s₀ := by
  unfold State.adopt
  split
  · exact h
  · exact .event (.modPort h)

theorem Kept.settle {b : Nat} (h : s.Keeps s₀) : (s.settle b).Keeps s₀ := by
  unfold State.settle
  extract_lets _ s1 s2
  have h_s1 : s1.Keeps s₀ := .foldl (fun _ _ ht => .ite ht (.modPort ht)) h
  have h_s2 : s2.Keeps s₀ := .foldl (fun _ _ ht => .ite (.adopt ht) ht) h_s1
  exact .ite (.stepFault h_s2) h_s2

theorem Kept.portUp {p : Nat} (h : s.Keeps s₀) : (s.portUp p).Keeps s₀ :=
  .settle (.modPort h)

theorem Kept.portOut {p : Nat} {st : PortSt} (h : s.Keeps s₀) : (s.portOut p st).Keeps s₀ :=
  .settle (.modPort h)

theorem Kept.violatePeer {p : Nat} (h : s.Keeps s₀) : (s.violatePeer p).Keeps s₀ :=
  .raise (.portOut (.modPort (.negotiate h)))

theorem Kept.greet {p : Nat} {m : Hello} (h : s.Keeps s₀) : (s.greet p m).Keeps s₀ :=
  .ite (.modPort (.draw (.draw (.modPort h)))) (.modPort h)

theorem Kept.answerHello {p : Nat} {m : Hello} (h : s.Keeps s₀) : (s.answerHello p m).Keeps s₀ :=
  .modPort (.ite h (.portOut (.negotiate h)))

theorem OutcomeKeeps.execHelloFrame {p : PortId} {m : Hello} (h : s.Keeps s₀) : OutcomeKeeps (execHelloFrame p m s) s₀ := by
  unfold Machine.execHelloFrame
  extract_lets
  split
  any_goals
    exact .ite (.next h) <|
      .ite (.next (.answerHello h)) <|
      .ite (.next (.greet (.portOut (.modPort h)))) <|
      .ite (.next (.violatePeer h)) (.next (.portOut (.modPort h)))
  exact .next h

theorem Kept.unsend {p n : Nat} (h : s.Keeps s₀) : (s.unsend p n).Keeps s₀ :=
  .modPort h

theorem Kept.keyed {p : Nat} {k : PortKeys} (h : s.Keeps s₀) : (s.keyed p k).Keeps s₀ :=
  .portUp (.modPort (.unsend h))

theorem Kept.keyMessage {p : Nat} {initiator ok : Bool} {msg sig : List Byte}
    (h : s.Keeps s₀) : (s.keyMessage p initiator ok msg sig).Keeps s₀ := by
  unfold State.keyMessage
  extract_lets _ d
  have h_d : d.2.Keeps s₀ := .draw h
  split
  · exact .ite (.violatePeer h) (.ite h (.ite (.violatePeer h) (.ite (.keyed h) (.keyed (.modPort h_d)))))
  · exact h

theorem OutcomeKeeps.execKeyEncapsulation {p : PortId} {ok : Bool} {key sig : List Byte}
    (h : s.Keeps s₀) : OutcomeKeeps (execKeyEncapsulation p ok key sig s) s₀ :=
  .next (.keyMessage h)

theorem OutcomeKeeps.execKeyCiphertext {p : PortId} {ok : Bool} {cipher sig : List Byte}
    (h : s.Keeps s₀) : OutcomeKeeps (execKeyCiphertext p ok cipher sig s) s₀ :=
  .next (.keyMessage h)

theorem OutcomeKeeps.execKeyEpoch {p : PortId} (h : s.Keeps s₀) : OutcomeKeeps (execKeyEpoch p s) s₀ := by
  unfold Machine.execKeyEpoch
  extract_lets
  split
  · exact .next h
  · exact .next (.modPort h)

theorem OutcomeKeeps.execLaneLockLoss {p : PortId} {lanes : Byte}
    (h : s.Keeps s₀) : OutcomeKeeps (execLaneLockLoss p lanes s) s₀ := by
  unfold Machine.execLaneLockLoss
  split
  · exact .next (.closeD1 (.portOut (.modPort h)))
  · exact .next (.closeD1 (.portOut (.modPort h)))
  · exact .next h

theorem OutcomeKeeps.execLinkTrainingComplete {p : PortId} {lanes : Byte}
    (h : s.Keeps s₀) : OutcomeKeeps (execLinkTrainingComplete p lanes s) s₀ :=
  .ite (.next h) <|
  .ite (.next (.ite (.portUp (.modPort h)) (.negotiate (.modPort h)))) (.next (.ite (.portOut (.modPort h)) (.modPort h)))

theorem Kept.queueRetune {p : Nat} (h : s.Keeps s₀) : (s.queueRetune p).Keeps s₀ :=
  .ite h (.ite (.log h) h)

theorem OutcomeKeeps.execPortErrorThreshold {p : PortId} (h : s.Keeps s₀) : OutcomeKeeps (execPortErrorThreshold p s) s₀ :=
  .next (.queueRetune h)

theorem OutcomeKeeps.execRetune {m : Mb} {port : W16} (h : s.Keeps s₀) : OutcomeKeeps (execRetune m port s) s₀ :=
  .next (.request (fun _ ht => .fst (.queueRetune ht)) h)

theorem Kept.retuneWrite {v : W32} (h : s.Keeps s₀) : (s.retuneWrite v).Keeps s₀ :=
  .ite (.queueRetune h) h

theorem OutcomeKeeps.execLnkRetuneReq {value : W32} (h : s.Keeps s₀) : OutcomeKeeps (execLnkRetuneReq value s) s₀ :=
  .next (.retuneWrite h)

theorem Kept.startRetune {p : Nat} (h : s.Keeps s₀) : (s.startRetune p).Keeps s₀ := by
  unfold State.startRetune
  exact .closeD1 (.event (.portOut (.modPort h)))

theorem OutcomeKeeps.execRetuneStart (h : s.Keeps s₀) : OutcomeKeeps (execRetuneStart s) s₀ := by
  unfold Machine.execRetuneStart
  split
  · split
    · exact .next h
    · exact .ite (.next (.queueRetune h)) <|
        .ite (.next (.startRetune h)) <|
        .ite (.next h) (.next (.ite (.startRetune (.sendCtl h)) (.sendCtl h)))
  · exact .next h

theorem Kept.peerRetune {src port : Nat} (h : s.Keeps s₀) : (s.peerRetune src port).Keeps s₀ := by
  unfold State.peerRetune
  split
  · exact h
  · exact .ite (.queueRetune h) (.ite (.ite h h) (.ite (.startRetune h) h))

theorem OutcomeKeeps.execRetuneComplete {e : RetuneEnd} (h : s.Keeps s₀) : OutcomeKeeps (execRetuneComplete e s) s₀ := by
  unfold Machine.execRetuneComplete
  split
  · exact .next h
  · exact .ite (.next h) <|
      .next (.ite (.portOut (.modPort h)) (.ite (.portUp (.modPort h)) (.negotiate (.modPort h))))

theorem OutcomeKeeps.execLostPortRetry (h : s.Keeps s₀) : OutcomeKeeps (execLostPortRetry s) s₀ :=
  .next (.foldl (fun _ _ ht => .queueRetune ht) h)

/-! Frames received and sent. -/

theorem Kept.ready (h : s.Keeps s₀) : s.ready.Keeps s₀ :=
  .setPhase h

theorem Kept.noteFormed {m : Nat} (h : s.Keeps s₀) : (s.noteFormed m).Keeps s₀ :=
  .ite (.ready (.sendCtl h)) h

theorem OutcomeKeeps.execPodFormation (h : s.Keeps s₀) : OutcomeKeeps (execPodFormation s) s₀ :=
  .ite (.next h) (.next (.ite (.noteFormed h) (.sendCtl h)))

theorem Kept.linkMoved (h : s.Keeps s₀) : s.linkMoved.Keeps s₀ :=
  .xAll (.arrivals h)

theorem Kept.discard {p : Nat} (h : s.Keeps s₀) : (s.discard p).Keeps s₀ :=
  .modPort h

theorem Kept.acked {p n : Nat} (h : s.Keeps s₀) : (s.acked p n).Keeps s₀ :=
  .ite (.modPort (.modPort (.modPort h))) (.modPort h)

theorem Kept.naked {p n : Nat} (h : s.Keeps s₀) : (s.naked p n).Keeps s₀ :=
  .modPort (.unsend h)

theorem Kept.freed {p : Nat} {hd : FrameHdr} (h : s.Keeps s₀) : (s.freed p hd).Keeps s₀ :=
  .ite h h

theorem Kept.receive {p : Nat} {a : Arrival} {type : BitVec 2} {packets : List Byte}
    (h : s.Keeps s₀) : (s.receive p a type packets).1.Keeps s₀ := by
  unfold State.receive
  extract_lets _ _ s0 _ s1 s1' _ s2 s3
  have h_s0 : s0.Keeps s₀ := .modPort h
  have h_s1 : s1.Keeps s₀ := .discard (.modPort h_s0)
  have h_s1' : s1'.Keeps s₀ := .modPort h_s0
  have h_s2 : s2.Keeps s₀ := .ite (.acked h_s1') h_s1'
  have h_s3 : s3.Keeps s₀ := .ite (.naked h_s2) h_s2
  split
  · exact h
  split
  · exact .fst (.discard (.modPort h_s0))
  split
  · exact .fst (.discard h_s0)
  split
  · exact .fst (.ite (.violatePeer h_s1) h_s1)
  split
  · exact .fst (.violatePeer h_s0)
  · exact .fst (.freed h_s3)

theorem OutcomeKeeps.execDataFrameReceive {p : PortId} {a : Arrival} {block : List Byte}
    (h : s.Keeps s₀) : OutcomeKeeps (execDataFrameReceive p a block s) s₀ := by
  unfold Machine.execDataFrameReceive
  extract_lets _ _ r _ _ s1
  have h_r : r.1.Keeps s₀ := .receive h
  have h_s1 : s1.Keeps s₀ := .writeRuns h_r
  split
  · exact .next (.wait h)
  split
  · exact .next h_r
  · exact .ite (.next (.violatePeer h_r)) (.next (.linkMoved (.mcount (.ite (.modPort h_s1) h_s1))))

theorem Kept.deliver {pkt : CtlPacket} (h : s.Keeps s₀) : (s.deliver pkt).Keeps s₀ := by
  unfold State.deliver
  extract_lets
  split
  · exact .heardVote h
  · exact .heardOutcome h
  · split
    · exact .heardLast h
    · exact .answerLast h
  · exact .xReport h
  · exact .xSerial h
  · exact .noteFormed h
  · exact .ite h (.ready h)
  · exact .retime h
  · exact .retime h
  · exact .peerRetune h
  · exact h
  · exact h

theorem Kept.passOn {p : Nat} {pkt : CtlPacket} {b : Nat} (h : s.Keeps s₀) : (s.passOn p pkt b).Keeps s₀ :=
  .mcount (.castTo h)

theorem OutcomeKeeps.execControlFrameReceive {p : PortId} {a : Arrival} {pkt : CtlPacket}
    (h : s.Keeps s₀) : OutcomeKeeps (execControlFrameReceive p a pkt s) s₀ := by
  unfold Machine.execControlFrameReceive
  extract_lets r s1
  have h_r : r.1.Keeps s₀ := .receive h
  have h_s1 : s1.Keeps s₀ := .linkMoved h_r
  split
  · exact .next h_r
  split
  · exact .next (.deliver (.foldl (fun _ _ hu => .passOn hu) h_s1))
  split
  · exact .next (.deliver h_s1)
  split
  · exact .next h_s1
  · exact .next (.passOn h_s1)

theorem Kept.resync {p : Nat} {r : Resync} (h : s.Keeps s₀) : (s.resync p r).Keeps s₀ :=
  .ite h h

theorem OutcomeKeeps.execLinkFrameReceive {p : PortId} {a : Arrival} {rs : Option Resync}
    (h : s.Keeps s₀) : OutcomeKeeps (execLinkFrameReceive p a rs s) s₀ := by
  unfold Machine.execLinkFrameReceive
  extract_lets r
  have h_r : r.1.Keeps s₀ := .receive h
  split
  · exact .next h_r
  · exact .next (.linkMoved h_r)
  · exact .next (.linkMoved (.resync h_r))

theorem Kept.sent {p : Nat} {type : BitVec 2} {buf : BitVec 3} {blk : Byte} {packets : List Byte}
    (h : s.Keeps s₀) : (s.sent p type buf blk packets).Keeps s₀ :=
  .modPort h

theorem OutcomeKeeps.execDataFrameSend {p : PortId} (h : s.Keeps s₀) : OutcomeKeeps (execDataFrameSend p s) s₀ := by
  unfold Machine.execDataFrameSend
  extract_lets
  split
  · exact .next h
  split
  · exact .next h
  extract_lets _ _ _ s2
  have h_s2 : s2.Keeps s₀ := .sent h
  split
  · exact .next (.raise h)
  · exact .next (.mcount (.modPort h_s2))

theorem OutcomeKeeps.execControlFrameSend {p : PortId} (h : s.Keeps s₀) : OutcomeKeeps (execControlFrameSend p s) s₀ := by
  unfold Machine.execControlFrameSend
  extract_lets
  split
  · exact .next h
  · exact .ite (.next h) (.next (.mcount (.modPort (.sent h))))

theorem OutcomeKeeps.execLinkFrameSend {p : PortId} (h : s.Keeps s₀) : OutcomeKeeps (execLinkFrameSend p s) s₀ :=
  .ite (.next h) (.next (.mcount (.modPort (.sent h))))

/-! Steps, their outcomes, restore and checkpoints. -/

theorem Kept.landingFree {b : Nat} (h : s.Keeps s₀) : (s.landingFree b).Keeps s₀ :=
  .memClear h

theorem Kept.landingFreeIf {f : Landing → Bool} (h : s.Keeps s₀) : (s.landingFreeIf f).Keeps s₀ :=
  .foldl (fun _ _ hu => .landingFree hu) h

theorem Kept.chunkBad {t : TokMan} {b : Nat} (h : s.Keeps s₀) : (s.chunkBad t b).Keeps s₀ :=
  .mcount (.notify (.landingFree h))

theorem OutcomeKeeps.execChunkDecrypt {poison : Option Nat}
    (h : s.Keeps s₀) : OutcomeKeeps (execChunkDecrypt poison s) s₀ := by
  unfold Machine.execChunkDecrypt
  split
  · exact .next h
  split
  · exact .next h
  generalize List.range 1024 = is
  extract_lets _ s1 _ s2 _ s3 _ _ s4
  have h_s1 : s1.Keeps s₀ := .record h
  have h_s2 : s2.Keeps s₀ := Kept.memWrite (Kept.memClear h_s1)
  have h_s3 : s3.Keeps s₀ := .foldl (fun _ _ hu => hu) h_s2
  have h_s4 : s4.Keeps s₀ := h_s3
  split
  · exact .next h
  split
  · exact .next (.chunkBad (.macFail h))
  split
  · exact .next (.chunkBad h_s1)
  · exact .next (.mcount (.mcount h_s4))

theorem Kept.tellWait {bits : Nat} (h : s.Keeps s₀) : (s.tellWait bits).Keeps s₀ :=
  .ite h (.notify h)

theorem Kept.emptyRx (h : s.Keeps s₀) : s.emptyRx.Keeps s₀ := h

theorem Kept.clearTiles (h : s.Keeps s₀) : s.clearTiles.Keeps s₀ := h

theorem OutcomeKeeps.execAttemptStart (h : s.Keeps s₀) : OutcomeKeeps (execAttemptStart s) s₀ := by
  unfold Machine.execAttemptStart
  split
  · exact .next h
  extract_lets _ s0 s1 _ _ _ _ _ s2
  have h_s0 : s0.Keeps s₀ := .tellWait h
  have h_s1 : s1.Keeps s₀ := .emptyRx h_s0
  have h_s2 : s2.Keeps s₀ := .memClear h_s1
  split
  · exact .next h_s0
  split
  · exact .next (.mcount (.foldl (fun _ _ hu => .modCore hu) (.writeSlots (.clearTiles h_s2))))
  · exact .next h_s0

theorem OutcomeKeeps.execVote (h : s.Keeps s₀) : OutcomeKeeps (execVote s) s₀ :=
  .ite (.next h) (.next (.voteUp h))

theorem OutcomeKeeps.execOutcomeDecide (h : s.Keeps s₀) : OutcomeKeeps (execOutcomeDecide s) s₀ := by
  unfold Machine.execOutcomeDecide
  split
  · exact .next h
  · exact .ite (.next h) (.next (.announce h))

theorem OutcomeKeeps.execVoteTimeout (h : s.Keeps s₀) : OutcomeKeeps (execVoteTimeout s) s₀ := by
  unfold Machine.execVoteTimeout
  split
  · exact .next h
  · exact .ite (.next h) (.next (.announce h))

theorem Kept.endAttempt (h : s.Keeps s₀) : s.endAttempt.Keeps s₀ :=
  .stopCores h

theorem Kept.recordArrivals (h : s.Keeps s₀) : s.recordArrivals.1.Keeps s₀ := by
  unfold State.recordArrivals
  generalize List.range 48 = ps
  extract_lets r
  have h_r : r.1.Keeps s₀ := by
    refine List.foldlRecOn (motive := fun a : State × Bool => a.1.Keeps s₀) ps _ h fun a ha p _ => ?_
    extract_lets
    split
    · exact ha
    split
    · exact ha
    · exact .record ha
  exact h_r

theorem Kept.noteOutcome {o : OutcomeMsg} {fp : List Byte} (h : s.Keeps s₀) : (s.noteOutcome o fp).Keeps s₀ := by
  unfold State.noteOutcome
  extract_lets s1 r s2
  have h_s1 : s1.Keeps s₀ := .log h
  have h_r : r.1.Keeps s₀ := by
    unfold r
    split
    · exact .recordArrivals h_s1
    · exact h_s1
  have h_s2 : s2.Keeps s₀ := .record h_r
  split
  · exact .mcount h_s2
  split
  · exact .mcount h_s2
  split
  · exact .mcount h_s2
  split
  · exact .mcount h_s2
  · exact h_s2

theorem Kept.rollback (h : s.Keeps s₀) : s.rollback.Keeps s₀ :=
  .ite (.stopJob h) (.landingFreeIf h)

theorem Kept.loseModules {lost : List Nat} (h : s.Keeps s₀) : (s.loseModules lost).Keeps s₀ :=
  .ite h (.rollback h)

theorem Kept.applyGo {v : Vote} (h : s.Keeps s₀) : (s.applyGo v).Keeps s₀ := by
  have h_c : s.commitScalars.Keeps s₀ := .commitScalars h
  unfold State.applyGo
  generalize s.commitScalars = c at h_c
  extract_lets s1 s2
  have h_s1 : s1.Keeps s₀ := .applyVote h_c
  have h_s2 : s2.Keeps s₀ := .landingFreeIf h_s1
  exact h_s2

theorem Kept.applyOther {o : OutcomeMsg} {v : Vote} (h : s.Keeps s₀) : (s.applyOther o v).Keeps s₀ := by
  unfold State.applyOther
  extract_lets s1 _ _ s2
  have h_s1 : s1.Keeps s₀ := .writeGexp (.applyVote (.endAttempt (.moveTraces h)))
  have h_s2 : s2.Keeps s₀ := h_s1
  exact .ite h_s2 <|
    .ite (.stopJob h_s2) <|
    .ite (.ite h_s2 (.loseModules h_s2)) <|
    .ite (.loseModules h_s2) (.rollback h_s2)

theorem Kept.scalarCheck {o : ApplyEnv} (h : s.Keeps s₀) : (s.scalarCheck o).Keeps s₀ :=
  .ite h (.ite (.moduleLost (.raise h)) (.stepFault (.raise h)))

theorem OutcomeKeeps.execOutcomeApply {e : ApplyEnv} (h : s.Keeps s₀) : OutcomeKeeps (execOutcomeApply e s) s₀ := by
  unfold Machine.execOutcomeApply
  extract_lets
  split
  · exact .next h
  extract_lets _ _ _ s1 _ _ _ s3 s4 _ s5
  have h_s1 : s1.Keeps s₀ := .noteOutcome h
  have h_s3 : s3.Keeps s₀ := .ite h_s1 h_s1
  have h_s4 : s4.Keeps s₀ := .ite (.applyGo h_s3) (.applyOther h_s3)
  have h_s5 : s5.Keeps s₀ := h_s4
  exact .ite (.next (.loseModules (.noteOutcome h))) <|
    .ite (.next h) <|
    .ite (.next (.settleStep (.stopJob (.endAttempt (.moveTraces h_s1))))) (.next (.settleStep (.scalarCheck h_s5)))

theorem OutcomeKeeps.execCoordinatorLoss (h : s.Keeps s₀) : OutcomeKeeps (execCoordinatorLoss s) s₀ := by
  unfold Machine.execCoordinatorLoss
  extract_lets _ _ s0 _ s1 fin
  split
  · exact .next h
  have h_s0 : s0.Keeps s₀ := by
    unfold s0
    split
    · exact .stepFault h
    · exact h
  have h_s1 : s1.Keeps s₀ := h_s0
  have h_fin : ∀ {t : State}, t.Keeps s₀ → (fin t).Keeps s₀ := by
    intro t ht
    unfold fin
    split
    · exact .rollback ht
    · exact ht
  split
  · exact .next (h_fin h_s1)
  · exact .next (h_fin (.closeAsk (.foldl (fun _ _ ht => .sendCtl ht) h_s1)))

theorem OutcomeKeeps.execStepWatchdog (h : s.Keeps s₀) : OutcomeKeeps (execStepWatchdog s) s₀ :=
  .ite (.next h) (.next (.countViol (.foldl (fun _ _ ht => .raise (.modCore ht)) h)))

theorem Kept.outHandle {kind slot : Nat} {hd : W16} (h : s.Keeps s₀) : (s.outHandle kind slot hd).Keeps s₀ := by
  unfold State.outHandle
  extract_lets
  split
  · exact .raise h
  · exact .outView h

theorem Kept.outputs (h : s.Keeps s₀) : s.outputs.Keeps s₀ := by
  unfold State.outputs
  split
  · exact h
  · exact .foldl (fun _ _ hu => .outHandle hu) h

theorem Kept.checkpoint (h : s.Keeps s₀) : s.checkpoint.Keeps s₀ := by
  have done : ∀ u : State, u.Keeps s₀ → State.Keeps { u with
      job := { u.job with ckpt := true }
      stp := { u.stp with ckptDue := u.stp.ckptDue.filter fun c => u.stp.s.toNat < c.toNat } } s₀ := fun _ hu => hu
  generalize ht : s.checkpoint = t
  unfold State.checkpoint at ht
  split at ht
  · exact ht ▸ h
  · dsimp only at ht
    subst ht
    exact done _ (.outView (.foldl (fun _ _ hu => .outHandle hu) h))

theorem Kept.postCommit (h : s.Keeps s₀) : s.postCommit.Keeps s₀ := h

theorem Kept.setGroup {g : Nat} {f : Nat → Nat} (h : s.Keeps s₀) : (s.setGroup g f).Keeps s₀ :=
  .memWrite h

theorem Kept.applyGroup {u : GroupUpd} (h : s.Keeps s₀) : (s.applyGroup u).Keeps s₀ := by
  unfold State.applyGroup
  extract_lets _ put _ s1
  have h_s1 : s1.Keeps s₀ := by
    refine .foldl (fun t x ht => ?_) h
    unfold put
    split
    · exact .setGroup ht
    · exact ht
  split
  · exact h_s1
  · exact .memWrite h_s1

theorem Kept.applyAudit {ps : List CapPoint} (h : s.Keeps s₀) : (s.applyAudit ps).Keeps s₀ :=
  .foldl (fun _ _ hu => .log hu) h

theorem Kept.boundaryWork (h : s.Keeps s₀) : s.boundaryWork.Keeps s₀ := by
  unfold State.boundaryWork
  extract_lets _ s1 s2 _ s3 s4
  have h_s1 : s1.Keeps s₀ := .foldl (fun _ _ ht => .applyGroup ht) h
  have h_s2 : s2.Keeps s₀ := .foldl (fun _ _ ht => .applyAudit ht) h_s1
  have h_s3 : s3.Keeps s₀ := h_s2
  have h_s4 : s4.Keeps s₀ := .ite (.checkpoint h_s3) h_s3
  exact .startRetrain (.startTests (.settleStep h_s4))

theorem OutcomeKeeps.execStepBoundary (h : s.Keeps s₀) : OutcomeKeeps (execStepBoundary s) s₀ := by
  unfold Machine.execStepBoundary
  refine .ite (.next h) ?_
  extract_lets s1 s2 _ _ _ _ s3 s4
  have h_s1 : s1.Keeps s₀ := by
    unfold s1
    exact .foldl (fun _ _ ht => .takeReports ht) (.moveTraces h)
  have h_s2 : s2.Keeps s₀ := .writeGexp (.outputs (.postCommit h_s1))
  have h_s3 : s3.Keeps s₀ := h_s2
  have h_s4 : s4.Keeps s₀ := .boundaryWork h_s3
  exact .next (.ite (.rollback h_s4) h_s4)

theorem Kept.fillView {hd : W16} {bs : List Byte} (h : s.Keeps s₀) : (s.fillView hd bs).Keeps s₀ :=
  .writeRuns h

theorem Kept.loadStep {e : StepState} (h : s.Keeps s₀) : (s.loadStep e).Keeps s₀ := by
  unfold State.loadStep
  extract_lets _ _ _ s1 grp ls s2 s3 cnt
  have h_s1 : s1.Keeps s₀ := .memWrite h
  have h_s2 : s2.Keeps s₀ :=
    .foldl (f := ls) (fun _ _ ht => .memWrite ht) (.foldl (f := grp) (fun _ _ ht => .memWrite (.memWrite ht)) h_s1)
  have h_s3 : s3.Keeps s₀ := .foldl (fun _ _ ht => .putScaleRec ht) h_s2
  refine .writeGexp (.foldl (fun t k ht => ?_) h_s3)
  unfold cnt
  split
  · exact .modCore ht
  · exact ht

theorem Kept.sendRestore (h : s.Keeps s₀) : s.sendRestore.Keeps s₀ :=
  .foldl (fun _ _ hu => .foldl (fun _ _ hu => .sendCtl hu) hu) h

theorem OutcomeKeeps.execReplicaRestore {e : RestoreEnv} (h : s.Keeps s₀) : OutcomeKeeps (execReplicaRestore e s) s₀ := by
  unfold Machine.execReplicaRestore
  extract_lets _ _ _ _ s0 _ s2 _ s4
  have h_s0 : s0.Keeps s₀ := .ite (.sendRestore h) h
  have h_s2 : s2.Keeps s₀ := h_s0
  have h_s4 : s4.Keeps s₀ := .foldl (fun _ _ ht => .fillView ht) (.loadStep h)
  refine .ite (.next h) ?_
  split
  · refine .ite (.next h) (.ite (.next ?_) (.next ?_))
    · exact .ite h (.rollback h)
    · exact .ite (.event h_s2) h_s2
  · exact .ite (.next (.event h_s4)) (.next h)

/-! Messages to a loaded job. -/

theorem Kept.doTokenManifest {c : TokenMsg} (h : s.Keeps s₀) : (doTokenManifest c s).1.Keeps s₀ := by
  unfold Machine.doTokenManifest
  split
  · exact h
  split
  · exact h
  split
  · exact h
  · exact .fst (.record h)

theorem Kept.tokenGate {m : Mb} {e : Envelope} {c : TokenMsg} (h : s.Keeps s₀) : (tokenGate m e c s).1.Keeps s₀ := by
  unfold Machine.tokenGate
  split
  · exact .ownAnswer h
  · exact .ownGate (fun _ hu => .doTokenManifest hu) h

theorem OutcomeKeeps.execTokenManifest {m : Mb} {e : Envelope} {c : TokenMsg}
    (h : s.Keeps s₀) : OutcomeKeeps (execTokenManifest m e c s) s₀ :=
  .next (.parkRequest (fun _ ht => .tokenGate ht) h)

theorem Kept.mailed {type : Nat} {bs entry : List Byte} (h : s.Keeps s₀) : (s.mailed type bs entry).Keeps s₀ :=
  .record h

theorem Kept.doGroupUpdate {m : Mb} {env : Envelope} {c : List GroupUpd}
    (h : s.Keeps s₀) : (doGroupUpdate m env c s).1.Keeps s₀ := by
  unfold Machine.doGroupUpdate
  split
  · exact h
  extract_lets _ _ _ s1
  have h_s1 : s1.Keeps s₀ := .mailed h
  split
  · exact h
  · exact h_s1

theorem OutcomeKeeps.execGroupUpdate {m : Mb} {e : Envelope} {c : List GroupUpd}
    (h : s.Keeps s₀) : OutcomeKeeps (execGroupUpdate m e c s) s₀ :=
  .next (.parkRequest (fun _ ht => .ownGate (fun _ ht => .doGroupUpdate ht) ht) h)

theorem Kept.doAudit {m : Mb} {env : Envelope} {c : List CapPoint} (h : s.Keeps s₀) : (doAudit m env c s).1.Keeps s₀ := by
  unfold Machine.doAudit
  split
  · extract_lets _ _ s1
    have h_s1 : s1.Keeps s₀ := .mailed h
    split
    · exact h
    · exact h_s1
  · exact h

theorem OutcomeKeeps.execAudit {m : Mb} {e : Envelope} {c : List CapPoint}
    (h : s.Keeps s₀) : OutcomeKeeps (execAudit m e c s) s₀ :=
  .next (.parkRequest (fun _ ht => .ownGate (fun _ ht => .doAudit ht) ht) h)

theorem Kept.doCheckpoint {env : Envelope} (h : s.Keeps s₀) : (doCheckpoint env s).1.Keeps s₀ := by
  unfold Machine.doCheckpoint
  split
  · exact h
  split
  · exact h
  extract_lets _ s1
  have h_s1 : s1.Keeps s₀ := .mailed h
  split
  · exact .fst (.checkpoint h_s1)
  · exact h_s1

theorem OutcomeKeeps.execCheckpoint {m : Mb} {e : Envelope} (h : s.Keeps s₀) : OutcomeKeeps (execCheckpoint m e s) s₀ :=
  .next (.parkRequest (fun _ ht => .ownGate (fun _ ht => .doCheckpoint ht) ht) h)

theorem Kept.doResume {c : ResumeMsg} (h : s.Keeps s₀) : (doResume c s).1.Keeps s₀ := by
  unfold Machine.doResume
  split
  · exact h
  extract_lets _ _ t1 t2
  have h_t1 : t1.Keeps s₀ := .loadStep h
  have h_t2 : t2.Keeps s₀ := .foldl (fun _ _ hu => .fillView hu) h_t1
  split
  · exact h
  split
  · exact .fst (.notify h)
  · exact h_t2

theorem Kept.resumeAt {m : Mb} {c : ResumeMsg} (h : s.Keeps s₀) : (resumeAt m c s).1.Keeps s₀ :=
  .whenFree (fun _ hu => .doResume hu) h

theorem OutcomeKeeps.execResume {m : Mb} {c : ResumeMsg} (h : s.Keeps s₀) : OutcomeKeeps (execResume m c s) s₀ :=
  .next (.request (fun _ ht => .resumeAt ht) h)

/-! Parking, and the requests that waited for its end. -/

theorem Kept.limitState (h : s.Keeps s₀) : s.limitState.Keeps s₀ :=
  .ite (.setStates h) h

theorem Kept.lateMsg {i : Instr} (h : s.Keeps s₀) : (s.lateMsg i).Keeps s₀ := by
  unfold State.lateMsg
  split
  · exact .lateRequest (fun _ hu => .doInstall hu) h
  · exact .lateRequest (fun _ hu => .doOwnerKey hu) h
  · exact .lateRequest (fun _ hu => .doRelease hu) h
  · exact .lateRequest (fun _ hu => .keyTableAt hu) h
  · exact .lateRequest (fun _ hu => .jobLoadAt hu) h
  · exact .lateRequest (fun _ hu => .tokenGate hu) h
  · exact .lateRequest (fun _ hu => .ownGate (fun _ hu => .doGroupUpdate hu) hu) h
  · exact .lateRequest (fun _ hu => .ownGate (fun _ hu => .doAudit hu) hu) h
  · exact .lateRequest (fun _ hu => .ownGate (fun _ hu => .doCheckpoint hu) hu) h
  · exact .lateRequest (fun _ hu => .doSiteConfig hu) h
  · exact .lateRequest (fun _ hu => .doJobUnload hu) h
  · exact h

theorem Kept.unpark (h : s.Keeps s₀) : s.unpark.Keeps s₀ :=
  .ite h (.foldl (fun _ _ ht => .lateMsg ht) (.limitState (.setStates h)))

theorem OutcomeKeeps.execPark {m : Mb} (h : s.Keeps s₀) : OutcomeKeeps (execPark m s) s₀ := by
  unfold Machine.execPark
  refine .next (.request (fun t ht => ?_) h)
  split
  · exact ht
  split
  · exact ht
  · exact .fst (.ite (.parkDue ht) ht)

theorem OutcomeKeeps.execUnpark {m : Mb} (h : s.Keeps s₀) : OutcomeKeeps (execUnpark m s) s₀ := by
  unfold Machine.execUnpark
  refine .next (.request (fun t ht => ?_) h)
  split
  · exact .fst (.unpark ht)
  · split <;> exact ht

theorem OutcomeKeeps.execReclaim {m : Mb} {e : Envelope} (h : s.Keeps s₀) : OutcomeKeeps (execReclaim m e s) s₀ := by
  unfold Machine.execReclaim
  refine .next (.request (fun t ht => ?_) h)
  split
  · exact ht
  split
  · exact ht
  · exact .fst (.unloadFor (.unpark ht))

theorem OutcomeKeeps.execFactoryEntry {m : Mb} {e : Envelope}
    (h : s.Keeps s₀) : OutcomeKeeps (execFactoryEntry m e s) s₀ := by
  unfold Machine.execFactoryEntry
  refine .next (.request (fun t ht => ?_) h)
  split
  · exact ht
  split
  · exact ht
  · exact .fst (.startTrans (.unpark ht))

theorem OutcomeKeeps.execFactoryExit {m : Mb} {e : Envelope} (h : s.Keeps s₀) : OutcomeKeeps (execFactoryExit m e s) s₀ := by
  unfold Machine.execFactoryExit
  refine .next (.request (fun t ht => ?_) h)
  split
  · exact ht
  split
  · exact ht
  · exact .fst (.startTrans (.unpark ht))

theorem OutcomeKeeps.execLpddrRetrain {channel : Fin 64} (h : s.Keeps s₀) : OutcomeKeeps (execLpddrRetrain channel s) s₀ :=
  .ite (.next h) (.next (.startRetrain h))

/-! Power and cooling. -/

theorem Kept.setBlw {b : Blw} (h : s.Keeps s₀) : (s.setBlw b).Keeps s₀ := h

theorem Kept.reportDuty (h : s.Keeps s₀) : s.reportDuty.Keeps s₀ :=
  .ite h (.ite (.retime h) (.sendCtl (.retime h)))

theorem Kept.addCause {c : Nat} (h : s.Keeps s₀) : (s.addCause c).Keeps s₀ :=
  .ite h <|
  .ite (.inputLost (.unpark (.setBlw h))) <|
  .ite (.setBlw h) <|
  .ite (.reportDuty (.limitState (.unpark (.setBlw h)))) (.limitState (.setBlw h))

theorem Kept.addCauses {l : List (Nat × Bool)} (h : s.Keeps s₀) : (s.addCauses l).Keeps s₀ :=
  .foldl (fun _ _ hu => .ite (.addCause hu) hu) h

theorem OutcomeKeeps.execSensorScan {v : Sensors} (h : s.Keeps s₀) : OutcomeKeeps (execSensorScan v s) s₀ :=
  .ite .fault (.ite (.next h) (.next (.addCauses (.setBlw h))))

theorem Kept.preqWrite {v : W32} (h : s.Keeps s₀) : (s.preqWrite v).Keeps s₀ :=
  .setBlw h

theorem OutcomeKeeps.execBlwPreq {value : W32} (h : s.Keeps s₀) : OutcomeKeeps (execBlwPreq value s) s₀ :=
  .ite (.next h) (.next (.preqWrite h))

theorem OutcomeKeeps.execGrantTick (h : s.Keeps s₀) : OutcomeKeeps (execGrantTick s) s₀ :=
  .ite (.next h) (.ite (.next h) (.next (.limitState (.resynced (.setBlw h)))))

theorem OutcomeKeeps.execDutyTick {pin : Nat} (h : s.Keeps s₀) : OutcomeKeeps (execDutyTick pin s) s₀ :=
  .ite (.next h) (.ite (.next (.addCause (.setBlw h))) (.next (.reportDuty (.limitState (.setBlw h)))))

theorem OutcomeKeeps.execCauseClear {c : BlwCause} (h : s.Keeps s₀) : OutcomeKeeps (execCauseClear c s) s₀ :=
  .ite (.next h) (.next (.limitState (.setBlw h)))

theorem OutcomeKeeps.execInputSwitchReclose {e : ColdEnv}
    (h : s.Keeps s₀) : OutcomeKeeps (execInputSwitchReclose e s) s₀ := by
  unfold Machine.execInputSwitchReclose
  split
  · exact .fault
  split
  · exact .next h
  · exact .ite (.next h) (.next (.coldStart h))

/-! Registers and debug access. -/

theorem Kept.readLatch {a : RegAddr} (h : s.Keeps s₀) : (s.readLatch a).Keeps s₀ := by
  unfold State.readLatch
  split
  · split
    · exact .setCnt h
    · exact h
  · exact h

theorem Kept.violateCtrl {code addr : Nat} (h : s.Keeps s₀) : (s.violateCtrl code addr).Keeps s₀ := by
  unfold State.violateCtrl
  split
  · exact h
  · exact .countViol (.raise (.ite h h))

theorem OutcomeKeeps.execRegRead {m : Mb} {addr : RegAddr} (h : s.Keeps s₀) : OutcomeKeeps (execRegRead m addr s) s₀ := by
  unfold Machine.execRegRead
  refine .next (.request (fun t ht => ?_) h)
  split
  · exact .fst (.violateCtrl ht)
  split
  · split
    · exact ht
    · exact .fst (.readLatch ht)
  · split
    · exact ht
    · exact .fst (.readLatch ht)

theorem Kept.evcWrite {b : EvcBlk} {off : Nat} {v : W32} (h : s.Keeps s₀) : (s.evcWrite b off v).Keeps s₀ := by
  unfold State.evcWrite
  split
  · exact .selWrite h
  · exact .setCnt h
  · exact .setCnt h
  · exact .ite (.ite (.evcZero (.setEvc h)) (.setEvc h)) h

theorem Kept.coreRegWrite {k : CoreId} {b : CoreBlk} {off : Nat} {v : W32}
    (h : s.Keeps s₀) : (s.coreRegWrite k b off v).Keeps s₀ := by
  unfold State.coreRegWrite
  split
  · exact .ite (.modCore h) h
  · exact .ite (.modCore h) h
  · exact .modCore h
  · exact .modCore h
  · exact .evcWrite h
  · exact .modCore h
  · exact h
  · exact h

theorem Kept.wdogWrite {v : W32} (h : s.Keeps s₀) : (s.wdogWrite v).Keeps s₀ :=
  .ite h h

theorem Kept.modRegWrite {b : ModBlk} {off : Nat} {v : W32} (h : s.Keeps s₀) : (s.modRegWrite b off v).Keeps s₀ := by
  unfold State.modRegWrite
  split
  · exact h
  · exact .ite (.sealWrite h) h
  · exact .ite (.preqWrite h) h
  · exact .ite (.rstCoreWrite h) (.ite (.wdogWrite h) h)
  · exact .ite (.retuneWrite h) h
  · exact .evcWrite h
  · exact .ite h h
  · exact h
  · exact h

theorem OptKeeps.csrWrite {a : RegAddr} {v : W32} (h : s.Keeps s₀) : OptKeeps (s.csrWrite a v) s₀ := by
  unfold State.csrWrite
  split
  · exact .map_any (fun _ => .coreRegWrite h)
  · exact .map_any (fun _ => .modRegWrite h)
  · exact .none

theorem OutcomeKeeps.hifWrite {off : Nat} {v : W32} (h : s.Keeps s₀) : OutcomeKeeps (s.hifWrite off v) s₀ :=
  .ite (.ite (.execAttgo h) (.next h)) <|
  .ite (.next h) <|
  .ite (.next h) <|
  .ite (.next h) <|
  .ite (.execHifReset h) <|
  .ite (.next h) <|
  .ite (.next h) <|
  .ite (.next (.ite (.outDrain h) h)) (.next h)

theorem Kept.bellWrite {off : Nat} {v : W32} (h : s.Keeps s₀) : (s.bellWrite off v).Keeps s₀ :=
  .ite h (.ite h (.ite (.ackReply h) (.ite (.ackNote h) (.violatePcie h))))

theorem Kept.attWrite {off : Nat} {v : W32} (h : s.Keeps s₀) : (s.attWrite off v).Keeps s₀ :=
  .ite h h

theorem Kept.msixWrite {off : Nat} {v : W32} (h : s.Keeps s₀) : (s.msixWrite off v).Keeps s₀ :=
  .ite h (.ite h h)

theorem OutcomeKeeps.execRegisterWrite {a : RegAddr} {value : W32}
    (h : s.Keeps s₀) : OutcomeKeeps (execRegisterWrite a value s) s₀ := by
  have csr : ∀ {r : RegAddr} {t : State}, s.csrWrite r value = some t → t.Keeps s₀ := fun e => OptKeeps.csrWrite h _ e
  unfold Machine.execRegisterWrite
  split
  · exact .next h
  split
  · split
    · exact .next h
    · exact .hifWrite h
  · exact .next (.bellWrite h)
  · split
    · exact .next h
    · exact .next (.attWrite h)
  · split
    · exact .next h
    · exact .next (.msixWrite h)
  · split
    · exact .next (.wait h)
    split
    · exact .next (csr ‹_›)
    · exact .next (.violateCtrl h)
  · split
    · exact .next (.wait h)
    split
    · exact .next (csr ‹_›)
    · exact .next (.violateCtrl h)

theorem Kept.dbgReg {a : DbgAccess} (h : s.Keeps s₀) : (s.dbgReg a).Keeps s₀ := by
  unfold State.dbgReg
  split
  · exact .violateDebug h
  split
  · exact .violateDebug h
  split
  · exact .violateDebug h
  extract_lets
  split
  · exact .ite (.readLatch h) (.violateDebug h)
  · exact .ite (.getD (.csrWrite h) h) (.violateDebug h)

theorem Kept.dbgMem {a : DbgAccess} {ok : Nat → Bool} {rd : Nat} (h : s.Keeps s₀) : (s.dbgMem a ok rd).Keeps s₀ := by
  unfold State.dbgMem
  extract_lets
  refine .ite (.violateDebug h) <|
    .ite (.violateDebug h) <|
    .ite (.violateDebug h) <|
    .ite (.violateDebug h) <|
    .ite (.macFail h) ?_
  split
  · exact h
  · exact .ite (.memWrite h) (.writeRuns h)

theorem OutcomeKeeps.execDebugAccess {a : DbgAccess} (h : s.Keeps s₀) : OutcomeKeeps (execDebugAccess a s) s₀ := by
  unfold Machine.execDebugAccess
  refine .next (.atLevel (fun t ht => ?_) h)
  split
  · exact .wait ht
  split
  · exact .dbgReg ht
  · exact .dbgReg ht
  · exact .dbgReg ht
  · exact .ite (.violateDebug ht) ht
  · exact .ite (.violateDebug ht) ht
  · exact .dbgMem ht
  · exact .dbgMem ht
  · exact .violateDebug ht
  · exact .violateDebug ht
  · exact .violateDebug ht

/-! The ends of scrubs and of retraining. -/

theorem Kept.perform {i : Instr} (h : s.Keeps s₀) : (s.perform i).Keeps s₀ := by
  unfold State.perform
  extract_lets run
  have h_run : ∀ {o : Host.Outcome State Fault Refusal}, OutcomeKeeps o s₀ → (run o).Keeps s₀ := by
    intro o ho
    unfold run
    split
    · exact ho _ rfl
    · exact h
  split
  · exact h_run (.execBar2Access h)
  · exact h_run (.execDebugAccess h)
  · exact h_run (.execRegisterWrite h)
  · exact h_run (.execDataFrameReceive h)
  · exact .lateRequest (fun _ ht => .keyTableAt ht) h
  · exact .lateRequest (fun _ ht => .jobLoadAt ht) h
  · exact .lateRequest (fun _ ht => .resumeAt ht) h
  · exact .lateRequest (fun _ ht => .recordReadAt ht) h
  · exact h

theorem Kept.unstall (h : s.Keeps s₀) : s.unstall.Keeps s₀ :=
  .outPlace (.foldl (fun _ _ ht => .perform ht) h)

theorem OutcomeKeeps.execScrubComplete (h : s.Keeps s₀) : OutcomeKeeps (execScrubComplete s) s₀ := by
  unfold Machine.execScrubComplete
  split
  · exact .next h
  split
  · exact .next (.unstall h)
  split
  · exact .next (.unstall (.endTrans (.jobScrub h)))
  · exact .next (.unstall (.endTrans (.transReply (.marchTests (.logUnload (.jobScrub h))))))
  · exact .next (.unstall (.endTrans (.setStates (.logUnload (.jobScrub h)))))
  · exact .next (.unstall (.logUnload (.fullScrub h)))

theorem OutcomeKeeps.execLpddrRetrainComplete (h : s.Keeps s₀) : OutcomeKeeps (execLpddrRetrainComplete s) s₀ := by
  unfold Machine.execLpddrRetrainComplete
  split
  · exact .next h
  · exact .next (.startRetrain (.foldl (fun _ _ ht => .getD (.reissue ht) ht) (.unstall h)))

/-- Every command keeps the canonical form of the memory, and the queue of the commands that wait behind it. -/
theorem exec_keeps (i : Instr) (h : s.Keeps s₀) : OutcomeKeeps (exec i s) s₀ :=
  match i with
  | .mmul .. | .asweep .. | .tzero .. | .tfill .. | .taccm .. | .tstore .. | .epi .. | .gpass .. | .vadd .. | .vsub ..
  | .vmul .. | .vfma .. | .vmax .. | .vmin .. | .vabs .. | .vneg .. | .vcmp .. | .vsel .. | .viadd .. | .visub .. | .vcvt ..
  | .vexp2 .. | .vlog2 .. | .vrcp .. | .vrsqrt .. | .vtanh .. | .verf .. | .vrsum .. | .vrmax .. | .vrmin .. | .ltclr ..
  | .ltaddf .. | .ltaddt .. | .ltrd .. | .ltaddm .. | .ltst .. | .vld .. | .vst .. | .trd .. | .move .. | .upd .. | .signal ..
  | .wait .. | .loop .. | .endl .. | .setc .. | .ldc .. | .xchg .. | .commit .. | .stepend .. => .answer (.issue h)
  | .status .. | .logRead .. | .faultRead .. | .sigFetch .. | .sigAck ..
  | .unassignedType .. => .next (.request (fun _ ht => ht) h)
  | .jtagIdcode | .jtagBypass | .jtagSamplePreload | .jtagExtest | .jtagIntest => .next (.jtag h)
  | .lpddrRefresh | .nvmReq | .perstDeassert | .nvmReqRelease => .next h
  | .supply | .clock | .shield => .ite (.next h) (.next (.quarantine h))
  | .valveControlTick | .flowCountTick .. | .tj1CapReduction | .bellowsWatchdog => .ite (.next h) (.next (.setBlw h))
  | .tin | .tout | .flow | .valve | .bankLow | .icore | .bankCrit | .bus12 => .ite (.next h) (.next (.addCause h))
  | .commandDispatch .. => .execCommandDispatch h
  | .commandComplete .. => .execCommandComplete h
  | .waitSatisfied .. => .execWaitSatisfied h
  | .icacheMissFill .. => .execIcacheMissFill h
  | .faultRecord .. => .execFaultRecord h
  | .jobLoad .. => .execJobLoad h
  | .jobLoadComplete => .execJobLoadComplete h
  | .jobUnload .. => .execJobUnload h
  | .stepBoundary => .execStepBoundary h
  | .attemptStart => .execAttemptStart h
  | .vote => .execVote h
  | .outcomeDecide => .execOutcomeDecide h
  | .voteTimeout => .execVoteTimeout h
  | .outcomeApply .. => .execOutcomeApply h
  | .coordinatorLoss => .execCoordinatorLoss h
  | .replicaRestore .. => .execReplicaRestore h
  | .stepWatchdog => .execStepWatchdog h
  | .reportFifoRead .. => .execReportFifoRead h
  | .chunkDecrypt .. => .execChunkDecrypt h
  | .exchangeSerial .. => .execExchangeSerial h
  | .exchangeStart .. => .execExchangeStart h
  | .dataFrameReceive .. => .execDataFrameReceive h
  | .controlFrameReceive .. => .execControlFrameReceive h
  | .linkFrameReceive .. => .execLinkFrameReceive h
  | .dataFrameSend .. => .execDataFrameSend h
  | .controlFrameSend .. => .execControlFrameSend h
  | .linkFrameSend .. => .execLinkFrameSend h
  | .helloFrame .. => .execHelloFrame h
  | .keyEncapsulation .. => .execKeyEncapsulation h
  | .keyCiphertext .. => .execKeyCiphertext h
  | .keyEpoch .. => .execKeyEpoch h
  | .laneLockLoss .. => .execLaneLockLoss h
  | .linkTrainingComplete .. => .execLinkTrainingComplete h
  | .portErrorThreshold .. => .execPortErrorThreshold h
  | .retuneStart => .execRetuneStart h
  | .retuneComplete .. => .execRetuneComplete h
  | .lostPortRetry => .execLostPortRetry h
  | .podFormation => .execPodFormation h
  | .hello .. => .execHello h
  | .goodbye .. => .execGoodbye h
  | .evidence .. => .execEvidence h
  | .recordRead .. => .execRecordRead h
  | .regRead .. => .execRegRead h
  | .outqDrain .. => .execOutqDrain h
  | .fwStage .. => .execFwStage h
  | .fwActivate .. => .execFwActivate h
  | .kelgilActivation => .execKelgilActivation h
  | .blwStage .. => .execBlwStage h
  | .siteConfig .. => .execSiteConfig h
  | .bar2Map .. => .execBar2Map h
  | .installNonce .. => .execInstallNonce h
  | .install .. => .execInstall h
  | .ownerKey .. => .execOwnerKey h
  | .release .. => .execRelease h
  | .reclaim .. => .execReclaim h
  | .keyTable .. => .execKeyTable h
  | .factoryEntry .. => .execFactoryEntry h
  | .factoryExit .. => .execFactoryExit h
  | .tokenManifest .. => .execTokenManifest h
  | .groupUpdate .. => .execGroupUpdate h
  | .audit .. => .execAudit h
  | .checkpoint .. => .execCheckpoint h
  | .resume .. => .execResume h
  | .park .. => .execPark h
  | .unpark .. => .execUnpark h
  | .dbgOpen1 .. => .execDbgOpen1 h
  | .debugClose .. => .execDebugClose h
  | .debugNonce .. => .execDebugNonce h
  | .debugToken .. => .execDebugToken h
  | .debugHalt .. => .execDebugHalt h
  | .debugSingleStep .. => .execDebugSingleStep h
  | .debugResume .. => .execDebugResume h
  | .debugAccess .. => .execDebugAccess h
  | .debugResetRequest => .execDebugResetRequest h
  | .test .. => .execTest h
  | .infieldTestDue .. => .execInfieldTestDue h
  | .infieldTestComplete .. => .execInfieldTestComplete h
  | .testPause .. => .execTestPause h
  | .retune .. => .execRetune h
  | .reset .. => .execReset h
  | .replyAck .. => .execReplyAck h
  | .notificationAck .. => .execNotificationAck h
  | .bar2Access .. => .execBar2Access h
  | .fwgo .. => .execFwgo h
  | .kelgilInit .. => .execKelgilInit h
  | .attgo => .execAttgo h
  | .hifReset .. => .execHifReset h
  | .hifOutqTailWrite .. => .execHifOutqTailWrite h
  | .hostInterfaceReset .. => .execHostInterfaceReset h
  | .seal .. => .execSeal h
  | .unseal .. => .execUnseal h
  | .upeRptPop .. => .execUpeRptPop h
  | .lnkRetuneReq .. => .execLnkRetuneReq h
  | .rstCoreGo .. => .execRstCoreGo h
  | .rstWdog .. => .execRstWdog h
  | .wdog => .execWdog h
  | .evcSelWrite .. => .execEvcSelWrite h
  | .evcClear .. => .execEvcClear h
  | .evcCntLoRead .. => .execEvcCntLoRead h
  | .blwPreq .. => .execBlwPreq h
  | .registerWrite .. => .execRegisterWrite h
  | .traceDrain .. => .execTraceDrain h
  | .lpddrRetrain .. => .execLpddrRetrain h
  | .standbyStart .. => .execStandbyStart h
  | .inputValid .. => .execInputValid h
  | .pllLock .. => .execPllLock h
  | .pllLockLoss => .execPllLockLoss h
  | .inputLoss => .execInputLoss h
  | .holdComplete => .execHoldComplete h
  | .sensorScan .. => .execSensorScan h
  | .grantTick => .execGrantTick h
  | .dutyTick .. => .execDutyTick h
  | .causeClear .. => .execCauseClear h
  | .inputSwitchReclose .. => .execInputSwitchReclose h
  | .authenticatedWriteComplete => .execAuthenticatedWriteComplete h
  | .scrubComplete => .execScrubComplete h
  | .lpddrRetrainComplete => .execLpddrRetrainComplete h
  | .standbyOff => .execStandbyOff h

/-- A step takes the first command from the queue and keeps what every command keeps. -/
theorem step_keeps {t : State} (h : step s = .next t) : t.Keeps { s with pending := s.pending.tail } := by
  unfold step at h
  split at h
  next hp =>
    cases h
    exact ⟨id, by rw [hp]; rfl⟩
  next c cs hp =>
    rw [hp]
    exact exec_keeps c (.refl _) t h
end

/-- Settles O59, by the lemma of each command: a step keeps the canonical form of the memory. -/
theorem stepKeepsMemory : Obligations.StepKeepsMemory := by
  unfold Obligations.StepKeepsMemory
  intro s t hs hstep
  exact (step_keeps hstep).canonical hs

end Sys2Proof.Machine
end

section
/-! What the vector engine's commands come to when they issue and run at once: the state they leave, by its record of the core
and by what stands beside it. -/

namespace Sys2Proof.Machine

open Sys2Proof

/-! The state that a command's engine works on. -/

/-- A command that issues changes none of the registers of a program. -/
theorem State.seen_sameRegs (s : State) (k : CoreId) (i : Instr) : SameRegs s (s.seen k i) k := by
  obtain ⟨-, htiles, hlt, hgexp, hlcnt, hloops⟩ := State.seen_core s k i
  refine ⟨htiles, hlt, hgexp, ?_, hlcnt, hloops⟩
  simp only [State.seen, State.started, State.entered, Core.issued, State.core_modCore_self, State.core_setCore_self,
    Core.count_upe, Core.trace_upe]
  rw [State.fetched_rest]

theorem State.seen_vregs (s : State) (k : CoreId) (i : Instr) : ((s.seen k i).core k).vregs = (s.core k).vregs :=
  (State.seen_core s k i).1

theorem State.seen_core_other (s : State) {k j : CoreId} (i : Instr) (hj : j ≠ k) : (s.seen k i).core j = s.core j := by
  rw [State.seen, State.started, State.core_modCore_other _ _ hj]
  exact State.core_setCore_other _ _ hj

/-! The state that a command of the vector engine leaves. -/

/-- The state after core `k` has issued `i` and its engine has answered the state `u` and the release `p`: the writes stand on
record, and the command in flight with its work done. -/
def State.ran (s : State) (k : CoreId) (i : Instr) (u : State) (p : Post) : State :=
  (u.addWr ((s.seen k i).wrOf k (hdrOf i).tag ((s.core k).entryOf i).x (iterOf (s.core k).loops) i)).putEnt k (s.core k).inflight
    { (s.core k).entryOf i with phase := .done, post := p } []

/-- A command of the vector engine is done once its engine has run. -/
theorem phaseAfter_vxe (s : State) {e : Ent} (he : engOf e.ins = some .vxe) : phaseAfter s e = .done := by
  unfold phaseAfter
  split
  next hi => simp [hi, engOf] at he
  next hi => simp [hi, engOf] at he
  next hi => simp [hi, engOf] at he
  next => rfl

/-- It tells nothing of itself at its dispatch. -/
theorem State.noteDispatch_vxe (s : State) (k : CoreId) {e : Ent} (he : engOf e.ins = some .vxe) : s.noteDispatch k e = s := by
  unfold State.noteDispatch
  split
  next hi => simp [hi, engOf] at he
  next hi => simp [hi, engOf] at he
  next => rfl

/-- A command of the vector engine that is ready runs at once: neither its phase nor its dispatch asks for more. -/
theorem State.issue_vxe {s u : State} {k : CoreId} {i : Instr} {p : Post} (he : engOf i = some .vxe) (h : Ready s k i)
    (hu : effect (s.seen k i) k ((s.core k).entryOf i) = some (u, p)) : s.issue k i = some (s.ran k i u p) := by
  have hent : engOf ((s.core k).entryOf i).ins = some .vxe := he
  rw [State.issue_ready (by rw [he]; rfl) h, hu, Option.map_some, phaseAfter_vxe _ hent, State.noteDispatch_vxe _ k hent]
  rfl

section
variable (s : State) (k : CoreId) (i : Instr) (u : State) (p : Post)

@[simp] theorem State.ran_core_self : (s.ran k i u p).core k =
    { u.core k with inflight := (s.core k).inflight ++ [{ (s.core k).entryOf i with phase := .done, post := p }] } := by
  rw [State.ran, State.putEnt, State.core_modCore_self]
  rfl

theorem State.ran_core_other {j : CoreId} (hj : j ≠ k) : (s.ran k i u p).core j = u.core j := by
  rw [State.ran, State.putEnt, State.core_modCore_other _ _ hj]
  rfl

@[simp] theorem State.ran_mem : (s.ran k i u p).mem = u.mem := rfl
@[simp] theorem State.ran_chk : (s.ran k i u p).chk = u.chk := rfl
@[simp] theorem State.ran_mm : (s.ran k i u p).mm = u.mm := rfl

/-- Beside the cores, the record of writes alone is not that of the engine's answer. -/
theorem State.ran_rest : { s.ran k i u p with cores := u.cores, race := u.race } = u := rfl

@[simp] theorem State.ran_vreg (v : VRegId) : ((s.ran k i u p).core k).vreg v = (u.core k).vreg v := by
  rw [State.ran_core_self]
  rfl

theorem State.inFlight_ran : InFlight s (s.ran k i u p) k i .done p := by
  unfold InFlight
  rw [State.ran_core_self]

/-- The registers beside the tile registers stand where the engine leaves them. -/
theorem State.ran_sameRegs (hu : SameRegs s u k) : SameRegs s (s.ran k i u p) k := by
  obtain ⟨htiles, hlt, hgexp, hupe, hlcnt, hloops⟩ := hu
  constructor <;> rw [State.ran_core_self]
  exacts [htiles, hlt, hgexp, hupe, hlcnt, hloops]
end

/-- A record of a core that differs from the one its engine saw in its tile registers alone keeps the other registers. -/
theorem State.sameRegs_setCore_seen {s : State} {k : CoreId} {i : Instr} {c : Core}
    (hc : { c with vregs := ((s.seen k i).core k).vregs } = (s.seen k i).core k) :
    SameRegs s ((s.seen k i).setCore k c) k := by
  obtain ⟨htiles, hlt, hgexp, hupe, hlcnt, hloops⟩ := State.seen_sameRegs s k i
  constructor <;> rw [State.core_setCore_self]
  exacts [(congrArg Core.tiles hc).trans htiles, (congrArg Core.lt hc).trans hlt, (congrArg Core.gexp hc).trans hgexp,
    (congrArg Core.upe hc).trans hupe, (congrArg Core.lcnt hc).trans hlcnt, (congrArg Core.loops hc).trans hloops]

/-- Putting an entry back changes the records of cores alone. -/
theorem State.putEnt_rest (s : State) (k : CoreId) (pre : List Ent) (e : Ent) (post : List Ent) (cs : SMap Core) :
    { s.putEnt k pre e post with cores := cs } = { s with cores := cs } := rfl

/-- A command of registers that writes nothing to memory changes the record of its core alone. -/
theorem State.onlyCore_ran {s : State} {k : CoreId} {i : Instr} {c : Core} (p : Post)
    (hw : (s.seen k i).writes (iterOf (s.core k).loops) i = []) : OnlyCore s (s.ran k i ((s.seen k i).setCore k c) p) k := by
  constructor
  · have hwr : (s.seen k i).wrOf k (hdrOf i).tag ((s.core k).entryOf i).x (iterOf (s.core k).loops) i = [] := by
      simp [State.wrOf, hw]
    rw [State.ran, hwr, State.addWr_nil]
    rw [State.putEnt_rest]
    exact State.seen_rest s k i
  · intro j hj
    rw [State.ran_core_other _ _ _ _ _ hj, State.core_setCore_other _ _ hj, State.seen_core_other _ _ hj]

/-! Operands and sticky bits depend on the tile registers alone. -/

section
variable {c d : Core} (h : c.vregs = d.vregs)
include h

theorem Core.vreg_congr : c.vreg = d.vreg := by
  funext v
  rw [Core.vreg, Core.vreg, h]

theorem Core.src_congr : c.src = d.src := by
  funext view imm f r e
  rw [Core.src, Core.src, Core.vreg_congr h]

theorem Core.srcSat_congr : c.srcSat = d.srcSat := by
  funext view f rows cols
  rw [Core.srcSat, Core.srcSat, Core.vreg_congr h]
end

/-- Setting a source's sticky bit changes the tile registers alone. -/
theorem Core.stickSrc_rest (c : Core) (view : BitVec 2) (f : Src) (rows cols : Nat) :
    { c.stickSrc view f rows cols with vregs := c.vregs } = c := by
  unfold Core.stickSrc
  split <;> rfl

/-- A source that saturates sets OVF of its register and nothing else of any register (R110). -/
theorem Core.stickSrc_spec (c : Core) (view : BitVec 2) (f : Src) (rows cols : Nat) (v : VRegId) :
    ((c.stickSrc view f rows cols).vreg v).els = (c.vreg v).els
      ∧ ((c.stickSrc view f rows cols).vreg v).ovf = ((c.vreg v).ovf || (decide (f.reg = v) && c.srcSat view f rows cols))
      ∧ ((c.stickSrc view f rows cols).vreg v).nfin = (c.vreg v).nfin := by
  unfold Core.stickSrc
  cases hsat : c.srcSat view f rows cols
  · simp
  · obtain ⟨hels, hovf, hnfin⟩ := Core.stick_spec c f.reg v .mkOvf
    rw [if_pos rfl]
    refine ⟨hels, hovf.trans ?_, hnfin.trans ?_⟩
    · simp [Fl.mkOvf, eq_comm (a := v)]
    · simp [Fl.mkOvf]

/-! Flags of many elements. -/

theorem Fl.foldl_or_ovf {α : Type} (g : α → Fl) (xs : List α) (a : Fl) :
    (xs.foldl (fun f x => f.or (g x)) a).ovf = (a.ovf || xs.any fun x => (g x).ovf) := by
  induction xs generalizing a with
  | nil => simp
  | cons x xs ih => rw [List.foldl_cons, ih, List.any_cons, ← Bool.or_assoc]; rfl

theorem Fl.foldl_or_nfin {α : Type} (g : α → Fl) (xs : List α) (a : Fl) :
    (xs.foldl (fun f x => f.or (g x)) a).nfin = (a.nfin || xs.any fun x => (g x).nfin) := by
  induction xs generalizing a with
  | nil => simp
  | cons x xs ih => rw [List.foldl_cons, ih, List.any_cons, ← Bool.or_assoc]; rfl

/-- The 4,096 words of a tile register are its 64 rows of 64. -/
theorem any_words_iff (p : Nat → Nat → Bool) :
    ((List.range 4096).any fun x => p (x / 64) (x % 64)) = true ↔ ∃ r e, r < 64 ∧ e < 64 ∧ p r e = true := by
  rw [List.any_eq_true]
  constructor
  · rintro ⟨x, hx, hp⟩
    rw [List.mem_range] at hx
    exact ⟨x / 64, x % 64, by omega, by omega, hp⟩
  · rintro ⟨r, e, hr, he, hp⟩
    have hdiv : (64 * r + e) / 64 = r := by omega
    have hmod : (64 * r + e) % 64 = e := by omega
    exact ⟨64 * r + e, by rw [List.mem_range]; omega, by rw [hdiv, hmod]; exact hp⟩

/-! The elements of a register that a command has filled. -/

/-- The 32-bit lanes of a number, put together again, give what of it they can hold. -/
theorem foldl_lanes (b n : Nat) :
    (List.range n).foldl (fun a i => a + (BitVec.ofNat 32 (b / 2 ^ (32 * i))).toNat * 2 ^ (32 * i)) 0 = b % 2 ^ (32 * n) := by
  induction n with
  | zero => simp [Nat.mod_one]
  | succ n ih =>
    rw [List.range_succ, List.foldl_append, ih, List.foldl_cons, List.foldl_nil, BitVec.toNat_ofNat, Nat.mul_succ, Nat.pow_add,
      Nat.mod_mul, Nat.mul_comm (2 ^ (32 * n))]

/-- Lanes of a view: one, two or four. -/
theorem viewLanes_cases (view : BitVec 2) : viewLanes view = 1 ∨ viewLanes view = 2 ∨ viewLanes view = 4 := by
  unfold viewLanes
  split <;> simp

theorem VReg.elem_congr {v w : VReg} (h : v.els = w.els) : v.elem = w.elem := by
  funext view r e
  rw [VReg.elem, VReg.elem, h]

/-- An element of a register reads as what the register was filled with, cut to the view's width (R109, R110). -/
theorem VReg.elem_fill (v : VReg) (view : BitVec 2) (f : Nat → Nat → VVal) {r e : Nat} (hr : r < 64) (he : e < viewCols view) :
    (v.fill view f).elem view r e = ⟨(f r e).bits % 2 ^ viewBits view, (BitVec.ofInt 8 (f r e).wrap).toInt⟩ := by
  have hlane : ∀ i, i < viewLanes view → SMap.get VEl.zero (v.fill view f).els (64 * r + viewLanes view * e + i) =
      VEl.mk (BitVec.ofNat 32 ((f r e).bits / 2 ^ (32 * i))) (if i = 0 then BitVec.ofInt 8 (f r e).wrap else 0) := by
    intro i hi
    have hcol : viewLanes view * e + i < 64 := by
      unfold viewCols at he
      obtain hl | hl | hl := viewLanes_cases view <;> rw [hl] at he hi ⊢ <;> omega
    have hrow : (64 * r + viewLanes view * e + i) / 64 = r := by omega
    have hword : (64 * r + viewLanes view * e + i) % 64 = viewLanes view * e + i := by omega
    have hel : (viewLanes view * e + i) / viewLanes view = e := by
      rw [Nat.mul_add_div (by omega), Nat.div_eq_of_lt hi, Nat.add_zero]
    have hin : (viewLanes view * e + i) % viewLanes view = i := by rw [Nat.mul_add_mod, Nat.mod_eq_of_lt hi]
    rw [VReg.get_fill, if_pos (by omega), hrow, hword, hel, hin]
  have hpos : 0 < viewLanes view := by obtain h | h | h := viewLanes_cases view <;> omega
  unfold VReg.elem
  dsimp only
  rw [List.foldl_ext _ (fun a i => a + (BitVec.ofNat 32 ((f r e).bits / 2 ^ (32 * i))).toNat * 2 ^ (32 * i)) 0
      fun a i hi => by rw [hlane i (List.mem_range.mp hi)],
    foldl_lanes, hlane 0 hpos, if_pos rfl, viewBits]

/-- The same for a value of the view's width without a wrap byte. -/
theorem VReg.elem_fill_word (v : VReg) (view : BitVec 2) (f : Nat → Nat → BitVec n) (hn : n ≤ viewBits view) {r e : Nat}
    (hr : r < 64) (he : e < viewCols view) : (v.fill view fun r e => ⟨(f r e).toNat, 0⟩).elem view r e = ⟨(f r e).toNat, 0⟩ := by
  rw [VReg.elem_fill _ _ _ hr he, Nat.mod_eq_of_lt (Nat.lt_of_lt_of_le (f r e).isLt (Nat.pow_le_pow_right (by decide) hn))]
  rfl

end Sys2Proof.Machine
end

section
/-! VCVT in its three forms (R117). -/

namespace Sys2Proof.Machine

open Sys2Proof

/-- A ready command of registers completes with what holds of every state that has the tile registers of its engine's answer `c`,
has the command in flight, and differs in its core's record alone. -/
theorem Completes.of_vecDone {s : State} {k : CoreId} {i : Instr} {c : Core} {P : State → Prop}
    (hx : exec i s = State.answer (s.issue k i)) (he : engOf i = some .vxe) (hr : Ready s k i)
    (heff : effect (s.seen k i) k ((s.core k).entryOf i) = vecDone (s.seen k i) k (some c))
    (hw : (s.seen k i).writes (iterOf (s.core k).loops) i = [])
    (hc : { c with vregs := ((s.seen k i).core k).vregs } = (s.seen k i).core k)
    (hP : ∀ t, (∀ v, (t.core k).vreg v = c.vreg v) → OnlyCore s t k → SameRegs s t k → InFlight s t k i .done Post.none → P t) :
    Completes i s P := by
  refine ⟨s.ran k i ((s.seen k i).setCore k c) Post.none, ?_, hP _ (fun v => ?_) (State.onlyCore_ran _ hw) ?_ (State.inFlight_ran ..)⟩
  · rw [hx, State.issue_vxe he hr heff]
    rfl
  · rw [State.ran_vreg, State.core_setCore_self]
  · exact State.ran_sameRegs _ _ _ _ _ (State.sameRegs_setCore_seen hc)

/-- A core whose register VD holds the words of `v`, with the sticky bits that VD has. -/
def Core.refill (c : Core) (vd : VRegId) (v : VReg) : Core :=
  c.setVreg vd { v with ovf := (c.vreg vd).ovf, nfin := (c.vreg vd).nfin }

/-- New words for VD: every other word and every sticky bit stands. -/
theorem Core.refill_spec (c : Core) (vd : VRegId) (v : VReg) (w : VRegId) :
    ((c.refill vd v).vreg w).els = (if w = vd then v.els else (c.vreg w).els)
      ∧ ((c.refill vd v).vreg w).ovf = (c.vreg w).ovf ∧ ((c.refill vd v).vreg w).nfin = (c.vreg w).nfin := by
  unfold Core.refill
  rw [Core.vreg_setVreg]
  by_cases hw : w = vd
  · subst hw; simp
  · simp [hw]

/-- A register that holds the words of a filled one reads element by element as what that was filled with. -/
theorem State.velem_of_fill {t : State} {k : CoreId} {vd : VRegId} {v : VReg} {view : BitVec 2} {n : Nat} {f : Nat → Nat → BitVec n}
    (hels : ((t.core k).vreg vd).els = (v.fill view fun r e => ⟨(f r e).toNat, 0⟩).els) (hn : n ≤ viewBits view) {r e : Nat}
    (hr : r < 64) (he : e < viewCols view) : t.velem k vd view r e = ⟨(f r e).toNat, 0⟩ := by
  rw [State.velem, VReg.elem_congr hels, VReg.elem_fill_word v view f hn hr he]

/-! VCVT (R117). -/

section
variable (core : Core) (c : VecF)

/-- The source words of VCVT, read out in the view (R110). -/
def vcvtWord (r e : Nat) : W32 := BitVec.ofNat 32 ((core.src c.view c.imm c.srca r e).word c.view).1

/-- An element of VCVT from F32 to I32, with its flags. -/
def vcvtInt (r e : Nat) : Int × Fl := toI32 ((f32 (vcvtWord core c r e)).mul (.fin false (pow2 c.se.toInt)))

/-- The flags of all the elements of VCVT from F32 to I32. -/
def vcvtFl : Fl := (List.range 4096).foldl (fun f x => f.or (vcvtInt core c (x / 64) (x % 64)).2) Fl.none

theorem vcvtWord_congr {d : Core} (hd : core.vregs = d.vregs) : vcvtWord core c = vcvtWord d c := by
  funext r e
  rw [vcvtWord, vcvtWord, Core.src_congr hd]

theorem vcvtInt_congr {d : Core} (hd : core.vregs = d.vregs) : vcvtInt core c = vcvtInt d c := by
  funext r e
  rw [vcvtInt, vcvtInt, vcvtWord_congr core c hd]

theorem effVcvt_toInt (hf : c.fn = 0) :
    effVcvt core c = some (((core.stickSrc c.view c.srca 64 64).refill c.vd
      ((core.vreg c.vd).fill 1 fun r e => ⟨(BitVec.ofInt 32 (vcvtInt core c r e).1).toNat, 0⟩)).stick c.vd (vcvtFl core c)) := by
  unfold effVcvt
  rw [hf]
  rfl

theorem effVcvt_toFloat (hf : c.fn = 1) :
    effVcvt core c = some ((core.stickSrc c.view c.srca 64 64).refill c.vd
      ((core.vreg c.vd).fill 0 fun r e => ⟨(toF32 (FV.ofRat (((vcvtWord core c r e).toInt : Int) : ℚ))).toNat, 0⟩)) := by
  unfold effVcvt
  rw [hf]
  rfl

theorem effVcvt_toWide (hf : c.fn = 2) :
    effVcvt core c = some ((core.stickSrc c.view c.srca 64 32).refill c.vd
      ((core.vreg c.vd).fill 2 fun r e => ⟨(BitVec.ofInt 64 (vcvtWord core c r e).toInt).toNat, 0⟩)) := by
  unfold effVcvt
  rw [hf]
  rfl
end

/-- Sticky bits stand in the tile registers. -/
theorem Core.stick_rest (c : Core) (v : VRegId) (f : Fl) (vs : SMap VReg) : { c.stick v f with vregs := vs } = { c with vregs := vs } := rfl

/-- A source's sticky bit and new words of VD change the tile registers alone. -/
theorem Core.refill_stickSrc_rest (c : Core) (view : BitVec 2) (f : Src) (rows cols : Nat) (vd : VRegId) (v : VReg) :
    { (c.stickSrc view f rows cols).refill vd v with vregs := c.vregs } = c := Core.stickSrc_rest c view f rows cols

/-- The registers after a source has been read out and VD has been given new words. -/
theorem Core.refill_stickSrc_spec (c : Core) (view : BitVec 2) (f : Src) (rows cols : Nat) (vd : VRegId) (v : VReg) (w : VRegId) :
    (((c.stickSrc view f rows cols).refill vd v).vreg w).els = (if w = vd then v.els else (c.vreg w).els)
      ∧ (((c.stickSrc view f rows cols).refill vd v).vreg w).ovf =
          ((c.vreg w).ovf || (decide (f.reg = w) && c.srcSat view f rows cols))
      ∧ (((c.stickSrc view f rows cols).refill vd v).vreg w).nfin = (c.vreg w).nfin := by
  obtain ⟨hels, hovf, hnfin⟩ := (c.stickSrc view f rows cols).refill_spec vd v w
  obtain ⟨hels', hovf', hnfin'⟩ := c.stickSrc_spec view f rows cols w
  exact ⟨by rw [hels, hels'], hovf.trans hovf', hnfin.trans hnfin'⟩

/-- A sign-extended word stands in 64 bits. -/
theorem toInt_ofInt_64 (w : W32) : (BitVec.ofNat 64 (BitVec.ofInt 64 w.toInt).toNat).toInt = w.toInt := by
  rw [BitVec.ofNat_toNat, BitVec.setWidth_eq, BitVec.toInt_ofInt]
  have hlo := BitVec.le_toInt w
  have hhi := BitVec.toInt_lt (x := w)
  exact Int.bmod_eq_of_le (by omega) (by omega)

section
variable {s : State} {k : CoreId} {h : Hdr} {c : VecF} {P : State → Prop}

/-- A ready VCVT completes with what holds of every state that has the tile registers of `effVcvt` on the core before it. -/
theorem Completes.of_vcvt {t : Core → Core} (hr : Ready s k (.vcvt k h c)) (heff : ∀ core : Core, effVcvt core c = some (t core))
    (hrest : ∀ core : Core, { t core with vregs := core.vregs } = core)
    (hP : ∀ u d, d.vregs = (s.core k).vregs → (∀ v, (u.core k).vreg v = (t d).vreg v) → OnlyCore s u k → SameRegs s u k → P u) :
    Completes (.vcvt k h c) s P := by
  have hdone : effect (s.seen k (.vcvt k h c)) k ((s.core k).entryOf (.vcvt k h c)) =
      vecDone (s.seen k (.vcvt k h c)) k (effVcvt ((s.seen k (.vcvt k h c)).core k) c) := rfl
  rw [heff] at hdone
  have hw : (s.seen k (.vcvt k h c)).writes (iterOf (s.core k).loops) (.vcvt k h c) = [] := rfl
  have hx : exec (.vcvt k h c) s = State.answer (s.issue k (.vcvt k h c)) := rfl
  have he : engOf (.vcvt k h c) = some .vxe := rfl
  refine Completes.of_vecDone hx he hr hdone hw ?_ ?_
  · exact hrest _
  · exact fun u hu hcore hregs _ => hP u _ (State.seen_vregs s k _) hu hcore hregs

/-- VCVT from F32 to I32 (R117). -/
theorem completes_vcvt_toInt (hr : Ready s k (.vcvt k h c)) (hf : c.fn = 0) (hv : c.view = 0) :
    Completes (.vcvt k h c) s fun t =>
      (∀ r e, r < 64 → e < 64 → t.velem k c.vd 1 r e = ⟨(BitVec.ofInt 32 (vcvtInt (s.core k) c r e).1).toNat, 0⟩)
        ∧ OnlyCore s t k ∧ SameRegs s t k
        ∧ (∀ v, v ≠ c.vd → ((t.core k).vreg v).els = ((s.core k).vreg v).els)
        ∧ (((t.core k).vreg c.vd).nfin = true ↔
            ((s.core k).vreg c.vd).nfin = true ∨ ∃ r e, r < 64 ∧ e < 64 ∧ (vcvtInt (s.core k) c r e).2.nfin = true)
        ∧ (((t.core k).vreg c.vd).ovf = true ↔
            ((s.core k).vreg c.vd).ovf = true ∨ (c.srca.reg = c.vd ∧ (s.core k).srcSat 0 c.srca 64 64 = true)
              ∨ ∃ r e, r < 64 ∧ e < 64 ∧ (vcvtInt (s.core k) c r e).2.ovf = true) := by
  refine .of_vcvt hr (fun core => effVcvt_toInt core c hf) (fun core => ?_) ?_
  · rw [Core.stick_rest]
    exact Core.refill_stickSrc_rest core ..
  intro t d hd ht hcore hregs
  have hfl : vcvtFl d c = vcvtFl (s.core k) c := by rw [vcvtFl, vcvtFl, vcvtInt_congr d c hd]
  have hels : ∀ v, ((t.core k).vreg v).els = if v = c.vd then
      ((d.vreg c.vd).fill 1 fun r e => ⟨(BitVec.ofInt 32 (vcvtInt (s.core k) c r e).1).toNat, 0⟩).els
      else ((s.core k).vreg v).els := fun v => by
    rw [ht, (Core.stick_spec ..).1, (Core.refill_stickSrc_spec ..).1, vcvtInt_congr d c hd, Core.vreg_congr hd]
  refine ⟨fun r e hr he => ?_, hcore, hregs, fun v hv => ?_, ?_, ?_⟩
  · exact State.velem_of_fill (f := fun r e => BitVec.ofInt 32 (vcvtInt (s.core k) c r e).1) ((hels c.vd).trans (if_pos rfl))
      (by decide) hr he
  · rw [hels, if_neg hv]
  · rw [ht, (Core.stick_spec ..).2.2, (Core.refill_stickSrc_spec ..).2.2, hfl, vcvtFl, Fl.foldl_or_nfin, Core.vreg_congr hd,
      ← any_words_iff fun r e => (vcvtInt (s.core k) c r e).2.nfin]
    simp [Fl.none]
  · rw [ht, (Core.stick_spec ..).2.1, (Core.refill_stickSrc_spec ..).2.1, hfl, vcvtFl, Fl.foldl_or_ovf, Core.vreg_congr hd,
      Core.srcSat_congr hd, hv, ← any_words_iff fun r e => (vcvtInt (s.core k) c r e).2.ovf]
    simp [Fl.none, or_assoc]

/-- VCVT from I32 to F32 (R117). -/
theorem completes_vcvt_toFloat (hr : Ready s k (.vcvt k h c)) (hf : c.fn = 1) (hv : c.view = 1) :
    Completes (.vcvt k h c) s fun t =>
      (∀ r e, r < 64 → e < 64 → t.velem k c.vd 0 r e = ⟨(toF32 (FV.ofRat (((vcvtWord (s.core k) c r e).toInt : Int) : ℚ))).toNat, 0⟩)
        ∧ OnlyCore s t k ∧ SameRegs s t k ∧ VregsBut s t k c.vd 1 [c.srca] := by
  refine .of_vcvt hr (fun core => effVcvt_toFloat core c hf) (fun core => Core.refill_stickSrc_rest core ..) ?_
  intro t d hd ht hcore hregs
  have hels : ∀ v, ((t.core k).vreg v).els = if v = c.vd then
      ((d.vreg c.vd).fill 0 fun r e => ⟨(toF32 (FV.ofRat (((vcvtWord (s.core k) c r e).toInt : Int) : ℚ))).toNat, 0⟩).els
      else ((s.core k).vreg v).els := fun v => by
    rw [ht, (Core.refill_stickSrc_spec ..).1, vcvtWord_congr d c hd, Core.vreg_congr hd]
  refine ⟨fun r e hr he => ?_, hcore, hregs, fun v hv => ?_, fun v => ?_, fun v => ?_⟩
  · exact State.velem_of_fill (f := fun r e => toF32 (FV.ofRat (((vcvtWord (s.core k) c r e).toInt : Int) : ℚ))) ((hels c.vd).trans (if_pos rfl))
      (by decide) hr he
  · rw [hels, if_neg hv]
  · rw [ht, (Core.refill_stickSrc_spec ..).2.2, Core.vreg_congr hd]
  · rw [ht, (Core.refill_stickSrc_spec ..).2.1, Core.vreg_congr hd, Core.srcSat_congr hd, hv, List.any_cons, List.any_nil, Bool.or_false]
    rfl

/-- VCVT from I32 to I64 (R117). -/
theorem completes_vcvt_toWide (hr : Ready s k (.vcvt k h c)) (hf : c.fn = 2) (hv : c.view = 1) :
    Completes (.vcvt k h c) s fun t =>
      (∀ r e, r < 64 → e < 32 → (t.velem k c.vd 2 r e).int 2 = (vcvtWord (s.core k) c r e).toInt ∧ (t.velem k c.vd 2 r e).wrap = 0)
        ∧ OnlyCore s t k ∧ SameRegs s t k
        ∧ (∀ v, v ≠ c.vd → ((t.core k).vreg v).els = ((s.core k).vreg v).els)
        ∧ (∀ v, ((t.core k).vreg v).nfin = ((s.core k).vreg v).nfin)
        ∧ ∀ v, ((t.core k).vreg v).ovf =
            (((s.core k).vreg v).ovf || (decide (c.srca.reg = v) && (s.core k).srcSat 1 c.srca 64 32)) := by
  refine .of_vcvt hr (fun core => effVcvt_toWide core c hf) (fun core => Core.refill_stickSrc_rest core ..) ?_
  intro t d hd ht hcore hregs
  have hels : ∀ v, ((t.core k).vreg v).els = if v = c.vd then
      ((d.vreg c.vd).fill 2 fun r e => ⟨(BitVec.ofInt 64 (vcvtWord (s.core k) c r e).toInt).toNat, 0⟩).els
      else ((s.core k).vreg v).els := fun v => by
    rw [ht, (Core.refill_stickSrc_spec ..).1, vcvtWord_congr d c hd, Core.vreg_congr hd]
  refine ⟨fun r e hr he => ?_, hcore, hregs, fun v hv => ?_, fun v => ?_, fun v => ?_⟩
  · rw [State.velem_of_fill (f := fun r e => BitVec.ofInt 64 (vcvtWord (s.core k) c r e).toInt) ((hels c.vd).trans (if_pos rfl))
      (by decide) hr he]
    exact ⟨toInt_ofInt_64 _, rfl⟩
  · rw [hels, if_neg hv]
  · rw [ht, (Core.refill_stickSrc_spec ..).2.2, Core.vreg_congr hd]
  · rw [ht, (Core.refill_stickSrc_spec ..).2.1, Core.vreg_congr hd, Core.srcSat_congr hd, hv]
end

/-- Settles O5, by the three forms of VCVT. -/
theorem vectorConverts : Obligations.VectorConverts := by
  unfold Obligations.VectorConverts
  intro s k h c hr g one
  exact ⟨completes_vcvt_toInt hr, completes_vcvt_toFloat hr, completes_vcvt_toWide hr⟩

end Sys2Proof.Machine
end

section
/-! The word of a grid contribution (R55, R277, R278). -/

namespace Sys2Proof.Machine

open Sys2Proof

/-! Rounding to a grid word (R55). -/

/-- A rounding step answers at least the integer part of what it rounds. -/
theorem Rnd.floorNat_le_step (rd : Rnd) (n : ℚ) : floorNat n ≤ rd.step n := by
  cases rd with
  | rne => unfold Rnd.step rneNat; dsimp only; split <;> omega
  | sr u => unfold Rnd.step srNat; dsimp only; split <;> omega

/-- An integer below a value is at most its integer part. -/
theorem le_floorNat {m : Nat} {n : ℚ} (h : (m : ℚ) ≤ n) : m ≤ floorNat n := by
  have hn : 0 ≤ n := le_trans (Nat.cast_nonneg m) h
  have hnum : 0 ≤ n.num := Rat.num_nonneg.mpr hn
  unfold floorNat
  rw [Nat.le_div_iff_mul_le n.den_pos]
  have hmul : (m : ℚ) * n.den ≤ n.num := by
    rw [← Rat.mul_den_eq_num n]
    exact mul_le_mul_of_nonneg_right h (Nat.cast_nonneg _)
  have hint : (m : ℤ) * n.den ≤ n.num := by exact_mod_cast hmul
  omega

theorem natAbs_ite_neg (neg : Bool) (z : Int) : (if neg then -z else z).natAbs = z.natAbs := by
  split
  · exact Int.natAbs_neg z
  · rfl

/-- A grid word stays in the symmetric range of its width (R55). -/
theorem toGrid_range (w : Nat) (rd : Rnd) (e : Int) (neg : Bool) (a : ℚ) :
    (toGrid w rd e neg a).1.natAbs ≤ 2 ^ (w - 1) - 1 := by
  unfold toGrid
  dsimp only
  split
  · rw [natAbs_ite_neg, Int.natAbs_natCast]
  · rw [natAbs_ite_neg, Int.natAbs_natCast]
    exact min_le_right ..

/-- A magnitude that rounds to a multiple within the range gives that multiple with its sign. -/
theorem toGrid_of_step_le {w : Nat} {rd : Rnd} {e : Int} {a : ℚ} (neg : Bool) (h : rd.step (a * pow2 (-e)) ≤ 2 ^ (w - 1) - 1) :
    (toGrid w rd e neg a).1 = if neg then -(rd.step (a * pow2 (-e)) : Int) else (rd.step (a * pow2 (-e)) : Int) := by
  unfold toGrid
  dsimp only
  split
  next hbig =>
    have hlim : rd.step (a * pow2 (-e)) = 2 ^ (w - 1) - 1 := by
      refine le_antisymm h (le_trans (le_floorNat ?_) (rd.floorNat_le_step _))
      linarith
    rw [hlim]
  next => rw [min_eq_left h]

/-! The contribution to a grid word (R277). -/

/-- The largest word of a width, as the model writes it in the naturals and in the integers. -/
theorem cast_gridLim (w : Nat) : ((2 ^ (w - 1) - 1 : Nat) : Int) = 2 ^ (w - 1) - 1 := by
  rw [Nat.cast_sub Nat.one_le_two_pow]
  norm_cast

section
variable (g : GExp) (w : Nat) (rd : Rnd)

theorem gridContrib_fin (sg : Bool) (a : ℚ) : (gridContrib g w rd (.fin sg a)).1 = (toGrid w rd g.e.toInt sg a).1 := rfl

theorem gridContrib_inf (sg : Bool) :
    (gridContrib g w rd (.inf sg)).1 = if sg then -(2 ^ (w - 1) - 1 : Int) else 2 ^ (w - 1) - 1 := rfl

theorem gridContrib_nan : (gridContrib g w rd .nan).1 = 0 := rfl

/-- GOVF tells that the word's magnitude exceeds BMAX (R278). -/
theorem gridContrib_govf (v : FV) :
    (gridContrib g w rd v).2.2.2 = decide (g.bmaxlo.toNat + 2 ^ 32 * g.bmaxhi.toNat < (gridContrib g w rd v).1.natAbs) := by
  unfold gridContrib
  exact decide_eq_decide.mpr Nat.cast_lt

/-- OVF is set with GOVF. -/
theorem gridContrib_ovf_of_govf {v : FV} (h : (gridContrib g w rd v).2.2.2 = true) : (gridContrib g w rd v).2.1.ovf = true := by
  unfold gridContrib at h ⊢
  exact Bool.or_eq_true_iff.mpr (.inr h)

/-- The word stays in the symmetric range of its width. -/
theorem gridContrib_range (v : FV) : (gridContrib g w rd v).1.natAbs ≤ 2 ^ (w - 1) - 1 := by
  cases v with
  | nan => rw [gridContrib_nan]; exact Nat.zero_le _
  | inf sg => rw [gridContrib_inf, natAbs_ite_neg, ← cast_gridLim, Int.natAbs_natCast]
  | fin sg a => rw [gridContrib_fin]; exact toGrid_range ..
end

/-- Settles O15: a finite value by the rounding to a grid word, an infinity and a NaN by their words. -/
theorem gridContribution : Obligations.GridContribution := by
  unfold Obligations.GridContribution
  intro g w rd _ lim bmax
  have hlim : ((2 ^ (w - 1) - 1 : Nat) : Int) = lim := cast_gridLim w
  refine ⟨fun v => ?_, ?_, fun sg => ⟨gridContrib_inf g w rd sg, ?_⟩, gridContrib_nan g w rd, rfl⟩
  · have hrange := gridContrib_range g w rd v
    refine ⟨by omega, by omega, ?_, gridContrib_ovf_of_govf g w rd⟩
    rw [gridContrib_govf, decide_eq_true_iff]
  · intro sg a _ q hq
    rw [gridContrib_fin]
    exact toGrid_of_step_le sg (by omega)
  · have hgovf := gridContrib_govf g w rd (.inf sg)
    rw [gridContrib_inf, natAbs_ite_neg] at hgovf
    change (⟨false || (gridContrib g w rd (.inf sg)).2.2.2, true⟩ : Fl) = _
    rw [hgovf, Bool.false_or]

end Sys2Proof.Machine
end

section
/-! VST (R112, R175): the bytes of its runs lie in the spans of the elements that it stores. -/

namespace Sys2Proof.Machine

open Sys2Proof

/-! Where runs lie. -/

/-- Every run lies within one of the byte ranges. -/
def Covers (ss : List Span) (rs : List Run) : Prop := ∀ r ∈ rs, ∃ x ∈ ss, x.1 ≤ r.1 ∧ r.1 + r.2.length ≤ x.1 + x.2

theorem Covers.outside {ss : List Span} {rs : List Run} (h : Covers ss rs) {a : Nat} (ha : Outside ss a) :
    ∀ r ∈ rs, a < r.1 ∨ r.1 + r.2.length ≤ a := by
  intro r hr
  obtain ⟨x, hx, hlo, hhi⟩ := h r hr
  have := ha x hx
  omega

theorem Covers.mono {ss ss' : List Span} {rs : List Run} (h : Covers ss rs) (hs : ∀ x ∈ ss, x ∈ ss') : Covers ss' rs := by
  intro r hr
  obtain ⟨x, hx, hb⟩ := h r hr
  exact ⟨x, hs x hx, hb⟩

theorem Covers.nil (ss : List Span) : Covers ss [] := fun _ h => absurd h (List.not_mem_nil)

/-- The bytes that `putBits` writes hold the bits and no byte more. -/
theorem putBits_run (m : List Host.Cell) (bit n v : Nat) :
    (putBits m bit n v).1 = bit / 8 ∧ (putBits m bit n v).2.length = (bit % 8 + n + 7) / 8 := ⟨rfl, leBytes_length ..⟩

/-- The runs that `putBits` gives for a list of values, each merged with the bits that those before it have left, are those of the
values' bits. -/
theorem foldl_putBits_runs {α : Type} (at' : α → Nat) (n : Nat) (val : α → Nat) (cs : List α) (m : List Host.Cell) (rs : List Run) :
    ∀ r ∈ (cs.foldl (fun (a : List Host.Cell × List Run) c =>
        let r := putBits a.1 (at' c) n (val c)
        (memWrite a.1 r.1 r.2, r :: a.2)) (m, rs)).2,
      r ∈ rs ∨ ∃ c ∈ cs, r.1 = at' c / 8 ∧ r.2.length = (at' c % 8 + n + 7) / 8 := by
  induction cs generalizing m rs with
  | nil => exact fun r hr => .inl hr
  | cons c cs ih =>
    intro r hr
    rw [List.foldl_cons] at hr
    obtain hmem | ⟨c', hc', hrun⟩ := ih _ _ r hr
    · obtain rfl | hmem := List.mem_cons.mp hmem
      · exact .inr ⟨c, by simp, putBits_run ..⟩
      · exact .inl hmem
    · exact .inr ⟨c', List.mem_cons_of_mem _ hc', hrun⟩

/-- The bytes of one element are among those of the elements. -/
theorem State.mem_posSpans (s : State) (d : Desc) {ps : List (List Nat)} {p : List Nat} (h : p ∈ ps) :
    ((8 * s.basePhys d + d.bitOff p) / 8, ((8 * s.basePhys d + d.bitOff p) % 8 + d.ebits + 7) / 8) ∈ s.posSpans d ps := by
  unfold State.posSpans
  exact List.mem_map_of_mem (f := fun p => ((8 * s.basePhys d + d.bitOff p) / 8, ((8 * s.basePhys d + d.bitOff p) % 8 + d.ebits + 7) / 8)) h

/-- The runs of element codes lie in the bytes of the elements (R36). -/
theorem codeRuns_covered (s : State) (m : List Host.Cell) (d : Desc) (cs : List (List Nat × Nat)) {ps : List (List Nat)}
    (h : ∀ c ∈ cs, c.1 ∈ ps) : Covers (s.posSpans d ps) (codeRuns m (s.basePhys d) d cs) := by
  intro r hr
  unfold codeRuns at hr
  split at hr
  next hbytes =>
    obtain ⟨c, hc, rfl⟩ := List.mem_map.mp hr
    refine ⟨_, s.mem_posSpans d (h c hc), ?_, ?_⟩
    · dsimp only; omega
    · dsimp only; rw [leBytes_length]; omega
  next =>
    rw [List.mem_reverse] at hr
    obtain hnil | ⟨c, hc, hlo, hlen⟩ := foldl_putBits_runs (fun c : List Nat × Nat => 8 * s.basePhys d + d.bitOff c.1) d.ebits (·.2) cs m [] r hr
    · exact absurd hnil List.not_mem_nil
    · refine ⟨_, s.mem_posSpans d (h c hc), ?_, ?_⟩
      · dsimp only; omega
      · dsimp only; omega

/-- The runs of whole elements of `n` bytes lie in the bytes of the elements. -/
theorem wholeRuns_covered {α : Type} (s : State) (d : Desc) (n : Nat) (hn : 8 * n ≤ d.ebits) (at' : α → List Nat) (val : α → Nat)
    (xs : List α) {ps : List (List Nat)} (h : ∀ x ∈ xs, at' x ∈ ps) :
    Covers (s.posSpans d ps) (xs.map fun x => (s.basePhys d + d.bitOff (at' x) / 8, leBytes n (val x))) := by
  intro r hr
  obtain ⟨x, hx, rfl⟩ := List.mem_map.mp hr
  refine ⟨_, s.mem_posSpans d (h x hx), ?_, ?_⟩
  · dsimp only; omega
  · dsimp only; rw [leBytes_length]; omega

/-- The runs of block scales or exponents lie in the bytes of the blocks of the elements (R40, R42). -/
theorem scaleRuns_covered (s : State) (m : List Host.Cell) {d : Desc} {f : Fmt} (hf : d.fmt = some f) (xs : List (Nat × Nat))
    {ps : List (List Nat)} (h : ∀ x ∈ xs, ∃ p ∈ ps, x.1 = d.block p) : Covers (s.scaleSpans d ps) (scaleRuns s m d f xs) := by
  have hspan : ∀ p ∈ ps, (if d.fmt = some .bx16 then (s.basePhys (s.desc (BitVec.ofNat 16 d.bscale)) + d.block p, 1)
      else (s.basePhys (s.desc (BitVec.ofNat 16 d.bscale)) + d.block p / 2, 1)) ∈ s.scaleSpans d ps := fun p hp =>
    List.mem_eraseDups.mpr (List.mem_map.mpr ⟨p, hp, rfl⟩)
  intro r hr
  unfold scaleRuns at hr
  dsimp only at hr
  split at hr
  next => exact absurd hr List.not_mem_nil
  split at hr
  next hbx =>
    obtain ⟨x, hx, rfl⟩ := List.mem_map.mp hr
    obtain ⟨p, hp, hblk⟩ := h x hx
    have hx := hspan p hp
    rw [if_pos (by rw [hf, hbx])] at hx
    exact ⟨_, hx, by rw [hblk], by rw [hblk, leBytes_length]⟩
  next hbx =>
    rw [List.mem_reverse] at hr
    obtain hnil | ⟨x, hx, hlo, hlen⟩ := foldl_putBits_runs
      (fun x : Nat × Nat => 8 * s.basePhys (s.desc (BitVec.ofNat 16 d.bscale)) + 4 * x.1) 4 (·.2) xs m [] r hr
    · exact absurd hnil List.not_mem_nil
    · obtain ⟨p, hp, hblk⟩ := h x hx
      have hx := hspan p hp
      rw [if_neg (by rw [hf]; simpa using hbx)] at hx
      refine ⟨_, hx, ?_, ?_⟩
      · dsimp only; omega
      · dsimp only; omega

/-! What a conversion stores, and where (R41, R45, R57, R58). -/

/-- An entry of a `zipWith` that keeps the index of its left list's entry has the index of one. -/
theorem fst_mem_of_mem_zipWith {α β γ δ : Type} (g : α × δ → β → γ) (xs : List (α × δ)) {ys : List β} {c : α × γ}
    (h : c ∈ List.zipWith (fun x y => (x.1, g x y)) xs ys) : ∃ x ∈ xs, c.1 = x.1 := by
  induction xs generalizing ys with
  | nil => simp at h
  | cons x xs ih =>
    cases ys with
    | nil => simp at h
    | cons y ys =>
      obtain rfl | h := List.mem_cons.mp h
      · exact ⟨x, by simp, rfl⟩
      · obtain ⟨z, hz, hc⟩ := ih h
        exact ⟨z, List.mem_cons_of_mem _ hz, hc⟩

/-- The indexes that a store of elements at `ps` writes: theirs, and the padding of the last block of a row (R41). -/
def storedAt (d : Desc) (ps : List (List Nat)) : List (List Nat) :=
  ps ++ if d.blocked then ps.flatMap fun p => (padOf d p).map (·.1) else []

section
variable {d : Desc} {f : Fmt} (hf : d.fmt = some f) (rts : W32) (rnd : List Nat → Rnd) (els : List StEl)
include hf

theorem Desc.blocked_iff : d.blocked = true ↔ f.blockScaled = true ∨ f = .bx16 := by
  unfold Desc.blocked
  rw [hf]
  simp

/-- A conversion stores codes at the elements' indexes and their padding alone. -/
theorem convStore_codes_at : ∀ c ∈ (convStore d f rts rnd els).codes, c.1 ∈ storedAt d (els.map (·.1)) := by
  intro c hc
  have hown : ∀ e ∈ els, e.1 ∈ storedAt d (els.map (·.1)) := fun e he => List.mem_append_left _ (List.mem_map_of_mem he)
  have hpad : d.blocked = true → ∀ e ∈ els, c ∈ padOf d e.1 → c.1 ∈ storedAt d (els.map (·.1)) := fun hb e he hc => by
    refine List.mem_append_right _ ?_
    rw [if_pos hb]
    exact List.mem_flatMap.mpr ⟨e.1, List.mem_map_of_mem he, List.mem_map_of_mem hc⟩
  unfold convStore at hc
  dsimp only at hc
  split at hc
  next hbx =>
    obtain hc | hc := List.mem_append.mp hc
    · obtain ⟨q, hq, hc⟩ := List.mem_flatMap.mp hc
      obtain ⟨b, -, rfl⟩ := List.mem_map.mp hq
      obtain ⟨e, he, hce⟩ := fst_mem_of_mem_zipWith _ _ hc
      rw [hce]
      exact hown e (List.mem_filter.mp he).1
    · obtain ⟨e, he, hc⟩ := List.mem_flatMap.mp hc
      exact hpad ((Desc.blocked_iff hf).mpr (.inr hbx)) e he hc
  next =>
    obtain hc | hc := List.mem_append.mp hc
    · rw [List.map_map] at hc
      obtain ⟨e, he, rfl⟩ := List.mem_map.mp hc
      exact hown e he
    · split at hc
      next hbs =>
        obtain ⟨e, he, hc⟩ := List.mem_flatMap.mp hc
        exact hpad ((Desc.blocked_iff hf).mpr (.inl hbs)) e he hc
      next => exact absurd hc List.not_mem_nil

/-- A conversion gives scales or exponents of the elements' blocks alone, and only in a format that runs in blocks. -/
theorem convStore_scales_of : ∀ x ∈ (convStore d f rts rnd els).scales, d.blocked = true ∧ ∃ p ∈ els.map (·.1), x.1 = d.block p := by
  intro x hx
  have hblock : ∀ b ∈ (els.map fun e => d.block e.1).eraseDups, ∃ p ∈ els.map (·.1), b = d.block p := fun b hb => by
    obtain ⟨e, he, rfl⟩ := List.mem_map.mp (List.mem_eraseDups.mp hb)
    exact ⟨e.1, List.mem_map_of_mem he, rfl⟩
  unfold convStore at hx
  by_cases hbx : f = .bx16
  · rw [if_pos hbx] at hx
    obtain ⟨q, hq, rfl⟩ := List.mem_map.mp hx
    obtain ⟨b, hb, rfl⟩ := List.mem_map.mp hq
    exact ⟨(Desc.blocked_iff hf).mpr (.inr hbx), hblock b hb⟩
  · rw [if_neg hbx] at hx
    have hx : x ∈ (if d.bscale = 0 then [] else _) := hx
    split at hx
    next => exact absurd hx List.not_mem_nil
    obtain ⟨b, hb, rfl⟩ := List.mem_map.mp hx
    split at hb
    next hbs => exact ⟨(Desc.blocked_iff hf).mpr (.inl hbs), hblock b hb⟩
    next => exact absurd hb List.not_mem_nil
end

end Sys2Proof.Machine
end

section
/-! The memory and the frame that a store leaves, and what VST makes of its register in each of its three ways (R111, R112, R175). -/

namespace Sys2Proof.Machine

open Sys2Proof

/-! Writing runs of bytes looks at no core. -/

section
variable (s : State) (cs : SMap Core)

theorem zeroInvalid_withCores (bs : List Nat) : zeroInvalid { s with cores := cs } bs = { zeroInvalid s bs with cores := cs } := by
  unfold zeroInvalid
  induction bs generalizing s with
  | nil => rfl
  | cons b bs ih =>
    have hstep := ih (if carriesCheck s (b * 4096) ∧ ¬ entryValid (chkGet s b) then { s with mem := memClear s.mem (b * 4096) 4096 } else s)
    rw [List.foldl_cons, List.foldl_cons, ← hstep]
    congr 1
    exact (apply_ite (fun u : State => { u with cores := cs }) (carriesCheck s (b * 4096) ∧ ¬ entryValid (chkGet s b))
      { s with mem := memClear s.mem (b * 4096) 4096 } s).symm

theorem stampBlocks_withCores (cvp : Nat) (bs : List Nat) :
    stampBlocks { s with cores := cs } cvp bs = { stampBlocks s cvp bs with cores := cs } := by
  unfold stampBlocks
  induction bs generalizing s with
  | nil => rfl
  | cons b bs ih =>
    have hstep := ih (if carriesCheck s (b * 4096) then
      { s with chk := SMap.set 0 s.chk b (mkEntry s.mem b cvp (s.stp.s.setWidth 16)) } else s)
    rw [List.foldl_cons, List.foldl_cons, ← hstep]
    congr 1
    exact (apply_ite (fun u : State => { u with cores := cs }) (carriesCheck s (b * 4096) = true)
      { s with chk := SMap.set 0 s.chk b (mkEntry s.mem b cvp (s.stp.s.setWidth 16)) } s).symm

theorem writeRuns_withCores (cvp : Nat) (rs : List Run) : writeRuns { s with cores := cs } cvp rs = { writeRuns s cvp rs with cores := cs } := by
  unfold writeRuns
  dsimp only
  rw [zeroInvalid_withCores]
  exact stampBlocks_withCores { zeroInvalid s (runBlocks rs) with
    mem := rs.foldl (fun m r => memWrite m r.1 r.2) (zeroInvalid s (runBlocks rs)).mem,
    mm := (zeroInvalid s (runBlocks rs)).mm.rewritten rs } cs cvp (runBlocks rs)
end

/-! Blocks that a part can be written of (R381). -/

/-- The block of an address carries no check value, or has a valid one. -/
def BlockOk (s : State) (a : Nat) : Prop := carriesCheck s (a / 4096 * 4096) = false ∨ entryValid (chkGet s (a / 4096)) = true

/-- Which blocks carry check values depends on the marks of HOST granules alone (R377). -/
theorem carriesCheck_congr {s t : State} (hs : t.mm.stageg = s.mm.stageg) (ho : t.mm.outg = s.mm.outg) (a : Nat) :
    carriesCheck t a = carriesCheck s a := by
  unfold carriesCheck isHostGranule
  rw [hs, ho]

theorem BlockOk.of_mm {s t : State} {a : Nat} (h : BlockOk s a) (hm : t.mm = s.mm)
    (hv : entryValid (chkGet s (a / 4096)) = true → entryValid (chkGet t (a / 4096)) = true) : BlockOk t a :=
  h.imp (fun hc => (carriesCheck_congr (by rw [hm]) (by rw [hm]) _).trans hc) hv

/-- An entry that is made is valid, so stamping blocks spoils none. -/
theorem BlockOk.stampBlocks {s : State} {a : Nat} (h : BlockOk s a) (cvp : Nat) (bs : List Nat) : BlockOk (stampBlocks s cvp bs) a := by
  unfold Machine.stampBlocks
  induction bs generalizing s with
  | nil => exact h
  | cons b bs ih =>
    rw [List.foldl_cons]
    refine ih ?_
    split
    · refine h.of_mm rfl fun hv => ?_
      rw [chkGet, SMap.get_set]
      split
      · exact entryValid_mkEntry ..
      · exact hv
    · exact h

/-- A write of runs leaves such a block one. -/
theorem BlockOk.writeRuns {s : State} {a : Nat} (h : BlockOk s a) (cvp : Nat) (rs : List Run) : BlockOk (writeRuns s cvp rs) a := by
  unfold Machine.writeRuns
  refine BlockOk.stampBlocks ?_ cvp _
  rw [zeroInvalid_eq]
  exact h.imp (carriesCheck_congr rfl rfl _).trans id

/-- A write keeps every byte outside the ranges that cover its runs, and so do two in turn. -/
theorem MemKept.writeRuns {s : State} {ss : List Span} {cvp : Nat} {rs : List Run} (h : Covers ss rs) : MemKept s (writeRuns s cvp rs) ss :=
  fun _ ha hb => writeRuns_kept s cvp rs (h.outside ha) hb

theorem MemKept.writeRuns_writeRuns {s : State} {ss : List Span} {cvp cvp' : Nat} {rs rs' : List Run} (h : Covers ss rs)
    (h' : Covers ss rs') : MemKept s (Machine.writeRuns (Machine.writeRuns s cvp rs) cvp' rs') ss := fun _ ha hb =>
  (writeRuns_kept _ cvp' rs' (h'.outside ha) (BlockOk.writeRuns hb cvp rs)).trans (writeRuns_kept s cvp rs (h.outside ha) hb)

theorem MemKept.of_mem {s t u : State} {ss : List Span} (h : MemKept s u ss) (hm : t.mem = u.mem) : MemKept s t ss := fun a ha hb => by
  rw [hm]
  exact h a ha hb

/-! What a store leaves: the frame `OnlyCoreMem`, from the state that the engine sees to the one after the command. -/

theorem OnlyCoreMem.seen (s : State) (k : CoreId) (i : Instr) : OnlyCoreMem s (s.seen k i) k :=
  ⟨State.seen_rest s k i, fun _ hj => State.seen_core_other s i hj, fun _ hb => hb⟩

section
variable {s u : State} {k : CoreId} (h : OnlyCoreMem s u k)
include h

theorem OnlyCoreMem.writeRuns (cvp : Nat) (rs : List Run) : OnlyCoreMem s (writeRuns u cvp rs) k := by
  obtain ⟨hrest, hothers, hpoison⟩ := h
  refine ⟨?_, fun j hj => ?_, fun b hb => ?_⟩
  · rw [writeRuns_eq]
    exact hrest
  · rw [State.core, writeRuns_cores]
    exact hothers j hj
  · rw [writeRuns_mm] at hb
    exact hpoison b (List.mem_filter.mp hb).1

theorem OnlyCoreMem.withFree (n : Nat) : OnlyCoreMem s { u with free := n } k := by
  obtain ⟨hrest, hothers, hpoison⟩ := h
  exact ⟨hrest, hothers, hpoison⟩

theorem OnlyCoreMem.modCore (f : Core → Core) : OnlyCoreMem s (u.modCore k f) k := by
  obtain ⟨hrest, hothers, hpoison⟩ := h
  exact ⟨hrest, fun j hj => (State.core_modCore_other u f hj).trans (hothers j hj), hpoison⟩

theorem OnlyCoreMem.ran (i : Instr) (p : Post) : OnlyCoreMem s (s.ran k i u p) k := by
  obtain ⟨hrest, hothers, hpoison⟩ := h
  exact ⟨hrest, fun j hj => (State.ran_core_other s k i u p hj).trans (hothers j hj), hpoison⟩
end

/-- The tile registers and the other registers of core `k`, as a store's engine leaves them before it clears the sticky bits. -/
structure RegsKept (s u : State) (k : CoreId) : Prop where
  vregs : SameVregs s u k
  regs  : SameRegs s u k

theorem RegsKept.seen (s : State) (k : CoreId) (i : Instr) : RegsKept s (s.seen k i) k :=
  ⟨State.seen_vregs s k i, State.seen_sameRegs s k i⟩

section
variable {s u : State} {k : CoreId} (h : RegsKept s u k)
include h

/-- A state with the same record of the core keeps what the core keeps. -/
theorem RegsKept.of_core {t : State} (ht : t.core k = u.core k) : RegsKept s t k := by
  obtain ⟨hvregs, htiles, hlt, hgexp, hupe, hlcnt, hloops⟩ := h
  refine ⟨?_, ?_⟩
  · rw [SameVregs, ht, hvregs]
  · constructor <;> rw [ht] <;> assumption

theorem RegsKept.writeRuns (cvp : Nat) (rs : List Run) : RegsKept s (writeRuns u cvp rs) k :=
  h.of_core (by rw [State.core, writeRuns_cores]; rfl)

/-- Counting changes the event counters alone. -/
theorem RegsKept.modCore_evc {f : Core → Core} (hf : ∀ c, ∃ v, f c = { c with evc := v }) : RegsKept s (u.modCore k f) k := by
  obtain ⟨hvregs, htiles, hlt, hgexp, hupe, hlcnt, hloops⟩ := h
  obtain ⟨v, hv⟩ := hf (u.core k)
  refine ⟨?_, ?_⟩
  · rw [SameVregs, State.core_modCore_self, hv, hvregs]
  · constructor <;> rw [State.core_modCore_self, hv] <;> assumption
end

/-! Where a conversion's codes and scales go. -/

/-- Runs at the elements and their padding lie where the store may write. -/
theorem Covers.of_codes {s : State} {d : Desc} {ps : List (List Nat)} {rs : List Run} (h : Covers (s.posSpans d (storedAt d ps)) rs) :
    Covers (s.storedSpans d ps) rs := h.mono fun _ hx => List.mem_append_left _ hx

/-- Runs at the scales or exponents of the elements' blocks lie where the store may write. -/
theorem Covers.of_scales {s : State} {d : Desc} {ps : List (List Nat)} {rs : List Run} (hb : d.blocked = true) (hs : d.bscale ≠ 0)
    (h : Covers (s.scaleSpans d ps) rs) : Covers (s.storedSpans d ps) rs := h.mono fun x hx => by
  refine List.mem_append_right _ ?_
  rw [if_pos ⟨hb, hs⟩]
  exact hx

/-- The runs of a conversion's scales or exponents lie where the store may write (R40, R41, R42). -/
theorem scaleRuns_stored (s : State) (m : List Host.Cell) {d : Desc} {f : Fmt} (hf : d.fmt = some f) (rts : W32) (rnd : List Nat → Rnd)
    (els : List StEl) (hs : d.bscale ≠ 0) :
    Covers (s.storedSpans d (els.map (·.1))) (scaleRuns s m d f (convStore d f rts rnd els).scales) := by
  have hof := convStore_scales_of hf rts rnd els
  by_cases hb : d.blocked = true
  · exact Covers.of_scales hb hs (scaleRuns_covered s m hf _ fun x hx => (hof x hx).2)
  · have hnil : (convStore d f rts rnd els).scales = [] := List.eq_nil_iff_forall_not_mem.mpr fun x hx => hb (hof x hx).1
    intro r hr
    rw [hnil] at hr
    unfold scaleRuns at hr
    simp [hs] at hr

/-- The event counters of a core after a conversion (R475). -/
def Conv.count (v : Conv) (x : Core) : Core := (((x.count 0x22 v.ovf).count 0x23 v.nfin).count 0x24 v.zero).count 0x26 v.up

theorem Conv.count_evc (v : Conv) (x : Core) : ∃ evc, v.count x = { x with evc := evc } := by
  simp only [Conv.count, Core.count]
  exact ⟨_, rfl⟩

/-- A conversion's writes: the codes, then the scales or exponents of blocks (R40, R42). -/
def convWrites (s : State) (d : Desc) (f : Fmt) (st : Stored) : State :=
  let one := writeRuns s d.cvp (codeRuns s.mem (s.basePhys d) d st.codes)
  if d.bscale = 0 then one else writeRuns one (s.desc (BitVec.ofNat 16 d.bscale)).cvp (scaleRuns s one.mem d f st.scales)

theorem convWrites_withCores (s : State) (cs : SMap Core) (d : Desc) (f : Fmt) (st : Stored) :
    convWrites { s with cores := cs } d f st = { convWrites s d f st with cores := cs } := by
  have hone : writeRuns { s with cores := cs } d.cvp (codeRuns s.mem (s.basePhys d) d st.codes) = _ := writeRuns_withCores s cs _ _
  by_cases hs : d.bscale = 0
  · simp only [convWrites, if_pos hs]
    exact hone
  · simp only [convWrites, if_neg hs]
    calc _ = writeRuns { writeRuns s d.cvp (codeRuns s.mem (s.basePhys d) d st.codes) with cores := cs } _ _ :=
          congrArg (fun u : State => writeRuns u (s.desc (BitVec.ofNat 16 d.bscale)).cvp (scaleRuns s u.mem d f st.scales)) hone
      _ = _ := writeRuns_withCores _ cs _ _

theorem OnlyCoreMem.convWrites {s u : State} {k : CoreId} (h : OnlyCoreMem s u k) (d : Desc) (f : Fmt) (st : Stored) :
    OnlyCoreMem s (convWrites u d f st) k := by
  unfold Machine.convWrites
  dsimp only
  split
  · exact h.writeRuns ..
  · exact (h.writeRuns ..).writeRuns ..

theorem RegsKept.convWrites {s u : State} {k : CoreId} (h : RegsKept s u k) (d : Desc) (f : Fmt) (st : Stored) :
    RegsKept s (convWrites u d f st) k := by
  unfold Machine.convWrites
  dsimp only
  split
  · exact h.writeRuns ..
  · exact (h.writeRuns ..).writeRuns ..

/-- What a conversion writes lies in the spans of the elements that it stores. -/
theorem MemKept.convWrites {s : State} {d : Desc} {f : Fmt} (hf : d.fmt = some f) (rts : W32) (rnd : List Nat → Rnd) (els : List StEl) :
    MemKept s (convWrites s d f (convStore d f rts rnd els)) (s.storedSpans d (els.map (·.1))) := by
  have hcodes := Covers.of_codes (codeRuns_covered s s.mem d _ (convStore_codes_at hf rts rnd els))
  unfold Machine.convWrites
  dsimp only
  split
  next => exact MemKept.writeRuns hcodes
  next hs => exact MemKept.writeRuns_writeRuns hcodes (scaleRuns_stored s _ hf rts rnd els hs)

/-! VST (R111, R112, R175). -/

/-- A core whose register VD has its sticky bits cleared (R111). -/
def Core.clearSticky (c : Core) (vd : VRegId) : Core := c.setVreg vd { c.vreg vd with ovf := false, nfin := false }

/-- What VST makes of its writes `r`, from register `reg`: the register's sticky bits pass to the tensor, with OVF too where a readout
has saturated (R110, R111). -/
def vstDone (k : CoreId) (vd : VRegId) (hh : W16) (reg : VReg) (r : State × Post) (sat : Bool) : State × Post :=
  (r.1.modCore k fun x => x.clearSticky vd, r.2.flags hh ⟨reg.ovf || sat, reg.nfin⟩)

section
variable {s : State} {k : CoreId} {e : Ent} {h : Hdr} {c : VmemF} {d : Desc} {f : Fmt} (hd : s.desc (vmemHandle c h e.iter) = d)
  (hf : d.fmt = some f) (hlt : f ≠ .lt320) (hal : d.alay = false)
include hd hf hlt hal

/-- VST of a raw format (R112): the words as they are read out. -/
theorem effVst_raw (h0 : c.view ≠ 0) (hraw : rawView f = some c.view) :
    ∃ p sat, effVst s k e h c = some (vstDone k c.vd (vmemHandle c h e.iter) ((s.core k).vreg c.vd) (writeRuns s d.cvp
      ((regionPos d c (viewCols c.view)).map fun p => (s.basePhys d + d.bitOff p.2.2 / 8,
        leBytes (viewBits c.view / 8) ((((s.core k).vreg c.vd).elem c.view p.1 p.2.1).word c.view).1)), p) sat) := by
  unfold effVst
  dsimp only
  rw [hd, hf]
  simp only [hal, Bool.false_eq_true, hlt, or_self, if_false, h0, hraw, ne_eq, not_true_eq_false, List.map_map]
  exact ⟨_, _, rfl⟩

/-- VST into a grid format (R55). -/
theorem effVst_grid (h0 : c.view = 0) (ht : f ≠ .t128) (hg : f.grid = true) :
    ∃ sat, effVst s k e h c = some (vstDone k c.vd (vmemHandle c h e.iter) ((s.core k).vreg c.vd)
      (vstGrid s e (vmemHandle c h e.iter) d f.bits c.se.toInt ((regionPos d c 64).map fun p =>
        (p.2.2, f32 (BitVec.ofNat 32 ((((s.core k).vreg c.vd).elem 0 p.1 p.2.1).word 0).1)))) sat) := by
  unfold effVst
  dsimp only
  rw [hd, hf]
  simp only [hal, Bool.false_eq_true, hlt, or_self, if_false, h0, if_true, ht, hg]
  exact ⟨_, rfl⟩

/-- VST into an element format (R57): codes, then the scales or exponents of blocks; the conversion's counts go to the event
counters (R475). -/
theorem effVst_convert {st : Stored} (h0 : c.view = 0) (ht : f ≠ .t128) (hg : f.grid = false)
    (hst : convStore d f (s.scaleRec d.scale).2 (s.rndOf d 0 (vmemHandle c h e.iter) e.tag e.x) ((regionPos d c 64).map fun p =>
      (p.2.2, (f32 (BitVec.ofNat 32 ((((s.core k).vreg c.vd).elem 0 p.1 p.2.1).word 0).1)).mul (.fin false (pow2 c.se.toInt)))) = st) :
    ∃ p sat, effVst s k e h c = some (vstDone k c.vd (vmemHandle c h e.iter) ((s.core k).vreg c.vd)
      ((convWrites s d f st).modCore k st.conv.count, p) sat) := by
  subst hst
  unfold effVst
  dsimp only
  rw [hd, hf]
  simp only [hal, Bool.false_eq_true, hlt, or_self, if_false, h0, if_true, ht, hg]
  exact ⟨_, _, rfl⟩
end

end Sys2Proof.Machine
end

section
/-! VST completes (R111, R112, R502). -/

namespace Sys2Proof.Machine

open Sys2Proof

theorem Post.mem_flags_ovf (p : Post) (h : W16) {f : Fl} (hf : f.ovf = true) : h ∈ (p.flags h f).ovf := by
  simp [Post.flags, hf]

theorem Post.mem_flags_nfin (p : Post) (h : W16) {f : Fl} (hf : f.nfin = true) : h ∈ (p.flags h f).nfin := by
  simp [Post.flags, hf]

/-- What VST leaves of the registers, and of the state beside memory: the words of VD stand and its sticky bits pass to the tensor at
release; nothing else of the registers changes (R111). -/
structure VstLeaves (s t : State) (k : CoreId) (h : Hdr) (c : VmemF) : Prop where
  els    : ((t.core k).vreg c.vd).els = ((s.core k).vreg c.vd).els
  ovf    : ((t.core k).vreg c.vd).ovf = false
  nfin   : ((t.core k).vreg c.vd).nfin = false
  flies  : ∃ p, InFlight s t k (.vst k h c) .done p ∧ (((s.core k).vreg c.vd).ovf = true → s.handleNow k h 0 c.h ∈ p.ovf)
    ∧ (((s.core k).vreg c.vd).nfin = true → s.handleNow k h 0 c.h ∈ p.nfin)
  others : ∀ v, v ≠ c.vd → (t.core k).vreg v = (s.core k).vreg v
  frame  : OnlyCoreMem s t k
  regs   : SameRegs s t k

section
variable {s : State} {k : CoreId} {h : Hdr} {c : VmemF}

/-- A ready VST completes with what holds of every state that has the memory of its writes `u` and the registers that VST leaves. -/
theorem Completes.of_vst {u : State} {q : Post} {sat : Bool} {P : State → Prop} (hr : Ready s k (.vst k h c))
    (heff : effVst (s.seen k (.vst k h c)) k ((s.core k).entryOf (.vst k h c)) h c = some (vstDone k c.vd (s.handleNow k h 0 c.h)
      ((s.core k).vreg c.vd) (u, q) sat))
    (hframe : OnlyCoreMem s u k) (hregs : RegsKept s u k)
    (hP : ∀ t, t.mem = u.mem → t.chk = u.chk → VstLeaves s t k h c → P t) : Completes (.vst k h c) s P := by
  obtain ⟨hvregs, hsame⟩ := hregs
  have hdone : effect (s.seen k (.vst k h c)) k ((s.core k).entryOf (.vst k h c)) =
      effVst (s.seen k (.vst k h c)) k ((s.core k).entryOf (.vst k h c)) h c := rfl
  rw [heff] at hdone
  have hx : exec (.vst k h c) s = State.answer (s.issue k (.vst k h c)) := rfl
  have he : engOf (.vst k h c) = some .vxe := rfl
  have hvreg : ∀ p v, ((s.ran k (.vst k h c) (u.modCore k fun x => x.clearSticky c.vd) p).core k).vreg v =
      if v = c.vd then { (s.core k).vreg c.vd with ovf := false, nfin := false } else (s.core k).vreg v := fun p v => by
    rw [State.ran_vreg, State.core_modCore_self, Core.clearSticky, Core.vreg_setVreg, Core.vreg_congr hvregs]
  have hrun : exec (.vst k h c) s = .next (s.ran k (.vst k h c) (u.modCore k fun x => x.clearSticky c.vd)
      (q.flags (s.handleNow k h 0 c.h) ⟨((s.core k).vreg c.vd).ovf || sat, ((s.core k).vreg c.vd).nfin⟩)) := by
    rw [hx, State.issue_vxe he hr hdone]
    rfl
  refine ⟨_, hrun, hP _ rfl rfl ?_⟩
  refine ⟨by rw [hvreg, if_pos rfl], by rw [hvreg, if_pos rfl], by rw [hvreg, if_pos rfl], ⟨_, State.inFlight_ran .., ?_, ?_⟩, ?_, ?_, ?_⟩
  · exact fun hovf => Post.mem_flags_ovf _ _ (by rw [hovf, Bool.true_or])
  · exact fun hnfin => Post.mem_flags_nfin _ _ hnfin
  · exact fun v hv => by rw [hvreg, if_neg hv]
  · exact (hframe.modCore _).ran _ _
  · refine State.ran_sameRegs _ _ _ _ _ ?_
    obtain ⟨htiles, hlt, hgexp, hupe, hlcnt, hloops⟩ := hsame
    constructor <;> rw [State.core_modCore_self] <;> assumption

end

/-- Runs written in the state that the engine sees are those written in the state before. -/
theorem writeRuns_seen (s : State) (k : CoreId) (i : Instr) (cvp : Nat) (rs : List Run) :
    writeRuns (s.seen k i) cvp rs = { writeRuns s cvp rs with cores := (s.seen k i).cores } :=
  writeRuns_withCores s (s.seen k i).cores cvp rs

/-- So does a conversion. -/
theorem convWrites_seen (s : State) (k : CoreId) (i : Instr) (d : Desc) (f : Fmt) (st : Stored) :
    convWrites (s.seen k i) d f st = { convWrites s d f st with cores := (s.seen k i).cores } :=
  convWrites_withCores s (s.seen k i).cores d f st

/-- A store into a grid format writes one run of whole bytes per element, and takes the words of its not-a-numbers from the free tally
(R55). -/
theorem vstGrid_writes (s : State) (e : Ent) (hh : W16) (d : Desc) (w : Nat) (se : Int) (els : List StEl) :
    ∃ word : StEl → Nat, (vstGrid s e hh d w se els).1 =
      { writeRuns s d.cvp (els.map fun x => (s.basePhys d + d.bitOff x.1 / 8, leBytes (w / 8) (word x))) with
        free := s.free + d.count } := by
  unfold vstGrid
  simp only [List.map_map]
  exact ⟨_, rfl⟩

/-- Width of an element of a tensor that is no anchor tensor. -/
theorem Desc.ebits_eq {d : Desc} {f : Fmt} (hf : d.fmt = some f) (hal : d.alay = false) : d.ebits = f.bits := by
  rw [Desc.ebits, hal, hf]
  rfl

/-- The view of a raw format has elements of its width. -/
theorem viewBits_of_rawView {f : Fmt} {view : BitVec 2} (h : rawView f = some view) : viewBits view = f.bits := by
  cases f <;> cases h <;> rfl

section
variable {s : State} {k : CoreId} {h : Hdr} {c : VmemF} {f : Fmt} {d : Desc} (hr : Ready s k (.vst k h c))
  (hd : s.desc (s.handleNow k h 0 c.h) = d) (hf : d.fmt = some f) (hlt : f ≠ .lt320) (hal : d.alay = false)
include hr hd hf hlt hal

/-- VST in the view of a raw format. -/
theorem completes_vst_raw (h0 : c.view ≠ 0) (hraw : rawView f = some c.view) :
    let raw := (regionPos d c (viewCols c.view)).map fun p => (s.basePhys d + d.bitOff p.2.2 / 8,
      leBytes (viewBits c.view / 8) ((((s.core k).vreg c.vd).elem c.view p.1 p.2.1).word c.view).1)
    Completes (.vst k h c) s fun t => MemStored s t d raw
      ∧ MemKept s t (s.storedSpans d ((regionPos d c (viewCols c.view)).map fun p => p.2.2)) ∧ VstLeaves s t k h c := by
  intro raw
  obtain ⟨p, sat, heff⟩ := effVst_raw (s := s.seen k (.vst k h c)) (k := k) (e := (s.core k).entryOf (.vst k h c)) (h := h) hd hf hlt hal
    h0 hraw
  rw [Core.vreg_congr (State.seen_vregs s k _)] at heff
  refine .of_vst hr heff ((OnlyCoreMem.seen s k _).writeRuns ..) ((RegsKept.seen s k _).writeRuns ..) fun t hmem hchk hleaves => ?_
  rw [writeRuns_seen] at hmem hchk
  have hwidth : 8 * (viewBits c.view / 8) ≤ d.ebits := by
    rw [Desc.ebits_eq hf hal, viewBits_of_rawView hraw]
    omega
  have hcover : Covers (s.storedSpans d ((regionPos d c (viewCols c.view)).map fun p => p.2.2)) raw :=
    .of_codes (wholeRuns_covered s d _ hwidth (fun p : Nat × Nat × List Nat => p.2.2)
      (fun p => ((((s.core k).vreg c.vd).elem c.view p.1 p.2.1).word c.view).1) _
      fun x hx => List.mem_append_left _ (List.mem_map_of_mem hx))
  exact ⟨⟨hmem, hchk⟩, (MemKept.writeRuns hcover).of_mem hmem, hleaves⟩

/-- VST into a grid format. -/
theorem completes_vst_grid (h0 : c.view = 0) (ht : f ≠ .t128) (hg : f.grid = true) :
    let els := (regionPos d c 64).map fun p => (p.2.2, f32 (BitVec.ofNat 32 ((((s.core k).vreg c.vd).elem 0 p.1 p.2.1).word 0).1))
    Completes (.vst k h c) s fun t =>
      t.mem = (vstGrid (s.seen k (.vst k h c)) ((s.core k).entryOf (.vst k h c)) (s.handleNow k h 0 c.h) d f.bits c.se.toInt els).1.mem
      ∧ MemKept s t (s.storedSpans d (els.map (·.1))) ∧ VstLeaves s t k h c := by
  intro els
  obtain ⟨sat, heff⟩ := effVst_grid (s := s.seen k (.vst k h c)) (k := k) (e := (s.core k).entryOf (.vst k h c)) (h := h) hd hf hlt hal
    h0 ht hg
  rw [Core.vreg_congr (State.seen_vregs s k _)] at heff
  obtain ⟨word, hgrid⟩ := vstGrid_writes (s.seen k (.vst k h c)) ((s.core k).entryOf (.vst k h c)) (s.handleNow k h 0 c.h) d f.bits
    c.se.toInt els
  refine .of_vst (u := (vstGrid (s.seen k (.vst k h c)) ((s.core k).entryOf (.vst k h c)) (s.handleNow k h 0 c.h) d f.bits c.se.toInt
    els).1) hr heff ?_ ?_ fun t hmem _ hleaves => ?_
  · rw [hgrid]
    exact ((OnlyCoreMem.seen s k _).writeRuns ..).withFree _
  · rw [hgrid]
    exact ((RegsKept.seen s k _).writeRuns ..).of_core rfl
  · refine ⟨hmem, ?_, hleaves⟩
    have hwidth : 8 * (f.bits / 8) ≤ d.ebits := by
      rw [Desc.ebits_eq hf hal]
      omega
    have hcover := Covers.of_codes (wholeRuns_covered s d _ hwidth (fun x : StEl => x.1) word els
      fun x hx => List.mem_append_left _ (List.mem_map_of_mem hx))
    rw [hgrid, writeRuns_seen] at hmem
    exact (MemKept.writeRuns hcover).of_mem hmem

/-- VST into an element format. -/
theorem completes_vst_convert (h0 : c.view = 0) (ht : f ≠ .t128) (hg : f.grid = false) :
    let els := (regionPos d c 64).map fun p => (p.2.2,
      (f32 (BitVec.ofNat 32 ((((s.core k).vreg c.vd).elem 0 p.1 p.2.1).word 0).1)).mul (.fin false (pow2 c.se.toInt)))
    let st := convStore d f (s.scaleRec d.scale).2 (s.rndOf d 0 (s.handleNow k h 0 c.h) ((s.core k).entryOf (.vst k h c)).tag
      ((s.core k).entryOf (.vst k h c)).x) els
    Completes (.vst k h c) s fun t =>
      t.mem = (convWrites s d f st).mem ∧ MemKept s t (s.storedSpans d (els.map (·.1))) ∧ VstLeaves s t k h c := by
  intro els st
  have hst : convStore d f ((s.seen k (.vst k h c)).scaleRec d.scale).2 ((s.seen k (.vst k h c)).rndOf d 0 (s.handleNow k h 0 c.h)
      ((s.core k).entryOf (.vst k h c)).tag ((s.core k).entryOf (.vst k h c)).x) ((regionPos d c 64).map fun p => (p.2.2,
        (f32 (BitVec.ofNat 32 (((((s.seen k (.vst k h c)).core k).vreg c.vd).elem 0 p.1 p.2.1).word 0).1)).mul
          (.fin false (pow2 c.se.toInt)))) = st := by
    rw [Core.vreg_congr (State.seen_vregs s k _)]
    rfl
  obtain ⟨p, sat, heff⟩ := effVst_convert (s := s.seen k (.vst k h c)) (k := k) (e := (s.core k).entryOf (.vst k h c)) (h := h) hd hf hlt
    hal h0 ht hg hst
  rw [Core.vreg_congr (State.seen_vregs s k _)] at heff
  have hkept : MemKept s (convWrites s d f st) (s.storedSpans d (els.map (·.1))) := MemKept.convWrites hf _ _ els
  clear_value st
  have hframe := (OnlyCoreMem.seen s k (.vst k h c)).convWrites d f st
  have hregs := (RegsKept.seen s k (.vst k h c)).convWrites d f st
  refine .of_vst hr heff (hframe.modCore _) (hregs.modCore_evc st.conv.count_evc) fun t hmem _ hleaves => ?_
  have hseen : (convWrites (s.seen k (.vst k h c)) d f st).mem = (convWrites s d f st).mem := by rw [convWrites_seen]
  have hmem : t.mem = (convWrites s d f st).mem := hmem.trans hseen
  exact ⟨hmem, hkept.of_mem hmem, hleaves⟩
end

/-- Settles O18, by the three ways of VST: the words as they are, the words of a grid, and a conversion with the scales of its blocks. -/
theorem vectorStore : Obligations.VectorStore := by
  intro s k h c f hh d reg ps raw e val st one db hf hlt hal hview hr
  obtain ⟨h0, hraw⟩ | ⟨h0, ht⟩ := hview
  · obtain ⟨t, hx, hst, hkept, hl⟩ := completes_vst_raw hr rfl hf hlt hal h0 hraw
    exact ⟨t, hx, fun _ => hst, fun hv => absurd hv h0, fun hv => absurd hv h0, hkept, hl.els, hl.ovf, hl.nfin, hl.flies, hl.others,
      hl.frame, hl.regs⟩
  · have hps : ps = regionPos d c 64 := by
      unfold ps
      rw [h0]
      rfl
    cases hg : f.grid with
    | true =>
      obtain ⟨t, hx, hmem, hkept, hl⟩ := completes_vst_grid hr rfl hf hlt hal h0 ht hg
      rw [List.map_map] at hkept
      refine ⟨t, hx, fun hv => absurd h0 hv, fun _ _ => ?_, nofun, ?_, hl.els, hl.ovf, hl.nfin, hl.flies, hl.others, hl.frame, hl.regs⟩
      · rw [hps]
        exact hmem
      · rw [hps]
        exact hkept
    | false =>
      obtain ⟨t, hx, hmem, hkept, hl⟩ := completes_vst_convert hr rfl hf hlt hal h0 ht hg
      rw [List.map_map] at hkept
      refine ⟨t, hx, fun hv => absurd h0 hv, nofun, fun _ _ => ?_, ?_, hl.els, hl.ovf, hl.nfin, hl.flies, hl.others, hl.frame, hl.regs⟩
      · unfold one st
        rw [hps]
        exact hmem
      · rw [hps]
        exact hkept

end Sys2Proof.Machine
end

section
/-! COMMAND_COMPLETE (R137, R211) in a memory that is not in canonical form: the statement of its release asks for no `State.memOk`. -/

namespace Sys2Proof.Machine

open Sys2Proof

/-- A VST into handle 4 that is done: it sets OVF of the handle's status word and has reached the amax 9. -/
def doneStore : Ent :=
  { Core.zero.entryOf (.vst 0 { tag := 7, ixl := 0, ixm := 0, chk := none, reread := false, poison := none, ecc := 0 }
      ⟨0, 2, 1, 0, 4, 0, 0⟩) with phase := .done, post := { Post.none with ovf := [4], amax := [(4, 9)] } }

/-- Bytes 10 and 11 of the descriptor of handle 4, its SCALE, with a cell of a higher address listed between them: the read of the
descriptor ends at that cell, so SCALE reads 1. A write sorts the cells about the bytes that it writes. -/
def unsortedMem : List Host.Cell := [(descTable + 64 * 4 + 10, 1), (statusTable + 0x30000, 7), (descTable + 64 * 4 + 11, 1)]

/-- Core 0 has the VST in flight; scale 1 is managed. -/
def unsortedState : State :=
  { State.reset with
    cores := [(0, { Core.zero with inflight := [doneStore] })]
    mem := unsortedMem
    job := { Job.zero with scales := [⟨1, 0, 0, 0, 0, false, none, 0, 0, [], 0, false, false⟩] } }

/-- Before the release the handle names the managed scale. -/
theorem unsortedState_scale : (unsortedState.desc 4).scale = 1 ∧ unsortedState.managed 1 = true := by decide +kernel

/-- The write of the status word brings both bytes of SCALE together, and it then names no managed scale. -/
theorem unsortedState_scale_setStatus : ((unsortedState.setStatus 4 ⟨true, false⟩).desc 4).scale = 257 ∧
    unsortedState.managed 257 = false := by decide +kernel

/-- The hypotheses of the statement hold. -/
theorem unsortedState_done :
    splitAt1 (fun x => x.tag = 7 && mayComplete (unsortedState.core 0) x) (unsortedState.core 0).inflight = some ([], doneStore, [])
      ∧ (unsortedState.core 0).waitq = [] ∧ ∀ q, ∀ x ∈ (unsortedState.core q).inflight, x.phase ≠ .arrive := by decide +kernel

/-- The amax word of handle 4 after a command. -/
def amaxAfter (i : Instr) (s : State) : Option W32 :=
  match exec i s with
  | .next t => some (SMap.get 0 t.scc.amax 4)
  | _ => none

theorem amaxAfter_of_next {i : Instr} {s t : State} (h : exec i s = .next t) : amaxAfter i s = some (SMap.get 0 t.scc.amax 4) := by
  unfold amaxAfter
  rw [h]

/-- The release does not raise the amax word. -/
theorem amaxAfter_unsortedState : amaxAfter (.commandComplete 0 7) unsortedState = some 0 := by decide +kernel

/-- Refutes O30: the statement does not ask for a memory in canonical form (`State.memOk`). In `unsortedState` the release of the status word,
which comes first, moves the second byte of the SCALE of handle 4 into reach of a read, so the amax word of an output whose scale was
managed before the completion does not rise. -/
theorem not_completionReleases : ¬ Obligations.CompletionReleases := by
  unfold Obligations.CompletionReleases
  intro h
  obtain ⟨hsplit, hwait, harrive⟩ := unsortedState_done
  obtain ⟨hscale, hmanaged⟩ := unsortedState_scale
  obtain ⟨t, hx, -, -, -, -, -, -, hamax, -⟩ := h unsortedState 0 7 [] [] doneStore hsplit hwait harrive
  have hzero : SMap.get 0 t.scc.amax 4 = 0 := Option.some.inj ((amaxAfter_of_next hx).symm.trans amaxAfter_unsortedState)
  have hrise : (9 : W32).toNat ≤ (SMap.get 0 t.scc.amax 4).toNat :=
    hamax (4, 9) (List.mem_singleton.mpr rfl) (by rw [hscale]; decide) (by rw [hscale]; exact hmanaged)
  rw [hzero] at hrise
  exact absurd hrise (by decide)

end Sys2Proof.Machine
end

section
/-! What a command of the matrix or the vector engine comes to when it issues and runs at once, whatever of its core's record and of
memory it changes. -/

namespace Sys2Proof.Machine

open Sys2Proof

/-- The engines that compute: their commands are done once they have run, and tell nothing of themselves at dispatch. -/
def computes (i : Instr) : Prop := engOf i = some .mxe ∨ engOf i = some .vxe

theorem computes_isSome {i : Instr} (he : computes i) : (engOf i).isSome = true := by
  obtain he | he := he <;> rw [he] <;> rfl

theorem phaseAfter_of_computes (s : State) {e : Ent} (he : computes e.ins) : phaseAfter s e = .done := by
  unfold computes at he
  unfold phaseAfter
  split
  next hi => simp [hi, engOf] at he
  next hi => simp [hi, engOf] at he
  next hi => simp [hi, engOf] at he
  next => rfl

theorem State.noteDispatch_of_computes (s : State) (k : CoreId) {e : Ent} (he : computes e.ins) : s.noteDispatch k e = s := by
  unfold computes at he
  unfold State.noteDispatch
  split
  next hi => simp [hi, engOf] at he
  next hi => simp [hi, engOf] at he
  next => rfl

/-- A ready command of such an engine completes in the state that its engine's answer gives. -/
theorem Completes.of_effect {s u : State} {k : CoreId} {i : Instr} {p : Post} {P : State → Prop}
    (hx : exec i s = State.answer (s.issue k i)) (he : computes i) (hr : Ready s k i)
    (hu : effect (s.seen k i) k ((s.core k).entryOf i) = some (u, p)) (hP : P (s.ran k i u p)) : Completes i s P := by
  have hent : computes ((s.core k).entryOf i).ins := he
  refine ⟨s.ran k i u p, ?_, hP⟩
  rw [hx, State.issue_ready (computes_isSome he) hr, hu, Option.map_some, phaseAfter_of_computes _ hent,
    State.noteDispatch_of_computes _ k hent]
  rfl

/-! Registers of a core, by the fields of its record. -/

theorem Core.tile_congr {c d : Core} (h : c.tiles = d.tiles) : c.tile = d.tile := by
  funext q
  rw [Core.tile, Core.tile, h]

theorem Core.ltReg_congr {c d : Core} (h : c.lt = d.lt) : c.ltReg = d.ltReg := by
  funext l q
  rw [Core.ltReg, Core.ltReg, h]

theorem Core.tile_setTile (c : Core) (q j : Nat) (x : Tile) : (c.setTile q x).tile j = if j = q then x else c.tile j := by
  rw [Core.tile, Core.setTile, SMap.get_set]
  rfl

theorem State.seen_tile (s : State) (k : CoreId) (i : Instr) : ((s.seen k i).core k).tile = (s.core k).tile :=
  Core.tile_congr (State.seen_core s k i).2.1

theorem State.seen_ltReg (s : State) (k : CoreId) (i : Instr) : ((s.seen k i).core k).ltReg = (s.core k).ltReg :=
  Core.ltReg_congr (State.seen_core s k i).2.2.1

section
variable (s : State) (k : CoreId) (i : Instr) (u : State) (p : Post)

@[simp] theorem State.ran_tiles : ((s.ran k i u p).core k).tiles = (u.core k).tiles := by rw [State.ran_core_self]
@[simp] theorem State.ran_vregs : ((s.ran k i u p).core k).vregs = (u.core k).vregs := by rw [State.ran_core_self]
@[simp] theorem State.ran_lt : ((s.ran k i u p).core k).lt = (u.core k).lt := by rw [State.ran_core_self]

@[simp] theorem State.ran_tile : ((s.ran k i u p).core k).tile = (u.core k).tile := Core.tile_congr (State.ran_tiles s k i u p)
@[simp] theorem State.ran_ltReg : ((s.ran k i u p).core k).ltReg = (u.core k).ltReg := Core.ltReg_congr (State.ran_lt s k i u p)
end

/-! The elements of a tile, by rows of 128. -/

theorem cell_div (r : Nat) {j : Nat} (hj : j < 128) : (128 * r + j) / 128 = r := by omega
theorem cell_mod (r : Nat) {j : Nat} (hj : j < 128) : (128 * r + j) % 128 = j := by omega

/-- The 16,384 elements of a tile are its 128 rows of 128. -/
theorem any_cells_iff (p : Nat → Bool) :
    (List.range 16384).any p = true ↔ ∃ r j, r < 128 ∧ j < 128 ∧ p (128 * r + j) = true := by
  rw [List.any_eq_true]
  constructor
  · rintro ⟨x, hx, hp⟩
    rw [List.mem_range] at hx
    have hcell : 128 * (x / 128) + x % 128 = x := by omega
    exact ⟨x / 128, x % 128, by omega, by omega, by rw [hcell]; exact hp⟩
  · rintro ⟨r, j, hr, hj, hp⟩
    exact ⟨128 * r + j, by rw [List.mem_range]; omega, hp⟩

end Sys2Proof.Machine
end

section
/-! Commands that replace a tile or add to it, and change nothing else that a program sees: TZERO, TFILL, TACCM (R80-R83, R172). -/

namespace Sys2Proof.Machine

open Sys2Proof

/-- A ready command whose engine makes `T` of tile `q` and keeps the other registers completes with what holds of every such state. -/
theorem Completes.of_tileDone {s : State} {k : CoreId} {i : Instr} {q : Nat} {T : Tile} {f : Core → Core} {P : State → Prop}
    (hx : exec i s = State.answer (s.issue k i)) (he : computes i) (hr : Ready s k i)
    (heff : effect (s.seen k i) k ((s.core k).entryOf i) = some ((s.seen k i).modCore k f, Post.none))
    (hw : (s.seen k i).writes (iterOf (s.core k).loops) i = [])
    (hf : ∀ c, (f c).tiles = (c.setTile q T).tiles ∧ (f c).vregs = c.vregs ∧ (f c).lt = c.lt)
    (hP : ∀ t, (t.core k).tile q = T → (∀ j, j ≠ q → (t.core k).tile j = (s.core k).tile j) → OnlyCore s t k → SameVregs s t k →
      (t.core k).lt = (s.core k).lt → P t) :
    Completes i s P := by
  obtain ⟨htiles, hvregs, hlt⟩ := hf ((s.seen k i).core k)
  obtain ⟨hvregs', -, hlt', -⟩ := State.seen_core s k i
  have htile : ∀ j, ((s.ran k i ((s.seen k i).modCore k f) Post.none).core k).tile j = if j = q then T else (s.core k).tile j := fun j => by
    rw [State.ran_tile, State.core_modCore_self, Core.tile_congr htiles, Core.tile_setTile, State.seen_tile]
  refine Completes.of_effect hx he hr heff (hP _ ?_ (fun j hj => ?_) (State.onlyCore_ran _ hw) ?_ ?_)
  · rw [htile, if_pos rfl]
  · rw [htile, if_neg hj]
  · rw [SameVregs, State.ran_vregs, State.core_modCore_self, hvregs, hvregs']
  · rw [State.ran_lt, State.core_modCore_self, hlt, hlt']

/-- TZERO completes with an empty tile of its kind (R172). -/
theorem completes_tzero {s : State} {k : CoreId} {h : Hdr} {c : TileMemF} (hr : Ready s k (.tzero k h c)) :
    Completes (.tzero k h c) s fun t =>
      (t.core k).tile c.tile.val = { Tile.zero with kind := c.kind, used := [(128, 128)] }
        ∧ (∀ q, q ≠ c.tile.val → (t.core k).tile q = (s.core k).tile q)
        ∧ OnlyCore s t k ∧ SameVregs s t k ∧ (t.core k).lt = (s.core k).lt :=
  .of_tileDone rfl (.inl rfl) hr rfl rfl (fun _ => ⟨rfl, rfl, rfl⟩) fun _ htile hothers hcore hvregs hlt =>
    ⟨htile, hothers, hcore, hvregs, hlt⟩

/-- The element that TFILL puts into row `r`, column `j` (R81, R82). -/
def fillEl (s : State) (d : Desc) (ha : W16) (kind : BitVec 2) (r j : Nat) : TEl :=
  if r < d.extent 1 ∧ j < d.extent 0 then
    { w := BitVec.ofNat 128 (if kind = 2 then s.tileWord d r j % 2 ^ 32 else s.tileWord d r j), wrap := 0,
      anc := if kind = 1 then s.anchorAt ha r j else 0x8000#16, rho := 0 }
  else TEl.zero

/-- An element of TACCM's tensor may be added to the tile `old`: a tile that is not anchored takes every one, an anchored tile one of
its element's anchor (R80). -/
def accFits (s : State) (ha : W16) (old : Tile) (r j : Nat) : Prop :=
  old.kind ≠ 1 ∨ s.anchorAt ha r j = (SMap.get TEl.zero old.els (128 * r + j)).anc

section
variable {s : State} {k : CoreId} {e : Ent} {h : Hdr} {c : TileMemF} {d : Desc} (hd : s.desc (effHandle h e.iter 0 c.h) = d)
  (hf : d.fmt = some .t128) (hal : d.alay = false)
include hd hf hal

/-- What TFILL makes of its tile. -/
theorem effTfill_tile (hk : c.kind ≠ 3) : ∃ (T : Tile) (f : Core → Core), effTfill s k e h c = some (s.modCore k f, Post.none)
    ∧ (∀ x, (f x).tiles = (x.setTile c.tile.val T).tiles ∧ (f x).vregs = x.vregs ∧ (f x).lt = x.lt)
    ∧ (∀ r j, r < 128 → j < 128 →
        SMap.get TEl.zero T.els (128 * r + j) = fillEl s d (effHandle h e.iter 1 c.hanc) c.kind r j)
    ∧ T.kind = c.kind ∧ T.sat = false ∧ T.anch = false := by
  have hform : ¬ (d.fmt ≠ some .t128 ∨ d.alay = true ∨ c.kind = 3) := by
    rw [hf, hal]
    exact fun hbad => hbad.elim (fun h => h rfl) fun hbad => hbad.elim Bool.false_ne_true hk
  unfold effTfill
  lift_lets
  intro hh hc d' inM els zero t t'
  have hd' : d' = d := hd
  have hels : ∀ r j, r < 128 → j < 128 → SMap.get TEl.zero t'.els (128 * r + j) = fillEl s d (effHandle h e.iter 1 c.hanc) c.kind r j := by
    intro r j hr hj
    have hcells : t'.els = els := by simp only [t', t]
    rw [hcells, SMap.get_ofFn, if_pos (by omega), cell_div r hj, cell_mod r hj]
    simp only [inM, hd', fillEl, cell_div r hj, cell_mod r hj, Bool.and_eq_true, decide_eq_true_eq]
    rfl
  have hstatus : t'.kind = c.kind ∧ t'.sat = false ∧ t'.anch = false := ⟨rfl, rfl, rfl⟩
  clear_value t'
  rw [hd', if_neg hform]
  exact ⟨t', _, rfl, fun x => ⟨rfl, rfl, rfl⟩, hels, hstatus⟩

/-- What TACCM makes of its tile (R80). -/
theorem effTaccm_tile (hk : ((s.core k).tile c.tile.val).kind ≠ 2) :
    let old := (s.core k).tile c.tile.val
    let el := fun (r j : Nat) => SMap.get TEl.zero old.els (128 * r + j)
    let fits := accFits s (effHandle h e.iter 1 c.hanc) old
    ∃ (T : Tile) (f : Core → Core), effTaccm s k e h c = some (s.modCore k f, Post.none)
    ∧ (∀ x, (f x).tiles = (x.setTile c.tile.val T).tiles ∧ (f x).vregs = x.vregs ∧ (f x).lt = x.lt)
    ∧ (∀ r j, r < 128 → j < 128 →
        (r < d.extent 1 ∧ j < d.extent 0 ∧ fits r j →
          SMap.get TEl.zero T.els (128 * r + j) = (el r j).add (BitVec.ofNat 128 (s.tileWord d r j)).toInt)
        ∧ (¬ (r < d.extent 1 ∧ j < d.extent 0 ∧ fits r j) → SMap.get TEl.zero T.els (128 * r + j) = el r j))
    ∧ (T.anch = true ↔ old.anch = true ∨ ∃ r j, r < 128 ∧ j < 128 ∧ r < d.extent 1 ∧ j < d.extent 0 ∧ ¬ fits r j) := by
  intro old el fits
  have hform : ¬ (d.fmt ≠ some .t128 ∨ d.alay = true ∨ ((s.core k).tile c.tile.val).kind = 2) := by
    rw [hf, hal]
    exact fun hbad => hbad.elim (fun h => h rfl) fun hbad => hbad.elim Bool.false_ne_true hk
  unfold effTaccm
  lift_lets
  intro hh hc d' core t inM eqAnc part els bad arr used t'
  have hd' : d' = d := hd
  have hfits : ∀ r {j}, j < 128 → (eqAnc (128 * r + j) (el r j) = true ↔ fits r j) := fun r j hj => by
    simp only [eqAnc, cell_div r hj, cell_mod r hj, Bool.or_eq_true, decide_eq_true_iff, beq_iff_eq]
    rfl
  have hels : ∀ r j, r < 128 → j < 128 →
      (r < d.extent 1 ∧ j < d.extent 0 ∧ fits r j →
        SMap.get TEl.zero t'.els (128 * r + j) = (el r j).add (BitVec.ofNat 128 (s.tileWord d r j)).toInt)
      ∧ (¬ (r < d.extent 1 ∧ j < d.extent 0 ∧ fits r j) → SMap.get TEl.zero t'.els (128 * r + j) = el r j) := by
    intro r j hr hj
    have hget : SMap.get TEl.zero t'.els (128 * r + j) = if r < d.extent 1 ∧ j < d.extent 0 ∧ eqAnc (128 * r + j) (el r j) then
        (el r j).add (BitVec.ofNat 128 (s.tileWord d r j)).toInt else el r j := by
      show SMap.get TEl.zero els (128 * r + j) = _
      rw [SMap.get_upd, if_pos (by omega)]
      simp only [inM, part, hd', cell_div r hj, cell_mod r hj, Bool.and_eq_true, decide_eq_true_eq, and_assoc]
      rfl
    rw [hget]
    exact ⟨fun hin => if_pos ⟨hin.1, hin.2.1, (hfits r hj).mpr hin.2.2⟩,
      fun hout => if_neg fun hin => hout ⟨hin.1, hin.2.1, (hfits r hj).mp hin.2.2⟩⟩
  have hanch : t'.anch = true ↔ old.anch = true ∨ ∃ r j, r < 128 ∧ j < 128 ∧ r < d.extent 1 ∧ j < d.extent 0 ∧ ¬ fits r j := by
    show (t.anch || bad) = true ↔ _
    rw [Bool.or_eq_true, any_cells_iff]
    refine or_congr_right (exists_congr fun r => exists_congr fun j => and_congr_right fun _ => and_congr_right fun hj => ?_)
    have hin : inM (128 * r + j) = true ↔ r < d.extent 1 ∧ j < d.extent 0 := by
      simp only [inM, hd', cell_div r hj, cell_mod r hj, Bool.and_eq_true, decide_eq_true_eq]
    rw [Bool.and_eq_true, hin, and_assoc, Bool.not_eq_true', ← Bool.not_eq_true]
    exact and_congr_right fun _ => and_congr_right fun _ => not_congr (hfits r hj)
  clear_value t'
  rw [hd', if_neg hform]
  exact ⟨t', _, rfl, fun x => ⟨rfl, rfl, rfl⟩, hels, hanch⟩
end

/-- Settles O9: TZERO and TFILL give their tile new elements and keep the other registers. -/
theorem tileLoads : Obligations.TileLoads := by
  unfold Obligations.TileLoads
  refine ⟨fun s k h c hr => completes_tzero hr, ?_⟩
  intro s k h c d ha hf hal hk hr
  obtain ⟨T, f, heff, hregs, hels, hkind, hsat, hanch⟩ := effTfill_tile (s := s.seen k (.tfill k h c)) (k := k)
    (e := (s.core k).entryOf (.tfill k h c)) (h := h) (c := c) (d := d) rfl hf hal hk
  refine .of_tileDone rfl (.inl rfl) hr heff rfl hregs fun t htile hothers hcore hvregs _ => ?_
  rw [htile]
  exact ⟨hels, hkind, hsat, hanch, hothers, hcore, hvregs⟩

/-- Settles O10: each element is added to or left by itself, and ANCH tells whether one was left for its anchor. -/
theorem tileAccumulate : Obligations.TileAccumulate := by
  unfold Obligations.TileAccumulate
  intro s k h c d ha old el fits hf hal hk hr
  have hold : ((s.seen k (.taccm k h c)).core k).tile c.tile.val = old := by rw [State.seen_tile]
  obtain ⟨T, f, heff, hregs, hels, hanch⟩ := effTaccm_tile (s := s.seen k (.taccm k h c)) (k := k)
    (e := (s.core k).entryOf (.taccm k h c)) (h := h) (c := c) (d := d) rfl hf hal (by rw [hold]; exact hk)
  rw [hold] at hels hanch
  refine .of_tileDone rfl (.inl rfl) hr heff rfl hregs fun t htile hothers hcore hvregs _ => ?_
  rw [htile]
  exact ⟨hels, hanch, hothers, hcore, hvregs⟩

end Sys2Proof.Machine
end

section
/-! TRD (R113), and what a readout does to a core's record (R63). -/

namespace Sys2Proof.Machine

open Sys2Proof

/-! A readout sets SAT of its tile where an element saturated, and changes no other register. -/

section
variable (c : Core) (q sat rows : Nat)

theorem Core.readout_regs : (c.readout q sat rows).vregs = c.vregs ∧ (c.readout q sat rows).lt = c.lt := by
  unfold Core.readout
  dsimp only
  split <;> exact ⟨rfl, rfl⟩

theorem Core.tile_readout (j : Nat) :
    (c.readout q sat rows).tile j = if j = q ∧ 0 < sat then { c.tile q with sat := true } else c.tile j := by
  have htiles : (c.readout q sat rows).tiles = (if 0 < sat then c.setTile q { c.tile q with sat := true } else c).tiles := rfl
  rw [Core.tile_congr htiles]
  by_cases hsat : 0 < sat
  · rw [if_pos hsat, Core.tile_setTile]
    simp only [hsat, and_true]
  · rw [if_neg hsat, if_neg fun h => hsat h.2]

theorem Core.tile_readout_other {j : Nat} (hj : j ≠ q) : (c.readout q sat rows).tile j = c.tile j := by
  rw [Core.tile_readout, if_neg fun h => hj h.1]

theorem Core.tile_readout_els : ((c.readout q sat rows).tile q).els = (c.tile q).els := by
  rw [Core.tile_readout]
  split <;> rfl
end

/-- Some of `m` rows of `n` elements are counted by a test where one passes it. -/
theorem filter_rows_pos {α : Type} (m n : Nat) (f : Nat → Nat → α) (p : α → Bool) :
    0 < ((((List.range m).flatMap fun r => (List.range n).map fun j => f r j).filter p).length) ↔
      ∃ r j, r < m ∧ j < n ∧ p (f r j) = true := by
  rw [List.length_pos_iff_exists_mem]
  constructor
  · rintro ⟨x, hx⟩
    obtain ⟨hx, hp⟩ := List.mem_filter.mp hx
    obtain ⟨r, hr, hx⟩ := List.mem_flatMap.mp hx
    obtain ⟨j, hj, rfl⟩ := List.mem_map.mp hx
    exact ⟨r, j, List.mem_range.mp hr, List.mem_range.mp hj, hp⟩
  · rintro ⟨r, j, hr, hj, hp⟩
    exact ⟨f r j, List.mem_filter.mpr ⟨List.mem_flatMap.mpr ⟨r, List.mem_range.mpr hr,
      List.mem_map.mpr ⟨j, List.mem_range.mpr hj, rfl⟩⟩, hp⟩⟩

/-- Sticky bits of one register leave the other registers as they are. -/
theorem Core.vreg_stick_other (c : Core) {v w : VRegId} (f : Fl) (hw : w ≠ v) : (c.stick v f).vreg w = c.vreg w := by
  unfold Core.stick
  rw [Core.vreg_setVreg, if_neg hw]

theorem Core.tile_setVreg (c : Core) (v : VRegId) (r : VReg) : (c.setVreg v r).tile = c.tile := Core.tile_congr rfl
theorem Core.tile_stick (c : Core) (v : VRegId) (f : Fl) : (c.stick v f).tile = c.tile := Core.tile_congr rfl

/-- A readout's bits are those of a word of the T128 view. -/
theorem TEl.raw_lt (x : TEl) (kind : BitVec 2) : (x.raw kind).1 < 2 ^ viewBits 3 := by
  have hview : viewBits 3 = 128 := rfl
  rw [hview]
  unfold TEl.raw
  split
  · exact lt_trans (BitVec.isLt _) (by decide)
  · exact BitVec.isLt _

section
variable (core : Core) (c : TrdF)

/-- The element of a tile that TRD reads into element `e` of row `r`. -/
def trdEl (r e : Nat) : TEl := SMap.get TEl.zero (core.tile c.tile.val).els (128 * (64 * c.rb.val + r) + 16 * c.cb.val + e)

/-- The register that TRD fills. -/
def trdReg : VReg := (core.vreg c.vd).fill 3 fun r e => ⟨((trdEl core c r e).raw (core.tile c.tile.val).kind).1, 0⟩

/-- TRD fills its register, gives it sticky bits and reads the tile out. -/
theorem effTrd_eq : ∃ (nfin : Bool) (sat : Nat),
    (0 < sat ↔ ∃ r e, r < 64 ∧ e < 16 ∧ ((trdEl core c r e).raw (core.tile c.tile.val).kind).2 = true)
    ∧ effTrd core c = ((core.setVreg c.vd (trdReg core c)).stick c.vd
        ⟨decide (0 < sat) || (core.tile c.tile.val).anch, nfin⟩).readout c.tile.val sat 64 :=
  ⟨_, _, filter_rows_pos 64 16 (trdEl core c) fun x => (x.raw (core.tile c.tile.val).kind).2, rfl⟩

theorem effTrd_elem {r e : Nat} (hr : r < 64) (he : e < 16) :
    ((effTrd core c).vreg c.vd).elem 3 r e = ⟨((trdEl core c r e).raw (core.tile c.tile.val).kind).1, 0⟩ := by
  obtain ⟨nfin, sat, -, heq⟩ := effTrd_eq core c
  have hels : ((effTrd core c).vreg c.vd).els = (trdReg core c).els := by
    rw [heq, Core.vreg_congr (Core.readout_regs ..).1, (Core.stick_spec ..).1, Core.vreg_setVreg, if_pos rfl]
  rw [VReg.elem_congr hels, trdReg, VReg.elem_fill _ _ _ hr he, Nat.mod_eq_of_lt (TEl.raw_lt ..)]
  rfl

theorem effTrd_ovf : ((effTrd core c).vreg c.vd).ovf = true ↔ (core.vreg c.vd).ovf = true ∨ (core.tile c.tile.val).anch = true
    ∨ ∃ r e, r < 64 ∧ e < 16 ∧ ((trdEl core c r e).raw (core.tile c.tile.val).kind).2 = true := by
  obtain ⟨nfin, sat, hsat, heq⟩ := effTrd_eq core c
  rw [heq, Core.vreg_congr (Core.readout_regs ..).1, (Core.stick_spec ..).2.1, Core.vreg_setVreg, if_pos rfl, trdReg, VReg.fill_ovf]
  rw [Bool.or_eq_true, decide_eq_true rfl, Bool.true_and, Bool.or_eq_true, decide_eq_true_iff, hsat, or_comm (b := _ = true)]

theorem effTrd_rest : (∀ v, v ≠ c.vd → (effTrd core c).vreg v = core.vreg v)
    ∧ ((effTrd core c).tile c.tile.val).els = (core.tile c.tile.val).els
    ∧ ∀ q, q ≠ c.tile.val → (effTrd core c).tile q = core.tile q := by
  obtain ⟨nfin, sat, -, heq⟩ := effTrd_eq core c
  rw [heq]
  refine ⟨fun v hv => ?_, ?_, fun q hq => ?_⟩
  · rw [Core.vreg_congr (Core.readout_regs ..).1, Core.vreg_stick_other _ _ hv, Core.vreg_setVreg, if_neg hv]
  · rw [Core.tile_readout_els, Core.tile_stick, Core.tile_setVreg]
  · rw [Core.tile_readout_other _ _ _ _ hq, Core.tile_stick, Core.tile_setVreg]
end

/-- Settles O20: TRD fills its register with the readouts of the tile's elements; the flags are those of any one of them. -/
theorem tallyRead : Obligations.TallyRead := by
  unfold Obligations.TallyRead
  intro s k h c old el hr
  have heff : effect (s.seen k (.trd k h c)) k ((s.core k).entryOf (.trd k h c)) =
      some ((s.seen k (.trd k h c)).setCore k (effTrd ((s.seen k (.trd k h c)).core k) c), Post.none) := rfl
  have htile : ((s.seen k (.trd k h c)).core k).tile = (s.core k).tile := State.seen_tile ..
  have hvreg : ((s.seen k (.trd k h c)).core k).vreg = (s.core k).vreg := Core.vreg_congr (State.seen_vregs ..)
  have hel : ∀ r e, trdEl ((s.seen k (.trd k h c)).core k) c r e = el r e := fun r e => by rw [trdEl, htile]
  obtain ⟨hothers, hels, htiles⟩ := effTrd_rest ((s.seen k (.trd k h c)).core k) c
  refine .of_effect rfl (.inr rfl) hr heff ⟨fun r e hrow he => ?_, ?_, ?_, fun q hq => ?_, fun v hv => ?_, State.onlyCore_ran _ rfl⟩
  · rw [State.velem, State.ran_vreg, State.core_setCore_self, effTrd_elem _ _ hrow he, hel, htile]
  · rw [State.ran_vreg, State.core_setCore_self, effTrd_ovf, htile, hvreg]
    simp only [hel]
    rfl
  · rw [State.ran_tile, State.core_setCore_self, hels, htile]
  · rw [State.ran_tile, State.core_setCore_self, htiles q hq, htile]
  · rw [State.ran_vreg, State.core_setCore_self, hothers v hv, hvreg]

end Sys2Proof.Machine
end

section
/-! The Long Tally commands of registers (R65, R66, R122). -/

namespace Sys2Proof.Machine

open Sys2Proof

/-- A state with another count of free values. -/
def State.withFree (s : State) (n : Nat) : State := { s with free := n }

@[simp] theorem State.withFree_core (s : State) (n : Nat) (k : CoreId) : (s.withFree n).core k = s.core k := rfl
@[simp] theorem State.withFree_mem (s : State) (n : Nat) : (s.withFree n).mem = s.mem := rfl

/-! Adding to a Long Tally register while its weight is in bound (R66). -/

theorem LtEl.add_of_le {l : LtEl} {v : Int} {wt n : Nat} (h : l.weight + wt ≤ 2 ^ 42) :
    l.add v wt n = ⟨l.w + BitVec.ofInt 320 v, l.weight + wt⟩ := by
  unfold LtEl.add
  dsimp only
  rw [if_neg (by omega)]

/-- Addends whose total weight is in bound add their exact sum, modulo 2^320, and their weights. -/
theorem LtEl.foldl_add_of_le {l : LtEl} (ps : List (Int × Nat)) (n : Nat) (h : l.weight + (ps.map (·.2)).sum ≤ 2 ^ 42) :
    ps.foldl (fun a p => a.add p.1 p.2 n) l =
      ⟨l.w + BitVec.ofInt 320 (ps.map (·.1)).sum, l.weight + (ps.map (·.2)).sum⟩ := by
  induction ps generalizing l with
  | nil => simp
  | cons p ps ih =>
    rw [List.map_cons, List.sum_cons] at h
    rw [List.foldl_cons, LtEl.add_of_le (by omega), ih (by dsimp only; omega), List.map_cons, List.sum_cons, List.map_cons, List.sum_cons,
      BitVec.ofInt_add, BitVec.add_assoc, Nat.add_assoc]

/-! One word after another put into the F32 view of a register. -/

theorem VReg.elem_zero (v : VReg) (r e : Nat) :
    v.elem 0 r e = ⟨(SMap.get VEl.zero v.els (64 * r + e)).w.toNat, (SMap.get VEl.zero v.els (64 * r + e)).wrap.toInt⟩ := by
  simp [VReg.elem, viewLanes, List.range_succ]

theorem VReg.get_put_zero (v : VReg) (r e : Nat) (x : VVal) (j : Nat) :
    SMap.get VEl.zero (v.put 0 r e x).els j =
      if j = 64 * r + e then VEl.mk (BitVec.ofNat 32 x.bits) (BitVec.ofInt 8 x.wrap) else SMap.get VEl.zero v.els j := by
  simp [VReg.put, viewLanes, List.range_succ, SMap.get_set]

/-- Putting a word changes its place alone. -/
theorem VReg.elem_put_zero (v : VReg) (r e : Nat) (w : W32) {r' e' : Nat} (he : e < 64) (he' : e' < 64) :
    (v.put 0 r e ⟨w.toNat, 0⟩).elem 0 r' e' = if r' = r ∧ e' = e then ⟨w.toNat, 0⟩ else v.elem 0 r' e' := by
  rw [VReg.elem_zero, VReg.elem_zero, VReg.get_put_zero]
  by_cases hat : r' = r ∧ e' = e
  · obtain ⟨rfl, rfl⟩ := hat
    simp
  · rw [if_neg hat, if_neg (by omega)]

/-- Words put one by one, at places of their own, all stand in the end. -/
theorem VReg.elem_foldl_put (v : VReg) (row col : Nat → Nat) (w : Nat → W32) (hcol : ∀ i, i < 64 → col i < 64)
    (hinj : ∀ i j, row i = row j → col i = col j → i = j) {n : Nat} (hn : n ≤ 64) {i : Nat} (hi : i < n) :
    ((List.range n).foldl (fun v i => v.put 0 (row i) (col i) ⟨(w i).toNat, 0⟩) v).elem 0 (row i) (col i) = ⟨(w i).toNat, 0⟩ := by
  induction n with
  | zero => omega
  | succ n ih =>
    rw [List.range_succ, List.foldl_append, List.foldl_cons, List.foldl_nil, VReg.elem_put_zero _ _ _ _ (hcol n (by omega)) (hcol i (by omega))]
    split
    next hat => rw [hinj _ _ hat.1 hat.2]
    next hat =>
      refine ih (by omega) (Nat.lt_of_le_of_ne (by omega) fun hni => hat ?_)
      rw [hni]
      exact ⟨rfl, rfl⟩

theorem zipIdx_map_range {α : Type} (n : Nat) (f : Nat → α) : ((List.range n).map f).zipIdx = (List.range n).map fun i => (f i, i) :=
  List.ext_getElem (by simp) fun i h1 h2 => by simp

/-! LTCLR. -/

theorem completes_ltclr {s : State} {k : CoreId} {h : Hdr} {c : VecF} (hr : Ready s k (.ltclr k h c)) :
    Completes (.ltclr k h c) s fun t =>
      (∀ l, l < 64 → (t.core k).ltReg l c.ltr.val = LtEl.zero)
      ∧ (∀ l q, l < 64 → q < 4 → q ≠ c.ltr.val → (t.core k).ltReg l q = (s.core k).ltReg l q)
      ∧ OnlyCore s t k ∧ SameVregs s t k := by
  have heff : effect (s.seen k (.ltclr k h c)) k ((s.core k).entryOf (.ltclr k h c)) =
      some ((s.seen k (.ltclr k h c)).setCore k (effLtclr ((s.seen k (.ltclr k h c)).core k) c), Post.none) := rfl
  have hreg : ∀ l q, l < 64 → q < 4 → (effLtclr ((s.seen k (.ltclr k h c)).core k) c).ltReg l q =
      if q = c.ltr.val then LtEl.zero else (s.core k).ltReg l q := fun l q hl hq => by
    rw [effLtclr, Core.ltReg_updLt _ _ _ hl hq, State.seen_ltReg]
  refine .of_effect rfl (.inr rfl) hr heff ⟨fun l hl => ?_, fun l q hl hq hne => ?_, State.onlyCore_ran _ rfl, ?_⟩
  · rw [State.ran_ltReg, State.core_setCore_self, hreg _ _ hl c.ltr.isLt, if_pos rfl]
  · rw [State.ran_ltReg, State.core_setCore_self, hreg _ _ hl hq, if_neg hne]
  · rw [SameVregs, State.ran_vregs, State.core_setCore_self]
    exact State.seen_vregs ..

/-! LTADDF. -/

section
variable (core : Core) (c : VecF)

/-- A lane's register after LTADDF. -/
def ltaddfEl (n lane : Nat) (l : LtEl) : LtEl :=
  match f32 (ltLaneEl core c lane) with
  | .fin s a => l.add (ltUnits ((FV.fin s a).toRat * pow2 (vecSexp c))) wtF32 (n + lane)
  | _ => l

/-- Is the word that goes to a lane no number. -/
def ltaddfBad : Bool := (List.range 64).any fun i => ! (f32 (ltLaneEl core c i)).isFin

/-- The core after LTADDF. -/
def ltaddfCore (n : Nat) : Core :=
  (((core.updLt c.ltr.val (ltaddfEl core c n)).stickSrc 0 c.srca 64 64).stick c.srca.reg ⟨false, ltaddfBad core c⟩).count 0x31 64

theorem effLtaddf_eq (hk : c.srca.kind = 1 ∨ c.srca.kind = 2) (n : Nat) : effLtaddf core c n = some (ltaddfCore core c n) := by
  unfold effLtaddf
  rw [if_neg (by rintro ⟨h1, h2⟩; exact hk.elim h1 h2)]
  rfl

theorem ltLaneEl_congr {d : Core} (hd : core.vregs = d.vregs) : ltLaneEl core c = ltLaneEl d c := by
  funext l
  rw [ltLaneEl, ltLaneEl, Core.vreg_congr hd]

/-- A number is added with its weight of one (R66). -/
theorem ltaddfEl_fin {n lane : Nat} {l : LtEl} (hfin : (f32 (ltLaneEl core c lane)).isFin = true) (hw : l.weight + 1 ≤ 2 ^ 42) :
    (ltaddfEl core c n lane l).w = l.w + BitVec.ofInt 320 (ltUnits ((f32 (ltLaneEl core c lane)).toRat * pow2 c.se.toInt)) := by
  unfold ltaddfEl
  split
  next s a hx => rw [wtF32, LtEl.add_of_le hw, hx, vecSexp]
  next hx =>
    cases hv : f32 (ltLaneEl core c lane) with
    | fin s a => exact absurd hv (hx s a)
    | nan | inf sg => rw [hv] at hfin; exact absurd hfin Bool.false_ne_true

/-- Nothing else is added. -/
theorem ltaddfEl_bad {n lane : Nat} {l : LtEl} (hbad : (f32 (ltLaneEl core c lane)).isFin = false) : ltaddfEl core c n lane l = l := by
  unfold ltaddfEl
  split
  next s a hx => rw [hx] at hbad; exact absurd hbad.symm Bool.false_ne_true
  next => rfl

theorem ltaddfBad_iff : ltaddfBad core c = true ↔ ∃ l, l < 64 ∧ (f32 (ltLaneEl core c l)).isFin = false := by
  simp [ltaddfBad]
end

theorem Core.stickSrc_lt (c : Core) (view : BitVec 2) (f : Src) (rows cols : Nat) : (c.stickSrc view f rows cols).lt = c.lt := by
  unfold Core.stickSrc
  split <;> rfl

section
variable (core : Core) (c : VecF) (n : Nat)

theorem ltaddfCore_ltReg {l q : Nat} (hl : l < 64) (hq : q < 4) : (ltaddfCore core c n).ltReg l q =
    if q = c.ltr.val then ltaddfEl core c n l (core.ltReg l q) else core.ltReg l q := by
  have hlt : (ltaddfCore core c n).lt = (core.updLt c.ltr.val (ltaddfEl core c n)).lt := by
    rw [ltaddfCore, Core.count_lt]
    exact Core.stickSrc_lt ..
  rw [Core.ltReg_congr hlt, Core.ltReg_updLt _ _ _ hl hq]

theorem ltaddfCore_vreg (v : VRegId) : ((ltaddfCore core c n).vreg v).els = (core.vreg v).els
    ∧ ((ltaddfCore core c n).vreg v).ovf = ((core.vreg v).ovf || (decide (c.srca.reg = v) && core.srcSat 0 c.srca 64 64))
    ∧ ((ltaddfCore core c n).vreg v).nfin = ((core.vreg v).nfin || (decide (v = c.srca.reg) && ltaddfBad core c)) := by
  have hupd : (core.updLt c.ltr.val (ltaddfEl core c n)).vregs = core.vregs := rfl
  obtain ⟨hels, hovf, hnfin⟩ := ((core.updLt c.ltr.val (ltaddfEl core c n)).stickSrc 0 c.srca 64 64).stick_spec c.srca.reg v
    ⟨false, ltaddfBad core c⟩
  obtain ⟨hels', hovf', hnfin'⟩ := (core.updLt c.ltr.val (ltaddfEl core c n)).stickSrc_spec 0 c.srca 64 64 v
  rw [Core.vreg_congr hupd] at hels' hovf' hnfin'
  rw [Core.srcSat_congr hupd] at hovf'
  rw [ltaddfCore, Core.vreg_congr (Core.count_vregs ..)]
  refine ⟨hels.trans hels', hovf.trans ?_, hnfin.trans ?_⟩
  · rw [hovf', Bool.and_false, Bool.or_false]
  · rw [hnfin']
end

theorem completes_ltaddf {s : State} {k : CoreId} {h : Hdr} {c : VecF} (hk : c.srca.kind = 1 ∨ c.srca.kind = 2)
    (hr : Ready s k (.ltaddf k h c)) :
    Completes (.ltaddf k h c) s fun t =>
      (∀ l, l < 64 → (t.core k).ltReg l c.ltr.val = ltaddfEl (s.core k) c s.free l ((s.core k).ltReg l c.ltr.val))
      ∧ (∀ l q, l < 64 → q < 4 → q ≠ c.ltr.val → (t.core k).ltReg l q = (s.core k).ltReg l q)
      ∧ (∀ v, ((t.core k).vreg v).els = ((s.core k).vreg v).els
        ∧ ((t.core k).vreg v).ovf = (((s.core k).vreg v).ovf || (decide (c.srca.reg = v) && (s.core k).srcSat 0 c.srca 64 64))
        ∧ ((t.core k).vreg v).nfin = (((s.core k).vreg v).nfin || (decide (v = c.srca.reg) && ltaddfBad (s.core k) c)))
      ∧ t.mem = s.mem := by
  have hvregs := State.seen_vregs s k (.ltaddf k h c)
  have hfree : (s.seen k (.ltaddf k h c)).free = s.free := rfl
  have heff : effect (s.seen k (.ltaddf k h c)) k ((s.core k).entryOf (.ltaddf k h c)) =
      vecDone ((s.seen k (.ltaddf k h c)).withFree ((s.seen k (.ltaddf k h c)).free + 64)) k
        (effLtaddf ((s.seen k (.ltaddf k h c)).core k) c (s.seen k (.ltaddf k h c)).free) := rfl
  rw [effLtaddf_eq _ c hk, vecDone, Option.map_some, hfree] at heff
  have hlane := ltLaneEl_congr _ c hvregs
  have hel : ltaddfEl ((s.seen k (.ltaddf k h c)).core k) c = ltaddfEl (s.core k) c := by
    funext n lane l
    rw [ltaddfEl, ltaddfEl, hlane]
  have hreg : ∀ l q, l < 64 → q < 4 → (ltaddfCore ((s.seen k (.ltaddf k h c)).core k) c s.free).ltReg l q =
      if q = c.ltr.val then ltaddfEl (s.core k) c s.free l ((s.core k).ltReg l q) else (s.core k).ltReg l q := fun l q hl hq => by
    rw [ltaddfCore_ltReg _ _ _ hl hq, hel, State.seen_ltReg]
  refine .of_effect rfl (.inr rfl) hr heff ⟨fun l hl => ?_, fun l q hl hq hne => ?_, fun v => ?_, ?_⟩
  · rw [State.ran_ltReg, State.core_setCore_self, hreg _ _ hl c.ltr.isLt, if_pos rfl]
  · rw [State.ran_ltReg, State.core_setCore_self, hreg _ _ hl hq, if_neg hne]
  · have hspec := ltaddfCore_vreg ((s.seen k (.ltaddf k h c)).core k) c s.free v
    rw [Core.vreg_congr hvregs, Core.srcSat_congr hvregs, ltaddfBad, hlane] at hspec
    rw [State.ran_vreg, State.core_setCore_self]
    exact hspec
  · rw [State.ran_mem]
    rfl

/-! LTADDT. -/

section
variable (core : Core) (c : VecF) (n : Nat)

/-- The addends of LTADDT with their weights: the readouts of lanes 1 to 63 (R66). -/
def ltaddtAddends : List (Int × Nat) := (List.range 63).map fun i => ((ltRead (core.ltReg (i + 1) c.ltr.val).w).1, wtLt)

theorem effLtaddt_lt : (effLtaddt core c n).lt = (core.setLt 0 c.ltr.val
    ((ltaddtAddends core c).foldl (fun a p => a.add p.1 p.2 n) (core.ltReg 0 c.ltr.val))).lt := by
  simp only [effLtaddt, Core.count_lt, ltaddtAddends, List.foldl_map]

theorem ltaddtAddends_weight : ((ltaddtAddends core c).map (·.2)).sum = 63 * 2 ^ 32 := by
  rw [ltaddtAddends, List.map_map]
  simp [Function.comp_def, wtLt]

theorem ltaddtAddends_vals :
    (ltaddtAddends core c).map (·.1) = (List.range 63).map fun l => (ltRead (core.ltReg (l + 1) c.ltr.val).w).1 := by
  simp only [ltaddtAddends, List.map_map, Function.comp_def]

theorem effLtaddt_ltReg : (effLtaddt core c n).ltReg 0 c.ltr.val =
    (ltaddtAddends core c).foldl (fun a p => a.add p.1 p.2 n) (core.ltReg 0 c.ltr.val) := by
  rw [Core.ltReg_congr (effLtaddt_lt core c n), Core.ltReg_setLt, if_pos rfl]

theorem ltaddtAddends_sum : (core.ltReg 0 c.ltr.val).w + BitVec.ofInt 320 ((ltaddtAddends core c).map (·.1)).sum =
    BitVec.ofInt 320 ((core.ltReg 0 c.ltr.val).w.toInt
      + ((List.range 63).map fun l => (ltRead (core.ltReg (l + 1) c.ltr.val).w).1).sum) := by
  rw [ltaddtAddends_vals, BitVec.ofInt_add, BitVec.ofInt_toInt]

/-- The sum that LTADDT leaves in lane 0 (R66). -/
theorem effLtaddt_sum (hw : (core.ltReg 0 c.ltr.val).weight + ((ltaddtAddends core c).map (·.2)).sum ≤ 2 ^ 42) :
    ((effLtaddt core c n).ltReg 0 c.ltr.val).w = (core.ltReg 0 c.ltr.val).w + BitVec.ofInt 320 ((ltaddtAddends core c).map (·.1)).sum := by
  rw [effLtaddt_ltReg, LtEl.foldl_add_of_le _ n hw]

theorem effLtaddt_others {l q : Nat} (hq : q < 4) (hne : l ≠ 0 ∨ q ≠ c.ltr.val) :
    (effLtaddt core c n).ltReg l q = core.ltReg l q := by
  have hltr := c.ltr.isLt
  rw [Core.ltReg_congr (effLtaddt_lt core c n), Core.ltReg_setLt, if_neg (by omega)]

theorem effLtaddt_vregs : (effLtaddt core c n).vregs = core.vregs := by
  have hset : ∃ x, effLtaddt core c n = (core.setLt 0 c.ltr.val x).count 0x31 63 := ⟨_, rfl⟩
  obtain ⟨x, hx⟩ := hset
  rw [hx]
  rfl
end

theorem completes_ltaddt {s : State} {k : CoreId} {h : Hdr} {c : VecF} (hr : Ready s k (.ltaddt k h c)) :
    Completes (.ltaddt k h c) s fun t =>
    (((s.core k).ltReg 0 c.ltr.val).weight + 63 * 2 ^ 32 ≤ 2 ^ 42 →
      ((t.core k).ltReg 0 c.ltr.val).w =
        BitVec.ofInt 320 (((s.core k).ltReg 0 c.ltr.val).w.toInt
          + ((List.range 63).map fun l => (ltRead ((s.core k).ltReg (l + 1) c.ltr.val).w).1).sum))
      ∧ (∀ l q, l < 64 → q < 4 → (l ≠ 0 ∨ q ≠ c.ltr.val) → (t.core k).ltReg l q = (s.core k).ltReg l q)
      ∧ SameVregs s t k ∧ t.mem = s.mem := by
  have hfree : (s.seen k (.ltaddt k h c)).free = s.free := rfl
  have heff : effect (s.seen k (.ltaddt k h c)) k ((s.core k).entryOf (.ltaddt k h c)) =
      vecDone ((s.seen k (.ltaddt k h c)).withFree ((s.seen k (.ltaddt k h c)).free + 1)) k
        (some (effLtaddt ((s.seen k (.ltaddt k h c)).core k) c (s.seen k (.ltaddt k h c)).free)) := rfl
  rw [vecDone, Option.map_some, hfree] at heff
  have hlt := State.seen_ltReg s k (.ltaddt k h c)
  refine .of_effect rfl (.inr rfl) hr heff ⟨fun hw => ?_, fun l q hl hq hne => ?_, ?_, ?_⟩
  · rw [← ltaddtAddends_weight ((s.seen k (.ltaddt k h c)).core k) c, ← hlt] at hw
    rw [State.ran_ltReg, State.core_setCore_self, effLtaddt_sum _ c _ hw, ltaddtAddends_sum, hlt]
  · rw [State.ran_ltReg, State.core_setCore_self, effLtaddt_others _ _ _ hq hne, hlt]
  · rw [SameVregs, State.ran_vregs, State.core_setCore_self, effLtaddt_vregs]
    exact State.seen_vregs ..
  · rw [State.ran_mem]
    rfl

/-! LTRD. -/

section
variable (core : Core) (c : VecF)

/-- The register that LTRD fills, in the row or the column of SRCA (R122). -/
def ltrdReg : VReg := (List.range 64).foldl (fun v i => v.put 0 (if c.srca.kind = 1 then c.srca.index.val else i)
  (if c.srca.kind = 1 then i else c.srca.index.val) ⟨(ltToF32 (core.ltReg i c.ltr.val).w c.se.toInt).1.toNat, 0⟩) (core.vreg c.vd)

theorem effLtrd_eq (hk : c.srca.kind = 1 ∨ c.srca.kind = 2) :
    ∃ ovf, effLtrd core c = some ((core.setVreg c.vd (ltrdReg core c)).stick c.vd ⟨ovf, false⟩) := by
  unfold effLtrd
  rw [if_neg (by rintro ⟨h1, h2⟩; exact hk.elim h1 h2)]
  dsimp only
  rw [zipIdx_map_range, List.foldl_map]
  refine ⟨_, congrArg some (congrArg (fun r => (core.setVreg c.vd r).stick c.vd _) ?_)⟩
  unfold ltrdReg
  by_cases h1 : c.srca.kind = 1
  · simp only [if_pos h1]
    rfl
  · simp only [if_neg h1]
    rfl

theorem ltrdReg_elem {l : Nat} (hl : l < 64) :
    (if c.srca.kind = 1 then (ltrdReg core c).elem 0 c.srca.index.val l else (ltrdReg core c).elem 0 l c.srca.index.val) =
      ⟨(ltToF32 (core.ltReg l c.ltr.val).w c.se.toInt).1.toNat, 0⟩ := by
  have hput := VReg.elem_foldl_put (core.vreg c.vd) (fun i => if c.srca.kind = 1 then c.srca.index.val else i)
    (fun i => if c.srca.kind = 1 then i else c.srca.index.val) (fun i => (ltToF32 (core.ltReg i c.ltr.val).w c.se.toInt).1)
    (fun i hi => by have := c.srca.index.isLt; split <;> omega)
    (fun i j h1 h2 => by by_cases hrow : c.srca.kind = 1 <;> simp only [hrow] at h1 h2 <;> simp_all) le_rfl hl
  rw [← hput]
  by_cases h1 : c.srca.kind = 1
  · simp only [if_pos h1]
    simp only [ltrdReg, if_pos h1]
  · simp only [if_neg h1]
    simp only [ltrdReg, if_neg h1]
end

theorem completes_ltrd {s : State} {k : CoreId} {h : Hdr} {c : VecF} (hk : c.srca.kind = 1 ∨ c.srca.kind = 2)
    (hr : Ready s k (.ltrd k h c)) :
    Completes (.ltrd k h c) s fun t =>
      (∀ l, l < 64 →
        (if c.srca.kind = 1 then t.velem k c.vd 0 c.srca.index.val l else t.velem k c.vd 0 l c.srca.index.val) =
          ⟨(ltToF32 ((s.core k).ltReg l c.ltr.val).w c.se.toInt).1.toNat, 0⟩)
        ∧ (t.core k).lt = (s.core k).lt ∧ OnlyCore s t k
        ∧ (∀ v, v ≠ c.vd → (t.core k).vreg v = (s.core k).vreg v) := by
  have heff : effect (s.seen k (.ltrd k h c)) k ((s.core k).entryOf (.ltrd k h c)) =
      vecDone (s.seen k (.ltrd k h c)) k (effLtrd ((s.seen k (.ltrd k h c)).core k) c) := rfl
  obtain ⟨ovf, heq⟩ := effLtrd_eq ((s.seen k (.ltrd k h c)).core k) c hk
  rw [heq] at heff
  set core := (s.seen k (.ltrd k h c)).core k
  have hels : (((core.setVreg c.vd (ltrdReg core c)).stick c.vd ⟨ovf, false⟩).vreg c.vd).els = (ltrdReg core c).els := by
    rw [(Core.stick_spec ..).1, Core.vreg_setVreg, if_pos rfl]
  refine .of_effect rfl (.inr rfl) hr heff ⟨fun l hl => ?_, ?_, State.onlyCore_ran _ rfl, fun v hv => ?_⟩
  · rw [State.velem, State.velem, State.ran_vreg, State.core_setCore_self, VReg.elem_congr hels, ltrdReg_elem core c hl]
    rw [State.seen_ltReg]
  · rw [State.ran_lt, State.core_setCore_self]
    exact (State.seen_core s k _).2.2.1
  · rw [State.ran_vreg, State.core_setCore_self, Core.vreg_stick_other _ _ hv, Core.vreg_setVreg, if_neg hv,
      Core.vreg_congr (State.seen_vregs s k _)]

/-- Settles O8: each command by the registers that it gives its lanes. -/
theorem longTallyCommands : Obligations.LongTallyCommands := by
  unfold Obligations.LongTallyCommands
  refine ⟨fun s k h c hr => completes_ltclr hr, fun s k h c hk hr => ?_, fun s k h c hr => completes_ltaddt hr,
    fun s k h c hk hr => completes_ltrd hk hr⟩
  obtain ⟨t, hx, hlanes, hothers, hvregs, hmem⟩ := completes_ltaddf hk hr
  refine ⟨t, hx, fun l hl => ?_, hothers, fun v => ?_, hmem⟩
  · intro x old
    exact ⟨fun hfin hw => by rw [hlanes l hl]; exact ltaddfEl_fin _ _ hfin hw,
      fun hbad => by rw [hlanes l hl]; exact ltaddfEl_bad _ _ hbad⟩
  · obtain ⟨hels, hovf, hnfin⟩ := hvregs v
    refine ⟨hels, hovf, ?_⟩
    rw [hnfin, Bool.or_eq_true, Bool.and_eq_true, decide_eq_true_iff, ltaddfBad_iff, eq_comm (a := v)]

end Sys2Proof.Machine
end

section
/-! Sums of addends do not depend on their order (R62, R66). -/

namespace Sys2Proof.Machine

open Sys2Proof

/-! A Tally element whose wrap byte stays in range adds exactly: its full value N + W · 2^128 rises by the addend (R62). -/

theorem TEl.w_range (e : TEl) : -2 ^ 127 ≤ e.w.toInt ∧ e.w.toInt < 2 ^ 127 :=
  ⟨BitVec.le_toInt e.w, BitVec.toInt_lt⟩

theorem toInt_ofInt_tally {x : Int} (hlo : -2 ^ 127 ≤ x) (hhi : x < 2 ^ 127) : (BitVec.ofInt 128 x).toInt = x := by
  rw [BitVec.toInt_ofInt]
  exact Int.bmod_eq_of_le (by omega) (by omega)

theorem toInt_ofInt_wrap {x : Int} (h : x.natAbs ≤ 127) : (BitVec.ofInt 8 x).toInt = x := by
  rw [BitVec.toInt_ofInt]
  exact Int.bmod_eq_of_le (by omega) (by omega)

/-- By how much of 2^128 a sum wraps (R62). -/
def tallyCarry (x : Int) : Int := if x ≥ 2 ^ (128 - 1) then 1 else if x < -2 ^ (128 - 1) then -1 else 0

/-- A sum of two in range wraps by at most one, and is in range then. -/
theorem tallyCarry_spec {x : Int} (hlo : -2 ^ 128 ≤ x) (hhi : x < 2 ^ 128) :
    (tallyCarry x).natAbs ≤ 1 ∧ -2 ^ 127 ≤ x - tallyCarry x * 2 ^ 128 ∧ x - tallyCarry x * 2 ^ 128 < 2 ^ 127 := by
  unfold tallyCarry
  split
  · omega
  · split <;> omega

theorem tallyAddAt_of_range {n wrap : Int} (p : Int) (hw : wrap.natAbs < 127) :
    tallyAddAt 128 n wrap p = (n + p - tallyCarry (n + p) * 2 ^ 128, wrap + tallyCarry (n + p)) :=
  Prod.ext rfl (if_pos (by omega))

/-- tally_add of one addend (R62): by how much of 2^128 the word wraps, the wrap byte counts. -/
theorem TEl.add_spec (e : TEl) {p : Int} (hp : p.natAbs ≤ 2 ^ 127) (hw : e.wrap.toInt.natAbs < 127) :
    ∃ c : Int, c.natAbs ≤ 1 ∧ (e.add p).w.toInt = e.w.toInt + p - c * 2 ^ 128 ∧ (e.add p).wrap.toInt = e.wrap.toInt + c := by
  obtain ⟨hlo, hhi⟩ := e.w_range
  obtain ⟨hc, hlo', hhi'⟩ := tallyCarry_spec (x := e.w.toInt + p) (by omega) (by omega)
  unfold TEl.add
  rw [tallyAddAt_of_range p hw]
  exact ⟨_, hc, toInt_ofInt_tally hlo' hhi', toInt_ofInt_wrap (by omega)⟩

/-- The rest of an element stands. -/
theorem TEl.foldl_add_rest (ps : List Int) (e : TEl) : (ps.foldl TEl.add e).anc = e.anc ∧ (ps.foldl TEl.add e).rho = e.rho := by
  induction ps generalizing e with
  | nil => exact ⟨rfl, rfl⟩
  | cons p ps ih => exact ih (e.add p)

/-- Addends that leave the wrap byte in range add their exact sum to the full value. -/
theorem TEl.foldl_add_full {ps : List Int} {e : TEl} (hp : ∀ p ∈ ps, p.natAbs ≤ 2 ^ 127) (hw : e.wrap.toInt.natAbs + ps.length < 127) :
    (ps.foldl TEl.add e).full = e.full + ps.sum := by
  induction ps generalizing e with
  | nil => simp
  | cons p ps ih =>
    rw [List.length_cons] at hw
    obtain ⟨c, hc, hword, hwrap⟩ := e.add_spec (hp p List.mem_cons_self) (by omega)
    have hstep : (e.add p).full = e.full + p := by
      rw [TEl.full, TEl.full, hword, hwrap, Int.add_mul]
      omega
    rw [List.foldl_cons, ih (fun q hq => hp q (List.mem_cons_of_mem _ hq)) (by rw [hwrap]; omega), hstep, List.sum_cons, Int.add_assoc]

/-- The full value tells the word and the wrap byte. -/
theorem TEl.eq_of_full {a b : TEl} (hfull : a.full = b.full) (hanc : a.anc = b.anc) (hrho : a.rho = b.rho) : a = b := by
  obtain ⟨hlo, hhi⟩ := a.w_range
  obtain ⟨hlo', hhi'⟩ := b.w_range
  unfold TEl.full at hfull
  have hwrap : a.wrap = b.wrap := BitVec.eq_of_toInt_eq (by omega)
  have hword : a.w = b.w := BitVec.eq_of_toInt_eq (by rw [hwrap] at hfull; omega)
  cases a
  cases b
  simp only at hanc hrho hword hwrap
  rw [hanc, hrho, hword, hwrap]

/-- Settles O21: the full value of an element, and the word of a Long Tally register, rise by the sum of the addends. -/
theorem sumsOrderFree : Obligations.SumsOrderFree := by
  unfold Obligations.SumsOrderFree
  refine ⟨fun e ps qs hperm hp hw => ?_, fun l ps qs n hperm hw => ?_⟩
  · have hq : ∀ q ∈ qs, q.natAbs ≤ 2 ^ 127 := fun q hq => hp q (hperm.mem_iff.mpr hq)
    obtain ⟨hanc, hrho⟩ := TEl.foldl_add_rest ps e
    obtain ⟨hanc', hrho'⟩ := TEl.foldl_add_rest qs e
    refine TEl.eq_of_full ?_ (hanc.trans hanc'.symm) (hrho.trans hrho'.symm)
    rw [TEl.foldl_add_full hp hw, TEl.foldl_add_full hq (by rw [← hperm.length_eq]; exact hw), hperm.sum_eq]
  · have hweights : (qs.map (·.2)).sum = (ps.map (·.2)).sum := (hperm.map _).sum_eq.symm
    have hvals : (qs.map (·.1)).sum = (ps.map (·.1)).sum := (hperm.map _).sum_eq.symm
    have hfold := LtEl.foldl_add_of_le ps n hw
    refine ⟨?_, congrArg LtEl.w hfold⟩
    rw [hfold, LtEl.foldl_add_of_le qs n (by rw [hweights]; exact hw), hweights, hvals]

end Sys2Proof.Machine
end

section
/-! Stores of the matrix and the vector engine that take rows of whole elements: ASWEEP, TSTORE, LTST (R63, R66, R74, R82, R122). -/

namespace Sys2Proof.Machine

open Sys2Proof

/-! What the frame of a store needs of the memory it leaves. -/

theorem writeRuns_core (s : State) (cvp : Nat) (rs : List Run) (k : CoreId) : (writeRuns s cvp rs).core k = s.core k := by
  rw [State.core, writeRuns_cores]
  rfl

/-- An engine sees the state before but for the records of cores. -/
theorem State.seen_eq (s : State) (k : CoreId) (i : Instr) : s.seen k i = { s with cores := (s.seen k i).cores } := rfl

/-- A handle of the command in flight is the handle that the command names now (R184). -/
theorem effHandle_entryOf (s : State) (k : CoreId) (i : Instr) (h : Hdr) (f : Nat) (v : W16) :
    effHandle h ((s.core k).entryOf i).iter f v = s.handleNow k h f v := rfl

/-- Operands are read from memory. -/
theorem State.ops2_withCores (s : State) (cs : SMap Core) : State.ops2 { s with cores := cs } = s.ops2 := rfl

theorem State.ops2_seen (s : State) (k : CoreId) (i : Instr) : (s.seen k i).ops2 = s.ops2 :=
  (congrArg State.ops2 (State.seen_eq s k i)).trans (State.ops2_withCores s _)

/-- Two writes in turn look at no core. -/
theorem writeRuns_writeRuns_seen (s : State) (k : CoreId) (i : Instr) (cvp cvp' : Nat) (rs rs' : List Run) :
    writeRuns (writeRuns (s.seen k i) cvp rs) cvp' rs' =
      { writeRuns (writeRuns s cvp rs) cvp' rs' with cores := (s.seen k i).cores } := by
  rw [writeRuns_seen, writeRuns_withCores]

/-- A command's next state has stored what its engine has, up to the records of cores. -/
theorem MemStored.ran {s u : State} {k : CoreId} {i : Instr} {d : Desc} {rs : List Run} (p : Post)
    (hu : ∃ cs, u = { writeRuns s d.cvp rs with cores := cs }) : MemStored s (s.ran k i u p) d rs := by
  obtain ⟨cs, rfl⟩ := hu
  exact ⟨State.ran_mem .., State.ran_chk ..⟩

/-- Runs cover themselves. -/
theorem Covers.runSpans (rs : List Run) : Covers (runSpans rs) rs := fun r hr =>
  ⟨(r.1, r.2.length), List.mem_map_of_mem (f := fun r => (r.1, r.2.length)) hr, le_rfl, le_rfl⟩

theorem MemStored.kept {s t : State} {d : Desc} {rs : List Run} {ss : List Span} (h : MemStored s t d rs) (hc : Covers ss rs) :
    MemKept s t ss := (MemKept.writeRuns hc).of_mem h.1

theorem Covers.append {ss ss' : List Span} {rs : List Run} (h : Covers ss rs) : Covers (ss ++ ss') rs :=
  h.mono fun _ hx => List.mem_append_left _ hx

/-! Rows of elements. -/

theorem length_flatMap_leBytes {α : Type} (xs : List α) (w : Nat) (f : α → Nat) :
    (xs.flatMap fun x => leBytes w (f x)).length = w * xs.length := by
  induction xs with
  | nil => rfl
  | cons x xs ih => rw [List.flatMap_cons, List.length_append, ih, leBytes_length, List.length_cons, Nat.mul_succ, Nat.add_comm]

/-- The rows of a tensor's elements lie in the spans of its rows (R82). -/
theorem rowRuns_covered (s : State) (h : W16) (m n w : Nat) (f : Nat → Nat → Nat) :
    Covers (s.rowSpans h m n w)
      ((List.range m).map fun r => (s.rowAddr (s.desc h) r, (List.range n).flatMap fun j => leBytes w (f r j))) := by
  intro x hx
  obtain ⟨r, hr, rfl⟩ := List.mem_map.mp hx
  refine ⟨(s.rowAddr (s.desc h) r, w * n), List.mem_map_of_mem (f := fun r => (s.rowAddr (s.desc h) r, w * n)) hr, le_rfl, ?_⟩
  dsimp only
  rw [length_flatMap_leBytes, List.length_range]

/-! What the release of a store brings. -/

theorem Post.mem_flags_none (h : W16) (f : Fl) : h ∈ (Post.none.flags h f).ovf ↔ f.ovf = true := by
  unfold Post.flags Post.none
  cases f.ovf <;> simp

theorem Post.writes_ovf (p : Post) (h : W16) (b : Bool) : (p.writes h b).ovf = p.ovf := rfl
theorem Post.mem_writes (p : Post) (h : W16) (b : Bool) : (h, b) ∈ (p.writes h b).wrote := by simp [Post.writes]

/-! ASWEEP (R72, R74). -/

section
variable {s : State} {k : CoreId} {h : Hdr} {c : AsweepF} {o : Ops2} {d : Desc}

/-- The rows of anchors that ASWEEP writes. -/
def asweepRuns (s : State) (d : Desc) (o : Ops2) : List Run := (List.range o.m).map fun i =>
  (s.rowAddr d i, (List.range o.n).flatMap fun j => leBytes 2 (anchorOf (o.a.getD i []) (o.b.getD j [])).toNat)

theorem effAsweep_eq {e : Ent} (ho : s.ops2 (effHandle h e.iter 0 c.ha) (effHandle h e.iter 1 c.hb) c.ta c.tb c.k0 c.k1 = some o)
    (hd : s.desc (effHandle h e.iter 2 c.hanc) = d) (hfam : o.fam = .bx) (hal : d.alay = true) (hf : d.fmt = some .t128) :
    ∃ p, effAsweep s e h c = some (writeRuns s d.cvp (asweepRuns s d o), p) := by
  have hform : ¬ (o.fam ≠ .bx ∨ ¬ d.alay = true ∨ d.fmt ≠ some .t128) := by simp [hfam, hal, hf]
  unfold effAsweep
  dsimp only
  rw [ho, hd]
  dsimp only
  rw [if_neg hform]
  exact ⟨_, rfl⟩
end

/-- A command that stores `rs` and touches no register of its core. -/
theorem Completes.of_stored {s : State} {k : CoreId} {i : Instr} {d : Desc} {rs : List Run} {p : Post} {P : State → Prop}
    (hx : exec i s = State.answer (s.issue k i)) (he : computes i) (hr : Ready s k i)
    (heff : effect (s.seen k i) k ((s.core k).entryOf i) = some (writeRuns (s.seen k i) d.cvp rs, p))
    (hP : ∀ t, MemStored s t d rs → InFlight s t k i .done p → OnlyCoreMem s t k → SameRegs s t k → SameVregs s t k → P t) :
    Completes i s P := by
  obtain ⟨hvregs, hsame⟩ := (RegsKept.seen s k i).writeRuns d.cvp rs
  refine .of_effect hx he hr heff (hP _ ?_ (State.inFlight_ran ..) (((OnlyCoreMem.seen s k i).writeRuns ..).ran _ _)
    (State.ran_sameRegs _ _ _ _ _ hsame) ?_)
  · exact MemStored.ran p ⟨(s.seen k i).cores, writeRuns_seen s k i d.cvp rs⟩
  · rw [SameVregs, State.ran_vregs, hvregs]

/-- Settles O13: ASWEEP writes its rows of anchors and no register. -/
theorem anchorSweep : Obligations.AnchorSweep := by
  unfold Obligations.AnchorSweep
  intro s k h c o d rs ho hfam hal hf hr
  obtain ⟨p, heff⟩ := effAsweep_eq (s := s.seen k (.asweep k h c)) (e := (s.core k).entryOf (.asweep k h c)) (h := h) (c := c) (d := d)
    (by rw [State.ops2_seen, effHandle_entryOf, effHandle_entryOf]; exact ho) rfl hfam hal hf
  have hdone : effect (s.seen k (.asweep k h c)) k ((s.core k).entryOf (.asweep k h c)) =
      effAsweep (s.seen k (.asweep k h c)) ((s.core k).entryOf (.asweep k h c)) h c := rfl
  rw [heff] at hdone
  exact .of_stored (d := d) (rs := rs) rfl (.inl rfl) hr hdone fun t hst _ hcore hregs hvregs =>
    ⟨hst, hst.kept (.runSpans _), hcore, hregs, hvregs⟩

/-! A command that reads a tile out and stores (R63, R82, R94). -/

/-- What such a command leaves of the registers, and of the state beside memory, after `x` elements of tile `q` have saturated: SAT of
the tile where any has, and no other register. -/
structure ReadOut (s t : State) (k : CoreId) (i : Instr) (q x : Nat) (p : Post) : Prop where
  tile   : (t.core k).tile q = if 0 < x then { (s.core k).tile q with sat := true } else (s.core k).tile q
  others : ∀ j, j ≠ q → (t.core k).tile j = (s.core k).tile j
  flies  : InFlight s t k i .done p
  frame  : OnlyCoreMem s t k
  vregs  : SameVregs s t k
  lt     : (t.core k).lt = (s.core k).lt

section
variable {s t : State} {k : CoreId} {i : Instr} {q x : Nat} {p : Post} (h : ReadOut s t k i q x p)
include h

theorem ReadOut.els : ((t.core k).tile q).els = ((s.core k).tile q).els := by
  rw [h.tile]
  split <;> rfl

theorem ReadOut.sat : ((t.core k).tile q).sat = true ↔ ((s.core k).tile q).sat = true ∨ 0 < x := by
  rw [h.tile]
  by_cases hx : 0 < x
  · rw [if_pos hx]
    exact iff_of_true rfl (.inr hx)
  · rw [if_neg hx, or_iff_left hx]
end

/-- A ready command whose engine leaves the memory of `u` and reads tile `q` out completes with what holds of every such state. -/
theorem Completes.of_readOut {s u : State} {k : CoreId} {i : Instr} {q x m : Nat} {p : Post} {f : Core → Core} {P : State → Prop}
    (hx : exec i s = State.answer (s.issue k i)) (he : computes i) (hr : Ready s k i)
    (heff : effect (s.seen k i) k ((s.core k).entryOf i) = some (u.modCore k f, p))
    (hframe : OnlyCoreMem s u k) (hcore : u.core k = (s.seen k i).core k)
    (hf : ∀ y, (f y).tiles = (y.readout q x m).tiles ∧ (f y).vregs = y.vregs ∧ (f y).lt = y.lt)
    (hP : ∀ t, t.mem = u.mem → t.chk = u.chk → ReadOut s t k i q x p → P t) : Completes i s P := by
  obtain ⟨htiles, hvregs, hlt⟩ := hf ((s.seen k i).core k)
  obtain ⟨hvregs', -, hlt', -⟩ := State.seen_core s k i
  have htile : ((s.ran k i (u.modCore k f) p).core k).tile = (((s.seen k i).core k).readout q x m).tile := by
    rw [State.ran_tile, State.core_modCore_self, hcore, Core.tile_congr htiles]
  refine .of_effect hx he hr heff (hP _ ?_ ?_ ⟨?_, fun j hj => ?_, State.inFlight_ran .., (hframe.modCore _).ran _ _, ?_, ?_⟩)
  · rw [State.ran_mem, State.modCore_mem]
  · rw [State.ran_chk, State.modCore_chk]
  · rw [htile, Core.tile_readout, State.seen_tile]
    exact if_congr (and_iff_right rfl) rfl rfl
  · rw [htile, Core.tile_readout_other _ _ _ _ hj, State.seen_tile]
  · rw [SameVregs, State.ran_vregs, State.core_modCore_self, hcore, hvregs, hvregs']
  · rw [State.ran_lt, State.core_modCore_self, hcore, hlt, hlt']

/-! TSTORE (R63, R82). -/

/-- What TSTORE writes: the readouts, and the anchors of an anchored tile that has an anchor tensor. -/
def State.tileWrites (s : State) (d : Desc) (ha : W16) (old : Tile) (m n : Nat) : State :=
  if old.kind = 1 ∧ ha ≠ 0 then
    writeRuns (writeRuns s d.cvp (s.tileRuns d old m n)) (s.desc ha).cvp (s.anchorRuns (s.desc ha) old m n)
  else writeRuns s d.cvp (s.tileRuns d old m n)

section
variable {s u : State} {k : CoreId} (v : State) (d : Desc) (ha : W16) (old : Tile) (m n : Nat)

theorem State.tileWrites_core : (s.tileWrites d ha old m n).core k = s.core k := by
  unfold State.tileWrites
  split
  · rw [writeRuns_core, writeRuns_core]
  · rw [writeRuns_core]

theorem OnlyCoreMem.tileWrites (h : OnlyCoreMem s u k) : OnlyCoreMem s (u.tileWrites d ha old m n) k := by
  unfold State.tileWrites
  split
  · exact (h.writeRuns ..).writeRuns ..
  · exact h.writeRuns ..

theorem State.tileWrites_seen (i : Instr) :
    (s.seen k i).tileWrites d ha old m n = { s.tileWrites d ha old m n with cores := (s.seen k i).cores } := by
  have hdesc : (s.seen k i).desc = s.desc := rfl
  have htile : (s.seen k i).tileRuns d old m n = s.tileRuns d old m n := rfl
  have hanchors : (s.seen k i).anchorRuns (s.desc ha) old m n = s.anchorRuns (s.desc ha) old m n := rfl
  unfold State.tileWrites
  rw [hdesc, htile, hanchors]
  by_cases hanc : old.kind = 1 ∧ ha ≠ 0
  · rw [if_pos hanc, if_pos hanc]
    exact writeRuns_writeRuns_seen s k i ..
  · rw [if_neg hanc, if_neg hanc]
    exact writeRuns_seen s k i ..

theorem State.tileWrites_seen_mem (i : Instr) : ((s.seen k i).tileWrites d ha old m n).mem = (s.tileWrites d ha old m n).mem
    ∧ ((s.seen k i).tileWrites d ha old m n).chk = (s.tileWrites d ha old m n).chk := by
  rw [State.tileWrites_seen]
  exact ⟨rfl, rfl⟩

/-- Only the rows of the tensor change, and those of the anchor tensor of an anchored tile. -/
theorem MemKept.tileWrites (hh : W16) : MemKept s (s.tileWrites (s.desc hh) ha old m n)
    (s.rowSpans hh m n 16 ++ if old.kind = 1 then s.rowSpans ha m n 2 else []) := by
  have htile : Covers (s.rowSpans hh m n 16) (s.tileRuns (s.desc hh) old m n) := rowRuns_covered s hh m n 16 _
  unfold State.tileWrites
  by_cases hanc : old.kind = 1 ∧ ha ≠ 0
  · have hanchors : Covers (s.rowSpans ha m n 2) (s.anchorRuns (s.desc ha) old m n) := rowRuns_covered s ha m n 2 _
    rw [if_pos hanc, if_pos hanc.1]
    exact MemKept.writeRuns_writeRuns htile.append (hanchors.mono fun x hx => List.mem_append_right _ hx)
  · rw [if_neg hanc]
    exact MemKept.writeRuns htile.append
end

section
variable {s : State} {k : CoreId} {e : Ent} {h : Hdr} {c : TileMemF} {hh ha : W16} (hhh : effHandle h e.iter 0 c.h = hh)
  (hha : effHandle h e.iter 1 c.hanc = ha)
include hhh hha

/-- TSTORE writes its rows, reads the tile out, and brings OVF where a readout saturated or the tile is ANCH (R82). -/
theorem effTstore_eq (hf : (s.desc hh).fmt = some .t128) (hal : (s.desc hh).alay = false) (hn : (s.desc hh).extent 0 ≤ 128)
    (hm : (s.desc hh).extent 1 ≤ 128) :
    let old := (s.core k).tile c.tile.val
    let m := (s.desc hh).extent 1
    let n := (s.desc hh).extent 0
    let sat := ∃ r j, r < m ∧ j < n ∧ ((SMap.get TEl.zero old.els (128 * r + j)).raw old.kind).2 = true
    ∃ (x : Nat) (p : Post), (0 < x ↔ sat) ∧ (hh ∈ p.ovf ↔ sat ∨ old.anch = true) ∧ (hh, true) ∈ p.wrote
      ∧ effTstore s k e h c = some ((s.tileWrites (s.desc hh) ha old m n).modCore k fun y => y.readout c.tile.val x m, p) := by
  intro old m n sat
  have hform : ¬ ((s.desc hh).fmt ≠ some .t128 ∨ (s.desc hh).alay = true ∨ (s.desc hh).extent 0 > 128 ∨ (s.desc hh).extent 1 > 128) := by
    rw [hf, hal]
    rintro (hbad | hbad | hbad | hbad)
    · exact hbad rfl
    · exact Bool.false_ne_true hbad
    · omega
    · omega
  unfold effTstore
  dsimp only
  rw [hhh, hha, if_neg hform]
  have hsat := filter_rows_pos m n (fun r j => SMap.get TEl.zero old.els (128 * r + j)) fun x => (x.raw old.kind).2
  refine ⟨_, _, hsat, ?_, ?_, rfl⟩
  · have hovf : ∀ (b : Prop) [Decidable b] (p : Post), (if b then p.writes ha true else p).ovf = p.ovf := fun b _ p => by split <;> rfl
    rw [hovf, Post.writes_ovf, Post.mem_flags_none, Bool.or_eq_true, decide_eq_true_iff]
    exact or_congr_left hsat
  · split
    · exact List.mem_append_left _ (Post.mem_writes ..)
    · exact Post.mem_writes ..
end

/-- Settles O11: the writes of TSTORE give the memory, and its readout the tile. -/
theorem tileStore : Obligations.TileStore := by
  unfold Obligations.TileStore
  intro s k h c hh ha d old m n sat hf hal hn hm hr
  have htile := State.seen_tile s k (.tstore k h c)
  obtain ⟨x, p, hx, hovf, hwrote, heff⟩ := effTstore_eq (s := s.seen k (.tstore k h c)) (k := k) (e := (s.core k).entryOf (.tstore k h c))
    (h := h) (c := c) (hh := hh) (ha := ha) rfl rfl hf hal hn hm
  rw [htile] at hx hovf heff
  have hdone : effect (s.seen k (.tstore k h c)) k ((s.core k).entryOf (.tstore k h c)) =
      effTstore (s.seen k (.tstore k h c)) k ((s.core k).entryOf (.tstore k h c)) h c := rfl
  rw [heff] at hdone
  refine .of_readOut rfl (.inl rfl) hr hdone ((OnlyCoreMem.seen s k _).tileWrites ..) (State.tileWrites_core ..)
    (fun y => ⟨rfl, Core.readout_regs ..⟩) fun t hmem hchk hleft => ?_
  obtain ⟨hmem', hchk'⟩ := State.tileWrites_seen_mem (s := s) (k := k) d ha old m n (.tstore k h c)
  replace hmem : t.mem = (s.tileWrites d ha old m n).mem := hmem.trans hmem'
  replace hchk : t.chk = (s.tileWrites d ha old m n).chk := hchk.trans hchk'
  refine ⟨fun hplain => ?_, fun hkind hanc => ?_, (MemKept.tileWrites ha old m n hh).of_mem hmem, fun hs => hleft.sat.mpr (.inr (hx.mpr hs)),
    hleft.els, fun hs => ?_, ⟨p, hleft.flies, hovf, hwrote⟩, hleft.frame, hleft.vregs⟩
  · have hone : s.tileWrites d ha old m n = writeRuns s d.cvp (s.tileRuns d old m n) :=
      if_neg fun hb => hplain.elim (fun h => h hb.1) fun h => hb.2 h
    exact ⟨hmem.trans (congrArg State.mem hone), hchk.trans (congrArg State.chk hone)⟩
  · have htwo : s.tileWrites d ha old m n = _ := if_pos ⟨hkind, hanc⟩
    exact hmem.trans (congrArg State.mem htwo)
  · rw [hleft.tile, if_neg fun hpos => hs (hx.mp hpos)]

end Sys2Proof.Machine
end

section
/-! LTADDM and LTST (R66, R122, R175). -/

namespace Sys2Proof.Machine

open Sys2Proof

/-! The lanes that lie inside the tensor. -/

/-- The index of the element of lane `l` (R175). -/
def ltIx (c : VmemF) (l : Nat) : List Nat := [c.col0.toNat + l, c.row0.toNat, 0, 0, 0, 0]

/-- Lanes 0 to 63 whose elements lie inside the view. -/
def ltLanes (d : Desc) (c : VmemF) : List Nat := (List.range 64).filter fun l => d.inside (ltIx c l)

theorem ltPos_eq (d : Desc) (c : VmemF) : ltPos d c = (ltLanes d c).map fun l => (l, ltIx c l) := by
  rw [ltPos, ltLanes, List.filter_map]
  rfl

theorem mem_ltLanes {d : Desc} {c : VmemF} {l : Nat} : l ∈ ltLanes d c ↔ l < 64 ∧ d.inside (ltIx c l) = true := by
  rw [ltLanes, List.mem_filter, List.mem_range]

theorem ltLanes_nodup (d : Desc) (c : VmemF) : (ltLanes d c).Nodup := List.nodup_range.filter _

/-! LTADDM. -/

/-- Registers 0 to 3 of different lanes are different registers. -/
theorem Core.ltReg_setLt_lane (c : Core) (a l : Nat) {q q' : Nat} (x : LtEl) (hq : q < 4) (hq' : q' < 4) :
    (c.setLt a q x).ltReg l q' = if q' = q ∧ l = a then x else c.ltReg l q' := by
  rw [Core.ltReg_setLt]
  exact if_congr (by omega) rfl rfl

theorem Core.setLt_vregs (c : Core) (lane reg : Nat) (x : LtEl) : (c.setLt lane reg x).vregs = c.vregs := rfl

section
variable (q n : Nat) (val : Nat → Int)

/-- One word after another added to register `q` of the lanes `ls`. -/
def Core.ltAddLanes (c : Core) (ls : List Nat) : Core :=
  ls.foldl (fun (x : Core) l => x.setLt l q ((x.ltReg l q).add (val l) wtLt (n + l))) c

theorem Core.ltAddLanes_cons (c : Core) (a : Nat) (ls : List Nat) : c.ltAddLanes q n val (a :: ls) =
    (c.setLt a q ((c.ltReg a q).add (val a) wtLt (n + a))).ltAddLanes q n val ls := by
  rw [Core.ltAddLanes, List.foldl_cons, Core.ltAddLanes]

/-- Each of different lanes takes its word, no other register takes any. -/
theorem Core.ltReg_ltAddLanes {q : Nat} (hq : q < 4) (c : Core) {ls : List Nat} (hnodup : ls.Nodup) (l q' : Nat) (hq' : q' < 4) :
    (c.ltAddLanes q n val ls).ltReg l q' =
      if q' = q ∧ l ∈ ls then (c.ltReg l q).add (val l) wtLt (n + l) else c.ltReg l q' := by
  induction ls generalizing c with
  | nil => simp [Core.ltAddLanes]
  | cons a ls ih =>
    obtain ⟨ha, hls⟩ := List.nodup_cons.mp hnodup
    rw [Core.ltAddLanes_cons, ih _ hls, Core.ltReg_setLt_lane _ _ _ _ hq hq', Core.ltReg_setLt_lane _ _ _ _ hq hq]
    by_cases hat : q' = q ∧ l = a
    · obtain ⟨rfl, rfl⟩ := hat
      rw [if_neg (fun h => ha h.2), if_pos ⟨rfl, rfl⟩, if_pos ⟨rfl, List.mem_cons_self⟩]
    · rw [if_neg hat]
      by_cases hin : q' = q ∧ l ∈ ls
      · rw [if_pos hin, if_neg (fun h => hat ⟨hin.1, h.2⟩), if_pos ⟨hin.1, List.mem_cons_of_mem _ hin.2⟩]
      · rw [if_neg hin, if_neg]
        rintro ⟨hq, hl⟩
        exact (List.mem_cons.mp hl).elim (fun h => hat ⟨hq, h⟩) fun h => hin ⟨hq, h⟩

theorem Core.ltAddLanes_vregs (c : Core) (ls : List Nat) : (c.ltAddLanes q n val ls).vregs = c.vregs := by
  induction ls generalizing c with
  | nil => rfl
  | cons a ls ih =>
    rw [Core.ltAddLanes_cons, ih, Core.setLt_vregs]
end

theorem effLtaddm_eq {s : State} {k : CoreId} {e : Ent} {h : Hdr} {c : VmemF} {d : Desc} (hd : s.desc (vmemHandle c h e.iter) = d)
    (hf : d.fmt = some .lt320) :
    effLtaddm s k e h c = some ((s.setCore k (((s.core k).ltAddLanes c.ltr.val s.free
      (fun l => (ltRead (BitVec.ofNat 320 (s.codeAt d (ltIx c l)))).1) (ltLanes d c)).count 0x31 (ltLanes d c).length)).withFree
        (s.free + 64), Post.none) := by
  unfold effLtaddm
  dsimp only
  rw [hd, if_neg (by simp [hf]), ltPos_eq, List.foldl_map, List.length_map]
  rfl

theorem completes_ltaddm {s : State} {k : CoreId} {h : Hdr} {c : VmemF} (hf : (s.desc (s.handleNow k h 0 c.h)).fmt = some .lt320)
    (hr : Ready s k (.ltaddm k h c)) :
    let d := s.desc (s.handleNow k h 0 c.h)
    Completes (.ltaddm k h c) s fun t =>
      (∀ l q, l < 64 → q < 4 → (t.core k).ltReg l q = if q = c.ltr.val ∧ d.inside (ltIx c l) = true then
          ((s.core k).ltReg l q).add (ltRead (BitVec.ofNat 320 (s.codeAt d (ltIx c l)))).1 wtLt (s.free + l)
        else (s.core k).ltReg l q)
      ∧ t.mem = s.mem ∧ OnlyCoreMem s t k ∧ SameVregs s t k := by
  intro d
  have heff := effLtaddm_eq (s := s.seen k (.ltaddm k h c)) (k := k) (e := (s.core k).entryOf (.ltaddm k h c)) (h := h) (c := c) (d := d)
    rfl hf
  have hcode : (s.seen k (.ltaddm k h c)).codeAt = s.codeAt := rfl
  have hfree : (s.seen k (.ltaddm k h c)).free = s.free := rfl
  rw [hcode, hfree] at heff
  have hdone : effect (s.seen k (.ltaddm k h c)) k ((s.core k).entryOf (.ltaddm k h c)) =
      effLtaddm (s.seen k (.ltaddm k h c)) k ((s.core k).entryOf (.ltaddm k h c)) h c := rfl
  rw [heff] at hdone
  refine .of_effect rfl (.inr rfl) hr hdone ⟨fun l q hl hq => ?_, ?_, ?_, ?_⟩
  · rw [State.ran_ltReg, State.withFree_core, State.core_setCore_self, Core.ltReg_congr (Core.count_lt ..),
      Core.ltReg_ltAddLanes _ _ c.ltr.isLt _ (ltLanes_nodup d c) l q hq, State.seen_ltReg]
    by_cases hin : q = c.ltr.val ∧ d.inside (ltIx c l) = true
    · rw [if_pos ⟨hin.1, mem_ltLanes.mpr ⟨hl, hin.2⟩⟩, if_pos hin, hin.1]
    · rw [if_neg fun h => hin ⟨h.1, (mem_ltLanes.mp h.2).2⟩, if_neg hin]
  · rw [State.ran_mem, State.withFree_mem]
    rfl
  · exact (((OnlyCoreMem.seen s k _).modCore fun _ => _).withFree _).ran _ _
  · rw [SameVregs, State.ran_vregs, State.withFree_core, State.core_setCore_self, Core.count_vregs, Core.ltAddLanes_vregs]
    exact State.seen_vregs ..

/-! LTST. -/

/-- The runs of LTST: the words of the lanes, an invalid one as its saturated value (R66). -/
def ltstRuns (s : State) (core : Core) (d : Desc) (c : VmemF) : List Run := (ltPos d c).map fun p =>
  (s.basePhys d + d.bitOff p.2 / 8, leBytes 40 (ltSat (core.ltReg p.1 c.ltr.val).w).1.toNat)

theorem effLtst_eq {s : State} {k : CoreId} {e : Ent} {h : Hdr} {c : VmemF} {hh : W16} (hhh : vmemHandle c h e.iter = hh)
    (hf : (s.desc hh).fmt = some .lt320) :
    ∃ p, (hh ∈ p.ovf ↔ ∃ x ∈ ltPos (s.desc hh) c, (ltSat ((s.core k).ltReg x.1 c.ltr.val).w).2 = true)
      ∧ effLtst s k e h c = some (writeRuns s (s.desc hh).cvp (ltstRuns s (s.core k) (s.desc hh) c), p) := by
  unfold effLtst
  dsimp only
  rw [hhh, if_neg (by simp [hf]), List.map_map]
  refine ⟨_, ?_, rfl⟩
  rw [Post.writes_ovf, Post.mem_flags_none, List.any_map, List.any_eq_true]
  rfl

/-- Settles O19: LTADDM lane by lane, LTST by its runs. -/
theorem longTallyMemory : Obligations.LongTallyMemory := by
  unfold Obligations.LongTallyMemory
  constructor
  · intro s k h c d ix hf hr
    obtain ⟨t, hx, hregs, hmem, hcore, hvregs⟩ := completes_ltaddm hf hr
    refine ⟨t, hx, fun l hl hin hw => ?_, fun l q hl hq hout => ?_, hmem, hcore, hvregs⟩
    · rw [hregs l _ hl c.ltr.isLt, if_pos ⟨rfl, hin⟩, LtEl.add_of_le (wt := wtLt) hw]
      rfl
    · rw [hregs l q hl hq, if_neg]
      rintro ⟨hq', hin⟩
      exact hout.elim (fun h => h hq') fun h => Bool.false_ne_true (h.symm.trans hin)
  · intro s k h c hh d rs hf hr
    obtain ⟨p, hovf, heff⟩ := effLtst_eq (s := s.seen k (.ltst k h c)) (k := k) (e := (s.core k).entryOf (.ltst k h c)) (h := h) (c := c)
      (hh := hh) rfl hf
    have hrs : ltstRuns (s.seen k (.ltst k h c)) ((s.seen k (.ltst k h c)).core k) d c = rs := by
      rw [ltstRuns, State.seen_ltReg]
      rfl
    have hdesc : (s.seen k (.ltst k h c)).desc hh = d := rfl
    rw [State.seen_ltReg, hdesc] at hovf
    rw [hdesc, hrs] at heff
    have hdone : effect (s.seen k (.ltst k h c)) k ((s.core k).entryOf (.ltst k h c)) =
        effLtst (s.seen k (.ltst k h c)) k ((s.core k).entryOf (.ltst k h c)) h c := rfl
    rw [heff] at hdone
    exact .of_stored (d := d) (rs := rs) rfl (.inr rfl) hr hdone fun t hst hflies hcore hregs hvregs =>
      ⟨hst, hst.kept (.runSpans _), ⟨p, hflies, hovf⟩, hcore, hregs, hvregs⟩

end Sys2Proof.Machine
end

section
/-! MMUL (R68, R73, R83). -/

namespace Sys2Proof.Machine

open Sys2Proof

/-! Adding while the magnitudes keep below 2^127: nothing wraps (R62). -/

theorem TEl.add_small {e : TEl} {p : Int} (hw : e.wrap = 0) (hsum : (e.w.toInt.natAbs : Int) + p.natAbs < 2 ^ 127) :
    (e.add p).w.toInt = e.w.toInt + p ∧ (e.add p).wrap = 0 := by
  have hwrap : e.wrap.toInt = 0 := by rw [hw]; rfl
  have hcarry : tallyCarry (e.w.toInt + p) = 0 := by
    unfold tallyCarry
    rw [if_neg (by omega), if_neg (by omega)]
  unfold TEl.add
  rw [hwrap, tallyAddAt_of_range (wrap := 0) p (by decide), hcarry]
  refine ⟨?_, rfl⟩
  dsimp only
  rw [Int.zero_mul, Int.sub_zero]
  exact toInt_ofInt_tally (by omega) (by omega)

theorem TEl.foldl_add_small {ps : List Int} {e : TEl} (hw : e.wrap = 0)
    (hsum : (e.w.toInt.natAbs : Int) + (ps.map fun p => (p.natAbs : Int)).sum < 2 ^ 127) :
    (ps.foldl TEl.add e).w.toInt = e.w.toInt + ps.sum ∧ (ps.foldl TEl.add e).wrap = 0 := by
  induction ps generalizing e with
  | nil => exact ⟨by simp, hw⟩
  | cons p ps ih =>
    rw [List.map_cons, List.sum_cons] at hsum
    have hrest : 0 ≤ (ps.map fun p => (p.natAbs : Int)).sum := List.sum_nonneg fun x hx => by
      obtain ⟨p, -, rfl⟩ := List.mem_map.mp hx
      exact Int.natCast_nonneg _
    obtain ⟨hword, hwrap⟩ := TEl.add_small (p := p) hw (by omega)
    obtain ⟨hword', hwrap'⟩ := ih hwrap (by rw [hword]; omega)
    exact ⟨by rw [List.foldl_cons, hword', hword, List.sum_cons, Int.add_assoc], hwrap'⟩

/-! The element that MMUL leaves. -/

section
variable (o : Ops2) (c : MmulF) (anchor : Nat → Nat → W16) (n : Nat)

/-- What an element starts from (R83). -/
def mmulStart (i j : Nat) (e : TEl) : TEl :=
  if c.ovw then TEl.mk 0 0 (if mmulKind o.fam c.acc = 1 then anchor i j else 0x8000#16) 0 else e

/-- An element of a product after MMUL (R68-R71, R73). -/
def mmulEl (i j : Nat) (e0 : TEl) : TEl :=
  let la := o.a.getD i []
  let lb := o.b.getD j []
  let e := mmulStart o c anchor i j e0
  if mmulKind o.fam c.acc = 1 then
    { (anchorAcc la lb (n + 128 * i + j) e).1 with
      rho := resAdd e.rho ((products (la.map fun x => ⟨x.res, 0⟩) (lb.map fun x => ⟨x.res, 0⟩)).foldl (· + ·) 0) }
  else
    let ps := products la lb
    if c.acc = 3 then
      { e with w := (z1Acc c.k0.toNat (ps.map fun p => toF32 (FV.ofRat ((p : ℚ) * pow2 (-72)))) (e.w.setWidth 32)).setWidth 128, wrap := 0,
               rho := resAdd e.rho (ps.foldl (· + ·) 0) }
    else if c.acc = 1 then
      { (chunkFrom (chunkLen c.csz) true c.k0.toNat ps 0 e) with rho := resAdd e.rho (ps.foldl (· + ·) 0) }
    else ps.foldl TEl.add e

/-- MMUL gives each element inside M × N its product, and leaves the others. -/
theorem mmulTile_get (t : Tile) {r j : Nat} (hr : r < 128) (hj : j < 128) :
    SMap.get TEl.zero (mmulTile o c anchor n t).els (128 * r + j) =
      if r < o.m ∧ j < o.n then mmulEl o c anchor n r j (SMap.get TEl.zero t.els (128 * r + j))
      else SMap.get TEl.zero t.els (128 * r + j) := by
  unfold mmulTile
  extract_lets kind start one inM els
  have hone : ∀ i j e, (one i j e).1 = mmulEl o c anchor n i j e := fun i j e => by
    have hstart : mmulStart o c anchor i j e = start i j e := rfl
    unfold mmulEl
    dsimp only [one]
    rw [hstart]
    by_cases hk : kind = 1
    · have hk' : mmulKind o.fam c.acc = 1 := hk
      rw [if_pos hk, if_pos hk']
    · have hk' : mmulKind o.fam c.acc ≠ 1 := hk
      rw [if_neg hk, if_neg hk']
      split
      · rfl
      · split <;> rfl
  show SMap.get TEl.zero els (128 * r + j) = _
  rw [SMap.get_upd, if_pos (by omega), cell_div r hj, cell_mod r hj, hone]
  simp only [inM, Bool.and_eq_true, decide_eq_true_eq]

theorem mmulStart_of_bx (hacc : c.acc = 0) (i j : Nat) (e : TEl) :
    mmulStart o c anchor i j e = if c.ovw then ⟨0, 0, if o.fam = .bx then anchor i j else 0x8000#16, 0⟩ else e := by
  unfold mmulStart mmulKind
  rw [hacc]
  cases hfam : o.fam <;> rfl

/-- EXACT mode without anchors: every product is added (R68). -/
theorem mmulEl_exact (hacc : c.acc = 0) (hfam : o.fam ≠ .bx) (i j : Nat) (e : TEl) :
    mmulEl o c anchor n i j e = (products (o.a.getD i []) (o.b.getD j [])).foldl TEl.add (mmulStart o c anchor i j e) := by
  have hkind : mmulKind o.fam c.acc ≠ 1 := by
    unfold mmulKind
    rw [hacc, if_neg (by decide), if_neg hfam]
    decide
  unfold mmulEl
  dsimp only
  rw [if_neg hkind, if_neg (by rw [hacc]; decide), if_neg (by rw [hacc]; decide)]

/-- EXACT mode in an anchored tile: every window term is added (R73). -/
theorem mmulEl_window (hacc : c.acc = 0) (hfam : o.fam = .bx) (i j : Nat) (e : TEl) :
    let e0 := mmulStart o c anchor i j e
    let pairs := (List.zip (o.a.getD i []) (o.b.getD j [])).filter fun p => takesPart p.1 p.2
    let qs := pairs.map fun p => anchorTerm p.1.v p.2.v ((p.1.x + p.2.x : Nat) : Int) e0.anc.toInt
    (∀ q ∈ qs, q.natAbs ≤ 2 ^ 127) →
      (mmulEl o c anchor n i j e).w = (qs.foldl TEl.add e0).w ∧ (mmulEl o c anchor n i j e).wrap = (qs.foldl TEl.add e0).wrap
        ∧ (mmulEl o c anchor n i j e).anc = e0.anc := by
  intro e0 pairs qs hq
  have hkind : mmulKind o.fam c.acc = 1 := by
    unfold mmulKind
    rw [hacc, if_neg (by decide), if_pos hfam]
  have hany : (qs.any fun q => decide (q.natAbs > 2 ^ 127)) = false := by
    rw [List.any_eq_false]
    intro q hqs
    simpa using hq q hqs
  have hacc : (anchorAcc (o.a.getD i []) (o.b.getD j []) (n + 128 * i + j) e0).1 = qs.foldl TEl.add e0 := by
    unfold anchorAcc
    dsimp only
    rw [if_neg (by rw [hany]; exact Bool.false_ne_true)]
  unfold mmulEl
  dsimp only
  rw [if_pos hkind, hacc]
  exact ⟨rfl, rfl, (TEl.foldl_add_rest qs e0).1⟩
end

/-! The command. -/

/-- Operands have at most 128 lines each (R61). -/
theorem State.ops2_bounds {s : State} {ha hb : W16} {ta tb : Bool} {k0 k1 : W32} {o : Ops2} (ho : s.ops2 ha hb ta tb k0 k1 = some o) :
    o.m ≤ 128 ∧ o.n ≤ 128 := by
  unfold State.ops2 at ho
  extract_lets da db kda kdb m n len at ho
  clear_value kda kdb
  split at ho
  next => exact absurd ho nofun
  next =>
    split at ho
    next => exact absurd ho nofun
    next hform =>
      obtain rfl := Option.some.inj ho
      have hm : ¬ m > 128 := fun hm => hform (by simp only [hm, true_or, or_true])
      have hn : ¬ n > 128 := fun hn => hform (by simp only [hn, true_or, or_true])
      exact ⟨Nat.le_of_not_lt hm, Nat.le_of_not_lt hn⟩

/-- The anchor of an element that MMUL overwrites: that of an anchor tensor, or that of its lines (R72, R173). -/
def mmulAnchor (s : State) (c : MmulF) (hc : W16) (o : Ops2) (i j : Nat) : W16 :=
  if c.ans then s.anchorAt hc i j else anchorOf (o.a.getD i []) (o.b.getD j [])

theorem effMmul_eq {s : State} {k : CoreId} {e : Ent} {h : Hdr} {c : MmulF} {o : Ops2} {hc : W16}
    (ho : s.ops2 (effHandle h e.iter 0 c.ha) (effHandle h e.iter 1 c.hb) c.ta c.tb c.k0 c.k1 = some o)
    (hhc : effHandle h e.iter 2 c.hanc = hc) (hmode : modeOk o.fam c.acc c.csz = true)
    (hkind : c.ovw = true ∨ ((s.core k).tile c.tile.val).kind = mmulKind o.fam c.acc) :
    ∃ (d : Core) (p : Post), effMmul s k e h c = some ((s.setCore k d).withFree (s.free + 16384), p)
      ∧ d.tiles = ((s.core k).setTile c.tile.val (mmulTile (o.anchored c hc) c (mmulAnchor s c hc o) s.free
          ((s.core k).tile c.tile.val))).tiles
      ∧ d.vregs = (s.core k).vregs ∧ d.lt = (s.core k).lt := by
  have hform : ¬ (¬ modeOk o.fam c.acc c.csz = true ∨ (¬ c.ovw = true ∧ ((s.core k).tile c.tile.val).kind ≠ mmulKind o.fam c.acc)) := by
    rintro (hbad | ⟨hovw, hne⟩)
    · exact hbad hmode
    · exact hkind.elim hovw hne
  unfold effMmul
  dsimp only
  rw [hhc, ho]
  dsimp only
  rw [if_neg hform]
  exact ⟨_, _, rfl, rfl, rfl, rfl⟩

/-- A ready MMUL completes with the tile of `mmulTile`, and keeps the other registers and memory. -/
theorem completes_mmul {s : State} {k : CoreId} {h : Hdr} {c : MmulF} {o : Ops2}
    (ho : s.ops2 (s.handleNow k h 0 c.ha) (s.handleNow k h 1 c.hb) c.ta c.tb c.k0 c.k1 = some o)
    (hmode : modeOk o.fam c.acc c.csz = true) (hkind : c.ovw = true ∨ ((s.core k).tile c.tile.val).kind = mmulKind o.fam c.acc)
    (hr : Ready s k (.mmul k h c)) :
    Completes (.mmul k h c) s fun t =>
      (t.core k).tile c.tile.val = mmulTile (o.anchored c (s.handleNow k h 2 c.hanc)) c (mmulAnchor s c (s.handleNow k h 2 c.hanc) o)
        s.free ((s.core k).tile c.tile.val)
      ∧ (∀ q, q ≠ c.tile.val → (t.core k).tile q = (s.core k).tile q)
      ∧ t.mem = s.mem ∧ t.chk = s.chk ∧ OnlyCoreMem s t k ∧ SameVregs s t k ∧ (t.core k).lt = (s.core k).lt := by
  have htile := State.seen_tile s k (.mmul k h c)
  obtain ⟨d, p, heff, htiles, hvregs, hlt⟩ := effMmul_eq (s := s.seen k (.mmul k h c)) (k := k) (e := (s.core k).entryOf (.mmul k h c))
    (h := h) (c := c) (hc := s.handleNow k h 2 c.hanc)
    (by rw [State.ops2_seen, effHandle_entryOf, effHandle_entryOf]; exact ho) rfl hmode (by rw [htile]; exact hkind)
  have hanchor : mmulAnchor (s.seen k (.mmul k h c)) c (s.handleNow k h 2 c.hanc) o = mmulAnchor s c (s.handleNow k h 2 c.hanc) o := rfl
  have hfree : (s.seen k (.mmul k h c)).free = s.free := rfl
  have hdone : effect (s.seen k (.mmul k h c)) k ((s.core k).entryOf (.mmul k h c)) =
      effMmul (s.seen k (.mmul k h c)) k ((s.core k).entryOf (.mmul k h c)) h c := rfl
  rw [heff] at hdone
  rw [hanchor, hfree, htile] at htiles
  have htiles' : ∀ q, d.tile q = if q = c.tile.val then mmulTile (o.anchored c (s.handleNow k h 2 c.hanc)) c
      (mmulAnchor s c (s.handleNow k h 2 c.hanc) o) s.free ((s.core k).tile c.tile.val) else (s.core k).tile q := fun q => by
    rw [Core.tile_congr htiles, Core.tile_setTile, htile]
  obtain ⟨hvregs', -, hlt', -⟩ := State.seen_core s k (.mmul k h c)
  refine .of_effect rfl (.inl rfl) hr hdone ⟨?_, fun q hq => ?_, ?_, ?_, ?_, ?_, ?_⟩
  · rw [State.ran_tile, State.withFree_core, State.core_setCore_self, htiles', if_pos rfl]
  · rw [State.ran_tile, State.withFree_core, State.core_setCore_self, htiles', if_neg hq]
  · rw [State.ran_mem, State.withFree_mem]
    rfl
  · rw [State.ran_chk]
    rfl
  · exact (((OnlyCoreMem.seen s k _).modCore fun _ => _).withFree _).ran _ _
  · rw [SameVregs, State.ran_vregs, State.withFree_core, State.core_setCore_self, hvregs, hvregs']
  · rw [State.ran_lt, State.withFree_core, State.core_setCore_self, hlt, hlt']

/-- Operands with the anchor tensor among their handles are the same operands. -/
theorem Ops2.anchored_eq (o : Ops2) (c : MmulF) (hc : W16) : ∃ hs, o.anchored c hc = { o with hs := hs } := by
  unfold Ops2.anchored
  split
  · exact ⟨_, rfl⟩
  · exact ⟨o.hs, rfl⟩

/-- Settles O12: the elements of `mmulTile`, inside M × N by the mode and outside as they were. -/
theorem matrixMultiply : Obligations.MatrixMultiply := by
  unfold Obligations.MatrixMultiply
  intro s k h c o old el ps anchor ho hmode hkind hr
  obtain ⟨t, hx, htile, hothers, hmem, hchk, hcore, hvregs, hlt⟩ := completes_mmul ho hmode hkind hr
  obtain ⟨hm, hn⟩ := State.ops2_bounds ho
  have hget : ∀ r j, r < 128 → j < 128 → SMap.get TEl.zero ((t.core k).tile c.tile.val).els (128 * r + j) =
      if r < o.m ∧ j < o.n then mmulEl o c anchor s.free r j (el r j) else el r j := fun r j hrow hj => by
    obtain ⟨hs, hanc⟩ := o.anchored_eq c (s.handleNow k h 2 c.hanc)
    rw [htile, mmulTile_get _ _ _ _ _ hrow hj, hanc]
    rfl
  have hin : ∀ r j, r < o.m → j < o.n → SMap.get TEl.zero ((t.core k).tile c.tile.val).els (128 * r + j) =
      mmulEl o c anchor s.free r j (el r j) := fun r j hrow hj => by
    rw [hget r j (by omega) (by omega), if_pos ⟨hrow, hj⟩]
  refine ⟨t, hx, htile, fun hacc r j hrow hj => ?_, fun hacc hfam r j hrow hj => ?_, fun r j hrow hj hout => ?_, hothers, hmem, hchk, hcore,
    hvregs, hlt⟩
  · intro e0 pairs qs x
    have he0 : mmulStart o c anchor r j (el r j) = e0 := mmulStart_of_bx o c anchor hacc r j (el r j)
    have hx : x = mmulEl o c anchor s.free r j (el r j) := hin r j hrow hj
    rw [hx]
    refine ⟨fun hfam => ?_, fun hfam hq => ?_⟩
    · rw [mmulEl_exact o c anchor s.free hacc hfam, he0]
    · have hwin := mmulEl_window o c anchor s.free hacc hfam r j (el r j)
      rw [he0] at hwin
      exact hwin hq
  · intro start hwrap hsum
    have he0 := mmulStart_of_bx o c anchor hacc r j (el r j)
    rw [if_neg hfam] at he0
    have hstart : (mmulStart o c anchor r j (el r j)).w.toInt = start ∧ (mmulStart o c anchor r j (el r j)).wrap = 0 := by
      rw [he0]
      unfold start
      cases hovw : c.ovw with
      | true => exact ⟨rfl, rfl⟩
      | false => exact ⟨rfl, hwrap.resolve_left (by rw [hovw]; exact Bool.false_ne_true)⟩
    obtain ⟨hword, hzero⟩ := hstart
    rw [hin r j hrow hj, mmulEl_exact o c anchor s.free hacc hfam]
    have hfold := TEl.foldl_add_small (ps := ps r j) hzero (by rw [hword]; exact hsum)
    rw [hword] at hfold
    exact hfold
  · rw [hget r j hrow hj, if_neg (by omega)]

end Sys2Proof.Machine
end

section
/-! Stores in several steps: each writes within given byte ranges, and what lies outside them is kept. -/

namespace Sys2Proof.Machine

open Sys2Proof

/-- The state `u` is what runs within the ranges `ss`, written one after another, make of `s`. -/
inductive StoresIn (ss : List Span) (s : State) : State → Prop
  | none : StoresIn ss s s
  | write {u : State} (cvp : Nat) {rs : List Run} : StoresIn ss s u → Covers ss rs → StoresIn ss s (writeRuns u cvp rs)

section
variable {ss ss' : List Span} {s u v : State}

theorem StoresIn.mono (h : StoresIn ss s u) (hs : ∀ x ∈ ss, x ∈ ss') : StoresIn ss' s u := by
  induction h with
  | none => exact .none
  | write cvp _ hc ih => exact .write cvp ih (hc.mono hs)

theorem StoresIn.core (h : StoresIn ss s u) (k : CoreId) : u.core k = s.core k := by
  induction h with
  | none => rfl
  | write cvp _ _ ih => rw [writeRuns_core, ih]

/-- Addresses do not depend on what memory holds. -/
theorem StoresIn.basePhys (h : StoresIn ss s u) : u.basePhys = s.basePhys := by
  induction h with
  | none => rfl
  | write cvp _ _ ih => rw [← ih, writeRuns_eq]; rfl

theorem StoresIn.frame {r : State} {k : CoreId} (h : StoresIn ss s u) (hr : OnlyCoreMem r s k) : OnlyCoreMem r u k := by
  induction h with
  | none => exact hr
  | write cvp _ _ ih => exact ih.writeRuns ..

theorem StoresIn.kept (h : StoresIn ss s u) {a : Nat} (ha : Outside ss a) (hb : BlockOk s a) :
    memGet u.mem a = memGet s.mem a ∧ BlockOk u a := by
  induction h with
  | none => exact ⟨rfl, hb⟩
  | write cvp _ hc ih =>
    obtain ⟨hmem, hok⟩ := ih
    exact ⟨(writeRuns_kept _ cvp _ (hc.outside ha) hok).trans hmem, hok.writeRuns cvp _⟩

theorem StoresIn.memKept {k : CoreId} {i : Instr} (h : StoresIn ss (s.seen k i) u) : MemKept s u ss := fun _ ha hb => (h.kept ha hb).1

theorem StoresIn.convWrites {d : Desc} {f : Fmt} (hf : d.fmt = some f) (rts : W32) (rnd : List Nat → Rnd) (els : List StEl) :
    StoresIn (s.storedSpans d (els.map (·.1))) s (convWrites s d f (convStore d f rts rnd els)) := by
  have hcodes := Covers.of_codes (codeRuns_covered s s.mem d _ (convStore_codes_at hf rts rnd els))
  unfold Machine.convWrites
  dsimp only
  split
  next => exact .write _ .none hcodes
  next hs => exact .write _ (.write _ .none hcodes) (scaleRuns_stored s _ hf rts rnd els hs)
end

end Sys2Proof.Machine
end

section
/-! EPI (R94-R98, R277, R278). -/

namespace Sys2Proof.Machine

open Sys2Proof

/-! What a release brings is only added to. -/

/-- A release that brings what `p` brings of OVF. -/
def Post.KeepsOvf (p q : Post) : Prop := ∀ h ∈ p.ovf, h ∈ q.ovf

theorem Post.KeepsOvf.trans {p q r : Post} (h : p.KeepsOvf q) (h' : q.KeepsOvf r) : p.KeepsOvf r := fun x hx => h' x (h x hx)

theorem Post.keepsOvf_flags (p : Post) (h : W16) (f : Fl) : p.KeepsOvf (p.flags h f) := fun x hx => by
  unfold Post.flags
  dsimp only
  split
  · exact List.mem_append_left _ hx
  · exact hx

theorem Post.keepsOvf_writes (p : Post) (h : W16) (b : Bool) : p.KeepsOvf (p.writes h b) := fun _ hx => hx

/-! Statistics (R97, R98). -/

/-- A statistic vector is one run of LT320 words. -/
theorem State.writeStat_eq (s : State) (h : W16) (d : Desc) (add : Bool) (vs : List Int) (p : Post) :
    ∃ bytes q, s.writeStat h d add vs p = (writeRuns s d.cvp [(s.basePhys d, bytes)], q) ∧ bytes.length = 40 * vs.length
      ∧ p.KeepsOvf q := by
  refine ⟨_, _, rfl, ?_, (p.keepsOvf_flags h _).trans (Post.keepsOvf_writes _ _ _)⟩
  rw [length_flatMap_leBytes, List.length_map, List.length_zipIdx]

theorem statSum_length (n : Nat) (ys : List (Nat × Int)) : (statSum n ys).length = n := by simp [statSum]

/-- Writing a statistic vector stays within its words. -/
theorem StoresIn.writeStat {ss : List Span} {s u : State} (hu : StoresIn ss s u) {h : W16} {n : Nat} (hss : ∀ x ∈ s.statSpan h n, x ∈ ss)
    (add : Bool) (vs : List Int) (hvs : vs.length = n) (p : Post) :
    StoresIn ss s (u.writeStat h (s.desc h) add vs p).1 ∧ p.KeepsOvf (u.writeStat h (s.desc h) add vs p).2 := by
  obtain ⟨bytes, q, heq, hlen, hq⟩ := u.writeStat_eq h (s.desc h) add vs p
  rw [heq]
  refine ⟨.write _ hu fun r hr => ?_, hq⟩
  rw [List.mem_singleton.mp hr]
  refine ⟨(s.basePhys (s.desc h), 40 * n), hss _ (List.mem_singleton.mpr rfl), ?_, ?_⟩
  · rw [hu.basePhys]
  · dsimp only
    rw [hu.basePhys, hlen, hvs]

/-- The two vectors of statistics stay within their words. -/
theorem StoresIn.stats {ss : List Span} {s u : State} (hu : StoresIn ss s u) {hd hsr hsc : W16} {m n : Nat}
    (hr : ∀ x ∈ s.statSpan hsr m, x ∈ ss) (hc : ∀ x ∈ s.statSpan hsc n, x ∈ ss) (radd cadd : Bool) (ys : List StatEl) (p : Post) :
    StoresIn ss s (u.stats hd hsr hsc (s.desc hsr) (s.desc hsc) radd cadd m n ys p).1
      ∧ p.KeepsOvf (u.stats hd hsr hsc (s.desc hsr) (s.desc hsc) radd cadd m n ys p).2 := by
  unfold State.stats
  dsimp only
  obtain ⟨hrow, hovf⟩ := hu.writeStat hr radd (statSum m _) (statSum_length ..) (p.flags hd ⟨false, _⟩)
  obtain ⟨hcol, hovf'⟩ := hrow.writeStat hc cadd (statSum n _) (statSum_length ..) _
  exact ⟨hcol, ((p.keepsOvf_flags hd _).trans hovf).trans hovf'⟩

/-! The values and what is written of them. -/

section
variable (s : State) (k : CoreId) (e : Ent) (t : Tile) (c : EpiF) (f : Fmt) (hd : W16) (m n : Nat)

/-- A value times the scales of the epilogue, where both are usable (R39, R95). -/
def scaledBy (a b : Option ℚ) (v : FV) : FV :=
  match a, b with
  | some a, some b => v.mul (FV.ofRat (a * b))
  | _, _ => .fin false 0

/-- The values of the tile's elements as the epilogue takes them, row by row (R94, R95, R97). -/
def epiVals : List StatEl := ((List.range m).flatMap fun r => (List.range n).map fun j => (r, j)).map fun q =>
  (q.1, q.2, if f = .t128 then (((SMap.get TEl.zero t.els (128 * q.1 + q.2)).value t.kind).1.mul (f32 (s.scaleRec c.sa.toNat).1)).mul
        (f32 (s.scaleRec c.sb.toNat).1)
      else scaledBy (scaleOk (s.scaleRec c.sa.toNat).1) (scaleOk (s.scaleRec c.sb.toNat).1)
        ((SMap.get TEl.zero t.els (128 * q.1 + q.2)).value t.kind).1)

/-- The writes of an epilogue into its destination, by the destination's format. -/
def epiOut (addInto : Bool) (p : Post) : Option EpiOut :=
  if f = .t128 then some ⟨writeRuns s (s.desc hd).cvp (s.tileRuns (s.desc hd) t m n), p.writes hd true, epiVals s t c f m n, .none, 0⟩
  else if f.grid then
    (s.slotOf k c.gslot.toNat).map fun sl => epiGrid s k e hd (s.desc hd) f.bits sl addInto (epiVals s t c f m n) p
  else some (epiConvert s e hd (s.desc hd) f (epiVals s t c f m n) p)

/-- Whether the readout of an element saturates (R63, R94). -/
def epiSat (x : TEl) : Bool := if f = .t128 then (x.raw t.kind).2 else (x.value t.kind).2

/-- Whether the epilogue brings NFIN: a scale that is not usable, or a Z1 element that is no number (R39, R71). -/
def epiNfin : Bool :=
  (((scaleOk (s.scaleRec c.sa.toNat).1).isNone || (scaleOk (s.scaleRec c.sb.toNat).1).isNone) && f ≠ .t128)
    || ((List.range m).flatMap fun r => (List.range n).map fun j => (r, j)).any fun q =>
      (SMap.get TEl.zero t.els (128 * q.1 + q.2)).badZ1 t.kind

/-- The core after an epilogue: its tile read out, its events counted. -/
def epiCore (sat : Nat) (o : EpiOut) (x : Core) : Core :=
  ((((((x.readout c.tile.val sat m).count 0x22 o.conv.ovf).count 0x23 o.conv.nfin).count 0x24 o.conv.zero).count 0x26
    o.conv.up).count 0x27 o.govf)
end

/-- The state and the release of an epilogue whose destination has been written: with the statistics, where it asks for them. -/
def epiStats (s : State) (c : EpiF) (hd hsr hsc : W16) (m n : Nat) (o : EpiOut) : State × Post :=
  if c.stat then o.st.stats hd hsr hsc (s.desc hsr) (s.desc hsc) c.radd c.cadd m n o.ys o.post else (o.st, o.post)

section
variable {s : State} {k : CoreId} {e : Ent} {h : Hdr} {c : EpiF} {f : Fmt} {hd hsr hsc : W16} (hhd : effHandle h e.iter 0 c.hd = hd)
  (hhr : effHandle h e.iter 1 c.hsr = hsr) (hhc : effHandle h e.iter 2 c.hsc = hsc)
include hhd hhr hhc

theorem effEpi_eq (hf : (s.desc hd).fmt = some f) (hlt : f ≠ .lt320) (hal : (s.desc hd).alay = false)
    (hm : (s.desc hd).extent 1 ≤ 128) (hn : (s.desc hd).extent 0 ≤ 128) :
    let m := (s.desc hd).extent 1
    let n := (s.desc hd).extent 0
    let t := (s.core k).tile c.tile.val
    ∃ sat : Nat,
      (0 < sat ↔ ∃ r j, r < m ∧ j < n ∧ epiSat t f (SMap.get TEl.zero t.els (128 * r + j)) = true)
      ∧ effEpi s k e h c = (epiOut s k e t c f hd m n (decide (f = .g64 ∧ (c.gmode = 1 ∨ (c.gmode = 2 ∧ ixIter h e.iter ≠ 0))))
          (Post.none.flags hd ⟨decide (sat > 0) || t.anch, epiNfin s t c f m n⟩)).map fun o =>
        ((epiStats s c hd hsr hsc m n o).1.modCore k (epiCore c m sat o), (epiStats s c hd hsr hsc m n o).2) := by
  intro m n t
  have hform : ¬ (f = .lt320 ∨ (s.desc hd).alay = true ∨ (s.desc hd).extent 1 > 128 ∨ (s.desc hd).extent 0 > 128) := by
    rw [hal]
    rintro (hbad | hbad | hbad | hbad)
    · exact hlt hbad
    · exact Bool.false_ne_true hbad
    · omega
    · omega
  have hsat := filter_rows_pos m n (fun r j => (r, j)) fun q => if f = .t128 then
    ((SMap.get TEl.zero t.els (128 * q.1 + q.2)).raw t.kind).2 else ((SMap.get TEl.zero t.els (128 * q.1 + q.2)).value t.kind).2
  refine ⟨_, hsat, ?_⟩
  unfold effEpi
  dsimp only
  rw [hhd, hhr, hhc, hf]
  dsimp only
  rw [if_neg hform]
  rfl
end

/-! Where the values go. -/

section
variable (s : State) (t : Tile) (c : EpiF) (f : Fmt) (m n : Nat)

theorem boxPos_zero : boxPos 0 n 0 m = ((List.range m).flatMap fun r => (List.range n).map fun j => (r, j)).map fun q =>
    [q.2, q.1, 0, 0, 0, 0] := by
  simp only [boxPos, List.map_flatMap, List.map_map, Nat.zero_add, Function.comp_def]

theorem epiVals_at : (epiVals s t c f m n).map (fun v => [v.2.1, v.1, 0, 0, 0, 0]) = boxPos 0 n 0 m := by
  rw [boxPos_zero, epiVals, List.map_map]
  rfl

/-- The values as the statement writes them, for a destination that is not raw. -/
theorem epiVals_scaled (hf : f ≠ .t128) : epiVals s t c f m n = (boxPos 0 n 0 m).map fun p => (p.getD 1 0, p.getD 0 0,
    scaledBy (scaleOk (s.scaleRec c.sa.toNat).1) (scaleOk (s.scaleRec c.sb.toNat).1)
      ((SMap.get TEl.zero t.els (128 * p.getD 1 0 + p.getD 0 0)).value t.kind).1) := by
  rw [boxPos_zero, epiVals, List.map_map]
  refine List.map_congr_left fun q _ => ?_
  rw [if_neg hf]
  rfl
end

section
variable (s : State) (k : CoreId) (e : Ent) (c : EpiF) {f : Fmt} {hd : W16} (p : Post)

/-- An epilogue into a grid format writes one run of whole bytes per value (R277). -/
theorem epiGrid_writes (d : Desc) (w slot : Nat) (add : Bool) (vals : List StatEl) :
    (∃ word : StatEl → Nat, (epiGrid s k e hd d w slot add vals p).st =
      writeRuns s d.cvp (vals.map fun v => (s.basePhys d + d.bitOff [v.2.1, v.1, 0, 0, 0, 0] / 8, leBytes (w / 8) (word v))))
    ∧ p.KeepsOvf (epiGrid s k e hd d w slot add vals p).post
    ∧ (epiGrid s k e hd d w slot add vals p).st = (epiGrid s k e hd d w slot add vals Post.none).st := by
  refine ⟨?_, ?_, rfl⟩
  · unfold epiGrid
    simp only [List.map_map]
    exact ⟨_, rfl⟩
  · exact (p.keepsOvf_flags hd _).trans fun _ hx => hx

/-- An epilogue into an element format writes what a conversion writes. -/
theorem epiConvert_writes (d : Desc) (vals : List StatEl) :
    (epiConvert s e hd d f vals p).st = convWrites s d f (convStore d f (s.scaleRec d.scale).2 (s.rndOf d 0 hd e.tag e.x)
      (vals.map fun v => ([v.2.1, v.1, 0, 0, 0, 0], v.2.2)))
    ∧ p.KeepsOvf (epiConvert s e hd d f vals p).post
    ∧ (epiConvert s e hd d f vals p).st = (epiConvert s e hd d f vals Post.none).st := by
  refine ⟨rfl, ?_, rfl⟩
  unfold epiConvert
  dsimp only
  split
  · exact (p.keepsOvf_flags hd _).trans fun _ hx => hx
  · exact (p.keepsOvf_flags hd _).trans fun _ hx => hx

/-- The bytes that an epilogue may write of its destination. -/
def epiSpans (f : Fmt) (hd : W16) (m n : Nat) : List Span :=
  if f = .t128 then s.rowSpans hd m n 16 else s.storedSpans (s.desc hd) (boxPos 0 n 0 m)

/-- Where an epilogue writes depends on no core. -/
theorem epiSpans_withCores (cs : SMap Core) : @epiSpans { s with cores := cs } = @epiSpans s := rfl

theorem epiSpans_seen (i : Instr) : @epiSpans (s.seen k i) = @epiSpans s :=
  (congrArg @epiSpans (State.seen_eq s k i)).trans (epiSpans_withCores s _)

theorem State.statSpan_seen (i : Instr) : (s.seen k i).statSpan = s.statSpan := rfl

/-- The writes of an epilogue into its destination, format by format. -/
theorem epiOut_spec (t : Tile) (m n : Nat) (add : Bool) (hf : (s.desc hd).fmt = some f) (hal : (s.desc hd).alay = false)
    (hslot : f.grid = true → (s.slotOf k c.gslot.toNat).isSome = true) :
    ∃ o, epiOut s k e t c f hd m n add p = some o ∧ StoresIn (epiSpans s f hd m n) s o.st ∧ p.KeepsOvf o.post
      ∧ (f = .t128 → o.st = writeRuns s (s.desc hd).cvp (s.tileRuns (s.desc hd) t m n))
      ∧ (f.grid = true → ∀ sl, s.slotOf k c.gslot.toNat = some sl →
          o.st = (epiGrid s k e hd (s.desc hd) f.bits sl add (epiVals s t c f m n) Post.none).st)
      ∧ (f ≠ .t128 → f.grid = false → o.st = (epiConvert s e hd (s.desc hd) f (epiVals s t c f m n) Post.none).st) := by
  unfold epiOut epiSpans
  by_cases ht : f = .t128
  · rw [if_pos ht, if_pos ht]
    refine ⟨_, rfl, .write _ .none (rowRuns_covered s hd m n 16 _), Post.keepsOvf_writes _ _ _, fun _ => rfl, fun hg => ?_,
      fun hne => absurd ht hne⟩
    rw [ht] at hg
    exact absurd hg Bool.false_ne_true
  rw [if_neg ht, if_neg ht]
  cases hg : f.grid with
  | true =>
    obtain ⟨sl, hsl⟩ := Option.isSome_iff_exists.mp (hslot hg)
    obtain ⟨⟨word, hst⟩, hovf, hnone⟩ := epiGrid_writes s k e p (hd := hd) (s.desc hd) f.bits sl add (epiVals s t c f m n)
    rw [if_pos rfl, hsl]
    refine ⟨_, rfl, ?_, hovf, fun h => absurd h ht, fun _ sl' hsl' => ?_, fun _ h => absurd h (by simp)⟩
    · rw [hst]
      have hwidth : 8 * (f.bits / 8) ≤ (s.desc hd).ebits := by
        rw [Desc.ebits_eq hf hal]
        omega
      refine .write _ .none (Covers.of_codes (wholeRuns_covered s _ _ hwidth (fun v : StatEl => [v.2.1, v.1, 0, 0, 0, 0]) word _ fun v hv => ?_))
      refine List.mem_append_left _ ?_
      rw [← epiVals_at s t c f m n]
      exact List.mem_map_of_mem (f := fun v : StatEl => [v.2.1, v.1, 0, 0, 0, 0]) hv
    · rw [← Option.some.inj hsl']
      exact hnone
  | false =>
    obtain ⟨hst, hovf, hnone⟩ := epiConvert_writes s e p (f := f) (hd := hd) (s.desc hd) (epiVals s t c f m n)
    rw [if_neg Bool.false_ne_true]
    refine ⟨_, rfl, ?_, hovf, fun h => absurd h ht, nofun, fun _ _ => hnone⟩
    have hconv := StoresIn.convWrites (s := s) hf (s.scaleRec (s.desc hd).scale).2 (s.rndOf (s.desc hd) 0 hd e.tag e.x)
      ((epiVals s t c f m n).map fun v => ([v.2.1, v.1, 0, 0, 0, 0], v.2.2))
    rw [List.map_map] at hconv
    rw [hst, ← epiVals_at s t c f m n]
    exact hconv
end

/-! The registers of the core. -/

theorem epiCore_regs (c : EpiF) (m sat : Nat) (o : EpiOut) (x : Core) : (epiCore c m sat o x).tiles = (x.readout c.tile.val sat m).tiles
    ∧ (epiCore c m sat o x).vregs = x.vregs ∧ (epiCore c m sat o x).lt = x.lt := by
  obtain ⟨hvregs, hlt⟩ := x.readout_regs c.tile.val sat m
  refine ⟨?_, ?_, ?_⟩
  · simp only [epiCore, Core.count_tiles]
  · simp only [epiCore, Core.count_vregs, hvregs]
  · simp only [epiCore, Core.count_lt, hlt]

theorem epiStats_spec {ss : List Span} {s : State} {c : EpiF} {hd hsr hsc : W16} {m n : Nat} {o : EpiOut} (ho : StoresIn ss s o.st) :
    StoresIn (ss ++ if c.stat then s.statSpan hsr m ++ s.statSpan hsc n else []) s (epiStats s c hd hsr hsc m n o).1
      ∧ o.post.KeepsOvf (epiStats s c hd hsr hsc m n o).2 ∧ (c.stat = false → (epiStats s c hd hsr hsc m n o).1 = o.st) := by
  have hmono := ho.mono fun x hx => List.mem_append_left (if c.stat then s.statSpan hsr m ++ s.statSpan hsc n else []) hx
  unfold epiStats
  cases hstat : c.stat with
  | true =>
    rw [hstat] at hmono
    rw [if_pos rfl]
    obtain ⟨hst, hovf⟩ := hmono.stats (hd := hd) (hsr := hsr) (hsc := hsc) (m := m) (n := n)
      (fun x hx => List.mem_append_right _ (List.mem_append_left _ hx))
      (fun x hx => List.mem_append_right _ (List.mem_append_right _ hx)) c.radd c.cadd o.ys o.post
    exact ⟨hst, hovf, nofun⟩
  | false =>
    rw [hstat] at hmono
    exact ⟨hmono, fun _ hx => hx, fun _ => rfl⟩

/-- Settles O14: the writes into the destination by its format, then the statistics, then the readout of the tile. -/
theorem epilogueCompletes : Obligations.EpilogueCompletes := by
  unfold Obligations.EpilogueCompletes
  intro s k h c f hd hsr hsc d m n old el sat vals e add stored hf hlt hal hm hn hslot hr
  have htile := State.seen_tile s k (.epi k h c)
  obtain ⟨x, hx, heff⟩ := effEpi_eq (s := s.seen k (.epi k h c)) (k := k) (e := e) (h := h) (c := c) (f := f) (hd := hd) (hsr := hsr)
    (hsc := hsc) rfl rfl rfl hf hlt hal hm hn
  rw [htile] at hx heff
  obtain ⟨o, ho, hst, hovf, hraw, hgrid, hconv⟩ := epiOut_spec (s.seen k (.epi k h c)) k e c
    (Post.none.flags hd ⟨decide (x > 0) || old.anch, epiNfin (s.seen k (.epi k h c)) old c f m n⟩) old m n add hf hal hslot
  obtain ⟨hstores, hkeeps, hplain⟩ := epiStats_spec (c := c) (hd := hd) (hsr := hsr) (hsc := hsc) (m := m) (n := n) hst
  have hout : effEpi (s.seen k (.epi k h c)) k e h c = (some o).map fun o =>
      ((epiStats (s.seen k (.epi k h c)) c hd hsr hsc m n o).1.modCore k (epiCore c m x o),
        (epiStats (s.seen k (.epi k h c)) c hd hsr hsc m n o).2) := heff.trans (congrArg _ ho)
  rw [Option.map_some] at hout
  generalize hE : epiStats (s.seen k (.epi k h c)) c hd hsr hsc m n o = E at hstores hkeeps hplain hout
  have hdone : effect (s.seen k (.epi k h c)) k ((s.core k).entryOf (.epi k h c)) = effEpi (s.seen k (.epi k h c)) k e h c := rfl
  rw [hout] at hdone
  obtain ⟨u, p⟩ := E
  dsimp only at hstores hkeeps hplain hdone
  have hkept := hstores.memKept
  rw [epiSpans_seen, State.statSpan_seen] at hkept
  have hsat : 0 < x ↔ sat := hx.trans (exists_congr fun r => exists_congr fun j => and_congr_right fun _ => and_congr_right fun _ => by
    unfold epiSat
    split <;> rfl)
  have hvals : f ≠ .t128 → epiVals (s.seen k (.epi k h c)) old c f m n = vals := fun hne => epiVals_scaled s old c f m n hne
  have hwrite : writeRuns (s.seen k (.epi k h c)) d.cvp (s.tileRuns d old m n) =
      { writeRuns s d.cvp (s.tileRuns d old m n) with cores := (s.seen k (.epi k h c)).cores } := writeRuns_seen ..
  refine .of_readOut rfl (.inl rfl) hr hdone (hstores.frame (OnlyCoreMem.seen s k _)) (hstores.core k)
    (epiCore_regs c m x o) fun t hmem hchk hleft => ?_
  refine ⟨hkept.of_mem hmem, fun hs ht => ?_, fun hs hg sl hsl => ?_, fun hs hne hg => ?_, hleft.els,
    hleft.sat.trans (or_congr_right hsat), hleft.others, ⟨p, hleft.flies, fun hbad => ?_⟩, hleft.frame, hleft.vregs, hleft.lt⟩
  · have hu : u = { writeRuns s d.cvp (s.tileRuns d old m n) with cores := (s.seen k (.epi k h c)).cores } :=
      (hplain hs).trans ((hraw ht).trans hwrite)
    have hum := congrArg State.mem hu
    have huc := congrArg State.chk hu
    exact ⟨hmem.trans hum, hchk.trans huc⟩
  · have hne : f ≠ .t128 := fun ht => by
      rw [ht] at hg
      exact Bool.false_ne_true hg
    rw [hvals hne] at hgrid
    exact hmem.trans (congrArg State.mem ((hplain hs).trans (hgrid hg sl hsl)))
  · rw [hvals hne] at hconv
    exact hmem.trans (congrArg State.mem ((hplain hs).trans (hconv hne hg)))
  · refine hkeeps hd (hovf hd (Post.mem_flags_ovf _ _ ?_))
    rw [Bool.or_eq_true, decide_eq_true_iff]
    exact hbad.imp_left hsat.mpr

end Sys2Proof.Machine
end

section
/-! Charges, fences and the move of a column (R104, R392-R394), and what of the module they leave as it was. -/

namespace Sys2Proof.Machine

open Sys2Proof

theorem State.core_congr {s t : State} (h : t.cores = s.cores) : t.core = s.core := by
  funext j
  rw [State.core, State.core, h]

/-! Fault records stay until they are drained. -/

/-- Every fault record of `s`, in the ring or waiting for room, stands in `t`. -/
def RecordsKept (s t : State) : Prop := ∀ r ∈ s.rings.fault ++ s.rings.wait, r ∈ t.rings.fault ++ t.rings.wait

theorem RecordsKept.refl (s : State) : RecordsKept s s := fun _ hr => hr

theorem RecordsKept.trans {s t u : State} (h : RecordsKept s t) (h' : RecordsKept t u) : RecordsKept s u := fun r hr => h' r (h r hr)

theorem RecordsKept.of_eq {s t : State} (hf : t.rings.fault = s.rings.fault) (hw : t.rings.wait = s.rings.wait) : RecordsKept s t :=
  fun r hr => by rw [hf, hw]; exact hr

theorem RecordsKept.raise (s : State) (kind engine : Nat) (core handle : W16) (tag : W32) (iter : List W32) (addr detail : Nat) :
    RecordsKept s (s.raise kind engine core handle tag iter addr detail) := by
  obtain ⟨r, -, -, -, -, -, -, -, -, hrings⟩ := s.raise_spec kind engine core handle tag iter addr detail
  intro x hx
  rw [hrings]
  split <;> simp only [List.mem_append] at hx ⊢ <;> tauto

/-- A record that is raised is among them. -/
theorem State.raise_record (s : State) (kind engine : Nat) (core handle : W16) (tag : W32) (iter : List W32) (addr detail : Nat) :
    ∃ r ∈ (s.raise kind engine core handle tag iter addr detail).rings.fault ++
        (s.raise kind engine core handle tag iter addr detail).rings.wait, r.kind = kind ∧ r.core = core := by
  obtain ⟨r, hkind, -, hcore, -, -, -, -, -, hrings⟩ := s.raise_spec kind engine core handle tag iter addr detail
  refine ⟨r, ?_, hkind, hcore⟩
  rw [hrings]
  split <;> simp

/-! The copy of a column and the move of its stream (R382, R393). -/

/-- What copying a column onto core `f` leaves: everything but the rings and, of `f`, its check-value unit and event counters. -/
structure Copied (f : CoreId) (s t : State) : Prop where
  rest    : { t with cores := s.cores, rings := s.rings } = s
  others  : ∀ j, j ≠ f → t.core j = s.core j
  target  : { t.core f with cvu := (s.core f).cvu, evc := (s.core f).evc } = s.core f
  records : RecordsKept s t

theorem Core.cvBad_rest (c : Core) (b kind : Nat) : { c.cvBad b kind with cvu := c.cvu, evc := c.evc } = c := by
  unfold Core.cvBad
  split <;> rfl

theorem State.raise_rest (s : State) (kind engine : Nat) (core handle : W16) (tag : W32) (iter : List W32) (addr detail : Nat) :
    { s.raise kind engine core handle tag iter addr detail with rings := s.rings } = s := by
  unfold State.raise
  dsimp only
  split <;> rfl

theorem Copied.refl (f : CoreId) (s : State) : Copied f s s := ⟨rfl, fun _ _ => rfl, rfl, .refl s⟩

/-- One bad block more. -/
theorem Copied.bad {f : CoreId} {s t : State} (h : Copied f s t) (b : Nat) :
    Copied f s ((t.modCore f fun c => c.cvBad b 0).raise (cvKind 0) engCvu (coreField f) 0 0 [] (b * 4096) 0) := by
  obtain ⟨hrest, hothers, htarget, hrecords⟩ := h
  have hcore := State.core_congr (State.raise_cores (t.modCore f fun c => c.cvBad b 0) (cvKind 0) engCvu (coreField f) 0 0 [] (b * 4096) 0)
  refine ⟨?_, fun j hj => ?_, ?_, hrecords.trans (RecordsKept.raise (t.modCore f fun c => c.cvBad b 0) _ _ _ _ _ _ _ _)⟩
  · have hraise := State.raise_rest (t.modCore f fun c => c.cvBad b 0) (cvKind 0) engCvu (coreField f) 0 0 [] (b * 4096) 0
    rw [← hrest]
    exact congrArg (fun u : State => { u with cores := s.cores, rings := s.rings }) hraise
  · rw [hcore, State.core_modCore_other _ _ hj, hothers j hj]
  · rw [hcore, State.core_modCore_self, ← htarget]
    exact congrArg (fun c : Core => { c with cvu := (s.core f).cvu, evc := (s.core f).evc }) (Core.cvBad_rest (t.core f) b 0)

theorem Copied.copyFaults (s : State) (x f : CoreId) : Copied f s (s.copyFaults x f) := by
  unfold State.copyFaults
  generalize s.badColumn x = bs
  suffices h : ∀ t, Copied f s t → Copied f s (bs.foldl (fun t b =>
      (t.modCore f fun c => c.cvBad b 0).raise (cvKind 0) engCvu (coreField f) 0 0 [] (b * 4096) 0) t) from h s (.refl f s)
  induction bs with
  | nil => exact fun t ht => ht
  | cons b bs ih => exact fun t ht => ih _ (ht.bad b)

section
variable (s : State) (x f : CoreId)

/-- The records of cores after a move: the stream's core has left it, the other has taken it over. -/
theorem State.core_moveCore (j : CoreId) : (s.moveCore x f).core j =
    if j = x then ((s.copyFaults x f).core x).leave
    else if j = f then ((s.copyFaults x f).core f).adopt ((s.copyFaults x f).core x) else (s.copyFaults x f).core j := by
  have hcore : (s.moveCore x f).core j = ((((s.copyFaults x f).copyColumn x f).setCore f ((((s.copyFaults x f).copyColumn x f).core f).adopt
      (((s.copyFaults x f).copyColumn x f).core x))).setCore x (((s.copyFaults x f).copyColumn x f).core x).leave).core j := rfl
  rw [hcore, State.core_setCore, State.core_setCore]
  rfl

theorem State.moveCore_mm : (s.moveCore x f).mm =
    { s.mm with colmap := s.mm.colmap.map (fun k => if k = x.val then f.val else k), oos := SMap.set false s.mm.oos x.val true } := by
  have hmm := congrArg State.mm (Copied.copyFaults s x f).rest
  have hmove : (s.moveCore x f).mm = { (s.copyFaults x f).mm with
    colmap := (s.copyFaults x f).mm.colmap.map (fun k => if k = x.val then f.val else k),
    oos := SMap.set false (s.copyFaults x f).mm.oos x.val true } := rfl
  have hmm' : (s.copyFaults x f).mm = s.mm := hmm
  rw [hmove, hmm']
/-- Beside memory, cores, rings, the record of writes, the column map and the exchanges, a move changes nothing. -/
theorem State.moveCore_rest : { s.moveCore x f with
    mem := s.mem, chk := s.chk, cores := s.cores, rings := s.rings, race := s.race, mm := s.mm, job := s.job } = s :=
  congrArg (fun t : State => { t with mem := s.mem, chk := s.chk, race := s.race, mm := s.mm, job := s.job }) (Copied.copyFaults s x f).rest

theorem State.moveCore_job : { (s.moveCore x f).job with xchgs := s.job.xchgs } = s.job := by
  have hjob := congrArg State.job (Copied.copyFaults s x f).rest
  have hmove : { (s.moveCore x f).job with xchgs := s.job.xchgs } = { (s.copyFaults x f).job with xchgs := s.job.xchgs } := rfl
  rw [hmove]
  exact congrArg (fun j : Job => { j with xchgs := s.job.xchgs }) hjob
end

/-! What fences and tests leave as it was. -/

/-- The reset unit stands, fault records stay, and no core is fenced or freed of a fence. -/
structure FenceKept (s t : State) : Prop where
  rst     : t.rst = s.rst
  records : RecordsKept s t
  fenced  : ∀ j, (t.core j).fenced = (s.core j).fenced

theorem FenceKept.refl (s : State) : FenceKept s s := ⟨rfl, .refl s, fun _ => rfl⟩

section
variable {s t u : State}

theorem FenceKept.trans (h : FenceKept s t) (h' : FenceKept t u) : FenceKept s u :=
  ⟨h'.rst.trans h.rst, h.records.trans h'.records, fun j => (h'.fenced j).trans (h.fenced j)⟩

theorem FenceKept.moveCore (h : FenceKept s t) (x f : CoreId) : FenceKept s (t.moveCore x f) := by
  obtain ⟨hrest, hothers, htarget, hrecords⟩ := Copied.copyFaults t x f
  have hfenced := congrArg Core.fenced htarget
  have hrst := congrArg State.rst (t.moveCore_rest x f)
  have hkeep : ∀ j, ((t.copyFaults x f).core j).fenced = (t.core j).fenced := fun j => by
    by_cases hj : j = f
    · rw [hj]
      exact hfenced
    · rw [hothers j hj]
  refine h.trans ⟨hrst, hrecords, fun j => ?_⟩
  rw [State.core_moveCore]
  split
  next hj => rw [hj, ← hkeep x]; rfl
  next =>
    split
    next hj => rw [hj, ← hkeep f]; rfl
    next => exact hkeep j

theorem FenceKept.startTests (h : FenceKept s t) : FenceKept s t.startTests := by
  unfold State.startTests
  split
  · exact h
  split
  · exact h
  extract_lets go
  split
  · exact h
  split
  · exact h.trans ⟨rfl, .refl t, fun _ => rfl⟩
  split
  · exact h
  split
  · have hgo : ∀ v, FenceKept s v → FenceKept s (go v) := fun v hv => hv.trans ⟨rfl, .refl v, fun _ => rfl⟩
    exact hgo _ (h.moveCore ..)
  · exact h

theorem FenceKept.queueTest (h : FenceKept s t) (k : CoreId) : FenceKept s (t.queueTest k) := by
  unfold State.queueTest
  split
  · exact h.startTests
  · exact FenceKept.startTests (h.trans ⟨rfl, .refl t, fun _ => rfl⟩)

theorem FenceKept.testFenced (h : FenceKept s t) (k : CoreId) : FenceKept s (t.testFenced k) := by
  unfold State.testFenced
  split
  · exact h
  · exact h.queueTest k
end

/-- An entry of the record ring touches no fault record. -/
theorem State.record_faults (s : State) (type : Nat) (payload : List Byte) :
    (s.record type payload).rings.fault = s.rings.fault ∧ (s.record type payload).rings.wait = s.rings.wait := by
  unfold State.record
  split <;> exact ⟨rfl, rfl⟩

section
variable (s : State) (x : CoreId) (f l : Option Nat) (write : Bool)

/-- A fence changes the rings, and the writes that wait for the boot record. -/
theorem State.noteFence_rest : { s.noteFence x f l write with rings := s.rings, nvm := s.nvm } = s := by
  have hrecord : ∀ (t : State) type payload, { t.record type payload with rings := s.rings, nvm := s.nvm } =
      { t with rings := s.rings, nvm := s.nvm } := fun t type payload => by
    unfold State.record
    split <;> rfl
  have hraise := congrArg (fun t : State => { t with nvm := s.nvm }) (s.raise_rest 0x0041 engCtrl (coreField x) 0 0 [] 0 (f.getD 0xFFFF))
  unfold State.noteFence
  dsimp only
  have hevent := hrecord (s.raise 0x0041 engCtrl (coreField x) 0 0 [] 0 (f.getD 0xFFFF)) recEvent
    (leBytes 2 evFence ++ leBytes 2 (l.getD 0xFFFF))
  split <;> exact hevent.trans hraise

theorem State.noteFence_records : RecordsKept s (s.noteFence x f l write) := by
  have hraise := RecordsKept.raise s 0x0041 engCtrl (coreField x) 0 0 [] 0 (f.getD 0xFFFF)
  have hevent := (s.raise 0x0041 engCtrl (coreField x) 0 0 [] 0 (f.getD 0xFFFF)).record_faults recEvent
    (leBytes 2 evFence ++ leBytes 2 (l.getD 0xFFFF))
  obtain ⟨hfault, hwait⟩ := hevent
  unfold State.noteFence
  dsimp only
  split <;> exact hraise.trans (.of_eq hfault hwait)

theorem State.core_noteFence : (s.noteFence x f l write).core = s.core := by
  have hcores := congrArg State.cores (s.noteFence_rest x f l write)
  exact State.core_congr hcores

theorem FenceKept.noteFence {s t : State} (h : FenceKept s t) (x : CoreId) (f l : Option Nat) (write : Bool) :
    FenceKept s (t.noteFence x f l write) := by
  have hrst := congrArg State.rst (t.noteFence_rest x f l write)
  exact h.trans ⟨hrst, t.noteFence_records x f l write, fun j => by rw [State.core_noteFence]⟩
end

/-- Vector instructions that go on elsewhere change nothing else of a core. -/
theorem State.core_vecAway (s : State) (x : CoreId) (f : Option CoreId) (j : CoreId) :
    (s.vecAway x f).core j = if (s.core j).vecOn = some x then { s.core j with vecOn := f } else s.core j :=
  SMap.get_mapVals_of_fixed (d := Core.zero)
    (f := fun (_ : Nat) (c : Core) => if c.vecOn = some x then { c with vecOn := f } else c) (fun _ => rfl) s.cores j.val

theorem FenceKept.vecAway {s t : State} (h : FenceKept s t) (x : CoreId) (f : Option CoreId) : FenceKept s (t.vecAway x f) :=
  h.trans ⟨rfl, .refl t, fun j => by rw [State.core_vecAway]; split <;> rfl⟩

/-! A fence (R393, R394). -/

/-- A core that is fenced is fenced; the reset unit and the fault records stand (R393). -/
theorem State.fence_spec (s : State) (x : CoreId) (write : Bool) :
    ((s.fence x write).core x).fenced = true ∧ (s.fence x write).rst = s.rst ∧ RecordsKept s (s.fence x write) := by
  unfold State.fence
  split
  next hf => exact ⟨hf.1, rfl, .refl s⟩
  split
  next hf =>
    have hnote := (FenceKept.refl (s.modCore x fun c => { c with jobFence := false })).noteFence x none none true
    refine ⟨(hnote.fenced x).trans ?_, hnote.rst, hnote.records⟩
    rw [State.core_modCore_self]
    exact hf
  extract_lets s1
  have hs1 : (s1.core x).fenced = true := by
    rw [State.core_modCore_self]
  have hend : ∀ t, FenceKept s1 t → (t.core x).fenced = true ∧ t.rst = s.rst ∧ RecordsKept s t := fun t ht =>
    ⟨(ht.fenced x).trans hs1, ht.rst, ht.records⟩
  split
  · have hmm : FenceKept s1 { s1 with mm := { s1.mm with oos := SMap.set false s1.mm.oos x.val true } } := ⟨rfl, .refl s1, fun _ => rfl⟩
    exact hend _ (((hmm.vecAway ..).noteFence ..).testFenced x)
  split
  · have hstp : FenceKept s1 { s1 with stp := { s1.stp with fault := true } } := ⟨rfl, .refl s1, fun _ => rfl⟩
    exact hend _ ((hstp.vecAway ..).noteFence ..)
  · exact hend _ (((((FenceKept.refl s1).moveCore ..).vecAway ..).noteFence ..).testFenced x)

/-! Free cores (R392). -/

/-- A core that may take a column over. -/
def State.isFree (s : State) (j : CoreId) : Prop :=
  (s.core j).fenced = false ∧ j.val ∉ s.jobColumns ∧ s.tst.running ≠ some j ∧ SMap.get false s.mm.oos j.val = false

/-- The test that finds a free core. -/
def State.freeTest (s : State) (j : CoreId) : Bool :=
  ! (s.core j).fenced && ! s.jobColumns.contains j.val && s.tst.running ≠ some j && ! SMap.get false s.mm.oos j.val

theorem State.freeTest_iff (s : State) (j : CoreId) : s.freeTest j = true ↔ s.isFree j := by
  simp [State.freeTest, State.isFree, and_assoc]

theorem State.freeCore_eq (s : State) : s.freeCore = allCores.find? s.freeTest := rfl

theorem State.freeCore_none {s : State} (h : ∀ j, ¬ s.isFree j) : s.freeCore = none := by
  rw [State.freeCore_eq, List.find?_eq_none]
  exact fun j _ hj => h j ((s.freeTest_iff j).mp hj)

/-- The free core with the lowest number is the one found. -/
theorem State.freeCore_least {s : State} {f : CoreId} (hf : s.isFree f) (hleast : ∀ j, s.isFree j → f.val ≤ j.val) :
    s.freeCore = some f := by
  rw [State.freeCore_eq]
  cases hfind : allCores.find? s.freeTest with
  | none => exact absurd ((s.freeTest_iff f).mpr hf) (List.find?_eq_none.mp hfind f (List.mem_finRange f))
  | some g =>
    obtain ⟨hg, as, bs, hall, has⟩ := List.find?_eq_some_iff_append.mp hfind
    have hfg : f.val ≤ g.val := hleast g ((s.freeTest_iff g).mp hg)
    have hmem : f ∈ as ++ g :: bs := by rw [← hall]; exact List.mem_finRange f
    have hsorted : (as ++ g :: bs).Pairwise (· < ·) := by rw [← hall]; exact List.pairwise_lt_finRange 192
    obtain hfa | hfa := List.mem_append.mp hmem
    · exact absurd ((s.freeTest_iff f).mpr hf) (by simpa using has f hfa)
    obtain rfl | hfb := List.mem_cons.mp hfa
    · rfl
    · have hlt : g < f := (List.pairwise_cons.mp (List.pairwise_append.mp hsorted).2.1).1 f hfb
      exact absurd hfg (Nat.not_le.mpr hlt)

end Sys2Proof.Machine
end

section
/-! The second mismatch of a core (R104, R132, R392-R394). -/

namespace Sys2Proof.Machine

open Sys2Proof

/-- A core with one mismatch more, found by an engine. -/
def Core.mismatched (eng : Nat) (c0 : Core) : Core :=
  let c := { c0 with charged := c0.charged + 1 }
  if eng = engVxe then { c.count 0x33 1 with vxe := { c.vxe with mismatch := hold16 c.vxe.mismatch 1 } }
  else if eng = engUpe then { c with upe := { c.upe with mismatch := hold16 c.upe.mismatch 1 } }
  else { c.count 0x17 1 with mxe := { c.mxe with mismatch := hold16 c.mxe.mismatch 1 } }

theorem Core.mismatched_rest (eng : Nat) (c : Core) : (c.mismatched eng).charged = c.charged + 1
    ∧ (c.mismatched eng).tiles = c.tiles ∧ (c.mismatched eng).vregs = c.vregs ∧ (c.mismatched eng).inflight = c.inflight
    ∧ (c.mismatched eng).fenced = c.fenced := by
  unfold Core.mismatched
  dsimp only
  split
  · exact ⟨rfl, rfl, rfl, rfl, rfl⟩
  · split <;> exact ⟨rfl, rfl, rfl, rfl, rfl⟩

/-- Charging a core that has a mismatch fences it. -/
theorem State.charge_second {s : State} {k : CoreId} (eng : Nat) (h : 1 ≤ (s.core k).mismatches) :
    s.charge k eng = (s.modCore k (Core.mismatched eng)).fence k true := by
  have hcount : ((s.modCore k (Core.mismatched eng)).core k).mismatches ≥ 2 := by
    rw [State.core_modCore_self, Core.mismatches, (Core.mismatched_rest eng _).1]
    exact Nat.succ_le_succ h
  unfold State.charge
  exact if_pos hcount

/-- The core after the fence of a core that was not fenced. -/
def Core.fencedAs (jobOnly : Bool) (c : Core) : Core := { c with fenced := true, jobFence := jobOnly }

section
variable {s : State} {x : CoreId} (hf : (s.core x).fenced = false) (hj : x.val ∈ s.jobColumns)
include hf hj

/-- The fence of a core that runs a column, with no free core (R394). -/
theorem State.fence_stuck {s1 : State} (hs1 : s1 = s.modCore x (Core.fencedAs false)) (hnone : s1.freeCore = none) :
    s.fence x true = ({ s1 with stp := { s1.stp with fault := true } }.vecAway x none).noteFence x none (s1.logical x) true := by
  subst hs1
  unfold State.fence
  rw [if_neg (fun h => Bool.false_ne_true (hf.symm.trans h.1)), if_neg (by rw [hf]; exact Bool.false_ne_true)]
  dsimp only
  rw [if_neg (by simpa using hj)]
  have hcore : (s.modCore x fun c => { c with fenced := true, jobFence := ! true }).freeCore = none := hnone
  rw [hcore]
  rfl

/-- The fence of a core that runs a column, with a free core (R393). -/
theorem State.fence_moves {s1 : State} (hs1 : s1 = s.modCore x (Core.fencedAs false)) {f : CoreId} (hsome : s1.freeCore = some f) :
    s.fence x true = (((s1.moveCore x f).vecAway x (some f)).noteFence x (some f.val) (s1.logical x) true).testFenced x := by
  subst hs1
  unfold State.fence
  rw [if_neg (fun h => Bool.false_ne_true (hf.symm.trans h.1)), if_neg (by rw [hf]; exact Bool.false_ne_true)]
  dsimp only
  rw [if_neg (by simpa using hj)]
  have hcore : (s.modCore x fun c => { c with fenced := true, jobFence := ! true }).freeCore = some f := hsome
  rw [hcore]
  rfl
end

/-! The test of a core that its column has left. -/

/-- The one test that waits is for a core that runs nothing: it begins or waits, and nothing else happens. -/
theorem State.startTests_single {s : State} {x : CoreId} (hq : s.tst.queue = [x])
    (hc : x.val ∉ s.jobColumns) (v : Tst) : { s.startTests with tst := v } = { s with tst := v } := by
  unfold State.startTests
  split
  · rfl
  rw [hq]
  dsimp only
  split
  · rfl
  rw [if_pos (by simpa using hc)]

theorem State.testFenced_single {s : State} {x : CoreId} (hq : s.tst.queue = []) (hc : x.val ∉ s.jobColumns) :
    { s.testFenced x with tst := s.tst } = s := by
  unfold State.testFenced
  split
  · rfl
  unfold State.queueTest
  rw [hq]
  split
  next hrun =>
    have hr : s.tst.running.isSome = true := by
      obtain hbad | hrun := hrun
      · exact absurd hbad (by simp)
      · rw [hrun]; rfl
    unfold State.startTests
    rw [if_pos (.inl hr)]
  next =>
    exact State.startTests_single (s := { s with tst := { s.tst with queue := [] ++ [x] } }) rfl hc s.tst

/-! The module after a column has moved to a free core. -/

/-- A core without a column keeps none when the column of another moves from it. -/
theorem State.not_mem_jobColumns_moved {s t : State} {x f : CoreId} (hne : f ≠ x)
    (hmap : t.mm.colmap = s.mm.colmap.map (fun k => if k = x.val then f.val else k)) : x.val ∉ t.jobColumns := by
  unfold State.jobColumns
  split
  · exact List.not_mem_nil
  next p hp =>
    rw [hmap]
    intro hin
    obtain ⟨y, -, hy⟩ := List.mem_map.mp (List.mem_of_mem_take hin)
    split at hy
    · exact hne (Fin.ext hy)
    · contradiction

section
variable {s : State} {x f : CoreId} {l : Option Nat} {write : Bool} (hne : f ≠ x) {t : State}
  (ht : t = ((s.moveCore x f).vecAway x (some f)).noteFence x (some f.val) l write)
include hne ht

/-- The stream of `x` runs on `f`, and `x` runs nothing. -/
theorem State.moved_cores : (t.core f).tiles = (s.core x).tiles ∧ (t.core f).vregs = (s.core x).vregs
    ∧ (t.core f).inflight = (s.core x).inflight ∧ (t.core x).inflight = [] := by
  have hcopy := (Copied.copyFaults s x f).others x fun h => hne h.symm
  have hvec : ∀ j, ∃ v, t.core j = { (s.moveCore x f).core j with vecOn := v } := fun j => by
    rw [ht, State.core_noteFence, State.core_vecAway]
    split
    · exact ⟨_, rfl⟩
    · exact ⟨((s.moveCore x f).core j).vecOn, rfl⟩
  obtain ⟨v, hv⟩ := hvec f
  obtain ⟨w, hw⟩ := hvec x
  rw [State.core_moveCore, if_neg hne, if_pos rfl, hcopy] at hv
  rw [State.core_moveCore, if_pos rfl, hcopy] at hw
  rw [hv, hw]
  exact ⟨rfl, rfl, rfl, rfl⟩

/-- The column map names `f` where it named `x`; the step, the tests and the program stand. -/
theorem State.moved_rest : t.mm.colmap = s.mm.colmap.map (fun k => if k = x.val then f.val else k) ∧ t.stp = s.stp ∧ t.tst = s.tst
    ∧ x.val ∉ t.jobColumns := by
  have hnote := ((s.moveCore x f).vecAway x (some f)).noteFence_rest x (some f.val) l write
  have hmm := congrArg State.mm hnote
  have hstp := congrArg State.stp hnote
  have htst := congrArg State.tst hnote
  rw [← ht] at hmm hstp htst
  have hstp' := congrArg State.stp (s.moveCore_rest x f)
  have htst' := congrArg State.tst (s.moveCore_rest x f)
  have hmap : t.mm.colmap = s.mm.colmap.map (fun k => if k = x.val then f.val else k) := by
    have hmove := congrArg MemSt.colmap (s.moveCore_mm x f)
    exact (congrArg MemSt.colmap hmm).trans hmove
  exact ⟨hmap, hstp.trans hstp', htst.trans htst', State.not_mem_jobColumns_moved hne hmap⟩
end

/-- The first half of O33 (`fences`): the second mismatch fences a core, and its column moves where a core is free. -/
theorem charge_fences (s : State) (k : CoreId) (eng : Nat) (hm : 1 ≤ (s.core k).mismatches) (hq : s.tst.queue = []) :
    let free := fun (j : CoreId) => j ≠ k ∧ (s.core j).fenced = false ∧ j.val ∉ s.jobColumns ∧ s.tst.running ≠ some j
        ∧ SMap.get false s.mm.oos j.val = false
      let t := s.charge k eng
      (t.core k).fenced = true
        ∧ ((s.core k).fenced = false → k.val ∈ s.jobColumns →
            ((∀ j, ¬ free j) → t.stp.fault = true ∧ t.mm.colmap = s.mm.colmap)
            ∧ ∀ f, free f → (∀ j, free j → f.val ≤ j.val) →
                t.mm.colmap = s.mm.colmap.map (fun x => if x = k.val then f.val else x) ∧ t.stp.fault = s.stp.fault
                  ∧ (t.core f).tiles = (s.core k).tiles ∧ (t.core f).vregs = (s.core k).vregs
                  ∧ (t.core f).inflight = (s.core k).inflight ∧ (t.core k).inflight = []) := by
  intro free t
  have ht : t = (s.modCore k (Core.mismatched eng)).fence k true := State.charge_second eng hm
  rw [ht]
  refine ⟨((s.modCore k (Core.mismatched eng)).fence_spec k true).1, fun hf hj => ?_⟩
  generalize hs0 : s.modCore k (Core.mismatched eng) = s0
  generalize hs1 : s0.modCore k (Core.fencedAs false) = s1
  have hcore0 : s0.core k = (s.core k).mismatched eng := by rw [← hs0, State.core_modCore_self]
  have hcore1 : s1.core k = ((s.core k).mismatched eng).fencedAs false := by rw [← hs1, State.core_modCore_self, hcore0]
  have hother : ∀ j, j ≠ k → s1.core j = s.core j := fun j hne => by
    rw [← hs1, State.core_modCore_other _ _ hne, ← hs0, State.core_modCore_other _ _ hne]
  have hmm : s1.mm = s.mm := by rw [← hs1, ← hs0]; rfl
  have hstp : s1.stp = s.stp := by rw [← hs1, ← hs0]; rfl
  have htst : s1.tst = s.tst := by rw [← hs1, ← hs0]; rfl
  have hcols0 : s0.jobColumns = s.jobColumns := by rw [← hs0]; rfl
  have hcols : s1.jobColumns = s.jobColumns := by rw [← hs1, ← hs0]; rfl
  obtain ⟨-, htiles, hvregs, hinflight, hfenced⟩ := (s.core k).mismatched_rest eng
  have hfree : ∀ j, s1.isFree j ↔ free j := fun j => by
    unfold State.isFree
    rw [hcols, htst, hmm]
    by_cases hjk : j = k
    · rw [hjk, hcore1]
      exact iff_of_false (fun h => Bool.false_ne_true h.1.symm) fun h => h.1 rfl
    · rw [hother j hjk]
      exact (and_iff_right hjk).symm
  have hf0 : (s0.core k).fenced = false := by rw [hcore0, hfenced]; exact hf
  have hj0 : k.val ∈ s0.jobColumns := by rw [hcols0]; exact hj
  refine ⟨fun hnone => ?_, fun f hff hleast => ?_⟩
  · rw [State.fence_stuck hf0 hj0 hs1.symm (State.freeCore_none fun j hj => hnone j ((hfree j).mp hj))]
    have hnote := (({ s1 with stp := { s1.stp with fault := true } } : State).vecAway k none).noteFence_rest k none (s1.logical k) true
    have hnstp := congrArg (fun u : State => u.stp.fault) hnote
    have hnmm := congrArg (fun u : State => u.mm.colmap) hnote
    rw [← hmm]
    exact ⟨hnstp, hnmm⟩
  · have hne : f ≠ k := hff.1
    rw [State.fence_moves hf0 hj0 hs1.symm (State.freeCore_least ((hfree f).mpr hff) fun j hj => hleast j ((hfree j).mp hj))]
    generalize hu : ((s1.moveCore k f).vecAway k (some f)).noteFence k (some f.val) (s1.logical k) true = u
    obtain ⟨hmap, hustp, hutst, hcol⟩ := State.moved_rest hne hu.symm
    obtain ⟨hutiles, huvregs, huflight, hleft⟩ := State.moved_cores hne hu.symm
    have htest := State.testFenced_single (by rw [hutst, htst, hq]) hcol
    have htmm := congrArg (fun u : State => u.mm.colmap) htest
    have htstp := congrArg (fun u : State => u.stp.fault) htest
    have htcores := congrArg State.cores htest
    rw [State.core_congr (t := u.testFenced k) htcores]
    refine ⟨htmm.trans ?_, htstp.trans ?_, ?_, ?_, ?_, hleft⟩
    · rw [hmap, hmm]
    · rw [hustp, hstp]
    · rw [hutiles, hcore1]
      exact htiles
    · rw [huvregs, hcore1]
      exact hvregs
    · rw [huflight, hcore1]
      exact hinflight

/-! A core reset (R84, R466, R472). -/

theorem State.core_clearMasks (s : State) (j : CoreId) :
    s.clearMasks.core j = { s.core j with trc := { (s.core j).trc with kinds := 0, stall := false } } :=
  SMap.get_mapVals_of_fixed (d := Core.zero) (f := fun (_ : Nat) (c : Core) => { c with trc := { c.trc with kinds := 0, stall := false } })
    (fun _ => rfl) s.cores j.val

theorem State.core_stopCores (s : State) (j : CoreId) : s.stopCores.core j =
    { s.core j with fetching := false, inflight := [], waitq := [], loops := [], atCommit := false } :=
  SMap.get_mapVals_of_fixed (d := Core.zero)
    (f := fun (_ : Nat) (c : Core) => { c with fetching := false, inflight := [], waitq := [], loops := [], atCommit := false })
    (fun _ => rfl) s.cores j.val

theorem State.setStates_records (s : State) (ss : SState) (dl ps : Nat) : RecordsKept s (s.setStates ss dl ps) := by
  unfold State.setStates
  extract_lets s1
  split
  · exact .refl s
  · exact .of_eq (by rw [State.notify_rings]; rfl) (by rw [State.notify_rings]; rfl)

/-- Closing D1 changes no core but for its trace block, and no fault record (R364, R486). -/
theorem State.closeD1_spec (s : State) : (∀ j, ∃ m, s.closeD1.core j = { s.core j with trc := m }) ∧ s.closeD1.rst = s.rst
    ∧ RecordsKept s s.closeD1 := by
  unfold State.closeD1
  extract_lets sec s1
  split
  · have hrecords : RecordsKept s (s1.setStates s.sec.sstate 0 s.sec.pstate) := State.setStates_records s1 _ _ _
    have hcore : ∀ j, (s1.setStates s.sec.sstate 0 s.sec.pstate).core j = s.core j := fun j =>
      congrFun (State.core_congr (State.setStates_cores s1 ..)) j
    refine ⟨fun j => ⟨{ (s.core j).trc with kinds := 0, stall := false }, ?_⟩, ?_, ?_⟩
    · rw [State.core_clearMasks, hcore]
    · rw [State.clearMasks_rst, State.setStates_rst]
    · exact hrecords.trans (.of_eq (by rw [State.clearMasks_rings]) (by rw [State.clearMasks_rings]))
  · exact ⟨fun j => ⟨(s.core j).trc, rfl⟩, rfl, .refl s⟩

/-- A module that is lost stops its cores, and keeps its fault records (R301). -/
theorem State.moduleLost_spec (s : State) : (∀ j, ∃ a b c d e, s.moduleLost.core j =
      { s.core j with fetching := a, inflight := b, waitq := c, loops := d, atCommit := e } ∧ ((s.core j).inflight = [] → b = []))
    ∧ s.moduleLost.rst = s.rst ∧ RecordsKept s s.moduleLost := by
  unfold State.moduleLost
  split
  · exact ⟨fun j => ⟨_, _, _, _, _, rfl, id⟩, rfl, .refl s⟩
  · exact ⟨fun j => ⟨_, _, _, _, _, State.core_stopCores s j, fun _ => rfl⟩, rfl, .refl s⟩

/-- A core after its reset: fenced, in reset, and empty (R84, R466). -/
structure ResetDone (s t : State) (k : CoreId) : Prop where
  rst      : t.rst = s.rst
  fenced   : (t.core k).fenced = true
  inReset  : (t.core k).inReset = true
  inflight : (t.core k).inflight = []
  tiles    : (t.core k).tiles = []
  vregs    : (t.core k).vregs = []
  lt       : (t.core k).lt = []
  record   : ∃ r ∈ t.rings.fault ++ t.rings.wait, r.kind = 0x0040 ∧ r.core = coreField k

/-- A core reset fences its core and empties it. -/
theorem State.coreReset_done {s : State} {k : CoreId} (h : (s.core k).inReset = false) : ResetDone s (s.coreReset k) k := by
  unfold State.coreReset
  rw [if_neg (by rw [h]; exact Bool.false_ne_true)]
  extract_lets upd s1 s2
  obtain ⟨r, hr, hkind, hcore⟩ := s.raise_record 0x0040 engCmd (coreField k) 0 0 [] 0 0
  obtain ⟨hfenced, hrst, hrecords⟩ :=
    ((s.raise 0x0040 engCmd (coreField k) 0 0 [] 0 0).modCore k fun c => { c with inReset := true }).fence_spec k true
  obtain ⟨hmasks, hrst2, hrecords2⟩ := (s1.modCore k Core.resetDomain).closeD1_spec
  have hr2 : r ∈ s2.rings.fault ++ s2.rings.wait := hrecords2 r (hrecords r hr)
  have hrst' : s2.rst = s.rst := hrst2.trans (hrst.trans (State.raise_rst ..))
  obtain ⟨m, hm⟩ := hmasks k
  have hcore2 : s2.core k = { (s1.core k).resetDomain with trc := m } := by
    rw [← State.core_modCore_self s1 k Core.resetDomain]
    exact hm
  have hdone : ResetDone s s2 k := by
    refine ⟨hrst', ?_, ?_, ?_, ?_, ?_, ?_, ⟨r, hr2, hkind, hcore⟩⟩ <;> rw [hcore2]
    · exact hfenced
    all_goals rfl
  split
  · obtain ⟨hstop, hrst3, hrecords3⟩ := s2.moduleLost_spec
    obtain ⟨a, b, c, d, e, hlost, hempty⟩ := hstop k
    obtain ⟨-, hf, hi, hfl, ht, hv, hlt, -⟩ := hdone
    refine ⟨hrst3.trans hrst', ?_, ?_, ?_, ?_, ?_, ?_, ⟨r, hrecords3 r hr2, hkind, hcore⟩⟩ <;> rw [hlost]
    exacts [hf, hi, hempty hfl, ht, hv, hlt]
  · exact hdone

/-- GO is a bit of its own in RST_CORE: the core it names is that of the low eight bits (R471). -/
theorem bitsAt_or_go (v : W32) : bitsAt (v ||| 0x100#32).toNat 0 8 = bitsAt v.toNat 0 8 := by
  have hgo : (0x100#32).toNat % 2 ^ 8 = 0 := by decide
  rw [bitsAt, bitsAt, BitVec.toNat_or, Nat.pow_zero, Nat.div_one, Nat.div_one, Nat.or_mod_two_pow, hgo, Nat.or_zero]

/-- RST_CORE_GO resets the core that it names (R472). -/
theorem rstCoreGo_eq {s : State} {v : W32} (hbusy : s.rst.busy = false) {k : CoreId} (hk : k.val = min 191 (bitsAt v.toNat 0 8)) :
    exec (.rstCoreGo v) s = .next (({ s with rst := { s.rst with core := k.val, busy := true } } : State).coreReset k) := by
  have hgo : (v ||| 0x100#32).getLsbD 8 = true := by rw [BitVec.getLsbD_or]; simp
  have hrst : s.rstCoreWrite (v ||| 0x100#32) =
      ({ s with rst := { s.rst with core := k.val, busy := true } } : State).coreReset k := by
    unfold State.rstCoreWrite
    extract_lets rst s1
    have hcore : s1.rst.core = k.val := by rw [hk, ← bitsAt_or_go]
    have hnamed : s1.rstCore = k := Fin.ext (by
      show min 191 s1.rst.core = k.val
      rw [hcore, hk]
      omega)
    rw [if_neg (by rw [hgo]; exact fun h => h rfl),
      if_neg (by show ¬ s.rst.busy = true; rw [hbusy]; exact Bool.false_ne_true), hnamed, ← hcore]
  exact congrArg _ hrst

/-- Settles O33: the second mismatch by the fence that it brings, the core reset by what its steps leave. -/
theorem fences : Obligations.Fences := by
  unfold Obligations.Fences
  refine ⟨charge_fences, fun s v hbusy => ?_⟩
  intro n k hk hreset
  have hdone := State.coreReset_done (s := { s with rst := { s.rst with core := k.val, busy := true } }) (k := k) hreset
  refine ⟨_, rstCoreGo_eq hbusy hk, ?_, ?_, hdone.fenced, hdone.inReset, hdone.inflight, hdone.tiles, hdone.vregs, hdone.lt,
    hdone.record⟩
  · rw [hdone.rst]
  · rw [hdone.rst]
    exact hk

end Sys2Proof.Machine
end

section
/-! The start of an attempt, the vote and the step watchdog (R182, R187, R211, R215, R258). -/

namespace Sys2Proof.Machine

open Sys2Proof

/-! Changes of cores, one core at a time. -/

/-- A change made to each core of a list that names each once. -/
theorem State.core_foldl_modCore (f : Core → Core) : ∀ (ks : List CoreId) (s : State) (j : CoreId), ks.Nodup →
    (ks.foldl (fun t k => t.modCore k f) s).core j = if j ∈ ks then f (s.core j) else s.core j
  | [], _, _, _ => by rw [if_neg List.not_mem_nil]; rfl
  | k :: ks, s, j, h => by
    obtain ⟨hk, hks⟩ := List.nodup_cons.mp h
    rw [List.foldl_cons, State.core_foldl_modCore f ks _ j hks]
    by_cases hj : j = k
    · rw [hj, if_neg hk, if_pos List.mem_cons_self, State.core_modCore_self]
    · rw [State.core_modCore_other _ _ hj]
      simp only [List.mem_cons, hj, false_or]

theorem State.foldl_modCore_rest (f : CoreId → Core → Core) (ks : List CoreId) (s : State) :
    { ks.foldl (fun t k => t.modCore k (f k)) s with cores := s.cores } = s := by
  have h := foldl_keeps (fun t : State => { t with cores := s.cores }) (fun t k => t.modCore k (f k)) (fun _ _ => rfl) ks s
  exact h

theorem State.usedCores_nodup (s : State) : s.usedCores.Nodup := by
  unfold State.usedCores
  split
  · exact List.nodup_nil
  · exact (List.nodup_finRange 192).filter _

theorem State.core_clearTiles (s : State) (k : CoreId) : s.clearTiles.core k = { s.core k with tiles := [] } :=
  SMap.get_mapVals_of_fixed (d := Core.zero) (f := fun (_ : Nat) (c : Core) => { c with tiles := [] }) (fun _ => rfl) s.cores k.val

/-! The slot table. -/

/-- Writing the slot table touches neither cores nor the step, and nothing where the job has no such handle. -/
theorem State.writeSlots_frame (s : State) (p : Pipe) (t : TokMan) : (s.writeSlots p t).cores = s.cores ∧ (s.writeSlots p t).stp = s.stp
    ∧ (s.writeSlots p t).scc = s.scc ∧ (s.writeSlots p t).lnk = s.lnk ∧ (s.writeSlots p t).job = s.job
    ∧ (s.writeSlots p t).mm.colmap = s.mm.colmap ∧ (p.sloth = 0 → s.writeSlots p t = s) := by
  unfold State.writeSlots
  extract_lets d ws codes
  split
  next => exact ⟨rfl, rfl, rfl, rfl, rfl, rfl, fun _ => rfl⟩
  next h =>
    refine ⟨?_, ?_, ?_, ?_, ?_, ?_, fun h0 => absurd (.inl h0) h⟩
    case refine_6 => rw [State.stampHandle_mm, writeRuns_mm]; rfl
    all_goals simp

/-! An attempt. -/

/-- The state in which the cores of an attempt begin: objects, maxima, status words and RX halves reset (R84, R185, R211, R258). -/
def State.attemptReset (s : State) (faulty : Bool) : State :=
  { s with
    stp := { s.stp with phase := .running, sync := [], own := none, comb := none, decided := none, voteSent := false,
                        fault := faulty, wdogFired := false, votes := s.stp.votes.filter fun r => r.s = s.stp.s && r.a = s.stp.a },
    race := .zero,
    scc := { s.scc with amax := [] },
    mem := memClear s.mem statusTable 0x40000,
    job := { s.job with xchgs := [], xreps := s.job.xreps.filter fun r => r.s = s.stp.s && r.a = s.stp.a, nextSerial := 0 },
    mon := { s.mon with evc := { s.mon.evc with live := true } } }

theorem State.tellWait_zero (s : State) : s.tellWait 0 = { s with stp := { s.stp with waiting := 0 } } := by
  unfold State.tellWait
  exact if_pos (.inl rfl)

/-- An attempt that waits for nothing starts. -/
theorem execAttemptStart_eq {s : State} {m : Manifest} {x : TokMan} (hmay : s.mayStart = true) (hwait : s.waitBits = 0)
    (hman : s.job.man = some m) (htok : s.job.tokens.find? (fun y => y.s = s.stp.s) = some x) :
    let s1 := ({ s with stp := { s.stp with waiting := 0 } } : State).emptyRx
    let s3 := ((s1.attemptReset s.faulty).clearTiles).writeSlots m.pipe x
    exec .attemptStart s =
      .next ((s3.usedCores.foldl (fun u k => u.modCore k (Core.begin m.vrel (decide (s3.stp.a = 0)))) s3).mcount 0x001 1) := by
  intro s1 s3
  show execAttemptStart s = _
  have hs0 : s.tellWait s.waitBits = { s with stp := { s.stp with waiting := 0 } } := by rw [hwait, State.tellWait_zero]
  unfold execAttemptStart
  rw [if_neg (by rw [hmay]; exact fun h => h rfl)]
  dsimp only
  rw [hs0, if_neg (by rw [hwait]; exact fun h => h rfl), hman, htok]
  rfl

/-- What the start of an attempt leaves (R84, R182, R185, R211, R258). -/
theorem attemptStart_completes {s : State} {m : Manifest} {x : TokMan} (hmay : s.mayStart = true) (hwait : s.waitBits = 0)
    (hman : s.job.man = some m) (htok : s.job.tokens.find? (fun y => y.s = s.stp.s) = some x) : Completes .attemptStart s fun t =>
      t.stp.phase = .running ∧ t.stp.s = s.stp.s ∧ t.stp.a = s.stp.a ∧ (∀ o, t.obj o = 0) ∧ t.stp.fault = s.faulty ∧ t.scc.amax = []
        ∧ (∀ p b, t.rxFull p b = false)
        ∧ (m.pipe.sloth = 0 → t.mem = memClear s.mem statusTable 0x40000)
        ∧ (∀ k ∈ s.usedCores, (t.core k).fetching = true ∧ (t.core k).fpos = 0 ∧ (t.core k).inflight = [] ∧ (t.core k).loops = []
            ∧ (t.core k).lcnt = (if s.stp.a = 0 then (s.core k).lcnt else (s.core k).lcntRec)
            ∧ (t.core k).frozen = ((s.core k).frozen && m.vrel))
        ∧ (∀ k, k ∉ s.usedCores → t.core k = { s.core k with tiles := [] }) ∧ (∀ k, SameVregs s t k ∧ (t.core k).tiles = []) := by
  have hexec := execAttemptStart_eq hmay hwait hman htok
  dsimp only at hexec
  generalize hs2 : (({ s with stp := { s.stp with waiting := 0 } } : State).emptyRx).attemptReset s.faulty = s2 at hexec
  obtain ⟨hcores, hstp, hscc, hlnk, hjob, hcolmap, hsame⟩ := s2.clearTiles.writeSlots_frame m.pipe x
  generalize s2.clearTiles.writeSlots m.pipe x = s3 at hexec hcores hstp hscc hlnk hjob hcolmap hsame
  have hused : s3.usedCores = s.usedCores := by
    unfold State.usedCores
    rw [hjob, hcolmap, ← hs2]
    rfl
  have ha : s3.stp.a = s.stp.a := by rw [hstp, ← hs2]; rfl
  have hcore3 : ∀ k, s3.core k = { s.core k with tiles := [] } := fun k => by
    rw [State.core_congr hcores, State.core_clearTiles, ← hs2]
    rfl
  rw [hused, ha] at hexec
  have hrest := s3.foldl_modCore_rest (fun _ => Core.begin m.vrel (decide (s.stp.a = 0))) s.usedCores
  have hcore := fun k => State.core_foldl_modCore (Core.begin m.vrel (decide (s.stp.a = 0))) s.usedCores s3 k s.usedCores_nodup
  generalize s.usedCores.foldl (fun u k => u.modCore k (Core.begin m.vrel (decide (s.stp.a = 0)))) s3 = u at hexec hrest hcore
  have hustp : u.stp = s2.stp := (congrArg State.stp hrest).trans hstp
  have huscc : u.scc = s2.scc := (congrArg State.scc hrest).trans hscc
  have hulnk : u.lnk = s2.lnk := (congrArg State.lnk hrest).trans hlnk
  have humem : m.pipe.sloth = 0 → u.mem = s2.mem := fun h0 => by
    have hmem3 : s3.mem = s2.clearTiles.mem := by rw [hsame h0]
    exact (congrArg State.mem hrest).trans hmem3
  have hin : ∀ k ∈ s.usedCores, u.core k = Core.begin m.vrel (decide (s.stp.a = 0)) { s.core k with tiles := [] } := fun k hk => by
    rw [hcore, if_pos hk, hcore3]
  have hout : ∀ k, k ∉ s.usedCores → u.core k = { s.core k with tiles := [] } := fun k hk => by
    rw [hcore, if_neg hk, hcore3]
  refine ⟨_, hexec, ?_, ?_, ?_, fun o => ?_, ?_, ?_, fun p b => ?_, fun h0 => ?_, fun k hk => ?_, fun k hk => hout k hk, fun k => ?_⟩
  · rw [State.mcount_stp, hustp, ← hs2]; rfl
  · rw [State.mcount_stp, hustp, ← hs2]; rfl
  · rw [State.mcount_stp, hustp, ← hs2]; rfl
  · rw [State.obj, State.mcount_stp, hustp, ← hs2]; rfl
  · rw [State.mcount_stp, hustp, ← hs2]; rfl
  · rw [State.mcount_scc, huscc, ← hs2]; rfl
  · rw [State.rxFull, State.mcount_lnk, hulnk, ← hs2]; rfl
  · rw [State.mcount_mem, humem h0, ← hs2]; rfl
  · rw [State.core_congr (State.mcount_cores ..), hin k hk]
    refine ⟨rfl, rfl, rfl, rfl, ?_, rfl⟩
    show (if decide (s.stp.a = 0) = true then _ else _) = _
    simp only [decide_eq_true_eq]
  · rw [SameVregs, State.core_congr (State.mcount_cores ..)]
    by_cases hk : k ∈ s.usedCores
    · rw [hin k hk]; exact ⟨rfl, rfl⟩
    · rw [hout k hk]; exact ⟨rfl, rfl⟩

/-! The vote. -/

/-- But for ports, the combined vote and the note that it was sent, `t` is `s`. -/
def OnlyVote (s t : State) : Prop :=
  { t with stp := { t.stp with comb := s.stp.comb, voteSent := s.stp.voteSent }, lnk := { t.lnk with ports := s.lnk.ports } } = s

/-- Sending the vote up changes nothing else (R302). -/
theorem onlyVote_voteUp (s : State) : OnlyVote s s.voteUp := by
  unfold State.voteUp
  split
  · rfl
  extract_lets v waiting stp up s1
  split
  · split <;> rfl
  split
  · rfl
  · have hports := onlyPorts_sendCtl s1 (BitVec.ofNat 16 up) (.vote s.stp.s s.stp.a v)
    exact congrArg (fun t : State => { t with stp := { t.stp with comb := s.stp.comb, voteSent := s.stp.voteSent } }) hports

/-- A module that may vote has voted. -/
theorem vote_completes {s : State} (hjob : s.job.st = .loaded) (hphase : s.stp.phase = .running)
    (hready : s.stp.fault = true ∨ s.voteReady = true) : Completes .vote s fun t =>
      t.stp.phase = .voted ∧ t.stp.own = some s.ownVote ∧ t.stp.s = s.stp.s ∧ t.stp.a = s.stp.a ∧ t.mem = s.mem
        ∧ t.cores = s.cores := by
  have hexec : exec .vote s =
      .next ({ s with stp := { s.stp with phase := .voted, own := some s.ownVote, vto := s.timeout } } : State).voteUp := by
    show execVote s = _
    unfold execVote
    refine if_neg ?_
    rintro (h | h | h)
    exacts [h hjob, h hphase, h hready]
  have hrest := onlyVote_voteUp { s with stp := { s.stp with phase := .voted, own := some s.ownVote, vto := s.timeout } }
  have hphase := congrArg (fun t : State => t.stp.phase) hrest
  have hown := congrArg (fun t : State => t.stp.own) hrest
  have hs := congrArg (fun t : State => t.stp.s) hrest
  have ha := congrArg (fun t : State => t.stp.a) hrest
  have hmem := congrArg State.mem hrest
  have hcores := congrArg State.cores hrest
  exact ⟨_, hexec, hphase, hown, hs, ha, hmem, hcores⟩

/-! The step watchdog. -/

section
variable (s : State) (k : CoreId)

/-- What a transition and a quarantine do to cores freezes none and frees none. -/
theorem State.frozen_startTrans (x : TransK) : ((s.startTrans x).core k).frozen = (s.core k).frozen := by
  unfold State.startTrans
  split
  · unfold State.beginTrans
    split
    · have hstop : ({ s.stopCores with sec := { s.sec with trans := some x, scrub := true } } : State).core k = s.stopCores.core k := rfl
      rw [hstop, State.core_stopCores]
    · rfl
  · rfl

theorem State.core_clearHalts : s.clearHalts.core k = { s.core k with halted := false, stepOne := false } :=
  SMap.get_mapVals_of_fixed (d := Core.zero) (f := fun (_ : Nat) (c : Core) => { c with halted := false, stepOne := false })
    (fun _ => rfl) s.cores k.val

theorem State.frozen_quarantine (cause : Nat) : ((s.quarantine cause).core k).frozen = (s.core k).frozen := by
  unfold State.quarantine
  split
  · rw [State.core_congr (State.log_cores ..)]
  split
  · rfl
  extract_lets p halts rst s1 s2
  have hs1 : (s1.core k).frozen = (s.core k).frozen := by
    rw [State.core_congr (State.setStates_cores ..), State.core_clearMasks]
    have hhalts := congrArg Core.frozen (s.core_clearHalts k)
    exact hhalts
  rw [State.frozen_startTrans,
    foldl_keeps (fun t : State => (t.core k).frozen) State.startTrans (fun t x => t.frozen_startTrans k x)]
  exact hs1

theorem State.frozen_countViol : (s.countViol.core k).frozen = (s.core k).frozen := by
  unfold State.countViol
  extract_lets v sec s1
  split
  · exact s1.frozen_quarantine k 5
  · rfl
end

/-- The WAIT of a core that its watchdog finds unsatisfied (R187). -/
def State.lateWait (s : State) (k : CoreId) : Option (CoreId × Ent) :=
  ((s.core k).inflight.find? fun e => e.phase = .waitObj && ! s.reached e).map fun e => (k, e)

/-- A core whose WAIT is late: frozen, with a record (R386). -/
def State.freezeLate (t : State) (x : CoreId × Ent) : State :=
  (t.modCore x.1 fun c => { c with frozen := true }).raise 0x0030 engCmd (coreField x.1) 0 x.2.tag x.2.iter 0 0x31

theorem State.lateWait_some {s : State} {k : CoreId} {x : CoreId × Ent} (h : s.lateWait k = some x) :
    x.1 = k ∧ ∃ e ∈ (s.core k).inflight, e.phase = .waitObj ∧ s.reached e = false := by
  obtain ⟨e, he, rfl⟩ := Option.map_eq_some_iff.mp h
  have hlate := List.find?_some he
  rw [Bool.and_eq_true, decide_eq_true_eq, Bool.not_eq_true'] at hlate
  exact ⟨rfl, e, List.mem_of_find?_eq_some he, hlate⟩

theorem State.exists_lateWait {s : State} {k : CoreId} (h : ∃ e ∈ (s.core k).inflight, e.phase = .waitObj ∧ s.reached e = false) :
    ∃ x, s.lateWait k = some x := by
  obtain ⟨e, he, hphase, hreached⟩ := h
  cases hfind : (s.core k).inflight.find? fun e => e.phase = .waitObj && ! s.reached e with
  | none => exact absurd (List.find?_eq_none.mp hfind e he) (by rw [hreached]; simp [hphase])
  | some e' => exact ⟨(k, e'), by rw [State.lateWait, hfind]; rfl⟩

/-- Exactly the cores named are frozen beside those that were. -/
theorem State.frozen_foldl_freezeLate : ∀ (xs : List (CoreId × Ent)) (s : State) (k : CoreId),
    ((xs.foldl State.freezeLate s).core k).frozen = true ↔ (s.core k).frozen = true ∨ ∃ x ∈ xs, x.1 = k
  | [], s, k => by simp
  | x :: xs, s, k => by
    rw [List.foldl_cons, State.frozen_foldl_freezeLate xs _ k, State.freezeLate, State.core_congr (State.raise_cores ..)]
    by_cases hk : k = x.1
    · rw [hk, State.core_modCore_self]
      simp
    · rw [State.core_modCore_other _ _ hk]
      simp [Ne.symm hk]

/-- The watchdog freezes the cores whose WAIT is late, and no other (R187). -/
theorem stepWatchdog_completes {s : State} (hjob : s.job.st = .loaded)
    (hrun : s.stp.phase = .running ∨ s.stp.phase = .voted ∨ s.stp.phase = .committed) (hfired : s.stp.wdogFired = false)
    (hlate : ∃ k ∈ s.usedCores, ∃ e ∈ (s.core k).inflight, e.phase = .waitObj ∧ s.reached e = false) :
    Completes .stepWatchdog s fun t =>
      t.stp.wdogFired = true ∧ t.mem = s.mem
        ∧ ∀ k, (t.core k).frozen = true ↔ (s.core k).frozen = true
            ∨ (k ∈ s.usedCores ∧ ∃ e ∈ (s.core k).inflight, e.phase = .waitObj ∧ s.reached e = false) := by
  have hmem : ∀ k, (∃ x ∈ s.usedCores.filterMap s.lateWait, x.1 = k) ↔
      k ∈ s.usedCores ∧ ∃ e ∈ (s.core k).inflight, e.phase = .waitObj ∧ s.reached e = false := fun k => by
    constructor
    · rintro ⟨x, hx, rfl⟩
      obtain ⟨j, hj, hjx⟩ := List.mem_filterMap.mp hx
      obtain ⟨hxj, hwait⟩ := State.lateWait_some hjx
      rw [hxj]
      exact ⟨hj, hwait⟩
    · rintro ⟨hk, hwait⟩
      obtain ⟨x, hx⟩ := State.exists_lateWait hwait
      exact ⟨x, List.mem_filterMap.mpr ⟨k, hk, hx⟩, (State.lateWait_some hx).1⟩
  have hsome : (s.usedCores.filterMap s.lateWait).isEmpty = false := by
    obtain ⟨k, hk⟩ := hlate
    obtain ⟨x, hx, -⟩ := (hmem k).mpr hk
    exact List.isEmpty_eq_false_iff_exists_mem.mpr ⟨x, hx⟩
  generalize hs1 : (s.usedCores.filterMap s.lateWait).foldl State.freezeLate s = s1
  have hexec : exec .stepWatchdog s = .next ({ s1 with stp := { s1.stp with wdogFired := true } } : State).countViol := by
    rw [← hs1]
    show execStepWatchdog s = _
    unfold execStepWatchdog
    refine if_neg ?_
    rintro (h | h | h | h)
    · exact h hjob
    · obtain h' | h' | h' := hrun <;> exact h (by rw [h'])
    · exact Bool.false_ne_true (hfired.symm.trans h)
    · exact Bool.false_ne_true (hsome.symm.trans h)
  refine ⟨_, hexec, ?_, ?_, fun k => ?_⟩
  · rw [State.countViol_stp]
  · rw [State.countViol_mem]
    show s1.mem = s.mem
    rw [← hs1]
    exact foldl_keeps State.mem State.freezeLate (fun t x => by rw [State.freezeLate, State.raise_mem]; rfl) _ s
  · rw [State.frozen_countViol, ← hmem k, ← State.frozen_foldl_freezeLate _ s k, hs1]
    rfl

end Sys2Proof.Machine
end

section
/-! The step boundary (R189, R218, R241, R320, R352). -/

namespace Sys2Proof.Machine

open Sys2Proof

/-- A quarantine ends the releases that were asked for, and does nothing else to the job (R361). -/
theorem State.quarantine_job (s : State) (cause : Nat) : (s.quarantine cause).job = s.job
    ∨ (s.quarantine cause).job = { s.job with unloadReq := s.job.unloadReq.filter fun t => ! t.releases } := by
  unfold State.quarantine
  split
  · exact .inl (State.log_job ..)
  split
  · exact .inl rfl
  extract_lets p halts rst s1 job s2
  right
  have hs1 : s1.job = s.job := (State.setStates_job ..).trans ((State.clearMasks_job _).trans (State.clearHalts_job _))
  have hs2 : s2.job = { s1.job with unloadReq := s1.job.unloadReq.filter fun t => ! t.releases } := rfl
  rw [State.startTrans_job, foldl_keeps State.job State.startTrans (fun _ _ => State.startTrans_job ..), hs2, hs1]

/-! What the work of a step boundary leaves as it was. -/

/-- Between `s` and `t` the step stands but for carried values and checkpoints due, the module's scales but for a count, the
links, and the job but for its record numbers, exchanges, audit points, unload requests and the note of a checkpoint. -/
structure BoundaryKept (s t : State) : Prop where
  stp : { t.stp with carried := s.stp.carried, ckptDue := s.stp.ckptDue } = s.stp
  scc : { t.scc with postovf := s.scc.postovf } = s.scc
  lnk : t.lnk = s.lnk
  job : { t.job with
      seqs := s.job.seqs, xchgs := s.job.xchgs, points := s.job.points, unloadReq := s.job.unloadReq, ckpt := s.job.ckpt } = s.job

theorem BoundaryKept.refl (s : State) : BoundaryKept s s := ⟨rfl, rfl, rfl, rfl⟩

section
variable {s₀ s t : State}

theorem BoundaryKept.trans (h : BoundaryKept s₀ s) (h' : BoundaryKept s t) : BoundaryKept s₀ t := by
  have hstp := congrArg (fun x : Stp => { x with carried := s₀.stp.carried, ckptDue := s₀.stp.ckptDue }) h'.stp
  have hscc := congrArg (fun x : Scc => { x with postovf := s₀.scc.postovf }) h'.scc
  have hjob := congrArg (fun x : Job => { x with
    seqs := s₀.job.seqs, xchgs := s₀.job.xchgs, points := s₀.job.points, unloadReq := s₀.job.unloadReq, ckpt := s₀.job.ckpt }) h'.job
  exact ⟨hstp.trans h.stp, hscc.trans h.scc, h'.lnk.trans h.lnk, hjob.trans h.job⟩

/-- A step that touches none of these. -/
theorem BoundaryKept.of_eq (h : BoundaryKept s₀ s) (hstp : t.stp = s.stp) (hscc : t.scc = s.scc) (hlnk : t.lnk = s.lnk)
    (hjob : t.job = s.job) : BoundaryKept s₀ t :=
  h.trans ⟨by rw [hstp], by rw [hscc], hlnk, by rw [hjob]⟩

theorem BoundaryKept.foldl {α : Type} {f : State → α → State} (hf : ∀ t a, BoundaryKept s₀ t → BoundaryKept s₀ (f t a)) :
    ∀ (xs : List α) (t : State), BoundaryKept s₀ t → BoundaryKept s₀ (xs.foldl f t)
  | [], _, h => h
  | x :: xs, t, h => BoundaryKept.foldl hf xs _ (hf t x h)

/-! Entries, records and traces. -/

theorem BoundaryKept.log (h : BoundaryKept s₀ s) (kind cls : Nat) (payload : List Nat) : BoundaryKept s₀ (s.log kind cls payload) :=
  h.of_eq (State.log_stp ..) (State.log_scc ..) (State.log_lnk ..) (State.log_job ..)

theorem BoundaryKept.raise (h : BoundaryKept s₀ s) (kind engine : Nat) (core handle : W16) (tag : W32) (iter : List W32)
    (addr detail : Nat) : BoundaryKept s₀ (s.raise kind engine core handle tag iter addr detail) :=
  h.of_eq (State.raise_stp ..) (State.raise_scc ..) (State.raise_lnk ..) (State.raise_job ..)

theorem BoundaryKept.modCore (h : BoundaryKept s₀ s) (k : CoreId) (f : Core → Core) : BoundaryKept s₀ (s.modCore k f) :=
  h.of_eq rfl rfl rfl rfl

theorem BoundaryKept.traceLost (h : BoundaryKept s₀ s) (k : CoreId) : BoundaryKept s₀ (s.traceLost k) := by
  unfold State.traceLost
  extract_lets c
  split
  · exact h
  · exact (h.log ..).modCore ..

theorem BoundaryKept.moveTrace (h : BoundaryKept s₀ s) (k : CoreId) (n : Nat) : BoundaryKept s₀ (s.moveTrace k n) := by
  unfold State.moveTrace
  split
  · exact h.traceLost k
  · exact BoundaryKept.traceLost ((h.log ..).modCore ..) k

theorem BoundaryKept.moveTraces (h : BoundaryKept s₀ s) : BoundaryKept s₀ s.moveTraces :=
  .foldl (fun _ _ hu => .foldl (fun _ _ hv => hv.moveTrace ..) _ _ hu) _ _ h

theorem BoundaryKept.takeReports (h : BoundaryKept s₀ s) (k : CoreId) : BoundaryKept s₀ (s.takeReports k) :=
  h.trans ⟨rfl, rfl, rfl, rfl⟩

theorem BoundaryKept.postCommit (h : BoundaryKept s₀ s) : BoundaryKept s₀ s.postCommit :=
  h.trans ⟨rfl, rfl, rfl, rfl⟩

theorem BoundaryKept.writeGexp (h : BoundaryKept s₀ s) : BoundaryKept s₀ s.writeGexp := by
  unfold State.writeGexp
  refine .foldl (fun t k ht => .foldl (fun u l hu => ?_) _ _ ht) _ _ h
  split
  · exact hu
  · exact hu.modCore ..

/-! Records that leave the module. -/

theorem BoundaryKept.quarantine (h : BoundaryKept s₀ s) (cause : Nat) : BoundaryKept s₀ (s.quarantine cause) := by
  refine h.trans ⟨by rw [State.quarantine_stp], by rw [State.quarantine_scc], State.quarantine_lnk .., ?_⟩
  obtain hjob | hjob := s.quarantine_job cause <;> rw [hjob]

theorem BoundaryKept.macFail (h : BoundaryKept s₀ s) (a : Nat) (core : W16) : BoundaryKept s₀ (s.macFail a core) := by
  unfold State.macFail
  extract_lets mm s1
  have hs1 : BoundaryKept s₀ s1 := by
    apply BoundaryKept.raise
    exact h.of_eq rfl rfl rfl rfl
  split
  · exact hs1.quarantine 4
  · exact hs1.quarantine 4
  · exact hs1

theorem BoundaryKept.outWrite (h : BoundaryKept s₀ s) (u : Nat) (bs : List Byte) : BoundaryKept s₀ (s.outWrite u bs) := by
  unfold State.outWrite
  extract_lets rs put
  have hput : ∀ rs, BoundaryKept s₀ (put rs) := fun _ => h.of_eq rfl rfl rfl rfl
  split
  · exact hput _
  · exact (hput _).macFail ..

theorem BoundaryKept.outPlace : ∀ (n : Nat) {s : State}, BoundaryKept s₀ s → BoundaryKept s₀ (State.outPlace n s)
  | 0, _, h => h
  | n + 1, s, h => by
    unfold State.outPlace
    split
    · exact h
    · split
      · exact BoundaryKept.outPlace n ((h.outWrite _ _).of_eq rfl rfl rfl rfl)
      · exact h

theorem BoundaryKept.outRecord (h : BoundaryKept s₀ s) (kind slot : Nat) (handle : W16) (plain : List Byte) :
    BoundaryKept s₀ (s.outRecord kind slot handle plain) := by
  unfold State.outRecord
  extract_lets seq hd e bytes r job s1
  have hs1 : BoundaryKept s₀ s1 := h.trans ⟨rfl, rfl, rfl, rfl⟩
  exact BoundaryKept.outPlace _ (hs1.of_eq rfl rfl rfl rfl)

theorem BoundaryKept.outView (h : BoundaryKept s₀ s) (kind slot : Nat) (handle : W16) (bs : List Byte) :
    BoundaryKept s₀ (s.outView kind slot handle bs) :=
  .foldl (fun _ _ ht => ht.outRecord ..) _ _ h

theorem BoundaryKept.outHandle (h : BoundaryKept s₀ s) (kind slot : Nat) (handle : W16) : BoundaryKept s₀ (s.outHandle kind slot handle) := by
  unfold State.outHandle
  extract_lets d
  split
  · exact h.raise ..
  · exact h.outView ..

theorem BoundaryKept.outputs (h : BoundaryKept s₀ s) : BoundaryKept s₀ s.outputs := by
  unfold State.outputs
  split
  · exact h
  · exact .foldl (fun _ _ ht => ht.outHandle ..) _ _ h

theorem BoundaryKept.checkpoint (h : BoundaryKept s₀ s) : BoundaryKept s₀ s.checkpoint := by
  have hdone : ∀ u : State, BoundaryKept s₀ u → BoundaryKept s₀ { u with
      job := { u.job with ckpt := true }
      stp := { u.stp with ckptDue := u.stp.ckptDue.filter fun c => u.stp.s.toNat < c.toNat } } :=
    fun _ hu => hu.trans ⟨rfl, rfl, rfl, rfl⟩
  generalize ht : s.checkpoint = t
  unfold State.checkpoint at ht
  split at ht
  · exact ht ▸ h
  · dsimp only at ht
    subst ht
    exact hdone _ (.outView (.foldl (fun _ _ hu => hu.outHandle ..) _ _ h) ..)

/-! What was asked for the boundary. -/

theorem BoundaryKept.applyGroup (h : BoundaryKept s₀ s) (u : GroupUpd) : BoundaryKept s₀ (s.applyGroup u) := by
  unfold State.applyGroup
  extract_lets g put w s1
  have hs1 : BoundaryKept s₀ s1 := by
    refine .foldl (fun t x ht => ?_) _ _ h
    unfold put
    split
    · exact ht.of_eq rfl rfl rfl rfl
    · exact ht
  split
  · exact hs1
  · exact hs1.of_eq rfl rfl rfl rfl

theorem BoundaryKept.applyAudit (h : BoundaryKept s₀ s) (ps : List CapPoint) : BoundaryKept s₀ (s.applyAudit ps) := by
  unfold State.applyAudit
  extract_lets job s1
  have hs1 : BoundaryKept s₀ s1 := h.trans ⟨rfl, rfl, rfl, rfl⟩
  exact .foldl (fun _ _ ht => ht.log ..) _ _ hs1

theorem BoundaryKept.parkDue (h : BoundaryKept s₀ s) : BoundaryKept s₀ s.parkDue := by
  unfold State.parkDue
  split
  · exact h
  extract_lets sec s1
  have hs1 : BoundaryKept s₀ s1 := h.of_eq rfl rfl rfl rfl
  split
  · exact hs1
  · exact hs1.of_eq (State.setStates_stp ..) (State.setStates_scc ..) (State.setStates_lnk ..) (State.setStates_job ..)

theorem BoundaryKept.settleStep (h : BoundaryKept s₀ s) : BoundaryKept s₀ s.settleStep := by
  unfold State.settleStep
  split
  · exact h
  extract_lets reqs
  refine BoundaryKept.parkDue (.foldl (fun t x ht => ?_) _ _ (h.trans ⟨rfl, rfl, rfl, rfl⟩))
  exact ht.of_eq (State.startTrans_stp ..) (State.startTrans_scc ..) (State.startTrans_lnk ..) (State.startTrans_job ..)

theorem BoundaryKept.moveCore (h : BoundaryKept s₀ s) (x f : CoreId) : BoundaryKept s₀ (s.moveCore x f) := by
  have hrest := s.moveCore_rest x f
  have hstp := congrArg State.stp hrest
  have hscc := congrArg State.scc hrest
  have hlnk := congrArg State.lnk hrest
  have hstp' : (s.moveCore x f).stp = s.stp := hstp
  have hscc' : (s.moveCore x f).scc = s.scc := hscc
  have hjob := congrArg (fun j : Job => { j with
    seqs := s.job.seqs, points := s.job.points, unloadReq := s.job.unloadReq, ckpt := s.job.ckpt }) (s.moveCore_job x f)
  exact h.trans ⟨by rw [hstp'], by rw [hscc'], hlnk, hjob⟩

theorem BoundaryKept.startTests (h : BoundaryKept s₀ s) : BoundaryKept s₀ s.startTests := by
  unfold State.startTests
  split
  · exact h
  split
  · exact h
  extract_lets go
  have hgo : ∀ v, BoundaryKept s₀ v → BoundaryKept s₀ (go v) := fun v hv => hv.of_eq rfl rfl rfl rfl
  split
  · exact h
  split
  · exact hgo _ h
  split
  · exact h
  split
  · exact hgo _ (h.moveCore ..)
  · exact h

theorem BoundaryKept.startRetrain (h : BoundaryKept s₀ s) : BoundaryKept s₀ s.startRetrain := by
  unfold State.startRetrain
  split
  · split
    · exact h.of_eq rfl rfl rfl rfl
    · exact h
  · exact h
end

/-- The fields of the step, the scales and the job that a reader of a boundary asks for. -/
structure BoundaryFields (s t : State) : Prop where
  counter : t.stp.s = s.stp.s
  attempt : t.stp.a = s.stp.a
  phase   : t.stp.phase = s.stp.phase
  first   : t.stp.first = s.stp.first
  lost    : t.stp.lost = s.stp.lost
  man     : t.job.man = s.job.man
  queued  : t.job.queued = s.job.queued
  audits  : t.job.audits = s.job.audits
  amax    : t.scc.amax = s.scc.amax
  consec  : t.scc.consec = s.scc.consec

theorem BoundaryKept.fields {s t : State} (h : BoundaryKept s t) : BoundaryFields s t := by
  obtain ⟨hstp, hscc, -, hjob⟩ := h
  refine ⟨?_, ?_, ?_, ?_, ?_, ?_, ?_, ?_, ?_, ?_⟩
  · have h := congrArg Stp.s hstp; exact h
  · have h := congrArg Stp.a hstp; exact h
  · have h := congrArg Stp.phase hstp; exact h
  · have h := congrArg Stp.first hstp; exact h
  · have h := congrArg Stp.lost hstp; exact h
  · have h := congrArg Job.man hjob; exact h
  · have h := congrArg Job.queued hjob; exact h
  · have h := congrArg Job.audits hjob; exact h
  · have h := congrArg Scc.amax hscc; exact h
  · have h := congrArg Scc.consec hscc; exact h

/-- What has been asked for a boundary that `s` has reached, and what is asked for a later one. -/
def State.asked (s : State) : State :=
  { s with job := { s.job with
    queued := s.job.queued.filter fun x => ! decide (x.2.1.toNat ≤ s.stp.s.toNat),
    audits := s.job.audits.filter fun x => ! decide (x.2.1.toNat ≤ s.stp.s.toNat) } }

/-- What waits for a later boundary waits on, and beside it the work of a boundary keeps what its parts keep. -/
theorem BoundaryKept.boundaryWork (s : State) : BoundaryKept s.asked s.boundaryWork := by
  unfold State.boundaryWork
  extract_lets due s1 s2 job s3 s4
  have hs2 : BoundaryKept s s2 :=
    .foldl (fun _ _ ht => ht.applyAudit _) _ _ (.foldl (fun _ _ ht => ht.applyGroup _) _ _ (.refl s))
  have hs3 : BoundaryKept s.asked s3 := by
    have hqueued := hs2.fields.queued
    have haudits := hs2.fields.audits
    have hjob := congrArg (fun j : Job => { j with
      queued := s2.job.queued.filter fun x => ! due x.2.1, audits := s2.job.audits.filter fun x => ! due x.2.1 }) hs2.job
    refine ⟨hs2.stp, hs2.scc, hs2.lnk, hjob.trans ?_⟩
    rw [hqueued, haudits]
    rfl
  have hs4 : BoundaryKept s.asked s4 := by
    unfold s4
    split
    · exact hs3.checkpoint
    · exact hs3
  exact hs4.settleStep.startTests.startRetrain

theorem State.restorable_congr {s t : State} (hlnk : t.lnk = s.lnk) (hman : t.job.man = s.job.man) (lost : List Nat) :
    t.restorable lost = s.restorable lost := by
  have hpod : t.podIds = s.podIds := by rw [State.podIds, State.podIds, hlnk]
  have hreplicas : ∀ m, t.replicas lost m = s.replicas lost m := fun m => by rw [State.replicas, State.replicas, hpod, hman]
  simp only [State.restorable, hreplicas]

/-- The step counter advances (R189). -/
def State.nextStep (s : State) : State :=
  { s with
    stp := { s.stp with s := s.stp.s + 1, a := 0, phase := .between, first := true, conv := [],
                         votes := s.stp.votes.filter fun r => s.stp.s.toNat < r.s.toNat },
    job := { s.job with replayPos := 0, tokens := s.job.tokens.filter fun t => s.stp.s.toNat < t.s.toNat },
    mon := { s.mon with evc := { s.mon.evc with live := false } } }

theorem filter_not_due {α : Type} (at' : α → W64) (n : W64) (xs : List α) :
    (xs.filter fun x => ! decide ((at' x).toNat ≤ n.toNat)) = xs.filter fun x => decide (n.toNat < (at' x).toNat) :=
  List.filter_congr fun x _ => by rw [← decide_not, decide_eq_decide, Nat.not_le]

/-- The state in which the step counter advances: traces, reports, post-commit values, outputs and exponents are done (R218, R352). -/
def State.stepDone (s : State) : State := (s.moveTraces.usedCores.foldl State.takeReports s.moveTraces).postCommit.outputs.writeGexp

theorem BoundaryKept.stepDone (s : State) : BoundaryKept s s.stepDone :=
  (BoundaryKept.postCommit (.foldl (fun _ _ ht => ht.takeReports _) _ _ (BoundaryKept.refl s).moveTraces)).outputs.writeGexp

/-- When every core has ended the step counter advances, and what was asked for the boundary is done (R189, R241, R320). -/
theorem stepBoundary_completes {s : State} (hjob : s.job.st = .loaded) (hphase : s.stp.phase = .committed)
    (hended : ∀ k ∈ s.usedCores, (s.core k).ended = true) (hrestorable : s.restorable s.stp.lost = true) :
    Completes .stepBoundary s fun t =>
      t.stp.s = s.stp.s + 1 ∧ t.stp.a = 0 ∧ t.stp.phase = .between ∧ t.stp.first = true
      ∧ t.job.queued = s.job.queued.filter (fun x => decide ((s.stp.s + 1).toNat < x.2.1.toNat))
      ∧ t.job.audits = s.job.audits.filter (fun x => decide ((s.stp.s + 1).toNat < x.2.1.toNat)) ∧ t.scc.amax = s.scc.amax
      ∧ t.scc.consec = s.scc.consec := by
  have hnot : ¬ (s.job.st ≠ .loaded ∨ s.stp.phase ≠ .committed ∨ ¬ s.usedCores.all (fun k => (s.core k).ended)) := by
    rintro (h | h | h)
    exacts [h hjob, h hphase, h (List.all_eq_true.mpr hended)]
  have hdone := BoundaryKept.stepDone s
  have hwork := BoundaryKept.boundaryWork s.stepDone.nextStep
  have hexec : exec .stepBoundary s = .next (let t := s.stepDone.nextStep.boundaryWork
      if t.job.st = .loaded ∧ ¬ t.restorable t.stp.lost then t.rollback else t) := (if_neg hnot : execStepBoundary s = _)
  generalize s.stepDone.nextStep.boundaryWork = t at hexec hwork
  generalize s.stepDone = u at hdone hwork
  have hd := hdone.fields
  have hw := hwork.fields
  have hlnk : t.lnk = s.lnk := hwork.lnk.trans hdone.lnk
  have hlost : t.stp.lost = s.stp.lost := hw.lost.trans hd.lost
  have hkeep : t.restorable t.stp.lost = true := by
    rw [hlost, State.restorable_congr hlnk (hw.man.trans hd.man)]
    exact hrestorable
  dsimp only at hexec
  rw [if_neg fun h => h.2 hkeep] at hexec
  have hs : u.nextStep.stp.s = s.stp.s + 1 := by rw [← hd.counter]; rfl
  refine ⟨t, hexec, hw.counter.trans hs, hw.attempt, hw.phase, hw.first, hw.queued.trans ?_, hw.audits.trans ?_, hw.amax.trans hd.amax,
    hw.consec.trans hd.consec⟩
  · rw [← hs, ← hd.queued]
    exact filter_not_due (fun x => x.2.1) u.nextStep.stp.s u.job.queued
  · rw [← hs, ← hd.audits]
    exact filter_not_due (fun x => x.2.1) u.nextStep.stp.s u.job.audits

/-- Settles O47: the start of an attempt, the vote, the step boundary and the step watchdog. -/
theorem stepProgress : Obligations.StepProgress := by
  unfold Obligations.StepProgress
  exact ⟨fun _ _ _ => attemptStart_completes, fun _ => vote_completes, fun _ => stepBoundary_completes, fun _ => stepWatchdog_completes⟩

end Sys2Proof.Machine
end

section
/-! The tables that the loader writes, and the chunks of a step (R204, R235, R236, R350). -/

namespace Sys2Proof.Machine

open Sys2Proof

/-! Listed entries. -/

/-- A value that is not the default is listed where it was put. -/
theorem SMap.has_set_self {α : Type} [DecidableEq α] {d a : α} (h : a ≠ d) (m : SMap α) (k : Nat) :
    SMap.has (SMap.set d m k a) k = true := by
  by_contra hnot
  have hget : SMap.get d (SMap.set d m k a) k = d := SMap.get_of_not_mem d fun e he hk =>
    hnot (List.any_eq_true.mpr ⟨e, he, by simp [hk]⟩)
  exact h ((SMap.get_set_self d m k a).symm.trans hget)

theorem SMap.has_filter_ne {α : Type} (m : SMap α) (k : Nat) : SMap.has (m.filter fun e => e.1 ≠ k) k = false := by
  rw [SMap.has, List.any_eq_false]
  intro e he
  simpa using (List.mem_filter.mp he).2

/-! The tables of a job (R204). -/

/-- Bytes below the update tables are none of the groups'. -/
theorem memGet_putGroups (m : List Host.Cell) (b : List Byte) {a : Nat} (h : a < updTable) : memGet (putGroups m b) a = memGet m a := by
  unfold putGroups
  split
  · rfl
  have hfold := foldl_keeps (fun x : List Host.Cell => memGet x a)
    (fun x g => memWrite x (updTable + 0x1000 + 4096 * g)
      (slice b (groupKnots b g) (if bitAt (leAt b (64 * g) 64) 0 then 16 * (bitsAt (leAt b (64 * g) 64) 2 8 + 1) else 0)))
    (fun x g => memGet_memWrite_out x (.inl (by omega))) (List.range 64)
    (memWrite m updTable ((List.range 64).flatMap fun g => groupImage (slice b (64 * g) 64)))
  exact hfold.trans (memGet_memWrite_out m (.inl h))

/-- After a load a table reads as it was written: descriptors, scale records, and status words at zero. -/
theorem memGet_loadMem (m : List Host.Cell) (l : Loading) (hd : l.descs.length ≤ 0x400000) (hs : l.scales.length ≤ 0x100000) :
    (∀ i, i < l.descs.length → memGet (loadMem m l) (descTable + i) = l.descs.getD i 0)
      ∧ (∀ i, i < l.scales.length → memGet (loadMem m l) (scaleTable + i) = l.scales.getD i 0)
      ∧ ∀ a, statusTable ≤ a → a < statusTable + 0x40000 → memGet (loadMem m l) a = 0 := by
  unfold loadMem
  refine ⟨fun i hi => ?_, fun i hi => ?_, fun a hlo hhi => ?_⟩
  · have hupd : descTable + i < updTable := by unfold descTable updTable sharedBase; omega
    have hscale : descTable + i < scaleTable := by unfold descTable scaleTable sharedBase; omega
    rw [memGet_putGroups _ _ hupd, memGet_memWrite_out _ (.inl hscale), memGet_memWrite_in _ hi, List.getD_eq_getElem _ _ hi]
  · have hupd : scaleTable + i < updTable := by unfold scaleTable updTable sharedBase; omega
    rw [memGet_putGroups _ _ hupd, memGet_memWrite_in _ hi, List.getD_eq_getElem _ _ hi]
  · unfold statusTable sharedBase at hlo hhi
    have hupd : a < updTable := by unfold updTable sharedBase; omega
    have hscale : scaleTable + l.scales.length ≤ a := by unfold scaleTable sharedBase; omega
    have hdesc : descTable + l.descs.length ≤ a := by unfold descTable sharedBase; omega
    have hin : ¬ (a < statusTable ∨ statusTable + 0x40000 ≤ a) := by unfold statusTable sharedBase; omega
    rw [memGet_putGroups _ _ hupd, memGet_memWrite_out _ (.inr hscale), memGet_memWrite_out _ (.inr hdesc),
      memGet_memClear_out _ (.inl hupd), memGet_memClear, if_neg hin]
    rfl

/-! Landing buffers (R350). -/

/-- A buffer that takes a text reads as it, and as zero behind it. -/
theorem memGet_landed (m : List Host.Cell) {bs : List Byte} (hn : bs.length ≤ 0x400000) (a i : Nat) :
    memGet (memWrite (memClear m a 0x400000) a bs) i = if a ≤ i ∧ i < a + 0x400000 then bs.getD (i - a) 0 else memGet m i := by
  rw [memGet_memWrite, memGet_memClear]
  by_cases hin : a ≤ i ∧ i < a + bs.length
  · rw [if_pos hin, if_pos (by omega)]
    rfl
  rw [if_neg hin]
  by_cases hbuf : a ≤ i ∧ i < a + 0x400000
  · rw [if_pos hbuf, if_neg (by omega), List.getD_eq_default _ _ (by omega)]
    rfl
  · rw [if_neg hbuf, if_pos (by omega)]

/-- A chunk that is refused: its buffer is zero and free, and the job waits for no other (R350). -/
theorem State.chunkBad_spec (s : State) (x : TokMan) (b : Nat) :
    (∀ i, memGet (s.chunkBad x b).mem i = if landingAt b ≤ i ∧ i < landingAt b + 0x400000 then 0 else memGet s.mem i)
      ∧ SMap.has (s.chunkBad x b).job.landing b = false ∧ (s.chunkBad x b).job.tokens = s.job.tokens
      ∧ (s.chunkBad x b).cores = s.cores ∧ (s.chunkBad x b).stp = s.stp := by
  unfold State.chunkBad
  rw [State.mcount_mem, State.notify_mem, State.mcount_job, State.notify_job, State.mcount_cores, State.notify_cores, State.mcount_stp,
    State.notify_stp]
  refine ⟨fun i => ?_, SMap.has_filter_ne .., rfl, rfl, rfl⟩
  have hclear := memGet_memClear s.mem (landingAt b) 0x400000 i
  by_cases hbuf : landingAt b ≤ i ∧ i < landingAt b + 0x400000
  · rw [if_pos hbuf]
    rw [if_neg (by omega)] at hclear
    exact hclear
  · rw [if_neg hbuf]
    rw [if_pos (by omega)] at hclear
    exact hclear

/-- A block that fails its MAC leaves tokens as they were. -/
theorem State.macFail_tokens (s : State) (a : Nat) (core : W16) : (s.macFail a core).job.tokens = s.job.tokens := by
  unfold State.macFail
  extract_lets mm s1
  have hs1 : s1.job = s.job := State.raise_job ..
  have hquar : (s1.quarantine 4).job.tokens = s.job.tokens := by
    obtain hjob | hjob := s1.quarantine_job 4 <;> rw [hjob, hs1]
  split
  · exact hquar
  · exact hquar
  · rw [hs1]

theorem State.chunkOk_record (s : State) (type : Nat) (payload : List Byte) (x : TokMan) (c : ChunkEntry) :
    (s.record type payload).chunkOk x c = s.chunkOk x c := by
  unfold State.record
  split
  · rfl
  · rfl

section
variable {s : State} {x : TokMan} {c : ChunkEntry} (hjob : s.job.st = .loaded) (hpark : s.sec.pstate < 2) (hscrub : s.sec.scrub = false)
  (hnext : s.nextChunk = some (x, c)) (hfree : SMap.has s.job.landing c.buf.toNat = false)
  (hstalls : s.stalls (lpBase + c.off.toNat) c.clen.toNat = false)
include hjob hpark hscrub hnext hfree hstalls

/-- The oldest chunk, whose buffer is free, goes through the pipeline. -/
theorem execChunkDecrypt_eq (po : Option Nat) : exec (.chunkDecrypt po) s =
    match s.macBad (lpBase + c.off.toNat) c.clen.toNat po with
    | some y => .next ((s.macFail (512 * y) noCore).chunkBad x c.buf.toNat)
    | none =>
      let s1 := s.record recChunk (leBytes 4 x.pos ++ leBytes 64 (digestOf (s.staged c)).toNat)
      if ¬ s1.chunkOk x c then .next (s1.chunkBad x c.buf.toNat)
      else
        let a := landingAt c.buf.toNat
        let s2 := { s1 with mem := memWrite (memClear s1.mem a 0x400000) a ((s.chunkPlain c).getD []) }
        let put := fun (u : State) (i : Nat) =>
          { u with chk := SMap.set 0 u.chk (a / 4096 + i) (mkEntry u.mem (a / 4096 + i) 0 (x.s.setWidth 16)) }
        let s3 : State := (List.range 1024).foldl put s2
        let next := fun (y : TokMan) => if y.s = x.s then { y with pos := y.pos + 1 } else y
        let s4 := { s3 with job := { s3.job with
          landing := SMap.set ⟨false, 0, 0⟩ s3.job.landing c.buf.toNat ⟨true, x.s, x.pos⟩, tokens := s3.job.tokens.map next } }
        .next ((s4.mcount 0x012 1).mcount 0x010 ((c.clen.toNat + 63) / 64)) := by
  show execChunkDecrypt po s = _
  unfold execChunkDecrypt
  rw [if_neg (by rintro (h | h | h); exacts [h hjob, absurd h (by omega), Bool.false_ne_true (hscrub.symm.trans h)]), hnext]
  dsimp only
  refine if_neg ?_
  rintro (h | h)
  exacts [Bool.false_ne_true (hfree.symm.trans h), Bool.false_ne_true (hstalls.symm.trans h)]

/-- A chunk that fails, or whose bytes cannot be read, is refused (R154, R350). -/
theorem chunkDecrypt_refuses {po : Option Nat} (h : ¬ s.macBad (lpBase + c.off.toNat) c.clen.toNat po = none ∨ s.chunkOk x c = false) :
    Completes (.chunkDecrypt po) s fun t =>
      (∀ i, memGet t.mem i = if landingAt c.buf.toNat ≤ i ∧ i < landingAt c.buf.toNat + 0x400000 then 0 else memGet s.mem i)
        ∧ SMap.has t.job.landing c.buf.toNat = false ∧ t.job.tokens = s.job.tokens
        ∧ (s.macBad (lpBase + c.off.toNat) c.clen.toNat po = none → t.cores = s.cores) ∧ t.stp = s.stp := by
  have hexec := execChunkDecrypt_eq hjob hpark hscrub hnext hfree hstalls po
  cases hmac : s.macBad (lpBase + c.off.toNat) c.clen.toNat po with
  | some y =>
    rw [hmac] at hexec
    obtain ⟨hmem, hlanding, htokens, -, hstp⟩ := (s.macFail (512 * y) noCore).chunkBad_spec x c.buf.toNat
    rw [State.macFail_mem] at hmem
    rw [State.macFail_tokens] at htokens
    rw [State.macFail_stp] at hstp
    exact ⟨_, hexec, hmem, hlanding, htokens, fun h => absurd h (by simp), hstp⟩
  | none =>
    have hok : s.chunkOk x c = false := h.resolve_left fun h => h hmac
    rw [hmac] at hexec
    dsimp only at hexec
    rw [State.chunkOk_record, if_pos (by rw [hok]; exact Bool.false_ne_true)] at hexec
    obtain ⟨hmem, hlanding, htokens, hcores, hstp⟩ :=
      (s.record recChunk (leBytes 4 x.pos ++ leBytes 64 (digestOf (s.staged c)).toNat)).chunkBad_spec x c.buf.toNat
    rw [State.record_mem] at hmem
    rw [State.record_job] at htokens
    rw [State.record_cores] at hcores
    rw [State.record_stp] at hstp
    exact ⟨_, hexec, hmem, hlanding, htokens, fun _ => hcores, hstp⟩

/-- A chunk that passes stands in its buffer (R350). -/
theorem chunkDecrypt_lands {po : Option Nat} {plain : List Byte} (hclean : s.macBad (lpBase + c.off.toNat) c.clen.toNat po = none)
    (hok : s.chunkOk x c = true) (hplain : s.chunkPlain c = some plain) (hlen : plain.length ≤ 0x400000) :
    Completes (.chunkDecrypt po) s fun t =>
      (∀ i, memGet t.mem i = if landingAt c.buf.toNat ≤ i ∧ i < landingAt c.buf.toNat + 0x400000
          then plain.getD (i - landingAt c.buf.toNat) 0 else memGet s.mem i)
        ∧ SMap.has t.job.landing c.buf.toNat = true
        ∧ t.job.tokens = s.job.tokens.map (fun y => if y.s = x.s then { y with pos := y.pos + 1 } else y) ∧ t.cores = s.cores
        ∧ t.stp = s.stp := by
  have hexec := execChunkDecrypt_eq hjob hpark hscrub hnext hfree hstalls po
  rw [hclean] at hexec
  dsimp only at hexec
  rw [State.chunkOk_record, if_neg (fun h => h hok), hplain] at hexec
  generalize hs1 : s.record recChunk (leBytes 4 x.pos ++ leBytes 64 (digestOf (s.staged c)).toNat) = s1 at hexec
  have hmem1 : s1.mem = s.mem := by rw [← hs1, State.record_mem]
  have hjob1 : s1.job = s.job := by rw [← hs1, State.record_job]
  have hcores1 : s1.cores = s.cores := by rw [← hs1, State.record_cores]
  have hstp1 : s1.stp = s.stp := by rw [← hs1, State.record_stp]
  generalize hs2 : { s1 with mem := memWrite (memClear s1.mem (landingAt c.buf.toNat) 0x400000) (landingAt c.buf.toNat) plain } = s2
  have hput := foldl_keeps (fun u : State => { u with chk := [] }) (fun (u : State) (i : Nat) =>
    { u with chk := SMap.set 0 u.chk (landingAt c.buf.toNat / 4096 + i) (mkEntry u.mem (landingAt c.buf.toNat / 4096 + i) 0 (x.s.setWidth 16)) })
    (fun _ _ => rfl) (List.range 1024) s2
  rw [Option.getD_some, hs2] at hexec
  generalize List.foldl _ s2 (List.range 1024) = s3 at hexec hput
  have hmem3 := congrArg State.mem hput
  have hjob3 := congrArg State.job hput
  have hcores3 := congrArg State.cores hput
  have hstp3 := congrArg State.stp hput
  dsimp only at hmem3 hjob3 hcores3 hstp3
  rw [← hs2] at hmem3 hjob3 hcores3 hstp3
  dsimp only at hmem3 hjob3 hcores3 hstp3
  refine ⟨_, hexec, fun i => ?_, ?_, ?_, hcores3.trans hcores1, hstp3.trans hstp1⟩
  · rw [State.mcount_mem, State.mcount_mem, hmem3, hmem1]
    exact memGet_landed s.mem hlen _ i
  · have hheld : (⟨true, x.s, x.pos⟩ : Landing) ≠ ⟨false, 0, 0⟩ := fun h => Bool.false_ne_true (congrArg Landing.held h).symm
    rw [State.mcount_job, State.mcount_job]
    exact SMap.has_set_self hheld _ _
  · rw [State.mcount_job, State.mcount_job, ← hjob1, ← hjob3]
end

end Sys2Proof.Machine
end

section
/-! A job load: the request and its answers (R191, R200, R206, R422-R427). -/

namespace Sys2Proof.Machine

open Sys2Proof

/-! What leaves the mailbox as it was, but for notifications. -/

/-- The replies, the open requests and the driver's attachment stand. -/
structure MailKept (s t : State) : Prop where
  replies    : t.hif.replies = s.hif.replies
  lastSeq    : t.hif.lastSeq = s.hif.lastSeq
  opened     : t.hif.open' = s.hif.open'
  ver        : t.hif.ver = s.hif.ver
  activating : t.hif.activating = s.hif.activating

theorem MailKept.refl (s : State) : MailKept s s := ⟨rfl, rfl, rfl, rfl, rfl⟩

section
variable {s₀ s t : State}

theorem MailKept.trans (h : MailKept s₀ s) (h' : MailKept s t) : MailKept s₀ t :=
  ⟨h'.replies.trans h.replies, h'.lastSeq.trans h.lastSeq, h'.opened.trans h.opened, h'.ver.trans h.ver, h'.activating.trans h.activating⟩

theorem MailKept.of_eq (h : MailKept s₀ s) (he : t.hif = s.hif) : MailKept s₀ t := h.trans (by constructor <;> rw [he])

theorem MailKept.vector (h : MailKept s₀ s) (v : Nat) : MailKept s₀ (s.vector v) := by
  refine h.trans ?_
  unfold State.vector Hif.raised
  split <;> exact ⟨rfl, rfl, rfl, rfl, rfl⟩

theorem MailKept.postNotes : ∀ (n : Nat) {s : State}, MailKept s₀ s → MailKept s₀ (State.postNotes n s)
  | 0, _, h => h
  | n + 1, s, h => by
    unfold State.postNotes
    split
    · exact h
    next x xs _ =>
      split
      · exact h
      · extract_lets y hif
        have hposted : MailKept s₀ { s with hif := { s.hif with
            notePend := xs, noteOver := 0, notifs := s.hif.notifs ++ [y], noteNext := s.hif.noteNext + 1 } } :=
          h.trans ⟨rfl, rfl, rfl, rfl, rfl⟩
        exact MailKept.postNotes n ((hposted.vector 1).of_eq rfl)

theorem MailKept.notify (h : MailKept s₀ s) (code : Nat) (data : List Nat) : MailKept s₀ (s.notify code data) := by
  unfold State.notify
  extract_lets q old q1 hif
  apply MailKept.postNotes
  exact h.trans ⟨rfl, rfl, rfl, rfl, rfl⟩

theorem MailKept.setStates (h : MailKept s₀ s) (ss : SState) (dl ps : Nat) : MailKept s₀ (s.setStates ss dl ps) := by
  unfold State.setStates
  extract_lets sec s1
  split
  · exact h
  · apply MailKept.notify
    exact h.of_eq rfl

theorem MailKept.quarantine (h : MailKept s₀ s) (cause : Nat) : MailKept s₀ (s.quarantine cause) := by
  unfold State.quarantine
  split
  · exact h.of_eq (State.log_hif ..)
  split
  · exact h.of_eq rfl
  extract_lets p halts rst s1 job s2
  have hs1 : MailKept s₀ s1 := by
    apply MailKept.setStates
    exact h.of_eq rfl
  have hfold := foldl_keeps State.hif State.startTrans (fun _ _ => State.startTrans_hif ..) (s1.job.unloadReq.filter TransK.releases) s2
  exact hs1.of_eq ((State.startTrans_hif ..).trans hfold)

theorem MailKept.macFail (h : MailKept s₀ s) (a : Nat) (core : W16) : MailKept s₀ (s.macFail a core) := by
  unfold State.macFail
  extract_lets mm s1
  have hs1 : MailKept s₀ s1 := h.of_eq (State.raise_hif ..)
  split
  · exact hs1.quarantine 4
  · exact hs1.quarantine 4
  · exact hs1

theorem MailKept.logRefused (h : MailKept s₀ s) (type : Nat) (seq : W32) (st : Nat) : MailKept s₀ (s.logRefused type seq st) :=
  h.of_eq (State.log_hif ..)
end

/-- A block that fails its MAC leaves the job, where no release of the module waits (R361). -/
theorem State.macFail_job (s : State) (a : Nat) (core : W16) (h : s.releasing = false) : (s.macFail a core).job = s.job := by
  have hnone : (s.job.unloadReq.filter fun t => ! t.releases) = s.job.unloadReq := by
    have hany : s.job.unloadReq.any TransK.releases = false := (Bool.or_eq_false_iff.mp h).2
    refine List.filter_eq_self.mpr fun t ht => ?_
    rw [Bool.not_eq_true', ← Bool.not_eq_true]
    exact List.any_eq_false.mp hany t ht
  unfold State.macFail
  extract_lets mm s1
  have hs1 : s1.job = s.job := State.raise_job ..
  have hquar : (s1.quarantine 4).job = s.job := by
    obtain hjob | hjob := s1.quarantine_job 4
    · rw [hjob, hs1]
    · rw [hjob, hs1, hnone]
  split
  · exact hquar
  · exact hquar
  · exact hs1

/-- The block is poisoned (R154). -/
theorem State.mem_poisoned_macFail (s : State) (x : Nat) (core : W16) : x ∈ (s.macFail (512 * x) core).mm.poisoned := by
  unfold State.macFail
  extract_lets mm s1
  have hs1 : x ∈ s1.mm.poisoned := by
    have hmm : s1.mm.poisoned = (512 * x / 512 :: s.mm.poisoned).eraseDups := congrArg MemSt.poisoned (State.raise_mm ..)
    rw [hmm, Nat.mul_div_cancel_left x (by omega), List.mem_eraseDups]
    exact List.mem_cons_self
  split
  · rw [State.quarantine_mm]; exact hs1
  · rw [State.quarantine_mm]; exact hs1
  · exact hs1

/-! Replies. -/

/-- Whatever of the module a reply that fits in the mailbox leaves is all but the host interface. -/
theorem State.postReply_rest (s : State) {r : Reply} (hd : r.data.size ≤ 4080) : { s.postReply r with hif := s.hif } = s := by
  have href : s.byRef r = (s, r) := if_pos (.inl hd)
  rw [State.postReply_eq, href]

/-- An accepted request that is answered at once with data that fit in the reply. -/
theorem Served.of_exec {i : Instr} {s u : State} {m : Mb} {type status detail : Nat} {data : Payload} {p : State → Prop} (h : Accepts s m)
    (hexec : exec i s = .next (u.postReply ⟨type, m.seq, status, detail, data, none⟩)) (hu : MailKept (s.taken m) u) (hd : data.size ≤ 4080)
    (hp : p (u.postReply ⟨type, m.seq, status, detail, data, none⟩)) : Served i s m type status detail data p := by
  have hver : u.hif.ver ≠ none := by rw [hu.ver]; exact h.ver
  have hact : u.hif.activating = false := by rw [hu.activating]; exact h.serving
  have hpost := State.postReply_small (r := ⟨type, m.seq, status, detail, data, none⟩) hver hact hd
  have hkept : MailKept ({ u with hif := { u.hif with replies := u.hif.replies ++ [⟨type, m.seq, status, detail, data, none⟩] } } : State)
      (u.postReply ⟨type, m.seq, status, detail, data, none⟩) := by
    rw [hpost]
    exact (MailKept.refl _).vector 0
  refine ⟨_, hexec, ⟨none, ?_, fun _ => rfl, fun h => absurd hd (by omega)⟩, ?_, ?_, hp⟩
  · rw [hkept.replies]
    exact congrArg (· ++ [(⟨type, m.seq, status, detail, data, none⟩ : Reply)]) hu.replies
  · exact hkept.lastSeq.trans hu.lastSeq
  · exact hkept.opened.trans hu.opened

/-- What becomes of a request once its effect has run: its reply is posted, or left for later. -/
def State.answered (u : State) (m : Mb) (type : Nat) : Answer → State
  | .now st d p => u.postReply ⟨type, m.seq, st, d, p, none⟩
  | .later => u

/-- A request that waits in P2 alone has its effect at once in every other state (R370). -/
theorem State.parkRequest_accepts {s : State} {m : Mb} (h : AcceptsOut s m) (hpark : s.sec.pstate ≠ 2) (type : Nat) (i : Instr)
    (f : State → State × Answer) :
    s.parkRequest m type false i f = (f (s.taken m)).1.answered m type (f (s.taken m)).2 := by
  have hpark' : ¬ (s.taken m).sec.pstate = 2 := hpark
  unfold State.parkRequest
  rw [State.request_accepts h.taken (.inr h.out)]
  dsimp only
  rw [if_neg hpark']
  rfl

/-! The load of a job (R191, R193, R200). -/

/-- A rejection record and a capability record fit in a reply (R200, R206). -/
theorem Rej.size_words (r : Rej) (s : State) : (Payload.words (r.words ++ s.capability)).size ≤ 4080 := by
  have hsize : (Payload.words (r.words ++ s.capability)).size = 8 * 6 := rfl
  omega

/-- A module that may take a load looks at its image, and then at the manifest (R154, R193). -/
theorem doJobLoad_eq {u : State} (m : Mb) (e : Envelope) (body : List Byte) (po : Option Nat) (hd : u.sec.dlevel < 2)
    (hr : u.releasing = false) (ho : u.outq.undrained = [] ∨ u.job.st ≠ .none) :
    doJobLoad m e body po u = match u.imageBad e body po with
      | some x => ((u.macFail (512 * x) noCore).logRefused 0x0050 m.seq stLoader, u.rejected (.plain 0x0102 1 0))
      | none => match u.tryLoad m.seq e body with
        | .rej r => (u.logRefused 0x0050 m.seq stLoader, u.rejected r)
        | .manifest d => (u.logRefused 0x0050 m.seq stManifest, .now stManifest d (.words u.capability))
        | .ok l => ({ u with job := { u.job with st := .loading, load := some l } }, .later) := by
  have hqueue : ¬ (u.sec.sstate = .owned ∧ ¬ u.outq.undrained.isEmpty ∧ u.job.st = .none) := by
    rintro ⟨-, hne, hst⟩
    obtain ho | ho := ho
    · exact hne (by rw [ho]; rfl)
    · exact ho hst
  unfold doJobLoad
  rw [if_neg (by omega), if_neg (by rw [hr]; exact Bool.false_ne_true), if_neg hqueue]
  cases u.imageBad e body po with
  | some x => rfl
  | none => cases u.tryLoad m.seq e body <;> rfl

section
variable {s : State} {m : Mb} {e : Envelope} {body : List Byte} (h : AcceptsOut s m) (hpark : s.sec.pstate ≠ 2)
  (hwaits : s.waits [s.stagePiece] = false) {po : Option Nat}
include h hpark hwaits

/-- A load that nothing holds up comes to what `doJobLoad` makes of it. -/
theorem execJobLoad_eq {u : State} {a : Answer} (hload : doJobLoad m e body po (s.taken m) = (u, a)) : exec (.jobLoad m e body po) s =
    .next (u.answered m 0x0050 a) := by
  have hfree : jobLoadAt m e body po (s.taken m) = (u, a) := by
    have hwaits' : ¬ (s.taken m).waits [(s.taken m).stagePiece] = true := by
      have : (s.taken m).waits [(s.taken m).stagePiece] = s.waits [s.stagePiece] := rfl
      rw [this, hwaits]
      exact Bool.false_ne_true
    exact (if_neg hwaits').trans hload
  have hexec : exec (.jobLoad m e body po) s = .next (s.parkRequest m 0x0050 false (.jobLoad m e body po) (jobLoadAt m e body po)) := rfl
  rw [hexec, State.parkRequest_accepts h hpark, hfree]

variable (hout : s.outq.undrained = [] ∨ s.job.st ≠ .none) (hdebug : s.sec.dlevel < 2) (hreleasing : s.releasing = false)
include hout hdebug hreleasing

/-- The request that passes every stage puts the module into loading (R191). -/
theorem jobLoad_loads {l : Loading} (hbad : (s.taken m).imageBad e body po = none) (hok : (s.taken m).tryLoad m.seq e body = .ok l) :
    Deferred (.jobLoad m e body po) s m fun t =>
      t.job.st = .loading ∧ t.job.load = some l ∧ MailFrame s { t with job := s.job } := by
  have hload := doJobLoad_eq m e body po (u := s.taken m) hdebug hreleasing hout
  rw [hbad, hok] at hload
  exact ⟨_, execJobLoad_eq h hpark hwaits hload, rfl, rfl, rfl, rfl, rfl, rfl⟩

/-- The request that fails a stage is answered with the rejection record (R200, R206). -/
theorem jobLoad_rejects {r : Rej} (hbad : (s.taken m).imageBad e body po = none) (hrej : (s.taken m).tryLoad m.seq e body = .rej r) :
    Served (.jobLoad m e body po) s m 0x0050 stLoader 0 (.words (r.words ++ s.capability)) fun t => t.job = s.job ∧ t.mem = s.mem := by
  have hload := doJobLoad_eq m e body po (u := s.taken m) hdebug hreleasing hout
  rw [hbad, hrej] at hload
  have hsize : (Payload.words (r.words ++ s.capability)).size ≤ 4080 := r.size_words s
  have hrest := ((s.taken m).logRefused 0x0050 m.seq stLoader).postReply_rest
    (r := ⟨0x0050, m.seq, stLoader, 0, .words (r.words ++ s.capability), none⟩) hsize
  have hjob := congrArg State.job hrest
  have hmem := congrArg State.mem hrest
  exact Served.of_exec h.taken (execJobLoad_eq h hpark hwaits hload) ((MailKept.refl _).logRefused ..) hsize
    ⟨hjob, hmem⟩

/-- An image that cannot be read is rejected as one whose digest differs (R154; log 156). -/
theorem jobLoad_unreadable {x : Nat} (hbad : (s.taken m).imageBad e body po = some x) :
    Served (.jobLoad m e body po) s m 0x0050 stLoader 0 (.words ((Rej.plain 0x0102 1 0).words ++ s.capability)) fun t =>
      t.job = s.job ∧ t.mem = s.mem ∧ x ∈ t.mm.poisoned := by
  have hload := doJobLoad_eq m e body po (u := s.taken m) hdebug hreleasing hout
  rw [hbad] at hload
  have hsize := (Rej.plain 0x0102 1 0).size_words s
  have hrest := (((s.taken m).macFail (512 * x) noCore).logRefused 0x0050 m.seq stLoader).postReply_rest
    (r := ⟨0x0050, m.seq, stLoader, 0, .words ((Rej.plain 0x0102 1 0).words ++ s.capability), none⟩) hsize
  have hjob := congrArg State.job hrest
  have hmem := congrArg State.mem hrest
  have hmm := congrArg (fun t : State => t.mm.poisoned) hrest
  have hkept := (((MailKept.refl (s.taken m)).macFail (512 * x) noCore).logRefused 0x0050 m.seq stLoader)
  refine Served.of_exec h.taken (execJobLoad_eq h hpark hwaits hload) hkept hsize ⟨hjob.trans ?_, hmem.trans ?_, ?_⟩
  · exact (s.taken m).macFail_job _ _ hreleasing
  · exact State.macFail_mem ..
  · have hpoisoned : x ∈ ((s.taken m).macFail (512 * x) noCore).mm.poisoned := State.mem_poisoned_macFail ..
    exact (congrArg (fun l : List Nat => x ∈ l) hmm).mpr hpoisoned
end

end Sys2Proof.Machine
end

section
/-! The completion of a job load, and job data as a whole (R84, R111, R143, R204, R227). -/

namespace Sys2Proof.Machine

open Sys2Proof

/-! What of a core's program registers transitions leave. -/

/-- Tiles, tile registers and count registers of every core stand. -/
def ProgRegsKept (s t : State) : Prop :=
  ∀ k, (t.core k).tiles = (s.core k).tiles ∧ (t.core k).vregs = (s.core k).vregs ∧ (t.core k).lcnt = (s.core k).lcnt

theorem ProgRegsKept.refl (s : State) : ProgRegsKept s s := fun _ => ⟨rfl, rfl, rfl⟩

section
variable {s₀ s t : State}

theorem ProgRegsKept.trans (h : ProgRegsKept s₀ s) (h' : ProgRegsKept s t) : ProgRegsKept s₀ t := fun k =>
  have ⟨htiles, hvregs, hlcnt⟩ := h k
  have ⟨htiles', hvregs', hlcnt'⟩ := h' k
  ⟨htiles'.trans htiles, hvregs'.trans hvregs, hlcnt'.trans hlcnt⟩

theorem ProgRegsKept.of_eq (h : ProgRegsKept s₀ s) (hcores : t.cores = s.cores) : ProgRegsKept s₀ t :=
  h.trans fun k => by rw [State.core_congr hcores]; exact ⟨rfl, rfl, rfl⟩

theorem ProgRegsKept.foldl {α : Type} {f : State → α → State} (hf : ∀ t a, ProgRegsKept s₀ t → ProgRegsKept s₀ (f t a)) :
    ∀ (xs : List α) (t : State), ProgRegsKept s₀ t → ProgRegsKept s₀ (xs.foldl f t)
  | [], _, h => h
  | x :: xs, t, h => ProgRegsKept.foldl hf xs _ (hf t x h)

theorem ProgRegsKept.startTrans (h : ProgRegsKept s₀ s) (x : TransK) : ProgRegsKept s₀ (s.startTrans x) := by
  unfold State.startTrans
  split
  · unfold State.beginTrans
    split
    · refine h.trans fun k => ?_
      have hstop : ({ s.stopCores with sec := { s.sec with trans := some x, scrub := true } } : State).core k = s.stopCores.core k := rfl
      rw [hstop, State.core_stopCores]
      exact ⟨rfl, rfl, rfl⟩
    · exact h.of_eq rfl
  · exact h.of_eq rfl

theorem ProgRegsKept.settleStep (h : ProgRegsKept s₀ s) : ProgRegsKept s₀ s.settleStep := by
  unfold State.settleStep
  split
  · exact h
  extract_lets reqs
  have hreqs : ProgRegsKept s₀ (reqs.foldl State.startTrans { s with job := { s.job with unloadReq := [] } }) :=
    .foldl (fun _ _ ht => ht.startTrans _) _ _ (h.of_eq rfl)
  unfold State.parkDue
  split
  · exact hreqs
  extract_lets sec s1
  split
  · exact hreqs.of_eq rfl
  · exact hreqs.of_eq (State.setStates_cores ..)

/-- A change of grid slots alone. -/
theorem ProgRegsKept.modCore (h : ProgRegsKept s₀ s) (k : CoreId) {f : Core → Core}
    (hf : ∀ c, (f c).tiles = c.tiles ∧ (f c).vregs = c.vregs ∧ (f c).lcnt = c.lcnt) : ProgRegsKept s₀ (s.modCore k f) :=
  h.trans fun j => by
    by_cases hj : j = k
    · rw [hj, State.core_modCore_self]
      exact hf _
    · rw [State.core_modCore_other _ _ hj]
      exact ⟨rfl, rfl, rfl⟩

theorem ProgRegsKept.slotTables (h : ProgRegsKept s₀ s) : ProgRegsKept s₀ s.slotTables := by
  unfold State.slotTables
  refine .foldl (fun t k ht => .foldl (fun u l hu => ?_) _ _ ht) _ _ h
  split
  · exact hu
  · exact hu.modCore k fun _ => ⟨rfl, rfl, rfl⟩
end

theorem State.slotTables_rest (s : State) : { s.slotTables with cores := s.cores } = s := by
  unfold State.slotTables
  refine foldl_keeps (fun t : State => { t with cores := s.cores }) _ (fun t k => ?_) s.usedCores s
  refine foldl_keeps (fun t : State => { t with cores := s.cores }) _ (fun u l => ?_) t.job.layers t
  split <;> rfl

/-- The end of a step that waits for nothing: memory and its unit stand. -/
theorem State.settleStep_mem (s : State) : s.settleStep.mem = s.mem ∧ s.settleStep.mm = s.mm := by
  unfold State.settleStep
  split
  · exact ⟨rfl, rfl⟩
  extract_lets reqs
  have hmem := foldl_keeps State.mem State.startTrans (fun _ _ => State.startTrans_mem ..) reqs
    { s with job := { s.job with unloadReq := [] } }
  have hmm := foldl_keeps State.mm State.startTrans (fun _ _ => State.startTrans_mm ..) reqs
    { s with job := { s.job with unloadReq := [] } }
  unfold State.parkDue
  split
  · exact ⟨hmem, hmm⟩
  extract_lets sec s1
  split
  · exact ⟨hmem, hmm⟩
  · exact ⟨(State.setStates_mem ..).trans hmem, (State.setStates_mm ..).trans hmm⟩

/-! A job declared loaded. -/

/-- What the end of a load leaves once the job is declared: the step and the job as a boundary leaves them, memory, and the program
registers of every core. -/
structure LoadKept (s t : State) : Prop where
  step : BoundaryKept s t
  mem  : t.mem = s.mem
  mm   : t.mm = s.mm
  regs : ProgRegsKept s t

theorem LoadKept.refl (s : State) : LoadKept s s := ⟨.refl s, rfl, rfl, .refl s⟩

section
variable {s₀ s t : State}

theorem LoadKept.slotTables (h : LoadKept s₀ s) : LoadKept s₀ s.slotTables := by
  have hrest := s.slotTables_rest
  have hstp := congrArg State.stp hrest
  have hscc := congrArg State.scc hrest
  have hlnk := congrArg State.lnk hrest
  have hjob := congrArg State.job hrest
  have hmem := congrArg State.mem hrest
  have hmm := congrArg State.mm hrest
  exact ⟨h.step.of_eq hstp hscc hlnk hjob, Eq.trans hmem h.mem, Eq.trans hmm h.mm, h.regs.slotTables⟩

theorem LoadKept.record (h : LoadKept s₀ s) (type : Nat) (payload : List Byte) : LoadKept s₀ (s.record type payload) :=
  ⟨h.step.of_eq (State.record_stp ..) (State.record_scc ..) (State.record_lnk ..) (State.record_job ..), (State.record_mem ..).trans h.mem,
    (State.record_mm ..).trans h.mm, h.regs.of_eq (State.record_cores ..)⟩

theorem LoadKept.log (h : LoadKept s₀ s) (kind cls : Nat) (payload : List Nat) : LoadKept s₀ (s.log kind cls payload) :=
  ⟨h.step.log .., (State.log_mem ..).trans h.mem, (State.log_mm ..).trans h.mm, h.regs.of_eq (State.log_cores ..)⟩

theorem LoadKept.logs (h : LoadKept s₀ s) (xs : List (Nat × Nat × Nat)) :
    LoadKept s₀ (xs.foldl (fun t x => t.log 0x0003 2 [x.1, x.2.1, x.2.2]) s) := by
  induction xs generalizing s with
  | nil => exact h
  | cons x xs ih => exact ih (h.log ..)

theorem LoadKept.postReply (h : LoadKept s₀ s) {r : Reply} (hd : r.data.size ≤ 4080) : LoadKept s₀ (s.postReply r) := by
  have hrest := s.postReply_rest hd
  have hmem := congrArg State.mem hrest
  have hmm := congrArg State.mm hrest
  have hcores := congrArg State.cores hrest
  have hjob := congrArg State.job hrest
  exact ⟨h.step.of_eq (State.postReply_stp ..) (State.postReply_scc ..) (State.postReply_lnk ..) hjob, Eq.trans hmem h.mem, Eq.trans hmm h.mm,
    h.regs.of_eq hcores⟩

theorem LoadKept.settleStep (h : LoadKept s₀ s) : LoadKept s₀ s.settleStep :=
  ⟨h.step.settleStep, s.settleStep_mem.1.trans h.mem, s.settleStep_mem.2.trans h.mm, h.regs.settleStep⟩
end

/-- The module whose job is declared loaded: the job at step S0, its tables in memory, its code granules sealed, and every register
scoped to the job at its reset value (R84, R111, R143, R204, R227). -/
structure JobDeclared (s : State) (l : Loading) (t : State) : Prop where
  st       : t.job.st = .loaded
  man      : t.job.man = some l.man
  prog     : t.job.prog = some l.prog
  scales   : t.job.scales = l.sctab
  layers   : t.job.layers = l.layers
  scaleImg : t.job.scaleImg = l.scales
  load     : t.job.load = none
  nonce    : t.job.nonce.isSome = true
  counter  : t.stp.s = l.man.s0
  attempt  : t.stp.a = 0
  phase    : t.stp.phase = .between
  mem      : t.mem = loadMem s.mem l
  colmap   : t.mm.colmap = l.cols
  keys     : t.mm.jobKeys.isSome = true
  marks    : t.mm.jobMarks = true
  consec   : t.scc.consec = 0
  skips    : t.scc.skips = 0
  amax     : t.scc.amax = []
  sealed   : ∀ g, t.isSealed g = decide (g < (l.prog.streams.map fun ws => codeGranules ws.length).foldl (· + ·) 0)
  cores    : ∀ k, (t.core k).lcnt = [] ∧ (t.core k).tiles = [] ∧ ∀ v, ((t.core k).vreg v).ovf = false ∧ ((t.core k).vreg v).nfin = false

theorem JobDeclared.kept {s u t : State} {l : Loading} (h : JobDeclared s l u) (hk : LoadKept u t) : JobDeclared s l t := by
  obtain ⟨⟨hstp, hscc, -, hjob⟩, hmem, hmm, hregs⟩ := hk
  constructor
  case st => have hst := congrArg Job.st hjob; exact Eq.trans hst h.st
  case man => have hman := congrArg Job.man hjob; exact Eq.trans hman h.man
  case prog => have hprog := congrArg Job.prog hjob; exact Eq.trans hprog h.prog
  case scales => have hscales := congrArg Job.scales hjob; exact Eq.trans hscales h.scales
  case layers => have hlayers := congrArg Job.layers hjob; exact Eq.trans hlayers h.layers
  case scaleImg => have himg := congrArg Job.scaleImg hjob; exact Eq.trans himg h.scaleImg
  case load => have hload := congrArg Job.load hjob; exact Eq.trans hload h.load
  case nonce =>
    have hnonce := congrArg (fun j : Job => j.nonce.isSome) hjob
    exact Eq.trans hnonce h.nonce
  case counter => have hs := congrArg Stp.s hstp; exact Eq.trans hs h.counter
  case attempt => have ha := congrArg Stp.a hstp; exact Eq.trans ha h.attempt
  case phase => have hphase := congrArg Stp.phase hstp; exact Eq.trans hphase h.phase
  case mem => exact hmem.trans h.mem
  case colmap => rw [hmm]; exact h.colmap
  case keys => rw [hmm]; exact h.keys
  case marks => rw [hmm]; exact h.marks
  case consec => have hconsec := congrArg Scc.consec hscc; exact Eq.trans hconsec h.consec
  case skips => have hskips := congrArg Scc.skips hscc; exact Eq.trans hskips h.skips
  case amax => have hamax := congrArg Scc.amax hscc; exact Eq.trans hamax h.amax
  case sealed => intro g; rw [State.isSealed, hmm]; exact h.sealed g
  case cores =>
    intro k
    obtain ⟨htiles, hvregs, hlcnt⟩ := hregs k
    obtain ⟨hlcnt', htiles', hflags⟩ := h.cores k
    refine ⟨hlcnt.trans hlcnt', htiles.trans htiles', fun v => ?_⟩
    rw [Core.vreg_congr hvregs]
    exact hflags v

theorem Core.loaded_zero : Core.loaded Core.zero = Core.zero := rfl

/-- A core at job load: its registers scoped to the job at their reset values. -/
theorem Core.loaded_regs (c : Core) :
    c.loaded.lcnt = [] ∧ c.loaded.tiles = [] ∧ ∀ v, (c.loaded.vreg v).ovf = false ∧ (c.loaded.vreg v).nfin = false := by
  refine ⟨rfl, rfl, fun v => ?_⟩
  have hvreg : ∀ m : SMap VReg, SMap.get VReg.zero (SMap.mapVals VReg.zero (fun _ v => { v with ovf := false, nfin := false }) m) v.val =
      { SMap.get VReg.zero m v.val with ovf := false, nfin := false } := fun m =>
    SMap.get_mapVals_of_fixed (f := fun (_ : Nat) (v : VReg) => { v with ovf := false, nfin := false }) (fun _ => rfl) m v.val
  have hloaded : c.loaded.vreg v =
      { SMap.get VReg.zero (if c.fenced && c.passed then { c with fenced := false, passed := false } else c).vregs v.val with
        ovf := false, nfin := false } := hvreg _
  rw [hloaded]
  exact ⟨rfl, rfl⟩

theorem sealed_below (n g : Nat) : SMap.get false (SMap.ofFn false n fun _ => true) g = decide (g < n) := by
  rw [SMap.get_ofFn]
  by_cases h : g < n <;> simp [h]

theorem State.loaded_declared (s : State) (l : Loading) : JobDeclared s l (s.loaded l) := by
  unfold State.loaded
  extract_lets m b nonce keys s1 gs fence mm job stp scc rings lnk s2 nvm hif s3 s4 s5 s6
  have hmem : s1.mem = s.mem := rfl
  have hs3 : JobDeclared s l s3 := by
    clear_value s1 nonce keys fence
    constructor
    case mem => rw [← hmem]
    case sealed => exact sealed_below gs
    case cores =>
      intro k
      have hcore : s3.core k = (s1.core k).loaded :=
        SMap.get_mapVals_of_fixed (f := fun (_ : Nat) (c : Core) => c.loaded) (fun _ => Core.loaded_zero) s1.cores k.val
      rw [hcore]
      exact Core.loaded_regs _
    all_goals rfl
  have hkept : LoadKept s3 (l.ignored.foldl (fun t x => t.log 0x0003 2 [x.1, x.2.1, x.2.2]) s6) := by
    clear_value s3
    exact (((LoadKept.refl s3).slotTables.record ..).log ..).logs l.ignored
  exact hs3.kept hkept

/-- A load that completes declares its job loaded (R204, R205, R227). -/
theorem jobLoadComplete_completes {s : State} {l : Loading} (hload : s.job.load = some l) (htrans : s.sec.trans = none) (hpark : s.sec.pstate < 3)
    (hcols : ∀ n ∈ l.prog.cols, l.cols.getD n 192 ∈ s.usableCores) : Completes .jobLoadComplete s (JobDeclared s l) := by
  let r : Reply := ⟨0x0050, l.seq, stOk, 0, .words (digestWords l.prog.codeDigest ++ (s.loaded l).capability), none⟩
  have hgate : ¬ (s.sec.trans.isSome = true ∨ 3 ≤ s.sec.pstate) := by
    rw [htrans]
    rintro (h | h)
    · exact Bool.false_ne_true h
    · omega
  have hlost : ¬ (l.prog.cols.any fun n => ! s.usableCores.contains (l.cols.getD n 192)) = true := by
    rw [List.any_eq_true]
    rintro ⟨n, hn, hnot⟩
    rw [Bool.not_eq_true', ← Bool.not_eq_true, List.contains_iff_mem] at hnot
    exact hnot (hcols n hn)
  have hexec : exec .jobLoadComplete s = .next ((s.loaded l).postReply r).settleStep := by
    show execJobLoadComplete s = _
    unfold execJobLoadComplete
    rw [hload]
    dsimp only
    rw [if_neg hgate, if_neg hlost]
  have hsize : r.data.size ≤ 4080 := by
    have h : r.data.size = 8 * 10 := rfl
    omega
  exact ⟨_, hexec, (s.loaded_declared l).kept ((LoadKept.refl _).postReply hsize).settleStep⟩

/-- Settles O46: a load's request by what each stage answers, its completion by what declaring the job leaves, and a chunk by what
the pipeline receives. -/
theorem jobData : Obligations.JobData := by
  unfold Obligations.JobData
  refine ⟨⟨?_, ?_, fun m l => memGet_loadMem m l⟩, ?_⟩
  · intro s m e body hacc hpark _ hout hdebug hreleasing hwaits
    exact ⟨fun po hbad => ⟨fun l => jobLoad_loads hacc hpark hwaits hout hdebug hreleasing hbad,
      fun r => jobLoad_rejects hacc hpark hwaits hout hdebug hreleasing hbad⟩,
      fun po x => jobLoad_unreadable hacc hpark hwaits hout hdebug hreleasing⟩
  · intro s l hload htrans hpark hcols
    obtain ⟨t, hexec, h⟩ := jobLoadComplete_completes hload htrans hpark hcols
    exact ⟨t, hexec, h.st, h.man, h.prog, h.scales, h.layers, h.scaleImg, h.load, h.counter, h.attempt, h.phase, h.mem, h.colmap, h.keys,
      h.nonce, h.marks, h.consec, h.skips, h.amax, h.sealed, h.cores⟩
  · intro s x c hjob hpark hscrub hnext hfree hstalls
    exact ⟨fun plain po => chunkDecrypt_lands hjob hpark hscrub hnext hfree hstalls,
      fun po => chunkDecrypt_refuses hjob hpark hscrub hnext hfree hstalls⟩

end Sys2Proof.Machine
end

section
/-! GPASS (R97-R99). -/

namespace Sys2Proof.Machine

open Sys2Proof

/-! Sums over the elements of a grid. -/

/-- The sum of each of the `m` rows of a grid of `n` columns. -/
def rowSums (m n : Nat) (f : Nat → Nat → Int) : List Int := (List.range m).map fun r => ((List.range n).map fun j => f r j).sum

theorem rowSums_nonneg {f : Nat → Nat → Int} (hf : ∀ r j, 0 ≤ f r j) (m n : Nat) : ∀ v ∈ rowSums m n f, 0 ≤ v := by
  intro v hv
  obtain ⟨r, -, rfl⟩ := List.mem_map.mp hv
  refine List.sum_nonneg fun x hx => ?_
  obtain ⟨j, -, rfl⟩ := List.mem_map.mp hx
  exact hf r j

theorem sum_range_ite_eq {n i : Nat} (g : Nat → Int) (hi : i < n) :
    ((List.range n).map fun r => if r = i then g r else 0).sum = g i :=
  (Finset.sum_ite_eq' (Finset.range n) i g).trans (if_pos (Finset.mem_range.mpr hi))

theorem sum_cells (m n : Nat) (f : Nat → Nat → Int) :
    ((List.range m).flatMap fun r => (List.range n).map fun j => f r j).sum = (rowSums m n f).sum := by
  rw [List.flatMap, List.sum_flatten, List.map_map]
  rfl

/-- A statistic is the sum of the values of its index. -/
theorem statSum_eq (n : Nat) (ys : List (Nat × Int)) :
    statSum n ys = (List.range n).map fun i => (ys.map fun y => if y.1 = i then y.2 else 0).sum := by
  refine List.map_congr_left fun i _ => ?_
  induction ys using List.reverseRecOn with
  | nil => rfl
  | append_singleton ys y ih =>
    rw [List.filter_append, List.foldl_append, ih, List.map_append, List.sum_append]
    by_cases h : y.1 = i <;> simp [h]

theorem statSum_rows (m n : Nat) (f : Nat → Nat → Int) :
    statSum m ((List.range m).flatMap fun r => (List.range n).map fun j => (r, f r j)) = rowSums m n f := by
  rw [statSum_eq]
  refine List.map_congr_left fun i hi => ?_
  have hrow : ∀ r, ((List.range n).map fun j => if r = i then f r j else 0).sum
      = if r = i then ((List.range n).map fun j => f r j).sum else 0 := fun r => by
    split
    · rfl
    · simp
  simp only [List.map_flatMap, List.map_map, Function.comp_def]
  rw [sum_cells m n fun r j => if r = i then f r j else 0]
  exact (congrArg List.sum (List.map_congr_left fun r _ => hrow r)).trans (sum_range_ite_eq _ (List.mem_range.mp hi))

theorem statSum_cols (m n : Nat) (f : Nat → Nat → Int) :
    statSum n ((List.range m).flatMap fun r => (List.range n).map fun j => (j, f r j)) = rowSums n m fun j r => f r j := by
  rw [statSum_eq]
  refine List.map_congr_left fun i hi => ?_
  simp only [List.map_flatMap, List.map_map, Function.comp_def]
  rw [sum_cells m n fun r j => if j = i then f r j else 0]
  exact congrArg List.sum (List.map_congr_left fun r _ => sum_range_ite_eq (f r) (List.mem_range.mp hi))

/-! The words of a statistic vector that is not added into (R98). -/

/-- The word of a sum that is not negative: the sum, or the greatest valid word (R66). -/
def clampTop (v : Int) : Int := if v ≥ 2 ^ 309 then 2 ^ 309 - 1 else v

/-- The bytes of the words of such sums. -/
def statBytes (vs : List Int) : List Byte := vs.flatMap fun v => leBytes 40 (BitVec.ofInt 320 (clampTop v)).toNat

theorem statWord_zero {v : Int} (hv : 0 ≤ v) : statWord v 0 = clampTop v := by
  have hlow : ¬ v < -(2 ^ 309) := not_lt.mpr ((neg_nonpos.mpr (by positivity)).trans hv)
  rw [statWord, Int.add_zero, ite_self, ltClamp, if_neg hlow, clampTop]

theorem State.writeStat_plain (s : State) (h : W16) (d : Desc) {vs : List Int} (p : Post) (hvs : ∀ v ∈ vs, 0 ≤ v) :
    (s.writeStat h d false vs p).1 = writeRuns s d.cvp [(s.basePhys d, statBytes vs)] := by
  have hwords : (vs.zipIdx.map fun v => statWord v.1 0) = vs.map clampTop :=
    calc (vs.zipIdx.map fun v => statWord v.1 0)
      _ = (vs.zipIdx.map Prod.fst).map (statWord · 0) := by simp only [List.map_map, Function.comp_def]
      _ = vs.map clampTop := by
        rw [List.zipIdx_map_fst]
        exact List.map_congr_left fun v hv => statWord_zero (hvs v hv)
  unfold State.writeStat
  simp only [Bool.false_eq_true, if_false]
  rw [hwords, List.flatMap_map, statBytes]

/-! The squares of a grid tensor (R97). -/

/-- A rational value has a square in units of 2^-149. -/
theorem squareUnits_ofRat (q : ℚ) : ∃ u, squareUnits (FV.ofRat q) = some u ∧ 0 ≤ u := by
  refine ⟨_, rfl, ?_⟩
  have hunit : (0 : ℚ) ≤ pow2 149 := by
    rw [pow2, if_pos (by decide)]
    exact Nat.cast_nonneg _
  rw [ltUnits, if_neg (not_lt.mpr (mul_nonneg (mul_self_nonneg _) hunit))]
  exact Int.natCast_nonneg _

/-- The elements of a grid of values as the statistics take them. -/
def gridEls (m n : Nat) (val : Nat → Nat → ℚ) : List StatEl :=
  (List.range m).flatMap fun r => (List.range n).map fun j => (r, j, FV.ofRat (val r j))

/-- The square of a value of the grid, in units of 2^-149. -/
def gridSq (val : Nat → Nat → ℚ) (r j : Nat) : Int := (squareUnits (FV.ofRat (val r j))).getD 0

theorem squareUnits_gridSq (val : Nat → Nat → ℚ) (r j : Nat) : squareUnits (FV.ofRat (val r j)) = some (gridSq val r j) := by
  obtain ⟨u, hu, -⟩ := squareUnits_ofRat (val r j)
  rw [gridSq, hu, Option.getD_some]

theorem gridSq_nonneg (val : Nat → Nat → ℚ) (r j : Nat) : 0 ≤ gridSq val r j := by
  obtain ⟨u, hu, hpos⟩ := squareUnits_ofRat (val r j)
  rw [gridSq, hu, Option.getD_some]
  exact hpos

theorem gridEls_squares (m n : Nat) (val : Nat → Nat → ℚ) :
    ((gridEls m n val).filterMap fun y => (squareUnits y.2.2).map fun u => (y.1, y.2.1, u))
      = (List.range m).flatMap fun r => (List.range n).map fun j => (r, j, gridSq val r j) := by
  simp only [gridEls, List.filterMap_flatMap, List.filterMap_map, Function.comp_def, squareUnits_gridSq, Option.map_some,
    List.filterMap_eq_map']

/-- Statistics that are not added into: the words of the rows, then those of the columns (R97, R98). -/
theorem State.stats_plain (s : State) (hd hsr hsc : W16) (dr dc : Desc) (m n : Nat) (val : Nat → Nat → ℚ) (p : Post) :
    (s.stats hd hsr hsc dr dc false false m n (gridEls m n val) p).1 =
      writeRuns (writeRuns s dr.cvp [(s.basePhys dr, statBytes (rowSums m n (gridSq val)))]) dc.cvp
        [(s.basePhys dc, statBytes (rowSums n m fun j r => gridSq val r j))] := by
  have hbase : ∀ rs : List Run, (writeRuns s dr.cvp rs).basePhys = s.basePhys := fun rs =>
    (StoresIn.write dr.cvp .none (.runSpans rs)).basePhys
  unfold State.stats
  dsimp only
  rw [gridEls_squares]
  simp only [List.map_flatMap, List.map_map, Function.comp_def]
  rw [statSum_rows, statSum_cols, State.writeStat_plain _ _ _ _ (rowSums_nonneg (gridSq_nonneg val) m n),
    State.writeStat_plain _ _ _ _ (rowSums_nonneg (fun j r => gridSq_nonneg val r j) n m), hbase]

/-! The command. -/

/-- The value of an element of a grid tensor of format `f` under the exponent in slot `sl` of core `k` (R55). -/
def State.gridValue (s : State) (k : CoreId) (d : Desc) (f : Fmt) (sl r j : Nat) : ℚ :=
  ((BitVec.ofNat f.bits (s.codeAt d [j, r, 0, 0, 0, 0])).toInt : ℚ) * pow2 (SMap.get GExp.zero (s.core k).gexp sl).e.toInt

theorem State.gridValue_seen (s : State) (k : CoreId) (i : Instr) : (s.seen k i).gridValue k = s.gridValue k := by
  obtain ⟨-, -, -, hgexp, -⟩ := State.seen_core s k i
  funext d f sl r j
  rw [State.gridValue, State.gridValue, hgexp]
  rfl

section
variable {s : State} {k : CoreId} {e : Ent} {h : Hdr} {c : GpassF} {f : Fmt} {sl : Nat} {hg hsr hsc : W16}
  (hhg : effHandle h e.iter 0 c.hg = hg) (hhr : effHandle h e.iter 1 c.hsr = hsr) (hhc : effHandle h e.iter 2 c.hsc = hsc)
include hhg hhr hhc

theorem effGpass_eq (hf : (s.desc hg).fmt = some f) (hgrid : f.grid = true) (hm : (s.desc hg).extent 1 ≤ 128)
    (hn : (s.desc hg).extent 0 ≤ 128) (hsl : s.slotOf k c.gslot.toNat = some sl) :
    let m := (s.desc hg).extent 1
    let n := (s.desc hg).extent 0
    let r := s.stats hg hsr hsc (s.desc hsr) (s.desc hsc) c.radd c.cadd m n (gridEls m n (s.gridValue k (s.desc hg) f sl)) Post.none
    effGpass s k e h c = some (r.1.modCore k fun x => x.count 0x15 m, r.2) := by
  intro m n r
  have hform : ¬ (¬ f.grid = true ∨ (s.desc hg).extent 1 > 128 ∨ (s.desc hg).extent 0 > 128) := by
    rw [not_or, not_or]
    exact ⟨not_not.mpr hgrid, not_lt.mpr hm, not_lt.mpr hn⟩
  unfold effGpass
  dsimp only
  rw [hhg, hhr, hhc, hf, hsl]
  dsimp only
  rw [if_neg hform]
  rfl
end

/-- A ready command whose engine writes in turn within `ss` and counts, and does no more, completes with what holds of every such state. -/
theorem Completes.of_stores {s u : State} {k : CoreId} {i : Instr} {p : Post} {f : Core → Core} {ss : List Span} {P : State → Prop}
    (hx : exec i s = State.answer (s.issue k i)) (he : computes i) (hr : Ready s k i)
    (heff : effect (s.seen k i) k ((s.core k).entryOf i) = some (u.modCore k f, p)) (hu : StoresIn ss (s.seen k i) u)
    (hf : ∀ c, ∃ v, f c = { c with evc := v })
    (hP : ∀ t, t.mem = u.mem → MemKept s t ss → OnlyCoreMem s t k → SameRegs s t k → SameVregs s t k → P t) : Completes i s P := by
  obtain ⟨hvregs, hregs⟩ := ((RegsKept.seen s k i).of_core (hu.core k)).modCore_evc hf
  have hmem : (s.ran k i (u.modCore k f) p).mem = u.mem := by rw [State.ran_mem, State.modCore_mem]
  refine .of_effect hx he hr heff (hP _ hmem (hu.memKept.of_mem hmem) (((hu.frame (OnlyCoreMem.seen s k i)).modCore _).ran _ _)
    (State.ran_sameRegs _ _ _ _ _ hregs) ?_)
  rw [SameVregs, State.ran_vregs, hvregs]

/-- Settles O16: the engine writes the two vectors, within their words, and counts its rows. -/
theorem gridPass : Obligations.GridPass := by
  unfold Obligations.GridPass
  intro s k h c f sl hg hsr hsc d m n sq words rows cols dr dc hf hgrid hm hn hsl hr
  have heff := effGpass_eq (s := s.seen k (.gpass k h c)) (k := k) (e := (s.core k).entryOf (.gpass k h c)) (h := h) (c := c)
    (hg := hg) (hsr := hsr) (hsc := hsc) rfl rfl rfl hf hgrid hm hn hsl
  rw [State.gridValue_seen] at heff
  have hstores := StoresIn.stats (ss := s.statSpan hsr m ++ s.statSpan hsc n) (s := s.seen k (.gpass k h c)) .none (hd := hg)
    (fun x hx => List.mem_append_left _ hx) (fun x hx => List.mem_append_right _ hx) c.radd c.cadd
    (gridEls m n (s.gridValue k d f sl)) Post.none
  refine .of_stores rfl (.inl rfl) hr heff hstores.1 (fun x => ⟨_, rfl⟩) fun t hmem hkept hcore hregs hvregs =>
    ⟨fun hradd hcadd => ?_, hkept, hcore, hregs, hvregs⟩
  have hwrite := congrArg State.mem
    (writeRuns_writeRuns_seen s k (.gpass k h c) dr.cvp dc.cvp [(s.basePhys dr, rows)] [(s.basePhys dc, cols)])
  rw [hmem, hradd, hcadd]
  exact (congrArg State.mem (State.stats_plain ..)).trans hwrite

end Sys2Proof.Machine
end

section
/-! Commands that wait, stand issued, or are held by a checker (R104, R132, R135, R136). -/

namespace Sys2Proof.Machine

open Sys2Proof

/-- Every command of a program is one that its core's command processor issues. -/
theorem exec_of_coreOf {i : Instr} {k : CoreId} (h : coreOf i = some k) (s : State) : exec i s = State.answer (s.issue k i) := by
  unfold coreOf at h
  split at h <;> cases h <;> rfl

/-! A command that stands issued. -/

theorem State.entered_core_other (s : State) {k j : CoreId} (i : Instr) (hj : j ≠ k) : (s.entered k i).core j = s.core j :=
  State.core_setCore_other _ _ hj

theorem State.entered_onlyCore (s : State) (k : CoreId) (i : Instr) : OnlyCore s (s.entered k i) k :=
  ⟨rfl, fun _ hj => s.entered_core_other i hj⟩

/-- A command that enters the in-flight set changes no register of its core. -/
theorem State.entered_regs (s : State) (k : CoreId) (i : Instr) : RegsKept s (s.entered k i) k := by
  refine ⟨?_, ?_⟩
  · simp only [SameVregs, State.entered, State.core_setCore_self, Core.issued, Core.trace_vregs, Core.count_vregs]
    rw [State.fetched_rest]
  · constructor <;>
    · simp only [State.entered, State.core_setCore_self, Core.issued, Core.trace_tiles, Core.count_tiles, Core.trace_lt, Core.count_lt,
        Core.trace_gexp, Core.count_gexp, Core.trace_upe, Core.count_upe, Core.trace_lcnt, Core.count_lcnt, Core.trace_loops,
        Core.count_loops]
      rw [State.fetched_rest]

theorem State.inFlight_entered (s : State) (k : CoreId) (i : Instr) : InFlight s (s.entered k i) k i .issued Post.none := by
  simp only [InFlight, State.entered, State.core_setCore_self, Core.issued, Core.trace_inflight, Core.count_inflight]
  rw [State.fetched_rest]
  rfl

/-- A command that a hazard keeps from its engine stands issued. -/
theorem State.issue_stands {s : State} {k : CoreId} {i : Instr} (he : (engOf i).isSome = true) (ht : Takes s k i)
    (hc : (s.entered k i).clear k (s.core k).inflight ((s.core k).entryOf i) [] = false) : s.issue k i = some (s.entered k i) := by
  rw [State.issue_enters ht, State.enter_engine he, if_neg (Bool.eq_false_iff.mp hc)]

/-! A command that a checker holds. -/

/-- What a checker finds comes to a record, and to the check registers of the engine before it. -/
theorem State.chkFail_raises (s : State) (k : CoreId) (e : Ent) (f : ChkFail) :
    ∃ (u : State) (kind eng detail : Nat), s.chkFail k e f = u.raise kind eng (coreField k) 0 e.tag e.iter 0 detail
      ∧ u.mem = s.mem ∧ u.rings = s.rings ∧ ∀ j, ∃ m v p, u.core j = { s.core j with mxe := m, vxe := v, upe := p } := by
  have hregs : ∀ g : Core → Core, (∀ c, ∃ m v p, g c = { c with mxe := m, vxe := v, upe := p }) →
      ∀ j, ∃ m v p, (s.modCore k g).core j = { s.core j with mxe := m, vxe := v, upe := p } := fun g hg j => by
    by_cases hj : j = k
    · rw [hj, State.core_modCore_self]
      exact hg _
    · rw [State.core_modCore_other _ _ hj]
      exact ⟨_, _, _, rfl⟩
  unfold State.chkFail
  extract_lets
  split
  · exact ⟨_, _, _, _, rfl, rfl, rfl, fun _ => ⟨_, _, _, rfl⟩⟩
  split
  · exact ⟨_, _, _, _, rfl, rfl, rfl, fun _ => ⟨_, _, _, rfl⟩⟩
  split
  all_goals exact ⟨_, _, _, _, rfl, rfl, rfl, hregs _ fun _ => ⟨_, _, _, rfl⟩⟩

/-- Only an UPD that is held has written before (R245). -/
theorem State.updHeld_of_not_upd (s : State) (k : CoreId) {e : Ent} (f : ChkFail) (he : ∀ k' h c, e.ins ≠ .upd k' h c) :
    s.updHeld k e f = (s, e.post) := by
  unfold State.updHeld
  split
  next hi => exact absurd hi (he _ _ _)
  next => rfl

/-- No engine with checkers of its own waits for a link buffer. -/
theorem State.moveWaits_of_checked (s : State) {e : Ent} (he : checked e.ins = true) : s.moveWaits e = false := by
  unfold State.moveWaits
  split
  next hi => simp [checked, hi, engOf] at he
  next => rfl

/-- An engine whose checker finds something holds the command, before its effect. -/
theorem State.runEnt_held {s : State} {k : CoreId} {pre post : List Ent} {e : Ent} {f : ChkFail} (hc : checked e.ins = true)
    (hu : ∀ k' h c, e.ins ≠ .upd k' h c) (hf : s.found k e.ins = some f) (hv : s.violation k e.iter e.ins = none)
    (hr : s.readFault e = none) (hw : s.badWrite (s.writes e.iter e.ins) = none) :
    s.runEnt k pre e post = some (((s.addWr (s.wrOf k e.tag e.x e.iter e.ins)).putEnt k pre { e with phase := .held } post).chkFail
      (s.runsOn k e.ins) e f) := by
  unfold State.runEnt
  rw [hv]
  dsimp only
  rw [State.moveWaits_of_checked s hc, if_neg Bool.false_ne_true, hr, hw, hf, hc]
  dsimp only
  rw [State.updHeld_of_not_upd s k f hu]

/-- Core `k` has issued `i`, which stands held: the writes that it did not make are on record. -/
def State.stopped (s : State) (k : CoreId) (i : Instr) : State :=
  ((s.seen k i).addWr ((s.seen k i).wrOf k (hdrOf i).tag ((s.core k).entryOf i).x (iterOf (s.core k).loops) i)).putEnt k
    (s.core k).inflight { (s.core k).entryOf i with phase := .held } []

theorem State.stopped_core (s : State) (k : CoreId) (i : Instr) : (s.stopped k i).core k =
    { (s.seen k i).core k with inflight := (s.core k).inflight ++ [{ (s.core k).entryOf i with phase := .held }] } := by
  rw [State.stopped, State.putEnt, State.core_modCore_self]
  rfl

theorem State.stopped_mem (s : State) (k : CoreId) (i : Instr) : (s.stopped k i).mem = s.mem := by
  rw [State.stopped, State.putEnt_mem, State.addWr_mem, State.seen, State.started_mem, State.entered_mem]

theorem State.stopped_rings (s : State) (k : CoreId) (i : Instr) : (s.stopped k i).rings = s.rings := by
  rw [State.stopped, State.putEnt_rings, State.addWr_rings, State.seen, State.started_rings, State.entered_rings]

/-- The state after core `k` has issued `i` and a checker has found `f`. -/
def State.held (s : State) (k : CoreId) (i : Instr) (f : ChkFail) : State :=
  (s.stopped k i).chkFail ((s.seen k i).runsOn k i) ((s.core k).entryOf i) f

theorem State.issue_held {s : State} {k : CoreId} {i : Instr} {f : ChkFail} (he : (engOf i).isSome = true) (ht : Takes s k i)
    (hc : checked i = true) (hu : ∀ k' h c, i ≠ .upd k' h c) (hf : (s.seen k i).found k i = some f)
    (hd : (s.seen k i).departing k ((s.core k).entryOf i) = none)
    (hclear : (s.entered k i).clear k (s.core k).inflight ((s.core k).entryOf i) [] = true)
    (hv : (s.seen k i).violation k (iterOf (s.core k).loops) i = none) (hr : (s.seen k i).readFault ((s.core k).entryOf i) = none)
    (hw : (s.seen k i).badWrite ((s.seen k i).writes (iterOf (s.core k).loops) i) = none) : s.issue k i = some (s.held k i f) := by
  have hdispatch : (s.entered k i).dispatchEnt k (s.core k).inflight ((s.core k).entryOf i) [] =
      (s.seen k i).runEnt k (s.core k).inflight ((s.core k).entryOf i) [] := by
    unfold State.dispatchEnt
    rw [show (s.entered k i).started k ((s.core k).entryOf i) = s.seen k i from rfl, hd]
  rw [State.issue_enters ht, State.enter_engine he, if_pos hclear, hdispatch]
  exact State.runEnt_held hc hu hf hv hr hw

/-- What a held command leaves: its entry held, a record of it where the ring has room, and nothing that it would have written. -/
theorem State.held_spec (s : State) (k : CoreId) (i : Instr) (f : ChkFail) :
    (s.held k i f).mem = s.mem ∧ SameVregs s (s.held k i f) k ∧ ((s.held k i f).core k).tiles = (s.core k).tiles
      ∧ ((s.held k i f).core k).lt = (s.core k).lt ∧ InFlight s (s.held k i f) k i .held Post.none
      ∧ (s.rings.fault.length < 16384 → ∃ r, (s.held k i f).rings.fault = s.rings.fault ++ [r] ∧ r.tag = (hdrOf i).tag
          ∧ r.core = coreField ((s.seen k i).runsOn k i) ∧ r.seq = s.rings.seq) := by
  obtain ⟨u, kind, eng, detail, heq, hmem, hrings, hcores⟩ :=
    (s.stopped k i).chkFail_raises ((s.seen k i).runsOn k i) ((s.core k).entryOf i) f
  obtain ⟨m, v, p, hcore⟩ := hcores k
  rw [State.stopped_core] at hcore
  rw [State.stopped_mem] at hmem
  rw [State.stopped_rings] at hrings
  obtain ⟨hvregs, htiles, hlt, -⟩ := State.seen_core s k i
  have hheld : (s.held k i f).core k = u.core k := by
    rw [State.held, heq, State.core_congr (State.raise_cores ..)]
  refine ⟨?_, ?_, ?_, ?_, ?_, fun hroom => ?_⟩
  · rw [State.held, heq, State.raise_mem, hmem]
  · rw [SameVregs, hheld, hcore]
    exact hvregs
  · rw [hheld, hcore]
    exact htiles
  · rw [hheld, hcore]
    exact hlt
  · rw [InFlight, hheld, hcore]
    rfl
  · obtain ⟨r, -, -, hrcore, -, hrtag, hrseq, -, -, hraised⟩ :=
      u.raise_spec kind eng (coreField ((s.seen k i).runsOn k i)) 0 ((s.core k).entryOf i).tag ((s.core k).entryOf i).iter 0 detail
    rw [hrings, if_pos hroom] at hraised
    rw [hrings] at hrseq
    rw [State.held, heq, hraised]
    exact ⟨r, rfl, hrtag, hrcore, hrseq⟩

/-- Settles O2: a command is not taken, waits, stands issued or is held, as the command processor finds its core and its engine. -/
theorem commandsHeld : Obligations.CommandsHeld := by
  unfold Obligations.CommandsHeld
  refine ⟨⟨fun s k i hi => ?_, fun s k i hi he ht hclear => ?_⟩, fun s k i f hi hc hupd hf hd ht hclear hv hr hw hroom => ?_⟩
  · rw [exec_of_coreOf hi]
    exact ⟨fun ht => by rw [State.issue_not_taken i ht]; rfl, fun ht hwait => by rw [State.issue_waits ht hwait]; rfl⟩
  · obtain ⟨hvregs, hregs⟩ := s.entered_regs k i
    exact ⟨s.entered k i, by rw [exec_of_coreOf hi, State.issue_stands he ht hclear]; rfl, s.entered_onlyCore k i, hregs, hvregs,
      s.inFlight_entered k i⟩
  · have hnot : ∀ k' h c, i ≠ .upd k' h c := fun k' h c heq => by
      rw [heq] at hi
      cases hi
      exact hupd h c heq
    have hengine : (engOf i).isSome = true := by
      unfold checked at hc
      cases hg : engOf i with
      | none => rw [hg] at hc; exact absurd hc Bool.false_ne_true
      | some g => rfl
    obtain ⟨hmem, hvregs, htiles, hlt, hflies, hrecord⟩ := s.held_spec k i f
    exact ⟨s.held k i f, by rw [exec_of_coreOf hi, State.issue_held hengine ht hc hnot hf hd hclear hv hr hw]; rfl, hmem, hvregs, htiles,
      hlt, hflies, hrecord hroom⟩

end Sys2Proof.Machine
end

section
/-! Commands of the vector engine that read registers and change nothing but registers: what they come to by the core that their
engine answers (R108-R111). -/

namespace Sys2Proof.Machine

open Sys2Proof

/-! Several sources read out, and a register given new words. -/

/-- Whether a source saturates lies in the elements of its register. -/
theorem Core.srcSat_of_els {c d : Core} {f : Src} (h : (c.vreg f.reg).els = (d.vreg f.reg).els) (view : BitVec 2) (rows cols : Nat) :
    c.srcSat view f rows cols = d.srcSat view f rows cols := by
  rw [Core.srcSat, Core.srcSat, h]

/-- A core whose sources `fs` have been read out in a view. -/
def Core.stickSrcs (c : Core) (view : BitVec 2) (fs : List Src) : Core := fs.foldl (fun c f => c.stickSrc view f 64 (viewCols view)) c

/-- Each source that saturates sets OVF of its register (R110). -/
theorem Core.stickSrcs_spec (c : Core) (view : BitVec 2) (fs : List Src) (v : VRegId) :
    ((c.stickSrcs view fs).vreg v).els = (c.vreg v).els
      ∧ ((c.stickSrcs view fs).vreg v).ovf =
          ((c.vreg v).ovf || fs.any fun f => decide (f.reg = v) && c.srcSat view f 64 (viewCols view))
      ∧ ((c.stickSrcs view fs).vreg v).nfin = (c.vreg v).nfin := by
  induction fs generalizing c with
  | nil => simp [Core.stickSrcs]
  | cons f fs ih =>
    have hone := c.stickSrc_spec view f 64 (viewCols view)
    obtain ⟨hels, hovf, hnfin⟩ := ih (c.stickSrc view f 64 (viewCols view))
    refine ⟨hels.trans (hone v).1, hovf.trans ?_, hnfin.trans (hone v).2.2⟩
    rw [(hone v).2.1, List.any_cons, Bool.or_assoc]
    simp only [fun g : Src => Core.srcSat_of_els (hone g.reg).1 view 64 (viewCols view)]

/-! What stands beside the tile registers. -/

/-- A core that differs from `d` in tile registers and event counters alone. -/
def Core.VregsOf (c d : Core) : Prop := { c with vregs := d.vregs, evc := d.evc } = d

section
variable {c d : Core} (h : c.VregsOf d)
include h

theorem Core.VregsOf.lt : c.lt = d.lt := (congrArg Core.lt h).trans rfl

theorem Core.VregsOf.setVreg (v : VRegId) (r : VReg) : (c.setVreg v r).VregsOf d := h

theorem Core.VregsOf.stick (v : VRegId) (f : Fl) : (c.stick v f).VregsOf d := h.setVreg v _

theorem Core.VregsOf.refill (v : VRegId) (r : VReg) : (c.refill v r).VregsOf d := h.setVreg v _

theorem Core.VregsOf.count (src n : Nat) : (c.count src n).VregsOf d := h

theorem Core.VregsOf.stickSrc (view : BitVec 2) (f : Src) (rows cols : Nat) : (c.stickSrc view f rows cols).VregsOf d := by
  unfold Core.stickSrc
  split
  · exact h.stick ..
  · exact h
end

theorem Core.VregsOf.stickSrcs {c d : Core} (h : c.VregsOf d) (view : BitVec 2) (fs : List Src) : (c.stickSrcs view fs).VregsOf d := by
  induction fs generalizing c with
  | nil => exact h
  | cons f fs ih => exact ih (h.stickSrc view f 64 (viewCols view))

theorem Core.vregsOf_refl (d : Core) : d.VregsOf d := rfl

/-! The commands. -/

/-- A command of the vector engine on registers, with the core that its engine answers. -/
structure VectorCommand (mk : CoreId → Hdr → VecF → Instr) (eff : Core → VecF → Core) : Prop where
  core   : ∀ k h c, coreOf (mk k h c) = some k
  engine : ∀ k h c, engOf (mk k h c) = some .vxe
  writes : ∀ (s : State) (iter : List W32) (k : CoreId) (h : Hdr) (c : VecF), s.writes iter (mk k h c) = []
  answer : ∀ (s u : State) (k : CoreId) (h : Hdr) (c : VecF),
    effect s k ((u.core k).entryOf (mk k h c)) = vecDone s k (some (eff (s.core k) c))

/-- Such a core keeps the other registers of a program. -/
theorem State.sameRegs_setCore_of_vregs {s : State} {k : CoreId} {i : Instr} {c : Core} (hc : c.VregsOf ((s.seen k i).core k)) (u : State) :
    SameRegs s (u.setCore k c) k := by
  obtain ⟨htiles, hlt, hgexp, hupe, hlcnt, hloops⟩ := State.seen_sameRegs s k i
  constructor <;> rw [State.core_setCore_self]
  exacts [(congrArg Core.tiles hc).trans htiles, (congrArg Core.lt hc).trans hlt, (congrArg Core.gexp hc).trans hgexp,
    (congrArg Core.upe hc).trans hupe, (congrArg Core.lcnt hc).trans hlcnt, (congrArg Core.loops hc).trans hloops]

section
variable {mk : CoreId → Hdr → VecF → Instr} {eff : Core → VecF → Core} {s : State} {k : CoreId} {h : Hdr} {c : VecF} {P : State → Prop}
  (hm : VectorCommand mk eff) (hr : Ready s k (mk k h c))
include hm hr

/-- A ready command completes with what holds of every state that has the tile registers of its engine's answer, has the command in
flight, and differs in its core's record alone. -/
theorem Completes.of_vectorCommand (hrest : ∀ d : Core, (eff d c).VregsOf d)
    (hP : ∀ t d, d.vregs = (s.core k).vregs → (∀ v, (t.core k).vreg v = (eff d c).vreg v) → OnlyCore s t k → SameRegs s t k →
      InFlight s t k (mk k h c) .done Post.none → P t) : Completes (mk k h c) s P := by
  obtain ⟨hcore, hengine, hwrites, hanswer⟩ := hm
  refine .of_effect (exec_of_coreOf (hcore k h c) s) (.inr (hengine k h c)) hr (hanswer _ s k h c) ?_
  refine hP _ ((s.seen k (mk k h c)).core k) (State.seen_vregs s k _) (fun v => ?_) (State.onlyCore_ran _ (hwrites _ _ k h c)) ?_
    (State.inFlight_ran ..)
  · rw [State.ran_vreg, State.core_setCore_self]
  · exact State.ran_sameRegs _ _ _ _ _ (State.sameRegs_setCore_of_vregs (hrest _) _)

/-- A command that reads sources out in a view and fills VD in another: the words of VD, and the frame of its registers. -/
theorem Completes.of_refill {view fv : BitVec 2} {srcs : List Src} {g : Core → Nat → Nat → VVal}
    (heff : ∀ d : Core, eff d c = (d.stickSrcs view srcs).refill c.vd ((d.vreg c.vd).fill fv (g d)))
    (hg : ∀ d, d.vregs = (s.core k).vregs → g d = g (s.core k))
    (hP : ∀ t, ((t.core k).vreg c.vd).els = (((s.core k).vreg c.vd).fill fv (g (s.core k))).els → OnlyCore s t k → SameRegs s t k →
      VregsBut s t k c.vd view srcs → InFlight s t k (mk k h c) .done Post.none → P t) : Completes (mk k h c) s P := by
  refine .of_vectorCommand hm hr (fun d => ?_) fun t d hd ht hcore hregs hflies => hP t ?_ hcore hregs ?_ hflies
  · rw [heff]
    exact (d.vregsOf_refl.stickSrcs ..).refill ..
  · rw [ht, heff, (Core.refill_spec ..).1, if_pos rfl, hg d hd, Core.vreg_congr hd]
  · refine ⟨fun v hv => ?_, fun v => ?_, fun v => ?_⟩
    · rw [ht, heff, (Core.refill_spec ..).1, if_neg hv, (Core.stickSrcs_spec ..).1, Core.vreg_congr hd]
    · rw [ht, heff, (Core.refill_spec ..).2.2, (Core.stickSrcs_spec ..).2.2, Core.vreg_congr hd]
    · rw [ht, heff, (Core.refill_spec ..).2.1, (Core.stickSrcs_spec ..).2.1, Core.vreg_congr hd, Core.srcSat_congr hd]
end

end Sys2Proof.Machine
end

section
/-! The elementwise F32 commands (R109, R110, R114-R117). -/

namespace Sys2Proof.Machine

open Sys2Proof

/-- An FP32 source element of a core (R109, R110, R114). -/
def Core.srcF32 (d : Core) (c : VecF) (f : Src) (r e : Nat) : FV := f32 (BitVec.ofNat 32 ((d.src 0 c.imm f r e).word 0).1)

theorem State.srcF32_eq (s : State) (k : CoreId) : s.srcF32 k = (s.core k).srcF32 := rfl

theorem Core.srcF32_congr {d d' : Core} (h : d.vregs = d'.vregs) : d.srcF32 = d'.srcF32 := by
  funext c f r e
  rw [Core.srcF32, Core.srcF32, Core.src_congr h]

/-- The word that an elementwise F32 command computes from its three sources: scaled and rounded once (R115, R116). -/
def f32Word (d : Core) (c : VecF) (f : FV → FV → FV → FV) (r e : Nat) : W32 :=
  onceF32 c (f (d.srcF32 c c.srca r e) (d.srcF32 c c.srcb r e) (d.srcF32 c c.srcc r e))

/-- An elementwise F32 command of one to three sources, whose function looks at no other, reads them out and fills VD. -/
theorem vecF32_eq {n : Nat} {f : FV → FV → FV → FV} (hn : n = 1 ∨ n = 2 ∨ n = 3)
    (hf : ∀ x y z, f x (if n > 1 then y else .nan) (if n > 2 then z else .nan) = f x y z) (d : Core) (c : VecF) :
    vecF32 d c n f = (d.stickSrcs 0 ([c.srca, c.srcb, c.srcc].take n)).refill c.vd
      ((d.vreg c.vd).fill 0 fun r e => ⟨(f32Word d c f r e).toNat, 0⟩) := by
  unfold vecF32
  simp only [hf]
  obtain rfl | rfl | rfl := hn <;> rfl

/-- A command of the vector engine that answers `vecF32` is elementwise. -/
theorem VectorCommand.elementwiseF32 {mk : CoreId → Hdr → VecF → Instr} {n : Nat} {f : FV → FV → FV → FV}
    (hm : VectorCommand mk fun d c => vecF32 d c n f) (hn : n = 1 ∨ n = 2 ∨ n = 3)
    (hf : ∀ x y z, f x (if n > 1 then y else .nan) (if n > 2 then z else .nan) = f x y z) : ElementwiseF32 mk n f := by
  intro s k h c hr
  have hword : ∀ d : Core, d.vregs = (s.core k).vregs → f32Word d c f = f32Word (s.core k) c f := fun d hd => by
    funext r e
    rw [f32Word, f32Word, Core.srcF32_congr hd]
  refine .of_refill hm hr (vecF32_eq hn hf · c) (fun d hd => by rw [hword d hd]) fun t hels hcore hregs hvregs hflies => ?_
  exact ⟨fun r e hrow hcol => State.velem_of_fill (f := f32Word (s.core k) c f) hels le_rfl hrow hcol, hcore, hregs, hvregs, hflies⟩

/-- Settles O3: each command answers `vecF32` with its own number of sources and its own function of them. -/
theorem vectorArithmetic : Obligations.VectorArithmetic := by
  unfold Obligations.VectorArithmetic
  refine ⟨?vadd, ?vsub, ?vmul, ?vfma, ?vmax, ?vmin, ?vabs, ?vneg⟩
  all_goals
    exact VectorCommand.elementwiseF32 ⟨fun _ _ _ => rfl, fun _ _ _ => rfl, fun _ _ _ _ _ => rfl, fun _ _ _ _ _ => rfl⟩
      (by decide) fun _ _ _ => rfl

end Sys2Proof.Machine
end

section
/-! VCMP, VSEL, VIADD and VISUB (R110, R114, R117). -/

namespace Sys2Proof.Machine

open Sys2Proof

/-! The bits of an operand fit its view. -/

/-- Lanes of 32 bits put together. -/
theorem foldl_lanes_lt (w : Nat → W32) (n : Nat) : (List.range n).foldl (fun a i => a + (w i).toNat * 2 ^ (32 * i)) 0 < 2 ^ (32 * n) := by
  induction n with
  | zero => simp
  | succ n ih =>
    rw [List.range_succ, List.foldl_append, List.foldl_cons, List.foldl_nil]
    have hw : (w n).toNat * 2 ^ (32 * n) ≤ (2 ^ 32 - 1) * 2 ^ (32 * n) := Nat.mul_le_mul_right _ (Nat.le_sub_one_of_lt (w n).isLt)
    rw [Nat.mul_succ, Nat.pow_add, Nat.mul_comm (2 ^ (32 * n))]
    omega

theorem VReg.elem_bits_lt (v : VReg) (view : BitVec 2) (r e : Nat) : (v.elem view r e).bits < 2 ^ viewBits view :=
  foldl_lanes_lt (fun i => (SMap.get VEl.zero v.els (64 * r + viewLanes view * e + i)).w) (viewLanes view)

theorem immVal_bits_lt (view : BitVec 2) (imm : W32) : (immVal view imm).bits < 2 ^ viewBits view := by
  unfold immVal
  split
  next hv => subst hv; exact imm.isLt
  next => exact BitVec.isLt _

theorem Core.src_bits_lt (d : Core) (view : BitVec 2) (imm : W32) (f : Src) (r e : Nat) : (d.src view imm f r e).bits < 2 ^ viewBits view := by
  unfold Core.src
  split
  · exact VReg.elem_bits_lt ..
  · exact VReg.elem_bits_lt ..
  · exact VReg.elem_bits_lt ..
  · exact immVal_bits_lt ..

/-- New words with the sticky bits that their register has. -/
theorem Core.refill_own (d : Core) {vd : VRegId} {v : VReg} (hovf : v.ovf = (d.vreg vd).ovf) (hnfin : v.nfin = (d.vreg vd).nfin) :
    d.refill vd v = d.setVreg vd v := by
  rw [Core.refill, ← hovf, ← hnfin]

/-! VCMP and VSEL, in the views of 32 bits. -/

section
variable (d : Core) (c : VecF)

/-- The comparison of VCMP for one element (R117). -/
def vcmpHolds (r e : Nat) : Bool :=
  let a := BitVec.ofNat 32 ((d.src c.view c.imm c.srca r e).word c.view).1
  let b := BitVec.ofNat 32 ((d.src c.view c.imm c.srcb r e).word c.view).1
  if c.view = 0 then cmpF32 c.fn.toNat a b else cmpFn c.fn.toNat a.toInt b.toInt

/-- The bits that VSEL moves for one element (R117). -/
def vselBits (r e : Nat) : Nat := (d.src c.view c.imm (if (d.src 1 c.imm c.srcc r e).bits ≠ 0 then c.srca else c.srcb) r e).bits

variable {c} (hv : c.view = 0 ∨ c.view = 1)
include hv

theorem viewCols_of_narrow : viewCols c.view = 64 := by
  obtain hv | hv := hv <;> rw [hv] <;> rfl

theorem viewBits_of_narrow : viewBits c.view = 32 := by
  obtain hv | hv := hv <;> rw [hv] <;> rfl

theorem effVcmp_eq : effVcmp d c = (d.stickSrcs c.view [c.srca, c.srcb]).refill c.vd
    ((d.vreg c.vd).fill 1 fun r e => ⟨if vcmpHolds d c r e then 1 else 0, 0⟩) := by
  rw [Core.stickSrcs, viewCols_of_narrow hv]
  rfl

theorem effVsel_eq : effVsel d c = (d.stickSrcs c.view []).refill c.vd ((d.vreg c.vd).fill c.view fun r e => ⟨vselBits d c r e, 0⟩) := by
  have hfill : (d.vreg c.vd).fill 1 (fun r e => ⟨vselBits d c r e, 0⟩) = (d.vreg c.vd).fill c.view fun r e => ⟨vselBits d c r e, 0⟩ := by
    obtain hv | hv := hv
    · rw [hv]
      rfl
    · rw [hv]
  rw [← hfill]
  exact (d.refill_own (VReg.fill_ovf ..) (VReg.fill_nfin ..)).symm
end

theorem vcmpHolds_congr {d d' : Core} (h : d.vregs = d'.vregs) : vcmpHolds d = vcmpHolds d' := by
  funext c r e
  rw [vcmpHolds, vcmpHolds, Core.src_congr h]

theorem vselBits_congr {d d' : Core} (h : d.vregs = d'.vregs) : vselBits d = vselBits d' := by
  funext c r e
  rw [vselBits, vselBits, Core.src_congr h]

theorem vectorCommand_vcmp : VectorCommand .vcmp effVcmp :=
  ⟨fun _ _ _ => rfl, fun _ _ _ => rfl, fun _ _ _ _ _ => rfl, fun _ _ _ _ _ => rfl⟩

theorem vectorCommand_vsel : VectorCommand .vsel effVsel :=
  ⟨fun _ _ _ => rfl, fun _ _ _ => rfl, fun _ _ _ _ _ => rfl, fun _ _ _ _ _ => rfl⟩

section
variable {s : State} {k : CoreId} {h : Hdr} {c : VecF} (hv : c.view = 0 ∨ c.view = 1)
include hv

theorem completes_vcmp (hr : Ready s k (.vcmp k h c)) : Completes (.vcmp k h c) s fun t =>
    (∀ r e, r < 64 → e < 64 → t.velem k c.vd 1 r e = ⟨if vcmpHolds (s.core k) c r e then 1 else 0, 0⟩)
      ∧ OnlyCore s t k ∧ SameRegs s t k ∧ VregsBut s t k c.vd c.view [c.srca, c.srcb] ∧ InFlight s t k (.vcmp k h c) .done Post.none := by
  refine .of_refill vectorCommand_vcmp hr (effVcmp_eq · hv) (fun d hd => by rw [vcmpHolds_congr hd])
    fun t hels hcore hregs hvregs hflies => ⟨fun r e hrow hcol => ?_, hcore, hregs, hvregs, hflies⟩
  have hbit : (if vcmpHolds (s.core k) c r e then 1 else 0) < 2 ^ viewBits 1 := by split <;> decide
  rw [State.velem, VReg.elem_congr hels, VReg.elem_fill _ _ _ hrow hcol, Nat.mod_eq_of_lt hbit]
  rfl

theorem completes_vsel (hr : Ready s k (.vsel k h c)) : Completes (.vsel k h c) s fun t =>
    (∀ r e, r < 64 → e < 64 → t.velem k c.vd c.view r e = ⟨vselBits (s.core k) c r e, 0⟩)
      ∧ OnlyCore s t k ∧ SameRegs s t k ∧ VregsBut s t k c.vd c.view [] ∧ InFlight s t k (.vsel k h c) .done Post.none := by
  refine .of_refill vectorCommand_vsel hr (effVsel_eq · hv) (fun d hd => by rw [vselBits_congr hd])
    fun t hels hcore hregs hvregs hflies => ⟨fun r e hrow hcol => ?_, hcore, hregs, hvregs, hflies⟩
  rw [← viewCols_of_narrow hv] at hcol
  have hbits : vselBits (s.core k) c r e < 2 ^ viewBits c.view := Core.src_bits_lt ..
  rw [State.velem, VReg.elem_congr hels, VReg.elem_fill _ _ _ hrow hcol, Nat.mod_eq_of_lt hbits]
  rfl
end

/-! Integers of `w` bits and what adding and reading out make of them (R62, R63, R110). -/

/-- A signed integer of `w` bits. -/
def IsSigned (w : Nat) (n : Int) : Prop := -2 ^ (w - 1) ≤ n ∧ n < 2 ^ (w - 1)

theorem IsSigned.toInt {w : Nat} (x : BitVec w) : IsSigned w x.toInt := ⟨BitVec.le_toInt x, BitVec.toInt_lt⟩

theorem IsSigned.toInt_ofInt {w : Nat} (hw : 0 < w) {n : Int} (hn : IsSigned w n) : (BitVec.ofInt w n).toInt = n :=
  BitVec.toInt_ofInt_eq_self hw hn.1 hn.2

/-- A readout is an integer of the width. -/
theorem IsSigned.tallyReadAt {w : Nat} {n : Int} (hn : IsSigned w n) (wrap : Int) : IsSigned w (tallyReadAt w n wrap).1 := by
  unfold IsSigned at hn ⊢
  have hpos : (0 : Int) < 2 ^ (w - 1) := by positivity
  unfold Machine.tallyReadAt
  generalize (2 : Int) ^ (w - 1) = m at hn hpos ⊢
  split
  next => dsimp only; omega
  next => split <;> dsimp only <;> omega

/-- So is a sum, for an addend that is one or the negative of one: one carry brings it back. -/
theorem IsSigned.tallyAddAt {w : Nat} (hw : 0 < w) {n p : Int} (hn : IsSigned w n) (hp : IsSigned w p ∨ IsSigned w (-p)) (wrap : Int) :
    IsSigned w (tallyAddAt w n wrap p).1 := by
  obtain ⟨w, rfl⟩ := Nat.exists_eq_succ_of_ne_zero hw.ne'
  unfold IsSigned at hn hp ⊢
  unfold Machine.tallyAddAt
  have hpow : (2 : Int) ^ (w + 1) = 2 * 2 ^ w := by rw [pow_succ, mul_comm]
  simp only [Nat.succ_eq_add_one, Nat.add_sub_cancel, hpow] at hn hp ⊢
  generalize (2 : Int) ^ w = m at hn hp ⊢
  split
  next => omega
  next => split <;> omega

theorem viewBits_pos (view : BitVec 2) : 0 < viewBits view := by
  obtain hl | hl | hl := viewLanes_cases view <;> rw [viewBits, hl] <;> decide

/-! VIADD and VISUB. -/

/-- The sum or difference of VIADD and VISUB for one element, with its wrap count (R110). -/
def intSum (d : Core) (c : VecF) (sub : Bool) (r e : Nat) : Int × Int :=
  let a := d.src c.view c.imm c.srca r e
  let b := ((d.src c.view c.imm c.srcb r e).read c.view).1
  tallyAddAt (viewBits c.view) (a.int c.view) a.wrap (if sub then -b else b)

theorem intSum_congr {d d' : Core} (h : d.vregs = d'.vregs) : intSum d = intSum d' := by
  funext c sub r e
  rw [intSum, intSum, Core.src_congr h]

theorem intSum_signed (d : Core) (c : VecF) (sub : Bool) (r e : Nat) : IsSigned (viewBits c.view) (intSum d c sub r e).1 := by
  have hread : IsSigned (viewBits c.view) ((d.src c.view c.imm c.srcb r e).read c.view).1 := (IsSigned.toInt _).tallyReadAt _
  refine IsSigned.tallyAddAt (viewBits_pos _) (IsSigned.toInt _) ?_ _
  cases sub
  · exact .inl hread
  · exact .inr (by rw [if_pos rfl, neg_neg]; exact hread)

theorem effViadd_eq (d : Core) (c : VecF) (sub : Bool) : effViadd d c sub = (d.stickSrcs c.view [c.srcb]).refill c.vd
    ((d.vreg c.vd).fill c.view fun r e => ⟨(BitVec.ofInt (viewBits c.view) (intSum d c sub r e).1).toNat, (intSum d c sub r e).2⟩) := rfl

/-- An element that holds a signed integer of its view reads as it. -/
theorem VVal.int_ofInt {view : BitVec 2} {n : Int} (hn : IsSigned (viewBits view) n) (wrap : Int) :
    VVal.int ⟨(BitVec.ofInt (viewBits view) n).toNat % 2 ^ viewBits view, wrap⟩ view = n := by
  rw [VVal.int, Nat.mod_eq_of_lt (BitVec.isLt _), BitVec.ofNat_toNat, BitVec.setWidth_eq, hn.toInt_ofInt (viewBits_pos _)]

theorem VectorCommand.integerAdd {mk : CoreId → Hdr → VecF → Instr} {sub : Bool} (hm : VectorCommand mk fun d c => effViadd d c sub) :
    IntegerAdd mk sub := by
  intro s k h c hr
  refine .of_refill hm hr (effViadd_eq · c sub) (fun d hd => by rw [intSum_congr hd])
    fun t hels hcore hregs hvregs hflies => ⟨fun r e hrow hcol => ?_, hcore, hregs, hvregs, hflies⟩
  rw [State.velem, VReg.elem_congr hels, VReg.elem_fill _ _ _ hrow hcol]
  exact ⟨VVal.int_ofInt (intSum_signed ..) _, rfl⟩

/-- Settles O4, command by command. -/
theorem vectorSelectsAndIntegerAdds : Obligations.VectorSelectsAndIntegerAdds := by
  unfold Obligations.VectorSelectsAndIntegerAdds
  refine ⟨fun s k h c hv hr => completes_vcmp hv hr, fun s k h c hv hr => completes_vsel hv hr, ?viadd, ?visub⟩
  case viadd => exact VectorCommand.integerAdd ⟨fun _ _ _ => rfl, fun _ _ _ => rfl, fun _ _ _ _ _ => rfl, fun _ _ _ _ _ => rfl⟩
  case visub => exact VectorCommand.integerAdd ⟨fun _ _ _ => rfl, fun _ _ _ => rfl, fun _ _ _ _ _ => rfl, fun _ _ _ _ _ => rfl⟩

end Sys2Proof.Machine
end

section
/-! The transcendental commands (R111, R124-R130). -/

namespace Sys2Proof.Machine

open Sys2Proof

section
variable (d : Core) (c : VecF)

/-- Is a source element of a transcendental command an infinity or a NaN. -/
def transBad : Bool := (List.range 4096).any fun x => ! (d.srcF32 c c.srca (x / 64) (x % 64)).isFin

theorem transBad_iff : transBad d c = true ↔ ∃ r e, r < 64 ∧ e < 64 ∧ (d.srcF32 c c.srca r e).isFin = false := by
  rw [transBad, any_words_iff fun r e => ! (d.srcF32 c c.srca r e).isFin]
  simp only [Bool.not_eq_true']

theorem vecTrans_eq (f : Int → FV → W32) : vecTrans d c f =
    (((d.stickSrcs 0 [c.srca]).refill c.vd ((d.vreg c.vd).fill 0 fun r e => ⟨(f c.se.toInt (d.srcF32 c c.srca r e)).toNat, 0⟩)).stick
      c.vd ⟨false, transBad d c⟩).count 0x32 4096 := rfl

theorem vecTrans_rest (f : Int → FV → W32) : (vecTrans d c f).VregsOf d := by
  rw [vecTrans_eq]
  exact (((d.vregsOf_refl.stickSrcs ..).refill ..).stick ..).count ..

/-- The registers after a transcendental command: VD has its words, and its NFIN rises. -/
theorem vecTrans_vreg (f : Int → FV → W32) (v : VRegId) :
    ((vecTrans d c f).vreg v).els = (if v = c.vd then
        ((d.vreg c.vd).fill 0 fun r e => ⟨(f c.se.toInt (d.srcF32 c c.srca r e)).toNat, 0⟩).els else (d.vreg v).els)
      ∧ ((vecTrans d c f).vreg v).nfin = ((d.vreg v).nfin || (decide (v = c.vd) && transBad d c)) := by
  rw [vecTrans_eq, Core.vreg_congr (Core.count_vregs ..)]
  refine ⟨?_, ?_⟩
  · rw [(Core.stick_spec ..).1, (Core.refill_spec ..).1, (Core.stickSrcs_spec ..).1]
  · rw [(Core.stick_spec ..).2.2, (Core.refill_spec ..).2.2, (Core.stickSrcs_spec ..).2.2]
end

/-- A command of the vector engine that answers `vecTrans` gives its function of each element. -/
theorem VectorCommand.transcendental {mk : CoreId → Hdr → VecF → Instr} {f : Int → FV → W32}
    (hm : VectorCommand mk fun d c => vecTrans d c f) : Transcendental mk f := by
  intro s k h c hr
  refine .of_vectorCommand hm hr (vecTrans_rest · c f) fun t d hd ht hcore hregs _ => ?_
  have hvreg : ∀ v, _ := vecTrans_vreg d c f
  rw [transBad, Core.srcF32_congr hd, Core.vreg_congr hd, ← transBad] at hvreg
  refine ⟨fun r e hrow hcol => ?_, hcore, hregs, fun v hv => ?_, ?_⟩
  · exact State.velem_of_fill (f := fun r e => f c.se.toInt ((s.core k).srcF32 c c.srca r e))
      (by rw [ht, (hvreg _).1, if_pos rfl]) le_rfl hrow hcol
  · obtain ⟨hels, hnfin⟩ := hvreg v
    rw [ht, hels, hnfin, if_neg hv, decide_eq_false hv, Bool.false_and, Bool.or_false]
    exact ⟨rfl, rfl⟩
  · rw [ht, (hvreg _).2, decide_eq_true rfl, Bool.true_and, Bool.or_eq_true, transBad_iff]
    rfl

/-- VRCP of a number that is not zero is a quotient rounded once; zeros, infinities and NaNs have words of their own (R128, R130). -/
theorem vrcp_spec (se : Int) (sg : Bool) {a : ℚ} (ha : 0 < a) :
    vrcp se (.fin sg a) = toF32 (.fin sg (pow2 se / a)) ∧ vrcp se (.fin sg 0) = inf32 sg
      ∧ vrcp se (.inf sg) = (if sg then 0x80000000#32 else 0) ∧ vrcp se .nan = nan32 :=
  ⟨if_neg ha.ne', by rw [vrcp, if_pos rfl], rfl, rfl⟩

/-- Settles O6: each command answers `vecTrans` with its own function; VRCP by the cases of its element. -/
theorem transcendentalCommands : Obligations.TranscendentalCommands := by
  unfold Obligations.TranscendentalCommands
  refine ⟨⟨?vexp2, ?vlog2, ?vrcp, ?vrsqrt, ?vtanh, ?verf⟩, fun se sg a ha => vrcp_spec se sg ha⟩
  all_goals exact VectorCommand.transcendental ⟨fun _ _ _ => rfl, fun _ _ _ => rfl, fun _ _ _ _ _ => rfl, fun _ _ _ _ _ => rfl⟩

end Sys2Proof.Machine
end

section
/-! Reductions: the groups of an axis, and a register that takes one element of each group (R109, R110, R119). -/

namespace Sys2Proof.Machine

open Sys2Proof

/-! The lanes of an element. -/

/-- Lanes that hold a value and its wrap byte read as it, cut to the view's width. -/
theorem VReg.elem_of_lanes {v : VReg} {view : BitVec 2} {r e : Nat} {x : VVal}
    (h : ∀ i, i < viewLanes view → SMap.get VEl.zero v.els (64 * r + viewLanes view * e + i) =
      VEl.mk (BitVec.ofNat 32 (x.bits / 2 ^ (32 * i))) (if i = 0 then BitVec.ofInt 8 x.wrap else 0)) :
    v.elem view r e = ⟨x.bits % 2 ^ viewBits view, (BitVec.ofInt 8 x.wrap).toInt⟩ := by
  have hpos : 0 < viewLanes view := by obtain h | h | h := viewLanes_cases view <;> omega
  unfold VReg.elem
  dsimp only
  rw [List.foldl_ext _ (fun a i => a + (BitVec.ofNat 32 (x.bits / 2 ^ (32 * i))).toNat * 2 ^ (32 * i)) 0
      fun a i hi => by rw [h i (List.mem_range.mp hi)],
    foldl_lanes, h 0 hpos, if_pos rfl, viewBits]

/-- An element lies in its lanes. -/
theorem VReg.elem_eq_of_lanes {v w : VReg} {view : BitVec 2} {r e : Nat} (h : ∀ i, i < viewLanes view →
    SMap.get VEl.zero v.els (64 * r + viewLanes view * e + i) = SMap.get VEl.zero w.els (64 * r + viewLanes view * e + i)) :
    v.elem view r e = w.elem view r e := by
  have hpos : 0 < viewLanes view := by obtain h | h | h := viewLanes_cases view <;> omega
  unfold VReg.elem
  dsimp only
  rw [List.foldl_ext _ (fun a i => a + (SMap.get VEl.zero w.els (64 * r + viewLanes view * e + i)).w.toNat * 2 ^ (32 * i)) 0
      fun a i hi => by rw [h i (List.mem_range.mp hi)], h 0 hpos]

theorem SMap.get_foldl_set {α : Type} [DecidableEq α] (z : α) (m : SMap α) (b n : Nat) (f : Nat → α) (j : Nat) :
    SMap.get z ((List.range n).foldl (fun m i => SMap.set z m (b + i) (f i)) m) j =
      if b ≤ j ∧ j < b + n then f (j - b) else SMap.get z m j := by
  induction n with
  | zero => rw [if_neg (by omega)]; rfl
  | succ n ih =>
    rw [List.range_succ, List.foldl_append, List.foldl_cons, List.foldl_nil, SMap.get_set, ih]
    by_cases hj : j = b + n
    · rw [if_pos hj, if_pos (by omega), hj, Nat.add_sub_cancel_left]
    · rw [if_neg hj]
      exact if_congr (by omega) rfl rfl

/-- The words of a register with one element put. -/
theorem VReg.get_put (v : VReg) (view : BitVec 2) (r e : Nat) (x : VVal) (j : Nat) :
    SMap.get VEl.zero (v.put view r e x).els j =
      if 64 * r + viewLanes view * e ≤ j ∧ j < 64 * r + viewLanes view * e + viewLanes view then
        VEl.mk (BitVec.ofNat 32 (x.bits / 2 ^ (32 * (j - (64 * r + viewLanes view * e)))))
          (if j - (64 * r + viewLanes view * e) = 0 then BitVec.ofInt 8 x.wrap else 0)
      else SMap.get VEl.zero v.els j :=
  SMap.get_foldl_set VEl.zero v.els (64 * r + viewLanes view * e) (viewLanes view) (fun i =>
    VEl.mk (BitVec.ofNat 32 (x.bits / 2 ^ (32 * i))) (if i = 0 then BitVec.ofInt 8 x.wrap else 0)) j

theorem VReg.elem_put_self (v : VReg) (view : BitVec 2) (r e : Nat) (x : VVal) :
    (v.put view r e x).elem view r e = ⟨x.bits % 2 ^ viewBits view, (BitVec.ofInt 8 x.wrap).toInt⟩ :=
  VReg.elem_of_lanes fun i hi => by rw [VReg.get_put, if_pos (by omega), Nat.add_sub_cancel_left]

/-- An element put leaves the elements at other places as they are. -/
theorem VReg.elem_put_other (v : VReg) (view : BitVec 2) {r e r' e' : Nat} (x : VVal) (he : e < viewCols view) (he' : e' < viewCols view)
    (hne : (r, e) ≠ (r', e')) : (v.put view r e x).elem view r' e' = v.elem view r' e' := by
  refine VReg.elem_eq_of_lanes fun i hi => ?_
  have hne : r ≠ r' ∨ e ≠ e' := by
    rw [← not_and_or]
    rintro ⟨rfl, rfl⟩
    exact hne rfl
  rw [VReg.get_put, if_neg]
  unfold viewCols at he he'
  obtain hl | hl | hl := viewLanes_cases view <;> rw [hl] at he he' hi ⊢ <;> omega

/-! One element after another put into a register. -/

/-- A register that takes, for each group, an element made of the group's members. -/
def VReg.putAll {α : Type} (v : VReg) (view : BitVec 2) (gs : List ((Nat × Nat) × α)) (x : α → VVal) : VReg :=
  gs.foldl (fun v g => v.put view g.1.1 g.1.2 (x g.2)) v

section
variable {α : Type} (view : BitVec 2) {gs : List ((Nat × Nat) × α)} (x : α → VVal)

theorem VReg.putAll_sticky (v : VReg) : (v.putAll view gs x).ovf = v.ovf ∧ (v.putAll view gs x).nfin = v.nfin := by
  induction gs generalizing v with
  | nil => exact ⟨rfl, rfl⟩
  | cons g gs ih => exact ih (v.put view g.1.1 g.1.2 (x g.2))

variable {view} (hcol : ∀ g ∈ gs, g.1.2 < viewCols view)
include hcol

theorem VReg.elem_putAll_other {r e : Nat} (he : e < viewCols view) (hne : ∀ g ∈ gs, g.1 ≠ (r, e)) (v : VReg) :
    (v.putAll view gs x).elem view r e = v.elem view r e := by
  induction gs generalizing v with
  | nil => rfl
  | cons g gs ih =>
    obtain ⟨hg, hgs⟩ := List.forall_mem_cons.mp hcol
    obtain ⟨hneg, hnegs⟩ := List.forall_mem_cons.mp hne
    exact (ih hgs hnegs _).trans (v.elem_put_other view (x g.2) hg he hneg)

theorem VReg.elem_putAll (hnodup : (gs.map (·.1)).Nodup) {g : (Nat × Nat) × α} (hg : g ∈ gs) (v : VReg) :
    (v.putAll view gs x).elem view g.1.1 g.1.2 = ⟨(x g.2).bits % 2 ^ viewBits view, (BitVec.ofInt 8 (x g.2).wrap).toInt⟩ := by
  induction gs generalizing v with
  | nil => exact absurd hg List.not_mem_nil
  | cons a gs ih =>
    obtain ⟨ha, hgs⟩ := List.forall_mem_cons.mp hcol
    rw [List.map_cons, List.nodup_cons] at hnodup
    obtain rfl | hg := List.mem_cons.mp hg
    · have hne : ∀ b ∈ gs, b.1 ≠ (g.1.1, g.1.2) := fun b hb heq => hnodup.1 (List.mem_map.mpr ⟨b, hb, heq⟩)
      exact (VReg.elem_putAll_other x hgs ha hne _).trans (v.elem_put_self view g.1.1 g.1.2 (x g.2))
    · exact ih hgs hnodup.2 hg _
end

/-! The groups of an axis. -/

theorem viewCols_le (view : BitVec 2) : 0 < viewCols view ∧ viewCols view ≤ 64 := by
  unfold viewCols
  obtain hl | hl | hl := viewLanes_cases view <;> rw [hl] <;> decide

theorem axis_cases (axis : BitVec 2) : axis = 0 ∨ axis = 1 ∨ axis = 2 ∨ axis = 3 := by
  revert axis
  decide

section
variable (view axis : BitVec 2) (nm1 : Nat)

theorem redGroups_rows : redGroups view 0 nm1 = (List.range 64).map fun r => ((r, 0), (List.range (viewCols view)).map fun e => (r, e)) := rfl

theorem redGroups_columns : redGroups view 1 nm1 = (List.range (viewCols view)).map fun e => ((0, e), (List.range 64).map fun r => (r, e)) := rfl

/-- Each group has a place of its own. -/
theorem redGroups_nodup : ((redGroups view axis nm1).map (·.1)).Nodup := by
  obtain rfl | rfl | rfl | rfl := axis_cases axis
  case inl =>
    rw [redGroups_rows, List.map_map]
    exact List.nodup_range.map fun a b h => (Prod.mk.inj h).1
  case inr.inl =>
    rw [redGroups_columns, List.map_map]
    exact List.nodup_range.map fun a b h => (Prod.mk.inj h).2
  all_goals exact List.nodup_singleton _

/-- Each group has a lane of its own. -/
theorem redGroups_lanes_nodup : ((redGroups view axis nm1).map fun g => redLane axis g.1).Nodup := by
  obtain rfl | rfl | rfl | rfl := axis_cases axis
  case inl =>
    rw [redGroups_rows, List.map_map]
    exact List.nodup_range.map fun a b h => h
  case inr.inl =>
    rw [redGroups_columns, List.map_map]
    exact List.nodup_range.map fun a b h => h
  all_goals exact List.nodup_singleton _

/-- The places of the groups lie in the register's rows. -/
theorem redGroups_col : ∀ g ∈ redGroups view axis nm1, g.1.2 < viewCols view := by
  have hcols := viewCols_le view
  obtain rfl | rfl | rfl | rfl := axis_cases axis
  case inl => exact List.forall_mem_map.mpr fun _ _ => hcols.1
  case inr.inl => exact List.forall_mem_map.mpr fun _ he => List.mem_range.mp he
  all_goals exact List.forall_mem_singleton.mpr hcols.1

/-- No group has more than 4,096 elements. -/
theorem redGroups_length (hn : nm1 < 4096) : ∀ g ∈ redGroups view axis nm1, g.2.length ≤ 4096 := by
  have hcols := viewCols_le view
  obtain rfl | rfl | rfl | rfl := axis_cases axis
  case inl => exact List.forall_mem_map.mpr fun _ _ => by rw [List.length_map, List.length_range]; omega
  case inr.inl => exact List.forall_mem_map.mpr fun _ _ => by rw [List.length_map, List.length_range]; omega
  all_goals exact List.forall_mem_singleton.mpr (by rw [List.length_map, List.length_range]; omega)
end

/-! The core after a reduction. -/

section
variable (d : Core) (view : BitVec 2) (c : VecF)

/-- Does an element that a reduction reads saturate (R110). -/
def redSat : Bool :=
  if c.axis = 3 then decide (c.srca.kind ≠ 3)
    && (redGroups view c.axis c.nm1.toNat).any fun g => g.2.any fun p => decide ((d.src view c.imm c.srca p.1 p.2).wrap ≠ 0)
  else d.srcSat view c.srca 64 (viewCols view)

theorem Core.stickRed_eq : d.stickRed view c = if redSat d view c then d.stick c.srca.reg .mkOvf else d := by
  unfold Core.stickRed redSat
  by_cases haxis : c.axis = 3
  · rw [if_neg (not_not.mpr haxis), if_pos haxis]
    simp only [Bool.and_eq_true, decide_eq_true_iff]
  · rw [if_pos haxis, if_neg haxis]
    rfl

theorem Core.stickRed_vregsOf : (d.stickRed view c).VregsOf d := by
  rw [Core.stickRed_eq]
  split
  · exact d.vregsOf_refl.stick ..
  · exact d.vregsOf_refl

theorem Core.stickRed_spec (v : VRegId) : ((d.stickRed view c).vreg v).els = (d.vreg v).els
    ∧ ((d.stickRed view c).vreg v).ovf = ((d.vreg v).ovf || (decide (c.srca.reg = v) && redSat d view c))
    ∧ ((d.stickRed view c).vreg v).nfin = (d.vreg v).nfin := by
  rw [Core.stickRed_eq]
  cases redSat d view c
  · simp
  · obtain ⟨hels, hovf, hnfin⟩ := d.stick_spec c.srca.reg v .mkOvf
    rw [if_pos rfl]
    refine ⟨hels, hovf.trans ?_, hnfin.trans ?_⟩
    · simp [Fl.mkOvf, eq_comm (a := v)]
    · simp [Fl.mkOvf]

/-- The core whose register VD has taken the element `x` of each group. -/
def Core.redOut (x : List (Nat × Nat) → VVal) : Core :=
  (d.stickRed view c).setVreg c.vd (((d.stickRed view c).vreg c.vd).putAll view (redGroups view c.axis c.nm1.toNat) x)

variable (x : List (Nat × Nat) → VVal)

theorem Core.redOut_vregsOf : (d.redOut view c x).VregsOf d := (d.stickRed_vregsOf view c).setVreg ..

theorem Core.redOut_elem {g : (Nat × Nat) × List (Nat × Nat)} (hg : g ∈ redGroups view c.axis c.nm1.toNat) :
    ((d.redOut view c x).vreg c.vd).elem view g.1.1 g.1.2 = ⟨(x g.2).bits % 2 ^ viewBits view, (BitVec.ofInt 8 (x g.2).wrap).toInt⟩ := by
  rw [Core.redOut, Core.vreg_setVreg, if_pos rfl, VReg.elem_putAll x (redGroups_col view c.axis c.nm1.toNat) (redGroups_nodup ..) hg]

theorem Core.redOut_elem_other {r e : Nat} (he : e < viewCols view) (hne : ∀ g ∈ redGroups view c.axis c.nm1.toNat, g.1 ≠ (r, e)) :
    ((d.redOut view c x).vreg c.vd).elem view r e = (d.vreg c.vd).elem view r e := by
  rw [Core.redOut, Core.vreg_setVreg, if_pos rfl, VReg.elem_putAll_other x (redGroups_col view c.axis c.nm1.toNat) he hne,
    VReg.elem_congr (Core.stickRed_spec ..).1]

theorem Core.redOut_els_other {v : VRegId} (hv : v ≠ c.vd) : ((d.redOut view c x).vreg v).els = (d.vreg v).els := by
  rw [Core.redOut, Core.vreg_setVreg, if_neg hv, (Core.stickRed_spec ..).1]

theorem Core.redOut_sticky (v : VRegId) :
    ((d.redOut view c x).vreg v).ovf = ((d.vreg v).ovf || (decide (c.srca.reg = v) && redSat d view c))
      ∧ ((d.redOut view c x).vreg v).nfin = (d.vreg v).nfin := by
  obtain ⟨-, hovf, hnfin⟩ := d.stickRed_spec view c v
  rw [Core.redOut, Core.vreg_setVreg]
  split
  next hv =>
    subst hv
    exact ⟨(VReg.putAll_sticky ..).1.trans hovf, (VReg.putAll_sticky ..).2.trans hnfin⟩
  next => exact ⟨hovf, hnfin⟩
end

/-- Whether an element that a reduction reads saturates lies in the tile registers. -/
theorem redSat_congr {d d' : Core} (h : d.vregs = d'.vregs) : redSat d = redSat d' := by
  funext view c
  rw [redSat, redSat, Core.src_congr h, Core.srcSat_congr h]

/-- A word that a reduction reads, as it is read out in the view (R110). -/
def redWord (d : Core) (view : BitVec 2) (c : VecF) (p : Nat × Nat) : W32 :=
  BitVec.ofNat 32 ((d.src view c.imm c.srca p.1 p.2).word view).1

theorem redWord_congr {d d' : Core} (h : d.vregs = d'.vregs) : redWord d = redWord d' := by
  funext view c p
  rw [redWord, redWord, Core.src_congr h]

/-- The element of a group that holds one word. -/
theorem Core.redOut_word (d : Core) (view : BitVec 2) (c : VecF) (w : List (Nat × Nat) → W32) {g : (Nat × Nat) × List (Nat × Nat)}
    (hg : g ∈ redGroups view c.axis c.nm1.toNat) :
    ((d.redOut view c fun ps => ⟨(w ps).toNat, 0⟩).vreg c.vd).elem view g.1.1 g.1.2 = ⟨(w g.2).toNat, 0⟩ := by
  have hbits : (w g.2).toNat < 2 ^ viewBits view :=
    lt_of_lt_of_le (w g.2).isLt (Nat.pow_le_pow_right (by decide) (by obtain hl | hl | hl := viewLanes_cases view <;> rw [viewBits, hl] <;> decide))
  rw [Core.redOut_elem d view c _ hg, Nat.mod_eq_of_lt hbits]
  rfl

end Sys2Proof.Machine
end

section
/-! VRMAX and VRMIN (R110, R119). -/

namespace Sys2Proof.Machine

open Sys2Proof

/-- The extreme of a group, by the function of two words that gives it (R119). -/
def extBest (d : Core) (c : VecF) (f : W32 → W32 → W32) : List (Nat × Nat) → W32
  | [] => 0
  | p :: ps => (ps.map (redWord d 0 c)).foldl f (f (redWord d 0 c p) (redWord d 0 c p))

/-- The word of a group's extreme, scaled and rounded once (R115). -/
def extWord (d : Core) (c : VecF) (f : W32 → W32 → W32) (ps : List (Nat × Nat)) : W32 := onceF32 c (f32 (extBest d c f ps))

theorem extWord_congr {d d' : Core} (h : d.vregs = d'.vregs) : extWord d = extWord d' := by
  funext c f ps
  cases ps <;> simp only [extWord, extBest, redWord_congr h]

theorem effVrext_eq (d : Core) (c : VecF) (f : W32 → W32 → W32) :
    effVrext d c f = d.redOut 0 c fun ps => ⟨(extWord d c f ps).toNat, 0⟩ := by
  have hbest : ∀ ps : List (Nat × Nat), extBest d c f ps = (match ps with
      | [] => 0
      | p :: qs => qs.foldl (fun a q => f a (redWord d 0 c q)) (f (redWord d 0 c p) (redWord d 0 c p))) := fun ps => by
    cases ps with
    | nil => rfl
    | cons p ps => rw [extBest, List.foldl_map]
  simp only [extWord, hbest]
  rfl

theorem VectorCommand.extreme {mk : CoreId → Hdr → VecF → Instr} {f : W32 → W32 → W32} (hm : VectorCommand mk fun d c => effVrext d c f) :
    Extreme mk f := by
  intro s k h c hr word
  refine .of_vectorCommand hm hr (fun d => ?_) fun t d hd ht hcore hregs _ => ?_
  · rw [effVrext_eq]
    exact Core.redOut_vregsOf ..
  · simp only [effVrext_eq, extWord_congr hd] at ht
    have hsticky := fun v => d.redOut_sticky 0 c (fun ps => ⟨(extWord (s.core k) c f ps).toNat, 0⟩) v
    rw [redSat_congr hd, Core.vreg_congr hd] at hsticky
    refine ⟨fun g hg p ps hps => ?_, fun r e hrow hcol hne => ?_, hcore, hregs, fun v hv => ?_, fun v => ?_, fun v => ?_⟩
    · rw [State.velem, ht, Core.redOut_word _ _ _ _ hg, hps]
      rfl
    · rw [State.velem, State.velem, ht, Core.redOut_elem_other _ _ _ _ hcol hne, Core.vreg_congr hd]
    · rw [ht, Core.redOut_els_other _ _ _ _ hv, Core.vreg_congr hd]
    · rw [ht, (hsticky v).2]
    · rw [ht, (hsticky v).1]
      rfl

theorem extreme_vrmax : Extreme .vrmax fmax :=
  VectorCommand.extreme ⟨fun _ _ _ => rfl, fun _ _ _ => rfl, fun _ _ _ _ _ => rfl, fun _ _ _ _ _ => rfl⟩

theorem extreme_vrmin : Extreme .vrmin fmin :=
  VectorCommand.extreme ⟨fun _ _ _ => rfl, fun _ _ _ => rfl, fun _ _ _ _ _ => rfl, fun _ _ _ _ _ => rfl⟩

end Sys2Proof.Machine
end

section
/-! VRSUM in its three forms (R66, R70, R110, R119, R120). -/

namespace Sys2Proof.Machine

open Sys2Proof

/-! Sums in Long Tally registers (R66). -/

/-- A group's finite values added one by one, each with the weight of an FP32 addend (R66, R119). -/
def ltSum (n : Nat) (vs : List FV) (l : LtEl) : LtEl := vs.foldl (fun l v => if v.isFin then l.add (ltUnits v.toRat) wtF32 n else l) l

/-- While the weight is in bound, the word takes the exact sum. -/
theorem ltSum_w (n : Nat) (vs : List FV) (l : LtEl) (h : l.weight + vs.length ≤ 2 ^ 42) :
    (ltSum n vs l).w = l.w + BitVec.ofInt 320 (exactUnits vs) := by
  induction vs generalizing l with
  | nil => simp [ltSum, exactUnits]
  | cons v vs ih =>
    rw [List.length_cons] at h
    have hsum : exactUnits (v :: vs) = (if v.isFin then ltUnits v.toRat else 0) + exactUnits vs := by
      rw [exactUnits, List.map_cons, List.sum_cons, exactUnits]
    have hstep : ltSum n (v :: vs) l = ltSum n vs (if v.isFin then l.add (ltUnits v.toRat) wtF32 n else l) := rfl
    rw [hstep, hsum]
    split
    next =>
      have hadd : l.add (ltUnits v.toRat) wtF32 n = ⟨l.w + BitVec.ofInt 320 (ltUnits v.toRat), l.weight + wtF32⟩ :=
        LtEl.add_of_le (by rw [wtF32]; omega)
      rw [hadd, ih _ (by rw [wtF32]; dsimp only; omega), BitVec.ofInt_add, BitVec.add_assoc]
    next => rw [ih _ (by omega), zero_add]

/-- A core whose Long Tally register `q` takes, in the lane of each group, a word made of the group's members. -/
def Core.setLts (d : Core) (lane : Nat × Nat → Nat) (q : Nat) (gs : List ((Nat × Nat) × List (Nat × Nat)))
    (x : List (Nat × Nat) → LtEl) : Core := gs.foldl (fun d g => d.setLt (lane g.1) q (x g.2)) d

section
variable (lane : Nat × Nat → Nat) {q : Nat} {gs : List ((Nat × Nat) × List (Nat × Nat))} (x : List (Nat × Nat) → LtEl)

theorem Core.setLts_vregs (d : Core) : (d.setLts lane q gs x).vregs = d.vregs := by
  induction gs generalizing d with
  | nil => rfl
  | cons g gs ih => exact ih (d.setLt (lane g.1) q (x g.2))

variable (hq : q < 4)
include hq

theorem Core.ltReg_setLts_other {l : Nat} (hne : ∀ g ∈ gs, lane g.1 ≠ l) (d : Core) : (d.setLts lane q gs x).ltReg l q = d.ltReg l q := by
  induction gs generalizing d with
  | nil => rfl
  | cons g gs ih =>
    obtain ⟨hg, hgs⟩ := List.forall_mem_cons.mp hne
    exact (ih hgs _).trans ((Core.ltReg_setLt_lane d _ _ _ hq hq).trans (if_neg fun h => hg h.2.symm))

theorem Core.ltReg_setLts (hnodup : (gs.map fun g => lane g.1).Nodup) {g : (Nat × Nat) × List (Nat × Nat)} (hg : g ∈ gs) (d : Core) :
    (d.setLts lane q gs x).ltReg (lane g.1) q = x g.2 := by
  induction gs generalizing d with
  | nil => exact absurd hg List.not_mem_nil
  | cons a gs ih =>
    rw [List.map_cons, List.nodup_cons] at hnodup
    obtain rfl | hg := List.mem_cons.mp hg
    · have hne : ∀ b ∈ gs, lane b.1 ≠ lane g.1 := fun b hb heq => hnodup.1 (List.mem_map.mpr ⟨b, hb, heq⟩)
      exact (Core.ltReg_setLts_other lane x hq hne _).trans ((Core.ltReg_setLt_lane d _ _ _ hq hq).trans (if_pos ⟨rfl, rfl⟩))
    · exact ih hnodup.2 hg _
end

/-- NFIN of a source's register leaves the words of every register. -/
theorem Core.stickNfin_els (d : Core) (f : Src) (bad : Bool) (v : VRegId) : ((d.stickNfin f bad).vreg v).els = (d.vreg v).els := by
  unfold Core.stickNfin
  split
  · rfl
  · exact (Core.stick_spec ..).1

theorem Core.VregsOf.stickNfin {c d : Core} (h : c.VregsOf d) (f : Src) (bad : Bool) : (c.stickNfin f bad).VregsOf d := by
  unfold Core.stickNfin
  split
  · exact h
  · exact h.stick ..

/-! The core that each form answers. -/

/-- The raw sum of a group, added to no earlier one. -/
def rawSum (d : Core) (c : VecF) (n : Nat) (ps : List (Nat × Nat)) : LtEl :=
  ltSum n (ps.map fun p => f32 (redWord d c.view c p)) LtEl.zero

/-- The sum of a group of integers with its wrap count (R110). -/
def groupSum (d : Core) (c : VecF) (ps : List (Nat × Nat)) : Int × Int :=
  (ps.map fun p => ((d.src c.view c.imm c.srca p.1 p.2).read c.view).1).foldl
    (fun a b => tallyAddAt (viewBits c.view) a.1 a.2 b) (0, 0)

/-- The sum of a group by COMP (R70, R120). -/
def groupComp (d : Core) (c : VecF) (ps : List (Nat × Nat)) : W32 :=
  if c.axis = 1 then compCol (ps.map (redWord d c.view c)) c.se.toInt else compSum (ps.map (redWord d c.view c)) c.se.toInt

section
variable (d : Core) (c : VecF) (n : Nat)

theorem effVrsum_comp (ha : c.acc = 2) (hv : c.view = 0) : ∃ bad, effVrsum d c n =
    some ((d.redOut c.view c fun ps => ⟨(groupComp d c ps).toNat, 0⟩).stickNfin c.srca bad) := by
  unfold effVrsum
  rw [if_pos ha, if_neg (not_not.mpr hv)]
  simp only [groupComp, hv]
  exact ⟨_, rfl⟩

theorem effVrsum_int (ha : c.acc = 0) (hv : c.view ≠ 0) : effVrsum d c n =
    some (d.redOut c.view c fun ps => ⟨(BitVec.ofInt (viewBits c.view) (groupSum d c ps).1).toNat, (groupSum d c ps).2⟩) := by
  unfold effVrsum
  rw [ha, if_neg (by decide), if_neg (by decide), if_neg hv]
  simp only [groupSum, List.foldl_map]
  rfl

theorem effVrsum_raw (ha : c.acc = 0) (hv : c.view = 0) : ∃ bad sat m, effVrsum d c n =
    some (((((d.redOut c.view c fun ps => ⟨(ltToF32 (rawSum d c n ps).w c.se.toInt).1.toNat, 0⟩).setLts (redLane c.axis) c.ltr.val
      (redGroups c.view c.axis c.nm1.toNat) (rawSum d c n)).stickNfin c.srca bad).stick c.vd ⟨sat, false⟩).count 0x31 m) := by
  have hfold : ∀ vs : List FV, vs.zipIdx.foldl
      (fun (l : LtEl) v => if v.1.isFin then l.add (ltUnits v.1.toRat) wtF32 n else l) LtEl.zero = ltSum n vs LtEl.zero := fun vs => by
    rw [ltSum, ← List.foldl_map (f := Prod.fst) (g := fun (l : LtEl) (v : FV) => if v.isFin then l.add (ltUnits v.toRat) wtF32 n else l),
      List.zipIdx_map_fst]
  have hraw : rawSum d c n = fun ps => ltSum n (ps.map fun p => f32 (redWord d 0 c p)) LtEl.zero := by
    funext ps
    rw [rawSum, hv]
  unfold effVrsum
  rw [ha, if_neg (by decide), if_neg (by decide), if_pos hv]
  dsimp only
  simp only [hfold, List.foldl_map, hraw, hv]
  exact ⟨_, _, _, rfl⟩

/-- The raw sum of a group is exact: its weight is its number of elements (R66, R119). -/
theorem rawSum_w {g : (Nat × Nat) × List (Nat × Nat)} (hg : g ∈ redGroups c.view c.axis c.nm1.toNat) :
    (rawSum d c n g.2).w = BitVec.ofInt 320 (exactUnits (g.2.map fun p => f32 (redWord d c.view c p))) := by
  have hlen := redGroups_length c.view c.axis c.nm1.toNat c.nm1.isLt g hg
  have hzero : LtEl.zero.w = 0#320 ∧ LtEl.zero.weight = 0 := ⟨rfl, rfl⟩
  rw [rawSum, ltSum_w _ _ _ (by rw [hzero.2, List.length_map]; omega), hzero.1, BitVec.zero_add]

/-- The sum of a group of integers is one of the view's width. -/
theorem groupSum_signed (ps : List (Nat × Nat)) : IsSigned (viewBits c.view) (groupSum d c ps).1 := by
  have hfold : ∀ (bs : List Int) (a : Int × Int), (∀ b ∈ bs, IsSigned (viewBits c.view) b) → IsSigned (viewBits c.view) a.1 →
      IsSigned (viewBits c.view) (bs.foldl (fun a b => tallyAddAt (viewBits c.view) a.1 a.2 b) a).1 := by
    intro bs
    induction bs with
    | nil => exact fun a _ ha => ha
    | cons b bs ih =>
      intro a hbs ha
      obtain ⟨hb, hbs⟩ := List.forall_mem_cons.mp hbs
      exact ih _ hbs (ha.tallyAddAt (viewBits_pos _) (.inl hb) _)
  refine hfold _ _ (List.forall_mem_map.mpr fun p _ => (IsSigned.toInt _).tallyReadAt _) ?_
  have hpos : (0 : Int) < 2 ^ (viewBits c.view - 1) := by positivity
  exact ⟨by dsimp only; omega, hpos⟩
end

section
variable {d d' : Core} (h : d.vregs = d'.vregs)
include h

theorem rawSum_congr : rawSum d = rawSum d' := by
  funext c n ps
  rw [rawSum, rawSum, redWord_congr h]

theorem groupSum_congr : groupSum d = groupSum d' := by
  funext c ps
  rw [groupSum, groupSum, Core.src_congr h]

theorem groupComp_congr : groupComp d = groupComp d' := by
  funext c ps
  rw [groupComp, groupComp, redWord_congr h]
end

/-! The command. -/

section
variable {s : State} {k : CoreId} {h : Hdr} {c : VecF} (hr : Ready s k (.vrsum k h c))
include hr

/-- A ready VRSUM completes with what holds of every state that has the registers of its engine's answer, and keeps memory. -/
theorem Completes.of_vrsum {d : Core} {P : State → Prop} (heff : effVrsum ((s.seen k (.vrsum k h c)).core k) c s.free = some d)
    (hP : ∀ t, (∀ v, (t.core k).vreg v = d.vreg v) → (t.core k).lt = d.lt → t.mem = s.mem → OnlyCoreMem s t k → P t) :
    Completes (.vrsum k h c) s P := by
  have hfree : (s.seen k (.vrsum k h c)).free = s.free := rfl
  have hdone : effect (s.seen k (.vrsum k h c)) k ((s.core k).entryOf (.vrsum k h c)) =
      vecDone ((s.seen k (.vrsum k h c)).withFree ((s.seen k (.vrsum k h c)).free + 1)) k
        (effVrsum ((s.seen k (.vrsum k h c)).core k) c (s.seen k (.vrsum k h c)).free) := rfl
  rw [hfree, heff, vecDone, Option.map_some] at hdone
  refine .of_effect rfl (.inr rfl) hr hdone (hP _ (fun v => ?_) ?_ ?_ ?_)
  · rw [State.ran_vreg, State.core_setCore_self]
  · rw [State.ran_lt, State.core_setCore_self]
  · rw [State.ran_mem]
    rfl
  · exact (((OnlyCoreMem.seen s k _).withFree _).modCore fun _ => _).ran _ _

/-- VRSUM into LT320 (R119). -/
theorem completes_vrsum_raw (ha : c.acc = 0) (hv : c.view = 0) : Completes (.vrsum k h c) s fun t =>
    (∀ g ∈ redGroups c.view c.axis c.nm1.toNat,
        (t.core k).ltReg (redLane c.axis g.1) c.ltr.val = rawSum (s.core k) c s.free g.2
        ∧ t.velem k c.vd 0 g.1.1 g.1.2 = ⟨(ltToF32 (rawSum (s.core k) c s.free g.2).w c.se.toInt).1.toNat, 0⟩)
      ∧ (∀ r e, r < 64 → e < 64 → (∀ g ∈ redGroups c.view c.axis c.nm1.toNat, g.1 ≠ (r, e)) →
          t.velem k c.vd 0 r e = s.velem k c.vd 0 r e)
      ∧ (∀ v, v ≠ c.vd → ((t.core k).vreg v).els = ((s.core k).vreg v).els)
      ∧ t.mem = s.mem ∧ OnlyCoreMem s t k := by
  have hd := State.seen_vregs s k (.vrsum k h c)
  obtain ⟨bad, sat, m, heff⟩ := effVrsum_raw ((s.seen k (.vrsum k h c)).core k) c s.free ha hv
  rw [rawSum_congr hd] at heff
  refine .of_vrsum hr heff fun t ht hlt hmem hcore => ?_
  set out := ((s.seen k (.vrsum k h c)).core k).redOut c.view c fun ps => ⟨(ltToF32 (rawSum (s.core k) c s.free ps).w c.se.toInt).1.toNat, 0⟩
  have hels : ∀ v, ((t.core k).vreg v).els = (out.vreg v).els := fun v => by
    rw [ht, Core.vreg_congr (Core.count_vregs ..), (Core.stick_spec ..).1, Core.stickNfin_els, Core.vreg_congr (Core.setLts_vregs ..)]
  have hlts : (t.core k).lt = (out.setLts (redLane c.axis) c.ltr.val (redGroups c.view c.axis c.nm1.toNat) (rawSum (s.core k) c s.free)).lt :=
    hlt.trans ((((Core.vregsOf_refl _).stickNfin ..).stick ..).count ..).lt
  refine ⟨fun g hg => ⟨?_, ?_⟩, fun r e hrow hcol hne => ?_, fun v hne => ?_, hmem, hcore⟩
  · rw [Core.ltReg_congr hlts, Core.ltReg_setLts _ _ c.ltr.isLt (redGroups_lanes_nodup ..) hg]
  · rw [State.velem, VReg.elem_congr (hels _), ← hv]
    exact Core.redOut_word _ _ _ (fun ps => (ltToF32 (rawSum (s.core k) c s.free ps).w c.se.toInt).1) hg
  · rw [State.velem, State.velem, VReg.elem_congr (hels _), ← hv, Core.redOut_elem_other _ _ _ _ (by rw [hv]; exact hcol) hne, Core.vreg_congr hd]
  · rw [hels, Core.redOut_els_other _ _ _ _ hne, Core.vreg_congr hd]

/-- VRSUM of integers (R110, R119). -/
theorem completes_vrsum_int (ha : c.acc = 0) (hv : c.view ≠ 0) : Completes (.vrsum k h c) s fun t =>
    (∀ g ∈ redGroups c.view c.axis c.nm1.toNat,
        (t.velem k c.vd c.view g.1.1 g.1.2).int c.view = (groupSum (s.core k) c g.2).1
          ∧ (t.velem k c.vd c.view g.1.1 g.1.2).wrap = (BitVec.ofInt 8 (groupSum (s.core k) c g.2).2).toInt)
      ∧ (t.core k).lt = (s.core k).lt ∧ t.mem = s.mem := by
  have heff := effVrsum_int ((s.seen k (.vrsum k h c)).core k) c s.free ha hv
  rw [groupSum_congr (State.seen_vregs s k _)] at heff
  refine .of_vrsum hr heff fun t ht hlt hmem _ => ⟨fun g hg => ?_, ?_, hmem⟩
  · rw [State.velem, ht, Core.redOut_elem _ _ _ _ hg]
    exact ⟨VVal.int_ofInt (groupSum_signed ..) _, rfl⟩
  · rw [hlt, (Core.redOut_vregsOf ..).lt]
    exact (State.seen_core s k _).2.2.1

/-- VRSUM by COMP (R70, R120). -/
theorem completes_vrsum_comp (ha : c.acc = 2) (hv : c.view = 0) : Completes (.vrsum k h c) s fun t =>
    (∀ g ∈ redGroups c.view c.axis c.nm1.toNat, t.velem k c.vd 0 g.1.1 g.1.2 = ⟨(groupComp (s.core k) c g.2).toNat, 0⟩)
      ∧ (t.core k).lt = (s.core k).lt ∧ t.mem = s.mem := by
  obtain ⟨bad, heff⟩ := effVrsum_comp ((s.seen k (.vrsum k h c)).core k) c s.free ha hv
  rw [groupComp_congr (State.seen_vregs s k _)] at heff
  refine .of_vrsum hr heff fun t ht hlt hmem _ => ⟨fun g hg => ?_, ?_, hmem⟩
  · rw [State.velem, ht, VReg.elem_congr (Core.stickNfin_els ..), ← hv]
    exact Core.redOut_word _ _ _ _ hg
  · rw [hlt, ((Core.redOut_vregsOf ..).stickNfin ..).lt]
    exact (State.seen_core s k _).2.2.1
end

/-- Settles O7: VRMAX and VRMIN by the extreme of each group, VRSUM by the sum of each form. -/
theorem vectorReductions : Obligations.VectorReductions := by
  unfold Obligations.VectorReductions
  refine ⟨⟨extreme_vrmax, extreme_vrmin⟩, ?vrsum⟩
  intro s k h c hr gs word
  refine ⟨fun ha hv => ?_, completes_vrsum_int hr, completes_vrsum_comp hr⟩
  obtain ⟨t, hx, hgroups, hothers⟩ := completes_vrsum_raw hr ha hv
  refine ⟨t, hx, fun g hg => ?_, hothers⟩
  obtain ⟨hlt, hel⟩ := hgroups g hg
  rw [rawSum_w _ _ _ hg] at hel
  exact ⟨by rw [hlt, rawSum_w _ _ _ hg]; rfl, hel⟩

end Sys2Proof.Machine
end

section
/-! VLD (R56, R111, R112, R175, R502). -/

namespace Sys2Proof.Machine

open Sys2Proof

/-- The indexes of the element that VLD reads into element `e` of row `r` (R175). -/
def vldIx (c : VmemF) (r e : Nat) : List Nat := [c.col0.toNat + e, c.row0.toNat + r, 0, 0, 0, 0]

/-- The stored word that VLD reads, zero outside the tensor. -/
def vldCode (s : State) (d : Desc) (c : VmemF) (r e : Nat) : Nat := if d.inside (vldIx c r e) then s.codeAt d (vldIx c r e) else 0

/-- The value that VLD loads, with the flags of the load; zero outside the tensor (R56, R115). -/
def vldVal (s : State) (d : Desc) (c : VmemF) (r e : Nat) : W32 × Fl :=
  if d.inside (vldIx c r e) then (if c.se = 0 then s.loadF32 d (vldIx c r e) else s.loadScaled d c.se.toInt (vldIx c r e)) else (0, Fl.none)

/-- Does a load set NFIN. -/
def vldBad (s : State) (d : Desc) (c : VmemF) : Bool :=
  ((List.range 4096).foldl (fun f x => f.or (vldVal s d c (x / 64) (x % 64)).2) Fl.none).nfin

theorem vldBad_iff (s : State) (d : Desc) (c : VmemF) :
    vldBad s d c = true ↔ ∃ r e, r < 64 ∧ e < 64 ∧ (vldVal s d c r e).2.nfin = true := by
  rw [vldBad, Fl.foldl_or_nfin, ← any_words_iff fun r e => (vldVal s d c r e).2.nfin]
  simp [Fl.none]

/-- A stored word has the width of its element. -/
theorem vldCode_lt (s : State) (d : Desc) (c : VmemF) (r e : Nat) : vldCode s d c r e < 2 ^ d.ebits := by
  unfold vldCode
  split
  · exact Nat.mod_lt _ (Nat.two_pow_pos _)
  · exact Nat.two_pow_pos _

section
variable {s : State} {k : CoreId} {e : Ent} {h : Hdr} {c : VmemF} {d : Desc} {f : Fmt} (hd : s.desc (vmemHandle c h e.iter) = d)
  (hf : d.fmt = some f) (hlt : f ≠ .lt320) (hal : d.alay = false)
include hd hf hlt hal

/-- VLD of a raw format: the words as they are stored. -/
theorem effVld_raw (hraw : rawView f = some c.view) : effVld s k e h c = some (s.setCore k ((s.core k).setVreg c.vd
    (((s.core k).vreg c.vd).fill c.view fun r e => ⟨vldCode s d c r e, 0⟩)), Post.none) := by
  have hel : ∀ r e, (⟨vldCode s d c r e, 0⟩ : VVal) = if d.inside (vldIx c r e) then ⟨s.codeAt d (vldIx c r e), 0⟩ else ⟨0, 0⟩ :=
    fun r e => by
      rw [vldCode]
      split <;> rfl
  unfold effVld
  dsimp only
  rw [hd, hf]
  simp only [hal, Bool.false_eq_true, hlt, or_self, if_false, hraw, ne_eq, not_true_eq_false, hel]
  rfl

/-- VLD of any other format in F32: the loaded values, and their NFIN in the register. -/
theorem effVld_load (hraw : rawView f = none) (h0 : c.view = 0) : ∃ p, effVld s k e h c = some (s.setCore k (((s.core k).setVreg c.vd
    (((s.core k).vreg c.vd).fill 0 fun r e => ⟨(vldVal s d c r e).1.toNat, 0⟩)).stick c.vd ⟨false, vldBad s d c⟩), p) := by
  have hse : c.se.toInt = 0 ↔ c.se = 0 := BitVec.toInt_inj (y := 0)
  unfold effVld
  dsimp only
  rw [hd, hf]
  simp only [hal, Bool.false_eq_true, hlt, or_self, if_false, hraw, h0, ne_eq, not_true_eq_false, hse]
  exact ⟨_, rfl⟩
end

section
variable {s : State} {k : CoreId} {h : Hdr} {c : VmemF}

/-- A ready VLD completes with what holds of every state that has the tile registers of its engine's core and keeps all else. -/
theorem Completes.of_vld {t : Core → Core} {p : Post} {P : State → Prop} (hr : Ready s k (.vld k h c))
    (heff : effVld (s.seen k (.vld k h c)) k ((s.core k).entryOf (.vld k h c)) h c =
      some ((s.seen k (.vld k h c)).setCore k (t ((s.seen k (.vld k h c)).core k)), p))
    (hrest : ∀ d : Core, (t d).VregsOf d)
    (hP : ∀ u d, d.vregs = (s.core k).vregs → (∀ v, (u.core k).vreg v = (t d).vreg v) → OnlyCore s u k → SameRegs s u k → P u) :
    Completes (.vld k h c) s P := by
  have hdone : effect (s.seen k (.vld k h c)) k ((s.core k).entryOf (.vld k h c)) =
      effVld (s.seen k (.vld k h c)) k ((s.core k).entryOf (.vld k h c)) h c := rfl
  refine .of_effect rfl (.inr rfl) hr (hdone.trans heff) (hP _ ((s.seen k (.vld k h c)).core k) (State.seen_vregs s k _)
    (fun v => ?_) (State.onlyCore_ran _ rfl) ?_)
  · rw [State.ran_vreg, State.core_setCore_self]
  · exact State.ran_sameRegs _ _ _ _ _ (State.sameRegs_setCore_of_vregs (hrest _) _)

variable {d : Desc} {f : Fmt} (hr : Ready s k (.vld k h c)) (hd : s.desc (s.handleNow k h 0 c.h) = d) (hf : d.fmt = some f)
  (hlt : f ≠ .lt320) (hal : d.alay = false)
include hr hd hf hlt hal

theorem completes_vld_raw (hraw : rawView f = some c.view) : Completes (.vld k h c) s fun t =>
    (∀ r e, r < 64 → e < viewCols c.view → t.velem k c.vd c.view r e = ⟨vldCode s d c r e, 0⟩)
      ∧ ((t.core k).vreg c.vd).nfin = ((s.core k).vreg c.vd).nfin
      ∧ OnlyCore s t k ∧ SameRegs s t k ∧ ∀ v, v ≠ c.vd → (t.core k).vreg v = (s.core k).vreg v := by
  refine .of_vld (t := fun x => x.setVreg c.vd ((x.vreg c.vd).fill c.view fun r e => ⟨vldCode s d c r e, 0⟩)) hr
    (effVld_raw (s := s.seen k (.vld k h c)) hd hf hlt hal hraw) (fun x => x.vregsOf_refl.setVreg ..) fun t x hx ht hcore hregs =>
      ⟨fun r e hrow hcol => ?_, ?_, hcore, hregs, fun v hv => ?_⟩
  · have hcode : vldCode s d c r e < 2 ^ viewBits c.view := by
      rw [viewBits_of_rawView hraw, ← Desc.ebits_eq hf hal]
      exact vldCode_lt ..
    rw [State.velem, ht, Core.vreg_setVreg, if_pos rfl, VReg.elem_fill _ _ _ hrow hcol, Nat.mod_eq_of_lt hcode]
    rfl
  · rw [ht, Core.vreg_setVreg, if_pos rfl, VReg.fill_nfin, Core.vreg_congr hx]
  · rw [ht, Core.vreg_setVreg, if_neg hv, Core.vreg_congr hx]

theorem completes_vld_load (hraw : rawView f = none) (h0 : c.view = 0) : Completes (.vld k h c) s fun t =>
    (∀ r e, r < 64 → e < 64 → t.velem k c.vd 0 r e = ⟨(vldVal s d c r e).1.toNat, 0⟩)
      ∧ (((t.core k).vreg c.vd).nfin = true ↔
          ((s.core k).vreg c.vd).nfin = true ∨ ∃ r e, r < 64 ∧ e < 64 ∧ (vldVal s d c r e).2.nfin = true)
      ∧ OnlyCore s t k ∧ SameRegs s t k ∧ ∀ v, v ≠ c.vd → (t.core k).vreg v = (s.core k).vreg v := by
  obtain ⟨p, heff⟩ := effVld_load (s := s.seen k (.vld k h c)) (k := k) (e := (s.core k).entryOf (.vld k h c)) hd hf hlt hal hraw h0
  refine .of_vld (t := fun x => (x.setVreg c.vd ((x.vreg c.vd).fill 0 fun r e => ⟨(vldVal s d c r e).1.toNat, 0⟩)).stick c.vd
    ⟨false, vldBad s d c⟩) hr heff (fun x => (x.vregsOf_refl.setVreg ..).stick ..) fun t x hx ht hcore hregs =>
      ⟨fun r e hrow hcol => ?_, ?_, hcore, hregs, fun v hv => ?_⟩
  · exact State.velem_of_fill (f := fun r e => (vldVal s d c r e).1) (by rw [ht, (Core.stick_spec ..).1, Core.vreg_setVreg, if_pos rfl])
      le_rfl hrow hcol
  · rw [ht, (Core.stick_spec ..).2.2, Core.vreg_setVreg, if_pos rfl, VReg.fill_nfin, Core.vreg_congr hx, decide_eq_true rfl,
      Bool.true_and, Bool.or_eq_true, vldBad_iff]
  · rw [ht, Core.vreg_stick_other _ _ hv, Core.vreg_setVreg, if_neg hv, Core.vreg_congr hx]
end

/-- Settles O17, by the two ways of VLD: the words as they are, and the loaded values. -/
theorem vectorLoad : Obligations.VectorLoad := by
  intro s k h c f hh d ix val hf hlt hal hview hr
  obtain hraw | ⟨hraw, h0⟩ := hview
  · obtain ⟨t, hx, hels, hnfin, hrest⟩ := completes_vld_raw hr rfl hf hlt hal hraw
    exact ⟨t, hx, fun _ => ⟨hels, hnfin⟩, fun hnone => absurd (hraw.symm.trans hnone) nofun, hrest⟩
  · obtain ⟨t, hx, hels, hnfin, hrest⟩ := completes_vld_load hr rfl hf hlt hal hraw h0
    exact ⟨t, hx, fun hsome => absurd (hraw.symm.trans hsome) nofun, fun _ => ⟨hels, hnfin⟩, hrest⟩

end Sys2Proof.Machine
end

section
/-! BAR2 accesses (R154, R420): a block whose MAC fails in a host granule that lies in the Kelgil area. -/

namespace Sys2Proof.Machine

open Sys2Proof

/-- The 512-byte block at the start of the Kelgil area. -/
def kelgilBlock : Nat := (lpBase + 480 * granSize) / 512

/-- Kelgil runs, and 481 staging granules reach into the Kelgil area, on which window 0 opens. The first block of the
area is poisoned, and a release of the owner waits for the unload of a job. -/
def poisonedWindow : State :=
  { State.reset with
    mm := { MemSt.zero with stageg := 481, poisoned := [kelgilBlock] }
    hif := { Hif.zero with bar2 := [some 480], mbxUp := true, perst := false }
    rst := { State.reset.rst with dieUp := true }
    sec := { Sec.zero with pstate := 0 }
    job := { Job.zero with unloadReq := [.release 0] } }

/-- The byte of window 0 that a host reads. -/
def kelgilRead : Instr := .bar2Access 0 none ⟨1, none⟩

/-- The job after a command. -/
def jobAfter (i : Instr) (s : State) : Option Job :=
  match exec i s with
  | .next t => some t.job
  | _ => none

theorem jobAfter_of_next {i : Instr} {s t : State} (h : exec i s = .next t) : jobAfter i s = some t.job := by
  unfold jobAfter
  rw [h]

/-- The read meets the poisoned block and waits for nothing. -/
theorem poisonedWindow_pieces : poisonedWindow.bar2Pieces 0 1 = some [(lpBase + 480 * granSize, 1)] ∧
    poisonedWindow.waits [(lpBase + 480 * granSize, 1)] = false ∧
    kelgilBlock ∈ readBlocks [(lpBase + 480 * granSize, 1)] false := by decide +kernel

/-- The quarantine for the failed block takes the release out of the unload requests of the job. -/
theorem jobAfter_kelgilRead : (jobAfter kelgilRead poisonedWindow).map (·.unloadReq) = some [] := by decide +kernel

/-- Refutes O42: the statement says that the job stays as it is wherever a block read fails its MAC. In `poisonedWindow` the block lies in
the Kelgil area, so its failure is a quarantine cause (R362), and quarantine starts the release that waits for the unload. -/
theorem not_hostInterface : ¬ Obligations.HostInterface := by
  unfold Obligations.HostInterface
  intro h
  obtain ⟨-, haccess, -⟩ := h
  obtain ⟨-, -, hmac, -⟩ := haccess poisonedWindow 0 rfl rfl rfl (by decide)
  obtain ⟨hpieces, hfree, hread⟩ := poisonedWindow_pieces
  obtain ⟨-, hfails⟩ := hmac none 1 none _ Nat.one_pos hpieces
  obtain ⟨t, hx, -, hjob, -⟩ := hfails hfree ⟨kelgilBlock, hread, .inl (List.mem_singleton.mpr rfl)⟩
  have hreq : t.job.unloadReq = [] := by
    have hafter := jobAfter_kelgilRead
    rw [kelgilRead, jobAfter_of_next hx] at hafter
    exact Option.some.inj hafter
  rw [hjob] at hreq
  exact absurd hreq (by decide)

end Sys2Proof.Machine
end

section
/-! FAULT_READ (R389, R423): reply data by reference, where a record waits for a poisoned block of the output queue. -/

namespace Sys2Proof.Machine

open Sys2Proof

/-- A fault record that Kelgil holds a copy of. -/
def copiedFault : FaultRec := ⟨0x0030, engPcie, noCore, 0, 0, 0, 0, [0, 0, 0, 0], 0, 0, 0⟩

/-- A record of 100 bytes that waits for a place in the output queue. -/
def waitingRecord : OutRec :=
  { kind := 1, s := 0, a := 0, handle := 0, slot := 0, seq := 0, pos := 0, units := 1, digest := 0, bytes := List.replicate 100 0 }

/-- A driver is attached. Sixty-four fault records, 4,096 bytes, may be read. The output queue of one granule has one unit free, for which
a record waits, and the first block of that unit is poisoned. -/
def poisonedQueue : State :=
  { State.reset with
    mm := { MemSt.zero with outg := 1, poisoned := [(lpBase + 64 * granSize + 262143 * 4096) / 512] }
    outq := { Outq.zero with head := 262143, waiting := [waitingRecord] }
    rings := { Rings.zero with copies := List.replicate 64 copiedFault }
    hif := { Hif.zero with mbxUp := true, ver := some (1, 0), perst := false } }

/-- The header of the FAULT_READ. -/
def faultReadHeader : Mb := ⟨1, 0, 8, 7⟩

theorem poisonedQueue_accepts : AcceptsOut poisonedQueue faultReadHeader :=
  ⟨⟨rfl, by decide, by decide, by decide +kernel, rfl⟩, by decide⟩

/-- How many records the fault ring holds after a command. -/
def faultsAfter (i : Instr) (s : State) : Option Nat :=
  match exec i s with
  | .next t => some t.rings.fault.length
  | _ => none

theorem faultsAfter_of_next {i : Instr} {s t : State} (h : exec i s = .next t) : faultsAfter i s = some t.rings.fault.length := by
  unfold faultsAfter
  rw [h]

/-- The record that leaves for the queue meets the poisoned block, and the controller writes a fault record. -/
theorem faultsAfter_poisonedQueue : faultsAfter (.faultRead faultReadHeader 0 64) poisonedQueue = some 1 := by decide +kernel

/-- Refutes O34: the statement says of FAULT_READ that the fault ring stays as it is. In `poisonedQueue` the reply's data go by reference, and with
them the record that waits leaves for a block of the queue that is poisoned and written in part, which leaves a fault record (R154). -/
theorem not_mailboxReads : ¬ Obligations.MailboxReads := by
  unfold Obligations.MailboxReads
  intro h
  obtain ⟨-, hout⟩ := h poisonedQueue faultReadHeader
  obtain ⟨hfaults, -⟩ := hout poisonedQueue_accepts
  obtain ⟨t, hx, -, -, -, -, hring, -⟩ := hfaults 0 64
  have hlen := faultsAfter_of_next hx
  rw [faultsAfter_poisonedQueue, hring] at hlen
  exact absurd hlen (by decide)

end Sys2Proof.Machine
end

section
/-! COMMAND_COMPLETE of a MOVE (R256) in a memory that is not in canonical form: the statement of its release asks for no `State.memOk`. -/

namespace Sys2Proof.Machine

open Sys2Proof

/-- The header of the MOVE. -/
def moveHeader : Hdr := { tag := 7, ixl := 0, ixm := 0, chk := none, reread := false, poison := none, ecc := 0 }

/-- Its fields: source 3, destination 4. -/
def moveOfFour : MoveF := ⟨false, 3, 4, 0, 0⟩

/-- A MOVE into handle 4 that is done; its release sets OVF of the status word of handle 4. -/
def doneMove : Ent :=
  { Core.zero.entryOf (.move 0 moveHeader moveOfFour) with phase := .done, post := { Post.none with ovf := [4] } }

/-- The descriptor of handle 4: the TX half of the link buffer of port 0, two elements of one byte along dimension 1, and their stride, whose
third byte stands behind a cell of a higher address. The read of the descriptor ends at that cell, so the stride reads 0x1000. A
write sorts the cells about the bytes that it writes, and the stride reads 0x11000. -/
def unsortedView : List Host.Cell :=
  let d := descTable + 64 * 4
  [(d + 3, 1), (d + 4, 0x80), (d + 15, 1), (d + 19, 2), (d + 23, 1), (d + 27, 1), (d + 31, 1), (d + 35, 1), (d + 40, 0x10),
    (statusTable + 0x30000, 7), (d + 41, 1)]

/-- Core 0 has the MOVE in flight, and port 0 has a peer. -/
def unsortedMove : State :=
  { State.reset with
    cores := [(0, { Core.zero with inflight := [doneMove] })]
    mem := unsortedView
    lnk := { Lnk.zero with map := [⟨true, 0, 0⟩] } }

/-- Before the release the destination covers blocks 0 and 1 of the TX half, and its bundle has a peer. -/
theorem unsortedMove_moveTx : (0, 1) ∈ unsortedMove.moveTx (effHandle moveHeader doneMove.iter 1 moveOfFour.dst) ∧
    unsortedMove.bundlePeer 0 = true := by decide +kernel

/-- The hypotheses of the statement hold. -/
theorem unsortedMove_done :
    splitAt1 (fun x => x.tag = 7 && mayComplete (unsortedMove.core 0) x) (unsortedMove.core 0).inflight = some ([], doneMove, [])
      ∧ (unsortedMove.core 0).waitq = [] ∧ ∀ q, ∀ x ∈ (unsortedMove.core q).inflight, x.phase ≠ .arrive := by decide +kernel

/-- Is a TX block held after a command. -/
def heldAfter (i : Instr) (s : State) (p b : Nat) : Option Bool :=
  match exec i s with
  | .next t => some (t.txHeld p b)
  | _ => none

theorem heldAfter_of_next {i : Instr} {s t : State} (h : exec i s = .next t) (p b : Nat) :
    heldAfter i s p b = some (t.txHeld p b) := by
  unfold heldAfter
  rw [h]

/-- The completion leaves block 1 free: it holds blocks 0 and 17. -/
theorem heldAfter_unsortedMove : heldAfter (.commandComplete 0 7) unsortedMove 0 1 = some false ∧
    heldAfter (.commandComplete 0 7) unsortedMove 0 17 = some true := by decide +kernel

/-- Refutes O22: what the statement says of a completion does not ask for a memory in canonical form (`State.memOk`). In `unsortedMove` the release of the
status word, which comes first, moves a byte of the stride of handle 4 into reach of a read, so the completion holds other blocks than
those that the destination covered before it. -/
theorem not_moveCopies : ¬ Obligations.MoveCopies := by
  unfold Obligations.MoveCopies
  intro h
  obtain ⟨-, hcompletes⟩ := h
  obtain ⟨hsplit, hwait, harrive⟩ := unsortedMove_done
  obtain ⟨hcovers, hpeer⟩ := unsortedMove_moveTx
  obtain ⟨t, hx, hheld, -⟩ := hcompletes unsortedMove 0 7 [] [] doneMove 0 moveHeader moveOfFour hsplit rfl hwait harrive
  have hfree := heldAfter_of_next hx 0 1
  rw [heldAfter_unsortedMove.1, hheld _ hcovers hpeer] at hfree
  exact absurd hfree (by decide)

end Sys2Proof.Machine
end

section
/-! What a change of states, a transition that is asked for and a quarantine do to the security island (R361, R362, R428). -/

namespace Sys2Proof.Machine

open Sys2Proof

theorem SState.code_injective {a b : SState} (h : a.code = b.code) : a = b := by
  cases a <;> cases b <;> simp_all [SState.code]

/-- A change of states sets the three states. -/
theorem State.setStates_sec (s : State) (ss : SState) (dl ps : Nat) :
    (s.setStates ss dl ps).sec = { s.sec with sstate := ss, dlevel := dl, pstate := ps } := by
  unfold State.setStates
  extract_lets s1
  split
  · next h =>
    obtain ⟨hss, hdl, hps⟩ : s.sec.sstate.code = ss.code ∧ s.sec.dlevel = dl ∧ s.sec.pstate = ps := by
      simpa [State.states, s1] using h
    rw [← SState.code_injective hss, ← hdl, ← hps]
  · rw [State.notify_sec, State.log_sec]

/-- A security state with the transitions under way, the debug level, the power state, the hold record, the halts and the violations of
another. -/
def Sec.withTrans (a b : Sec) : Sec :=
  { a with dlevel := b.dlevel, pstate := b.pstate, trans := b.trans, scrub := b.scrub, queue := b.queue, hold := b.hold,
           ctrlHalted := b.ctrlHalted, viol := b.viol }

theorem Sec.withTrans_trans {a b c : Sec} (h : b.withTrans a = a) (h' : c.withTrans b = b) : c.withTrans a = a := by
  have h'' := congrArg (fun x : Sec => x.withTrans a) h'
  exact h''.trans h

theorem State.startTrans_withTrans (s : State) (x : TransK) : (s.startTrans x).sec.withTrans s.sec = s.sec := by
  unfold State.startTrans
  split
  · unfold State.beginTrans
    split <;> rfl
  · rfl

/-- A transition that is asked for changes neither the debug level nor the power state. -/
theorem State.startTrans_levels (s : State) (x : TransK) :
    (s.startTrans x).sec.dlevel = s.sec.dlevel ∧ (s.startTrans x).sec.pstate = s.sec.pstate := by
  unfold State.startTrans
  split
  · unfold State.beginTrans
    split <;> exact ⟨rfl, rfl⟩
  · exact ⟨rfl, rfl⟩

/-- A transition that runs a scrub asks for no write yet. -/
theorem State.startTrans_nvm_of_scrubs (s : State) {x : TransK} (h : x.scrubs = true) : (s.startTrans x).nvm = s.nvm := by
  unfold State.startTrans
  split
  · rw [State.beginTrans, if_pos h]
    rfl
  · rfl

theorem State.quarantining_startTrans (s : State) (cause : Nat) : (s.startTrans (.quarantine cause)).quarantining = true := by
  unfold State.startTrans
  split
  · simp [State.beginTrans, TransK.scrubs, State.quarantining]
  · simp [State.quarantining]

theorem TransK.scrubs_of_releases {x : TransK} (h : x.releases = true) : x.scrubs = true := by
  cases x with
  | install => exact absurd h Bool.false_ne_true
  | _ => rfl

/-- Releases that are asked for one after the other. -/
theorem State.foldl_startTrans_releases {xs : List TransK} (h : ∀ x ∈ xs, x.releases = true) (s : State) :
    (xs.foldl State.startTrans s).sec.withTrans s.sec = s.sec ∧ (xs.foldl State.startTrans s).nvm = s.nvm
      ∧ (xs.foldl State.startTrans s).sec.dlevel = s.sec.dlevel ∧ (xs.foldl State.startTrans s).sec.pstate = s.sec.pstate := by
  induction xs generalizing s with
  | nil => exact ⟨rfl, rfl, rfl, rfl⟩
  | cons x xs ih =>
    obtain ⟨hsec, hnvm, hdl, hps⟩ := ih (fun y hy => h y (List.mem_cons_of_mem x hy)) (s.startTrans x)
    obtain ⟨hdl', hps'⟩ := s.startTrans_levels x
    exact ⟨Sec.withTrans_trans (s.startTrans_withTrans x) hsec,
      hnvm.trans (s.startTrans_nvm_of_scrubs (TransK.scrubs_of_releases (h x List.mem_cons_self))), hdl.trans hdl', hps.trans hps'⟩

section
variable (s : State) (cause : Nat)

/-- The first cause of a module that is in no hold enters QUARANTINE, with D0 and out of P2 (R362). -/
theorem State.quarantine_enters (hq : s.quarantining = false) (hp : s.sec.pstate ≠ 3) : (s.quarantine cause).quarantining = true
    ∧ (s.quarantine cause).sec.dlevel = 0 ∧ (s.quarantine cause).sec.pstate = if s.sec.pstate = 2 then 0 else s.sec.pstate := by
  unfold State.quarantine
  rw [if_neg (ne_true_of_eq_false hq), if_neg hp]
  extract_lets p halts rst s1 job s2
  have hs2 : s2.sec.dlevel = 0 ∧ s2.sec.pstate = p := by
    have hsec : s2.sec = s1.sec := rfl
    rw [hsec, State.setStates_sec]
    exact ⟨rfl, rfl⟩
  obtain ⟨-, -, hdl, hps⟩ := State.foldl_startTrans_releases (xs := s1.job.unloadReq.filter TransK.releases)
    (fun x hx => (List.mem_filter.mp hx).2) s2
  obtain ⟨hdl', hps'⟩ := ((s1.job.unloadReq.filter TransK.releases).foldl State.startTrans s2).startTrans_levels (.quarantine cause)
  exact ⟨State.quarantining_startTrans _ _, (hdl'.trans hdl).trans hs2.1, (hps'.trans hps).trans hs2.2⟩

/-- In a hold the first cause stands in the hold record (R374). -/
theorem State.quarantine_of_hold (hq : s.quarantining = false) (hp : s.sec.pstate = 3) : s.quarantine cause =
    { s with sec := { s.sec with hold := s.sec.hold.map fun r => if r.qcause = 0 then { r with qcause := cause } else r } } := by
  unfold State.quarantine
  rw [if_neg (ne_true_of_eq_false hq), if_pos hp]

/-- A quarantine cause changes of the island the transitions, the levels, the hold record and the halts, and asks for no write. -/
theorem State.quarantine_keeps : (s.quarantine cause).sec.withTrans s.sec = s.sec ∧ (s.quarantine cause).nvm = s.nvm := by
  unfold State.quarantine
  split
  · exact ⟨by rw [State.log_sec]; rfl, State.log_nvm ..⟩
  split
  · exact ⟨rfl, rfl⟩
  extract_lets p halts rst s1 job s2
  have hs1 : s1.sec.withTrans s.sec = s.sec ∧ s1.nvm = s.nvm := by
    refine ⟨?_, (State.setStates_nvm ..).trans (State.clearMasks_nvm _)⟩
    rw [State.setStates_sec]
    rfl
  obtain ⟨hsec, hnvm, -⟩ := State.foldl_startTrans_releases (xs := s1.job.unloadReq.filter TransK.releases)
    (fun x hx => (List.mem_filter.mp hx).2) s2
  exact ⟨Sec.withTrans_trans hs1.1 (Sec.withTrans_trans hsec (State.startTrans_withTrans _ _)),
    (State.startTrans_nvm_of_scrubs _ rfl).trans (hnvm.trans hs1.2)⟩

theorem State.countViol_keeps : s.countViol.sec.withTrans s.sec = s.sec ∧ s.countViol.nvm = s.nvm := by
  unfold State.countViol
  extract_lets v sec s1
  have hs1 : s1.sec.withTrans s.sec = s.sec := rfl
  split
  · obtain ⟨hsec, hnvm⟩ := s1.quarantine_keeps 5
    exact ⟨Sec.withTrans_trans hs1 hsec, hnvm⟩
  · exact ⟨hs1, rfl⟩

end

end Sys2Proof.Machine
end

section
/-! Instruction fetch (R142, R143, R154). -/

namespace Sys2Proof.Machine

open Sys2Proof

/-- A violation of a command processor freezes it, and quarantine does not thaw it (R386). -/
theorem State.frozen_violateCmd (s : State) (k : CoreId) (code : Nat) (tag : W32) (iter : List W32) (handle : W16) (addr : Nat) :
    ((s.violateCmd k code tag iter handle addr).core k).frozen = true := by
  rw [State.violateCmd, State.frozen_countViol, State.core_congr (State.raise_cores ..), State.core_modCore_self]

/-- A block that fails its MAC is poisoned (R154). -/
theorem State.div_mem_poisoned_macFail (s : State) (a : Nat) (core : W16) : a / 512 ∈ (s.macFail a core).mm.poisoned := by
  unfold State.macFail
  extract_lets mm s1
  have hs1 : a / 512 ∈ s1.mm.poisoned := by
    rw [State.raise_mm, List.mem_eraseDups]
    exact List.mem_cons_self
  split
  · rw [State.quarantine_mm]
    exact hs1
  · rw [State.quarantine_mm]
    exact hs1
  · exact hs1

theorem State.quarantining_congr {s t : State} (h : t.sec = s.sec) : t.quarantining = s.quarantining := by
  unfold State.quarantining
  rw [h]

/-- A block of the code area that fails its MAC is an integrity failure of firmware: QUARANTINE, with D0 (R154, R362). -/
theorem State.macFail_code (s : State) {a g : Nat} (core : W16) (ha : regionOf a = .code g) (hq : s.quarantining = false)
    (hp : s.sec.pstate ≠ 3) : (s.macFail a core).quarantining = true ∧ (s.macFail a core).sec.dlevel = 0 := by
  unfold State.macFail
  extract_lets mm s1
  have hsec : s1.sec = s.sec := State.raise_sec ..
  obtain ⟨hquar, hdl, -⟩ := s1.quarantine_enters 4 ((State.quarantining_congr hsec).trans hq) (by rw [hsec]; exact hp)
  rw [ha]
  exact ⟨hquar, hdl⟩

/-- A miss of a core that fetches, of a line whose package is free: its fill. -/
theorem icacheMissFill_eq {s : State} {k : CoreId} (hstall : s.stalls (codeBase + 256 * s.codeLine k) 256 = false)
    (hfetch : (s.core k).fetching = true) (hfrozen : (s.core k).frozen = false) (hreset : (s.core k).inReset = false)
    (hmiss : (cacheSet (s.core k) (s.codeLine k % 256)).contains (s.codeLine k) = false) (poison : Bool) :
    exec (.icacheMissFill k poison) s =
      let c := s.core k
      let l := s.codeLine k
      let a := codeBase + 256 * l
      let s1 := s.setCore k (c.count 0x04 1)
      if ¬ s.isSealed (l / 256) then .next (s1.violateCmd k 0x03 0 (iterOf c.loops) 0 a)
      else if poison ∨ s.mm.poisoned.contains (a / 512) then
        .next ((s1.modCore k fun x => { x with fetchwait := true }).macFail a (coreField k))
      else .next (s1.modCore k fun x =>
        { x with fetchwait := false, icache := SMap.set [] x.icache (l % 256) ((l :: cacheSet c (l % 256)).take 4) }) := by
  show execIcacheMissFill k poison s = _
  unfold execIcacheMissFill
  rw [if_neg (by rw [hfetch, hfrozen, hreset]; decide), if_neg (by rw [hstall]; exact fun h => Bool.false_ne_true h.2),
    if_neg (ne_true_of_eq_false hmiss)]

/-- The set that a line is filled into, and the other sets. -/
theorem cacheSet_fill (c : Core) (n j : Nat) (ls : List Nat) (w : Bool) :
    cacheSet { c with fetchwait := w, icache := SMap.set [] c.icache n ls } j = if j = n then ls else cacheSet c j :=
  SMap.get_set [] c.icache n ls j

/-- Settles O31, by the three outcomes of a miss. -/
theorem instructionFetch : Obligations.InstructionFetch := by
  unfold Obligations.InstructionFetch
  intro s k poison l ways a bad hstall hfetch hfrozen hreset hmiss
  have hexec := icacheMissFill_eq hstall hfetch hfrozen hreset hmiss poison
  have hbad : (poison = true ∨ s.mm.poisoned.contains (a / 512) = true) ↔ bad := or_congr_right List.contains_iff_mem
  refine ⟨fun hsealed hgood => ?_, fun hopen => ?_, fun hsealed hpoison hregion hquar hhold => ?_⟩
  · rw [Completes, hexec]
    extract_lets c s1
    rw [if_neg (not_not.mpr hsealed), if_neg (fun h => hgood (hbad.mp h))]
    have hcore : s1.core k = (s.core k).count 0x04 1 := State.core_setCore_self ..
    refine ⟨_, rfl, ?_⟩
    rw [State.core_modCore_self, hcore]
    refine ⟨?_, fun n hn => ?_, rfl, ⟨rfl, fun j hj => ?_⟩, ?_, ?_⟩
    · exact (cacheSet_fill ..).trans (if_pos rfl)
    · exact (cacheSet_fill ..).trans (if_neg hn)
    · rw [State.core_modCore_other _ _ hj]
      exact State.core_setCore_other _ _ hj
    · constructor <;> rw [State.core_modCore_self, hcore] <;> rfl
    · rw [SameVregs, State.core_modCore_self, hcore]
      rfl
  · rw [Completes, hexec]
    extract_lets c s1
    rw [if_pos (ne_true_of_eq_false hopen)]
    exact ⟨_, rfl, State.frozen_violateCmd .., State.violateCmd_mem ..⟩
  · rw [Completes, hexec]
    extract_lets c s1
    rw [if_neg (not_not.mpr hsealed), if_pos (hbad.mpr hpoison)]
    obtain ⟨hin, hdl⟩ := State.macFail_code (s1.modCore k fun x => { x with fetchwait := true }) (coreField k) hregion hquar hhold
    exact ⟨_, rfl, hin, hdl, State.div_mem_poisoned_macFail ..⟩

end Sys2Proof.Machine
end

section
/-! COMMAND_DISPATCH and WAIT_SATISFIED (R136, R186). -/

namespace Sys2Proof.Machine

open Sys2Proof

/-- What a dispatch notes beside the effect of its command leaves memory, the step, the job, and of its core what is in flight and the registers. -/
theorem State.noteDispatch_keeps (s : State) (k : CoreId) (e : Ent) : (s.noteDispatch k e).mem = s.mem ∧ (s.noteDispatch k e).stp = s.stp
    ∧ (s.noteDispatch k e).job = s.job ∧ ((s.noteDispatch k e).core k).inflight = (s.core k).inflight
    ∧ ((s.noteDispatch k e).core k).vregs = (s.core k).vregs ∧ ((s.noteDispatch k e).core k).tiles = (s.core k).tiles
    ∧ ((s.noteDispatch k e).core k).lt = (s.core k).lt := by
  unfold State.noteDispatch
  split
  · rw [State.core_modCore_self]
    exact ⟨rfl, rfl, rfl, Core.trace_inflight .., Core.trace_vregs .., Core.trace_tiles .., Core.trace_lt ..⟩
  · split
    · rw [State.core_modCore_self, State.core_congr (State.seeWait_cores ..)]
      exact ⟨rfl, rfl, rfl, Core.trace_inflight .., Core.trace_vregs .., Core.trace_tiles .., Core.trace_lt ..⟩
    · exact ⟨rfl, rfl, rfl, rfl, rfl, rfl, rfl⟩
  · exact ⟨rfl, rfl, rfl, rfl, rfl, rfl, rfl⟩

/-- A command that nothing holds and whose engine accepts its operands is dispatched (R136). -/
theorem commandDispatch_eq {s : State} {k : CoreId} {tag : W32} {pre post : List Ent} {e : Ent} {r : State × Post}
    (hsplit : splitAt1 (fun x => x.tag = tag && x.phase = .issued) (s.core k).inflight = some (pre, e, post))
    (hd : Dispatchable s k pre e post) (hr : effect (s.started k e) k e = some r) : exec (.commandDispatch k tag) s = .next
      (((r.1.addWr ((s.started k e).wrOf k e.tag e.x e.iter e.ins)).putEnt k pre
        { e with phase := phaseAfter (s.started k e) e, post := r.2 } post).noteDispatch k e) := by
  show execCommandDispatch k tag s = _
  unfold execCommandDispatch
  rw [hsplit]
  show (if s.clear k pre e post = true then State.answer (s.dispatchEnt k pre e post) else .next s) = _
  rw [if_pos hd.clear, State.dispatchEnt, hd.stays]
  show State.answer ((s.started k e).runEnt k pre e post) = _
  rw [State.runEnt_effect hd.rights hd.buffers hd.reads hd.writes hd.checks hd.ordered hd.first, hr]
  rfl

/-- The core of a WAIT sees what was released before the additions that it waited for (R186). -/
theorem State.sees_seeWait (s : State) (k : CoreId) (obj : W16) (target : W32) {t : State} (ht : t.race = (s.seeWait k obj target).race) :
    Sees s t k obj target := by
  intro n hpos hn
  rw [ht]
  unfold State.seeWait
  extract_lets n' m
  have hm : m = n := by
    show (if target.toInt ≤ 0 then 0 else _) = n
    rw [if_neg (by omega), List.getD_eq_getElem?_getD, hn, Option.getD_some]
  show n ≤ SMap.get 0 (SMap.set 0 s.race.sees (s.who k) (max m (SMap.get 0 s.race.sees (s.who k)))) (s.who k)
  rw [SMap.get_set_self, hm]
  exact le_max_left ..

/-- What the end of a WAIT does to the module: the additions seen are put on record. -/
def State.waitSeen (s : State) (k : CoreId) (e : Ent) : State :=
  match e.ins with
  | .wait _ _ c => s.seeWait k c.obj e.target
  | _ => s

theorem State.waitSeen_rest (s : State) (k : CoreId) (e : Ent) : s.waitSeen k e = { s with race := (s.waitSeen k e).race } := by
  unfold State.waitSeen
  split <;> rfl

/-- The WAIT whose count is there is done (R186). -/
theorem waitSatisfied_eq {s : State} {k : CoreId} {pre post : List Ent} {e : Ent}
    (hsplit : splitAt1 (fun x => x.phase = .waitObj && s.reached x) (s.core k).inflight = some (pre, e, post)) :
    exec (.waitSatisfied k) s = .next (((s.waitSeen k e).putEnt k pre { e with phase := .done } post).modCore k fun c =>
      c.trace k 3 engCmd e.tag e.iter) := by
  show execWaitSatisfied k s = _
  unfold execWaitSatisfied
  rw [hsplit]
  rfl

/-- Settles O29: the dispatch by the engine's effect, the WAIT by what its end puts on record. -/
theorem dispatchEvents : Obligations.DispatchEvents := by
  unfold Obligations.DispatchEvents
  refine ⟨fun s k tag pre post e r hsplit hd hr => ?_, fun s k pre post e hsplit => ?_⟩
  · obtain ⟨hmem, hstp, hjob, hinflight, hvregs, htiles, hlt⟩ := State.noteDispatch_keeps
      ((r.1.addWr ((s.started k e).wrOf k e.tag e.x e.iter e.ins)).putEnt k pre
        { e with phase := phaseAfter (s.started k e) e, post := r.2 } post) k e
    rw [State.putEnt, State.core_modCore_self] at hinflight hvregs htiles hlt
    exact ⟨_, commandDispatch_eq hsplit hd hr, hinflight, hmem, hvregs, htiles, hlt, hstp, hjob⟩
  · refine ⟨_, waitSatisfied_eq hsplit, ?_⟩
    generalize ht : ((s.waitSeen k e).putEnt k pre { e with phase := .done } post).modCore k (fun c => c.trace k 3 engCmd e.tag e.iter) = t
    have hrest : { t with cores := s.cores } = { s with race := t.race } := by
      rw [← ht, s.waitSeen_rest k e]
      rfl
    have hcore : t.core k = ({ s.core k with inflight := pre ++ { e with phase := .done } :: post } : Core).trace k 3 engCmd e.tag e.iter := by
      rw [← ht, State.core_modCore_self, State.putEnt, State.core_modCore_self, s.waitSeen_rest k e]
      rfl
    have hothers : ∀ j, j ≠ k → t.core j = s.core j := fun j hj => by
      rw [← ht, State.core_modCore_other _ _ hj, State.putEnt, State.core_modCore_other _ _ hj, s.waitSeen_rest k e]
      rfl
    refine ⟨?_, ⟨hrest, hothers⟩, ?_, ?_, fun w h c hins => State.sees_seeWait s k c.obj e.target ?_⟩
    · rw [hcore, Core.trace_inflight]
    · constructor <;> rw [hcore]
      · exact Core.trace_tiles ..
      · exact Core.trace_lt ..
      · exact Core.trace_gexp ..
      · exact Core.trace_upe ..
      · exact Core.trace_lcnt ..
      · exact Core.trace_loops ..
    · rw [SameVregs, hcore]
      exact Core.trace_vregs ..
    · rw [← ht]
      show (s.waitSeen k e).race = _
      rw [State.waitSeen, hins]

end Sys2Proof.Machine
end

section
/-! Sealing of code granules, reports of the update engine, traces (R143, R144, R166, R220, R244, R485). -/

namespace Sys2Proof.Machine

open Sys2Proof

/-! Sealing. -/

/-- The command bits of MEM_SEAL_CTRL lie above the granule's number. -/
theorem setWidth_or_command (v : W32) {x : W32} (hx : x.setWidth 16 = 0#16) : (v ||| x).setWidth 16 = v.setWidth 16 := by
  rw [BitVec.setWidth_or, hx, BitVec.or_zero]

/-- Which granules are sealed once one has been sealed or unsealed. -/
theorem State.isSealed_of_set {s t : State} {g : Nat} {b : Bool} (h : t.mm.sealed = SMap.set false s.mm.sealed g b) (q : Nat) :
    t.isSealed q = if q = g then b else s.isSealed q := by
  rw [State.isSealed, h]
  exact SMap.get_set ..

theorem seal_eq (s : State) (v : W32) : exec (.seal v) s =
    .next { s with mm := { s.mm with granule := v.setWidth 16, refused := s.mm.refused && ! (v ||| 0x10000#32).getLsbD 18,
                                     sealed := SMap.set false s.mm.sealed (v.setWidth 16).toNat true } } := by
  show Host.Outcome.next (s.sealWrite (v ||| 0x10000#32)) = _
  unfold State.sealWrite
  rw [setWidth_or_command v (by decide)]
  extract_lets g s1
  rw [if_pos (by rw [BitVec.getLsbD_or]; exact Bool.or_true _)]

theorem unseal_eq (s : State) (v : W32) (hseal : v.getLsbD 16 = false) : ∃ r, exec (.unseal v) s =
    .next (({ s with mm := { s.mm with granule := v.setWidth 16, refused := r } } : State).unsealGranule (v.toNat % 65536)) := by
  refine ⟨s.mm.refused && ! (v ||| 0x20000#32).getLsbD 18, ?_⟩
  show Host.Outcome.next (s.sealWrite (v ||| 0x20000#32)) = _
  unfold State.sealWrite
  rw [setWidth_or_command v (by decide)]
  extract_lets g s1
  rw [if_neg (by rw [BitVec.getLsbD_or, hseal]; decide), if_pos (by rw [BitVec.getLsbD_or]; exact Bool.or_true _)]
  rfl

theorem SMap.mem_set {α : Type} [DecidableEq α] {d a : α} {m : SMap α} {k : Nat} {e : Nat × α} (h : e ∈ SMap.set d m k a) :
    e = (k, a) ∨ e ∈ m := by
  unfold SMap.set at h
  extract_lets r at h
  have hr : ∀ x ∈ r, x ∈ m := fun x hx => (List.mem_filter.mp hx).1
  split at h
  · exact .inr (hr e h)
  · exact (SMap.mem_ins h).imp_right (hr e)

/-- What is listed after every entry has been changed is a changed entry. -/
theorem SMap.mem_mapVals {α : Type} [DecidableEq α] {d : α} {f : Nat → α → α} {m : SMap α} {e : Nat × α} (h : e ∈ SMap.mapVals d f m) :
    ∃ a, e.2 = f e.1 a := by
  induction m with
  | nil => exact absurd h List.not_mem_nil
  | cons x m ih =>
    obtain rfl | hm := SMap.mem_set h
    · exact ⟨x.2, rfl⟩
    · exact ih hm

/-- A core without the lines of a granule. -/
def Core.dropGranule (c : Core) (g : Nat) : Core :=
  { c with icache := SMap.mapVals [] (fun _ ls => ls.filter fun l => l / 256 ≠ g) c.icache }

theorem Core.caches_dropGranule (c : Core) (g : Nat) : (c.dropGranule g).caches g = false := by
  refine List.any_eq_false.mpr fun e he => ?_
  obtain ⟨ls, hls⟩ := SMap.mem_mapVals he
  rw [hls]
  exact ne_true_of_eq_false (List.any_eq_false.mpr fun l hl => by simpa using (List.mem_filter.mp hl).2)

/-- Is there a core that keeps a granule sealed: it is not drained and holds a line of it. -/
def State.granuleHeld (s : State) (g : Nat) : Bool := allCores.any fun k => ! (s.core k).drained && (s.core k).caches g

theorem State.granuleHeld_iff (s : State) (g : Nat) :
    s.granuleHeld g = true ↔ ∃ k, (s.core k).drained = false ∧ (s.core k).caches g = true := by
  unfold State.granuleHeld
  rw [List.any_eq_true]
  refine exists_congr fun k => ?_
  rw [Bool.and_eq_true, Bool.not_eq_true']
  exact and_iff_right (List.mem_finRange k)

/-- A granule that a core holds stays sealed, and REFUSED tells so (R144). -/
theorem State.unsealGranule_of_held {s : State} {g : Nat} (hs : s.isSealed g = true) (hheld : s.granuleHeld g = true) :
    s.unsealGranule g = { s with mm := { s.mm with refused := true } } := by
  unfold State.unsealGranule
  rw [if_neg (not_not.mpr hs)]
  exact if_pos hheld

/-- A granule that no core holds is unsealed (R144). -/
theorem State.unsealGranule_of_free {s : State} {g : Nat} (hs : s.isSealed g = true) (hfree : s.granuleHeld g = false) :
    s.unsealGranule g = { s with
      mm := { s.mm with sealed := SMap.set false s.mm.sealed g false, refused := false }
      cores := SMap.mapVals Core.zero (fun (_ : Nat) (c : Core) => c.dropGranule g) s.cores } := by
  unfold State.unsealGranule
  rw [if_neg (not_not.mpr hs)]
  exact if_neg (ne_true_of_eq_false hfree)

/-- SEAL and UNSEAL (R143, R144, R166). -/
theorem seal_unseal : (∀ (s : State) (v : W32), Completes (.seal v) s fun t =>
      (∀ g, t.isSealed g = (decide (g = v.toNat % 65536) || s.isSealed g)) ∧ t.mm.granule = v.setWidth 16 ∧ { t with mm := s.mm } = s)
    ∧ (∀ (s : State) (v : W32), v.getLsbD 16 = false →
      let g := v.toNat % 65536
      s.isSealed g = true →
      ((∀ k, (s.core k).drained = true ∨ (s.core k).caches g = false) → Completes (.unseal v) s fun t =>
        (∀ q, t.isSealed q = (decide (q ≠ g) && s.isSealed q)) ∧ t.mm.refused = false ∧ (∀ k, (t.core k).caches g = false)
          ∧ (∀ k, SameRegs s t k ∧ SameVregs s t k) ∧ { t with mm := s.mm, cores := s.cores } = s)
      ∧ ((∃ k, (s.core k).drained = false ∧ (s.core k).caches g = true) → Completes (.unseal v) s fun t =>
        (∀ q, t.isSealed q = s.isSealed q) ∧ t.mm.refused = true ∧ { t with mm := s.mm } = s)) := by
  have hnum : ∀ v : W32, (v.setWidth 16).toNat = v.toNat % 65536 := fun v => BitVec.toNat_setWidth 16 v
  refine ⟨fun s v => ⟨_, seal_eq s v, fun g => ?_, rfl, rfl⟩, fun s v hseal => ?_⟩
  · rw [← hnum]
    refine (State.isSealed_of_set (s := s) (b := true) rfl g).trans ?_
    by_cases hg : g = (v.setWidth 16).toNat <;> simp [hg]
  intro g hs
  refine ⟨fun hfree => ?_, fun hheld => ?_⟩
  · obtain ⟨r, hexec⟩ := unseal_eq s v hseal
    have hnone : s.granuleHeld g = false := by
      rw [← Bool.not_eq_true, State.granuleHeld_iff]
      rintro ⟨k, hdrained, hcaches⟩
      obtain h | h := hfree k
      · exact Bool.false_ne_true (hdrained.symm.trans h)
      · exact Bool.false_ne_true (h.symm.trans hcaches)
    refine ⟨_, hexec.trans (congrArg _ (State.unsealGranule_of_free hs hnone)), ?_⟩
    generalize ht : ({ s with mm := _, cores := _ } : State) = t
    have hcore : ∀ k, t.core k = (s.core k).dropGranule g := fun k => by
      rw [← ht]
      exact SMap.get_mapVals_of_fixed (fun _ => rfl) ..
    refine ⟨fun q => ?_, by rw [← ht], fun k => ?_, fun k => ⟨?_, ?_⟩, by rw [← ht]⟩
    · rw [← ht]
      refine (State.isSealed_of_set (s := s) (g := g) (b := false) rfl q).trans ?_
      by_cases hq : q = g <;> simp [hq]
    · rw [hcore]
      exact Core.caches_dropGranule ..
    · constructor <;> rw [hcore] <;> rfl
    · rw [SameVregs, hcore]
      rfl
  · obtain ⟨r, hexec⟩ := unseal_eq s v hseal
    exact ⟨_, hexec.trans (congrArg _ (State.unsealGranule_of_held hs ((s.granuleHeld_iff g).mpr hheld))), fun _ => rfl, rfl, rfl⟩

/-! Reports. -/

/-- A layer's dmax takes one report (R220). -/
def putReport (m : SMap W32) (r : Rpt) : SMap W32 :=
  if r.skip ∨ r.dmax.toNat ≤ (SMap.get 0 m r.layer.toNat).toNat then m else SMap.set 0 m r.layer.toNat r.dmax

/-- The dmax of a layer after one report of it, or of another. -/
theorem get_putReport (m : SMap W32) (r : Rpt) (l : Nat) : (SMap.get 0 (putReport m r) l).toNat =
    if (! r.skip && decide (r.layer.toNat = l)) = true then max (SMap.get 0 m l).toNat r.dmax.toNat else (SMap.get 0 m l).toNat := by
  unfold putReport
  split_ifs with hkeep hmine hmine
  · obtain ⟨hskip, hl⟩ : r.skip = false ∧ r.layer.toNat = l := by simpa using hmine
    obtain h | h := hkeep
    · exact absurd h (ne_true_of_eq_false hskip)
    · rw [hl] at h
      exact (max_eq_left h).symm
  · rfl
  · obtain ⟨-, rfl⟩ : r.skip = false ∧ r.layer.toNat = l := by simpa using hmine
    obtain ⟨-, h⟩ := not_or.mp hkeep
    rw [SMap.get_set_self]
    exact (max_eq_right (Nat.le_of_not_le h)).symm
  · obtain ⟨hskip, -⟩ := not_or.mp hkeep
    have hl : l ≠ r.layer.toNat := fun h => hmine (by simp [hskip, h])
    rw [SMap.get_set_other _ _ _ hl]

/-- The dmax of a layer after reports: the largest of it and theirs (R220). -/
theorem get_foldl_putReport (rs : List Rpt) (m : SMap W32) (l : Nat) : (SMap.get 0 (rs.foldl putReport m) l).toNat =
    (rs.filter fun r => ! r.skip && decide (r.layer.toNat = l)).foldl (fun a r => max a r.dmax.toNat) (SMap.get 0 m l).toNat := by
  induction rs generalizing m with
  | nil => rfl
  | cons r rs ih =>
    rw [List.foldl_cons, ih, get_putReport, List.filter_cons]
    split <;> rfl

/-- POP and REPORT_FIFO_READ (R220, R244). -/
theorem reports_leave : (∀ (s : State) (k : CoreId), Completes (.upeRptPop k) s fun t =>
      (t.core k).upe.rpt = (s.core k).upe.rpt.drop 1 ∧ OnlyCore s t k ∧ SameVregs s t k ∧ (t.core k).tiles = (s.core k).tiles)
    ∧ (∀ (s : State) (k : CoreId), (128 ≤ (s.core k).upe.rpt.length ∨ (s.core k).ended = true) → Completes (.reportFifoRead k) s fun t =>
      (t.core k).upe.rpt = []
        ∧ (∀ l, (SMap.get 0 t.stp.carried.dmax l).toNat =
            ((s.core k).upe.rpt.filter fun r => ! r.skip && decide (r.layer.toNat = l)).foldl (fun a r => max a r.dmax.toNat)
              (SMap.get 0 s.stp.carried.dmax l).toNat)
        ∧ t.mem = s.mem ∧ SameVregs s t k ∧ (∀ j, j ≠ k → t.core j = s.core j)) := by
  refine ⟨fun s k => ⟨_, rfl, ?_, ⟨rfl, fun j hj => State.core_modCore_other _ _ hj⟩, ?_, ?_⟩, fun s k hready => ?_⟩
  · rw [State.core_modCore_self]
  · rw [SameVregs, State.core_modCore_self]
  · rw [State.core_modCore_self]
  · have hexec : exec (.reportFifoRead k) s = .next (s.takeReports k) := if_pos hready
    refine ⟨_, hexec, ?_, fun l => get_foldl_putReport _ _ l, rfl, ?_, fun j hj => ?_⟩
    · rw [State.takeReports, State.core_modCore_self]
    · rw [SameVregs, State.takeReports, State.core_modCore_self]
      rfl
    · rw [State.takeReports, State.core_modCore_other _ _ hj]
      rfl

/-! Traces. -/

/-- An entry of the log stays when one more enters, if it is the newest. -/
theorem mem_newestLogs_last (l : List LogEnt) (e : LogEnt) : e ∈ newestLogs (l ++ [e]) := by
  unfold newestLogs
  rw [List.reverse_append, List.mem_reverse]
  exact List.mem_cons_self

theorem mem_newestLogs_second (l : List LogEnt) (e e' : LogEnt) : e ∈ newestLogs (newestLogs (l ++ [e]) ++ [e']) := by
  unfold newestLogs
  rw [List.reverse_append, List.reverse_reverse, List.reverse_append, List.mem_reverse]
  exact List.mem_cons_of_mem _ List.mem_cons_self

/-- Telling of lost traces leaves memory, the newest entry of the log, and of its core all but the count that has been told (R482). -/
theorem State.traceLost_spec (s : State) (k : CoreId) : (s.traceLost k).mem = s.mem
    ∧ (∃ n, (s.traceLost k).core k = { s.core k with trc := { (s.core k).trc with lostLogged := n } })
    ∧ (∀ j, j ≠ k → (s.traceLost k).core j = s.core j)
    ∧ ∀ l e, s.rings.log = newestLogs (l ++ [e]) → e ∈ (s.traceLost k).rings.log := by
  unfold State.traceLost
  extract_lets c
  split
  · exact ⟨rfl, ⟨(s.core k).trc.lostLogged, rfl⟩, fun _ _ => rfl, fun l e h => by rw [h]; exact mem_newestLogs_last l e⟩
  · refine ⟨rfl, ⟨(s.core k).trc.lost, ?_⟩, fun j hj => ?_, fun l e h => ?_⟩
    · rw [State.core_modCore_self, State.core_congr (State.log_cores ..)]
    · rw [State.core_modCore_other _ _ hj, State.core_congr (State.log_cores ..)]
    · show e ∈ newestLogs (s.rings.log ++ _)
      rw [h]
      exact mem_newestLogs_second ..

/-- Four traces leave the FIFO for a log entry, and of the core nothing but its trace block changes (R485). -/
theorem State.moveTrace_four (s : State) (k : CoreId) : (s.moveTrace k 4).mem = s.mem
    ∧ (∃ e ∈ (s.moveTrace k 4).rings.log, e.kind = 0x0010 ∧ e.payload = ((s.core k).trc.fifo.take 4).flatMap TraceRec.fields)
    ∧ (∃ m, m.fifo = (s.core k).trc.fifo.drop 4 ∧ (s.moveTrace k 4).core k = { s.core k with trc := m })
    ∧ ∀ j, j ≠ k → (s.moveTrace k 4).core j = s.core j := by
  unfold State.moveTrace
  rw [if_neg (by decide)]
  extract_lets s1
  generalize hs2 : (s1.modCore k fun x => { x with trc := { x.trc with fifo := x.trc.fifo.drop 4 } }) = s2
  have hcore : s2.core k = { s.core k with trc := { (s.core k).trc with fifo := (s.core k).trc.fifo.drop 4 } } := by
    rw [← hs2, State.core_modCore_self]
    rfl
  have hother : ∀ j, j ≠ k → s2.core j = s.core j := fun j hj => by
    rw [← hs2, State.core_modCore_other _ _ hj]
    rfl
  have hmem : s2.mem = s.mem := by rw [← hs2]; rfl
  have hlog : s2.rings.log = newestLogs (s.rings.log ++
      [⟨0x0010, 2, s.rings.logNext, s.stepField, s.attemptField, ((s.core k).trc.fifo.take 4).flatMap TraceRec.fields⟩]) := by
    rw [← hs2]
    rfl
  obtain ⟨htmem, htcore, htother, htlog⟩ := s2.traceLost_spec k
  refine ⟨htmem.trans hmem, ⟨_, htlog _ _ hlog, rfl, rfl⟩, ?_, fun j hj => (htother j hj).trans (hother j hj)⟩
  obtain ⟨n, hn⟩ := htcore
  rw [hcore] at hn
  exact ⟨{ (s.core k).trc with fifo := (s.core k).trc.fifo.drop 4, lostLogged := n }, rfl, hn⟩

/-- Where nothing waits to issue, nothing issues. -/
theorem State.reissue_of_nil {s : State} {k : CoreId} (h : (s.core k).waitq = []) :
    s.reissue k = some (s.modCore k fun c => { c with waitq := [] }) := by
  unfold State.reissue
  rw [h]
  rfl

/-- TRACE_DRAIN (R485). -/
theorem traceDrain_completes {s : State} {k : CoreId} (hfour : 4 ≤ (s.core k).trc.fifo.length) (hwait : (s.core k).waitq = []) :
    Completes (.traceDrain k) s fun t =>
      (t.core k).trc.fifo = (s.core k).trc.fifo.drop 4 ∧ (∃ e ∈ t.rings.log, e.kind = 0x0010 ∧ e.payload = ((s.core k).trc.fifo.take 4).flatMap TraceRec.fields)
        ∧ t.mem = s.mem ∧ SameRegs s t k ∧ SameVregs s t k ∧ (∀ j, j ≠ k → t.core j = s.core j) := by
  obtain ⟨hmem, hlog, ⟨m, hfifo, hcore⟩, hother⟩ := s.moveTrace_four k
  have hexec : exec (.traceDrain k) s = .next ((s.moveTrace k 4).modCore k fun c => { c with waitq := [] }) := by
    show execTraceDrain k s = _
    unfold execTraceDrain
    extract_lets c n t
    have hn : n = 4 := if_pos hfour
    show (if n = 0 then Host.Outcome.next (s.moveTrace k n) else State.answer ((s.moveTrace k n).reissue k)) = _
    rw [hn]
    exact congrArg State.answer (State.reissue_of_nil (by rw [hcore]; exact hwait))
  refine ⟨_, hexec, ?_, hlog, hmem, ?_, ?_, fun j hj => ?_⟩
  · rw [State.core_modCore_self, hcore]
    exact hfifo
  · constructor <;> rw [State.core_modCore_self, hcore]
  · rw [SameVregs, State.core_modCore_self, hcore]
  · rw [State.core_modCore_other _ _ hj]
    exact hother j hj

/-- Settles O44, by its three parts: sealing, reports, traces. -/
theorem coreService : Obligations.CoreService := by
  unfold Obligations.CoreService
  obtain ⟨hpop, hread⟩ := reports_leave
  exact ⟨seal_unseal, hpop, hread, fun _ _ hfour hwait => traceDrain_completes hfour hwait⟩

end Sys2Proof.Machine
end

section
/-! The debug port (R364-R367). -/

namespace Sys2Proof.Machine

open Sys2Proof

/-! Regions below LPDDR5X and from it on (R11). -/

/-- A region of LPDDR5X. -/
def Region.isLp : Region → Bool
  | .granule _ | .kelgil | .code _ | .lpCheck | .record | .lpRsv | .tags => true
  | _ => false

/-- Below LPDDR5X no region of it lies. -/
theorem regionOf_of_lt {x : Nat} (hx : x < lpBase) : (regionOf x).isLp = false := by
  have hlp : ¬ (lpBase ≤ x ∧ x < lpBase + 0x8000000000) := fun hl => absurd hl.1 (Nat.not_le.mpr hx)
  have hcsr : ¬ (0x0F0000000000 ≤ x ∧ x < 0x0F0100200000 ∧ csrMapped x = true) := by rw [lpBase] at hx; omega
  unfold regionOf
  rw [if_neg hlp, if_neg hcsr]
  by_cases hcol : x < 0x0005FD000000
  · rw [if_pos hcol]
    extract_lets k o
    repeat' split
    all_goals rfl
  by_cases hshared : sharedBase ≤ x ∧ x < sharedBase + 0x40000000
  · rw [if_neg hcol, if_pos hshared]
    extract_lets o
    repeat' split
    all_goals rfl
  · rw [if_neg hcol, if_neg hshared]
    rfl

/-- From LPDDR5X on lie its regions, the control and status region, or none. -/
theorem regionOf_of_le {x : Nat} (hx : lpBase ≤ x) : (regionOf x).isLp = true ∨ regionOf x = .csr ∨ regionOf x = .outside := by
  have hcol : ¬ x < 0x0005FD000000 := by rw [lpBase] at hx; omega
  have hshared : ¬ (sharedBase ≤ x ∧ x < sharedBase + 0x40000000) := by rw [lpBase] at hx; rw [sharedBase]; omega
  unfold regionOf
  rw [if_neg hcol, if_neg hshared]
  by_cases hlp : lpBase ≤ x ∧ x < lpBase + 0x8000000000
  · rw [if_pos hlp]
    refine .inl ?_
    extract_lets o
    repeat' split
    all_goals rfl
  · rw [if_neg hlp]
    refine .inr ?_
    by_cases hcsr : 0x0F0000000000 ≤ x ∧ x < 0x0F0100200000 ∧ csrMapped x = true
    · exact .inl (if_pos hcsr)
    · exact .inr (if_neg hcsr)
/-! Requests by the mailbox or by the port. -/

/-- A debug request that reaches the island runs its effect on the module, whose mailbox alone has noted it, and its reply changes the
host interface alone. -/
theorem State.debugReq_reaches {s : State} {via : Option Mb} (h : Reaches s via) {f : State → State × Answer}
    (hans : ∀ u, ∃ st d p, (f u).2 = .now st d p ∧ p.size ≤ 4080) :
    ∃ u : State, (u.sec = s.sec ∧ u.mem = s.mem ∧ u.cores = s.cores ∧ u.draws = s.draws)
      ∧ { s.debugReq via f with hif := (f u).1.hif } = (f u).1 := by
  cases via with
  | none =>
    have hreq : s.debugReq none f = (f s).1 := if_pos (show s.dbgUp = true from h)
    exact ⟨s, ⟨rfl, rfl, rfl, rfl⟩, by rw [hreq]⟩
  | some m =>
    obtain ⟨st, d, p, hanswer, hsize⟩ := hans (s.taken m)
    have hreq : s.debugReq (some m) f = (f (s.taken m)).1.postReply ⟨0x0062, m.seq, st, d, p, none⟩ := by
      rw [State.debugReq, State.request_accepts h (.inl rfl), hanswer]
    rw [hreq]
    exact ⟨s.taken m, ⟨rfl, rfl, rfl, rfl⟩, State.postReply_rest _ hsize⟩

/-- The effect of OPEN1 and CLOSE, and their answers. -/
def State.open1 (s : State) : State × Answer :=
  if s.sec.dlevel = 0 then (s.setStates s.sec.sstate 1 s.sec.pstate, .ok) else (s, if s.sec.dlevel = 1 then .ok else .no stState)

def State.close1 (s : State) : State × Answer :=
  if s.sec.dlevel ≥ 2 then (s, .no stDebug)
  else if s.sec.dlevel = 1 then ((s.setStates s.sec.sstate 0 s.sec.pstate).clearMasks, .ok) else (s, .ok)

theorem State.open1_answer (s : State) : ∃ st d p, s.open1.2 = .now st d p ∧ p.size ≤ 4080 := by
  unfold State.open1
  split
  · exact ⟨_, _, _, rfl, Nat.zero_le _⟩
  · split <;> exact ⟨_, _, _, rfl, Nat.zero_le _⟩

theorem State.close1_answer (s : State) : ∃ st d p, s.close1.2 = .now st d p ∧ p.size ≤ 4080 := by
  unfold State.close1
  split
  · exact ⟨_, _, _, rfl, Nat.zero_le _⟩
  · split <;> exact ⟨_, _, _, rfl, Nat.zero_le _⟩

/-- D0 to D1 (R364). -/
theorem dbgOpen1_completes {s : State} {via : Option Mb} (h : Reaches s via) (hl : s.sec.dlevel = 0) :
    Completes (.dbgOpen1 via) s fun t =>
      t.sec.dlevel = 1 ∧ t.sec.sstate = s.sec.sstate ∧ t.sec.pstate = s.sec.pstate ∧ t.mem = s.mem ∧ t.cores = s.cores := by
  obtain ⟨u, ⟨hsec, hmem, hcores, -⟩, ht⟩ := State.debugReq_reaches h State.open1_answer
  rw [State.open1, if_pos (by rw [hsec]; exact hl)] at ht
  have htsec := congrArg State.sec ht
  have htmem := congrArg State.mem ht
  have htcores := congrArg State.cores ht
  rw [State.setStates_sec, hsec] at htsec
  rw [State.setStates_mem, hmem] at htmem
  rw [State.setStates_cores, hcores] at htcores
  have hdlevel := congrArg Sec.dlevel htsec
  have hsstate := congrArg Sec.sstate htsec
  have hpstate := congrArg Sec.pstate htsec
  exact ⟨_, rfl, hdlevel, hsstate, hpstate, htmem, htcores⟩

/-- D1 to D0, with every trace mask cleared (R364, R486). -/
theorem debugClose_completes {s : State} {via : Option Mb} (h : Reaches s via) (hl : s.sec.dlevel = 1) :
    Completes (.debugClose via) s fun t =>
      t.sec.dlevel = 0 ∧ t.sec.sstate = s.sec.sstate ∧ t.mon.mmask = 0 ∧ (∀ k, (t.core k).trc.kinds = 0 ∧ (t.core k).trc.stall = false)
        ∧ t.mem = s.mem := by
  obtain ⟨u, ⟨hsec, hmem, -⟩, ht⟩ := State.debugReq_reaches h State.close1_answer
  rw [State.close1, if_neg (by rw [hsec, hl]; decide), if_pos (by rw [hsec]; exact hl)] at ht
  have htsec := congrArg State.sec ht
  have htmem := congrArg State.mem ht
  have htmask := congrArg (fun x : State => x.mon.mmask) ht
  have htcore := State.core_congr (congrArg State.cores ht)
  rw [State.clearMasks_sec, State.setStates_sec, hsec] at htsec
  rw [State.clearMasks_mem, State.setStates_mem, hmem] at htmem
  have hdlevel := congrArg Sec.dlevel htsec
  have hsstate := congrArg Sec.sstate htsec
  refine ⟨_, rfl, hdlevel, hsstate, htmask, fun k => ?_, htmem⟩
  have hcore := (congrFun htcore k).trans (State.core_clearMasks _ k)
  exact ⟨congrArg (fun c : Core => c.trc.kinds) hcore, congrArg (fun c : Core => c.trc.stall) hcore⟩

/-- A nonce is drawn (R365). -/
theorem debugNonce_completes {s : State} {via : Option Mb} (h : Reaches s via) :
    Completes (.debugNonce via) s fun t => ∃ n, t.sec.dbgNonce = some n ∧ t.draws = s.draws + 1 ∧ t.mem = s.mem ∧ t.cores = s.cores := by
  obtain ⟨u, ⟨-, hmem, hcores, hdraws⟩, ht⟩ := State.debugReq_reaches h (f := fun t =>
      let d := t.draw
      ({ d.2 with sec := { d.2.sec with dbgNonce := some d.1 } }, .now stOk 0 (.bytes (leBytes 32 d.1.toNat)))) fun u =>
    ⟨_, _, _, rfl, by rw [Payload.size, leBytes_length]; omega⟩
  have htnonce := congrArg (fun x : State => x.sec.dbgNonce) ht
  have htdraws := congrArg State.draws ht
  have htmem := congrArg State.mem ht
  have htcores := congrArg State.cores ht
  exact ⟨_, rfl, u.draw.1, htnonce, htdraws.trans (congrArg (· + 1) hdraws), htmem.trans hmem, htcores.trans hcores⟩

/-- A reset of the host interface closes D1 (R364, R365). -/
theorem hostInterfaceReset_closes {s : State} {src : HifReset} (hl : s.sec.dlevel = 1) : Completes (.hostInterfaceReset src) s fun t =>
    t.sec.dlevel = 0 ∧ t.sec.dbgNonce = none ∧ t.mon.mmask = 0 ∧ ∀ k, (t.core k).trc.kinds = 0 ∧ (t.core k).trc.stall = false := by
  refine ⟨_, rfl, ?_⟩
  generalize hu : s.detach.closeD1 = u
  have hclosed : u = (({ s.detach with sec := { s.detach.sec with dbgNonce := none } } : State).setStates s.sec.sstate 0 s.sec.pstate).clearMasks := by
    rw [← hu]
    unfold State.closeD1
    exact if_pos hl
  have hsec : u.sec = { s.sec with dbgNonce := none, sstate := s.sec.sstate, dlevel := 0, pstate := s.sec.pstate } := by
    rw [hclosed, State.clearMasks_sec, State.setStates_sec]
    rfl
  refine ⟨congrArg Sec.dlevel hsec, congrArg Sec.dbgNonce hsec, congrArg (fun x : State => x.mon.mmask) hclosed, fun k => ?_⟩
  show (u.core k).trc.kinds = 0 ∧ (u.core k).trc.stall = false
  rw [hclosed, State.core_clearMasks]
  exact ⟨rfl, rfl⟩

/-! Violations of the port, and levels. -/

/-- A violation of the debug port freezes it; its nonce, its JTAG instruction and memory stay (R366, R367). -/
theorem State.violateDebug_keeps (s : State) (code addr : Nat) : (s.violateDebug code addr).sec.dbgFrozen = true
    ∧ (s.violateDebug code addr).sec.dbgNonce = s.sec.dbgNonce ∧ (s.violateDebug code addr).sec.jtag = s.sec.jtag
    ∧ (s.violateDebug code addr).mem = s.mem := by
  unfold State.violateDebug
  generalize hu : ({ s with sec := { s.sec with dbgFrozen := true } } : State).raise 0x0030 engDebug noCore 0 0 [] addr code = u
  have hsec : u.sec = { s.sec with dbgFrozen := true } := by rw [← hu, State.raise_sec]
  have hmem : u.mem = s.mem := by rw [← hu, State.raise_mem]
  obtain ⟨hkept, -⟩ := u.countViol_keeps
  have hfrozen := congrArg Sec.dbgFrozen hkept
  have hnonce := congrArg Sec.dbgNonce hkept
  have hjtag := congrArg Sec.jtag hkept
  rw [hsec] at hfrozen hnonce hjtag
  exact ⟨hfrozen, hnonce, hjtag, (State.countViol_mem _).trans hmem⟩

theorem State.violateDebug_freezes (s : State) (code addr : Nat) :
    (s.violateDebug code addr).sec.dbgFrozen = true ∧ (s.violateDebug code addr).mem = s.mem :=
  ⟨(s.violateDebug_keeps code addr).1, (s.violateDebug_keeps code addr).2.2.2⟩

section
variable {s : State} {level : Nat}

theorem State.atLevel_of_le (hup : s.dbgUp = true) (hl : level ≤ s.sec.dlevel) (f : State → State) : s.atLevel level f = f s := by
  unfold State.atLevel
  rw [if_neg (not_not.mpr hup), if_neg (Nat.not_lt.mpr hl)]

theorem State.atLevel_of_lt (hup : s.dbgUp = true) (hl : s.sec.dlevel < level) (f : State → State) :
    s.atLevel level f = s.violateDebug 0x04 0 := by
  unfold State.atLevel
  rw [if_neg (not_not.mpr hup), if_pos hl]

/-- A JTAG instruction of a level (R367). -/
theorem State.jtag_spec (hup : s.dbgUp = true) (j : Jtag) :
    (level ≤ s.sec.dlevel → (s.jtag level j).sec.jtag = j ∧ { s.jtag level j with sec := { (s.jtag level j).sec with jtag := s.sec.jtag } } = s)
      ∧ (s.sec.dlevel < level → (s.jtag level j).sec.dbgFrozen = true ∧ (s.jtag level j).sec.jtag = s.sec.jtag
        ∧ (s.jtag level j).mem = s.mem) := by
  unfold State.jtag
  refine ⟨fun hl => ?_, fun hl => ?_⟩
  · rw [State.atLevel_of_le hup hl]
    exact ⟨rfl, rfl⟩
  · rw [State.atLevel_of_lt hup hl]
    obtain ⟨hfrozen, -, hjtag, hmem⟩ := s.violateDebug_keeps 0x04 0
    exact ⟨hfrozen, hjtag, hmem⟩

end

/-! Tokens. -/

/-- What a token does (R366). -/
theorem debugToken_completes {s : State} {x : DbgToken} (hup : s.dbgUp = true) :
    (s.tokenOk x = true → s.sec.pstate < 2 → s.sec.dlevel < x.level.toNat →
      (x.level = 2 → s.sec.trans = none → Completes (.debugToken x) s fun t =>
        t.sec.trans = some (.debugOpen 2) ∧ t.sec.scrub = true ∧ t.sec.dbgNonce = none ∧ t.sec.dlevel = s.sec.dlevel ∧ t.mem = s.mem)
      ∧ (x.level = 3 → Completes (.debugToken x) s fun t =>
        t.sec.dlevel = 3 ∧ t.sec.dbgNonce = none ∧ t.sec.sstate = s.sec.sstate ∧ t.mem = s.mem ∧ t.cores = s.cores))
    ∧ (s.tokenOk x = false → Completes (.debugToken x) s fun t =>
      t.sec.dbgFrozen = true ∧ t.sec.dbgNonce = s.sec.dbgNonce ∧ t.mem = s.mem) := by
  have hexec : exec (.debugToken x) s = if ¬ s.tokenOk x then .next (s.violateDebug 0x33 0)
      else if s.sec.pstate ≥ 2 ∨ s.sec.dlevel ≥ x.level.toNat then .next s
      else if x.level = 2 then .next (({ s with sec := { s.sec with dbgNonce := none } } : State).startTrans (.debugOpen 2))
      else .next (({ s with sec := { s.sec with dbgNonce := none } } : State).setStates s.sec.sstate 3 s.sec.pstate) :=
    if_neg (not_not.mpr hup)
  refine ⟨fun hok hp hl => ?_, fun hbad => ?_⟩
  · have hallowed : ¬ (s.sec.pstate ≥ 2 ∨ s.sec.dlevel ≥ x.level.toNat) := by omega
    rw [if_neg (not_not.mpr hok), if_neg hallowed] at hexec
    refine ⟨fun htwo hidle => ?_, fun hthree => ?_⟩
    · rw [if_pos htwo] at hexec
      refine ⟨_, hexec, ?_⟩
      have hbegin : ({ s with sec := { s.sec with dbgNonce := none } } : State).startTrans (.debugOpen 2) =
          ({ s with sec := { s.sec with dbgNonce := none } } : State).beginTrans (.debugOpen 2) :=
        if_pos (Option.isNone_iff_eq_none.mpr hidle)
      rw [hbegin]
      exact ⟨rfl, rfl, rfl, rfl, rfl⟩
    · rw [if_neg (by rw [hthree]; decide)] at hexec
      have hsec := State.setStates_sec ({ s with sec := { s.sec with dbgNonce := none } } : State) s.sec.sstate 3 s.sec.pstate
      have hdlevel := congrArg Sec.dlevel hsec
      have hnonce := congrArg Sec.dbgNonce hsec
      have hsstate := congrArg Sec.sstate hsec
      exact ⟨_, hexec, hdlevel, hnonce, hsstate, State.setStates_mem .., State.setStates_cores ..⟩
  · rw [if_pos (ne_true_of_eq_false hbad)] at hexec
    obtain ⟨hfrozen, hnonce, -, hmem⟩ := s.violateDebug_keeps 0x33 0
    exact ⟨_, hexec, hfrozen, hnonce, hmem⟩

/-! Halt, step and resume. -/

/-- Halting a core, or letting it go on, changes its two halt bits alone. -/
theorem State.setHalt_core (s : State) (k : CoreId) (on : Bool) : ((s.setHalt (.core k) on).core k).halted = on
    ∧ ((s.setHalt (.core k) on).core k).stepOne = false ∧ OnlyCore s (s.setHalt (.core k) on) k ∧ SameRegs s (s.setHalt (.core k) on) k
    ∧ SameVregs s (s.setHalt (.core k) on) k := by
  have hcore : (s.setHalt (.core k) on).core k = { s.core k with halted := on, stepOne := false } := State.core_modCore_self ..
  refine ⟨congrArg Core.halted hcore, congrArg Core.stepOne hcore, ⟨rfl, fun j hj => State.core_modCore_other _ _ hj⟩, ?_, ?_⟩
  · constructor <;> rw [hcore]
  · rw [SameVregs, hcore]

/-- Halt, single step and resume act from D2 on (R367). -/
theorem debugUnit_completes {s : State} (hup : s.dbgUp = true) (hl : 2 ≤ s.sec.dlevel) :
    (∀ k, Completes (.debugHalt (.core k)) s fun t =>
      (t.core k).halted = true ∧ (t.core k).stepOne = false ∧ OnlyCore s t k ∧ SameRegs s t k ∧ SameVregs s t k)
    ∧ (∀ n, Completes (.debugHalt (.ctrl n)) s fun t => n.val ∈ t.sec.ctrlHalted ∧ { t with sec := s.sec } = s)
    ∧ (∀ u, Completes (.debugSingleStep u) s fun t =>
      match u with
      | .core k => (t.core k).stepOne = (s.core k).halted ∧ (t.core k).halted = (s.core k).halted ∧ OnlyCore s t k ∧ SameRegs s t k
      | .ctrl _ => t = s)
    ∧ (∀ k, Completes (.debugResume (.core k)) s fun t => (t.core k).halted = false ∧ OnlyCore s t k ∧ SameRegs s t k ∧ SameVregs s t k)
    ∧ (∀ n, Completes (.debugResume (.ctrl n)) s fun t => n.val ∉ t.sec.ctrlHalted ∧ { t with sec := s.sec } = s) := by
  have hhalt : ∀ u, exec (.debugHalt u) s = .next (s.setHalt u true) := fun u => congrArg _ (State.atLevel_of_le hup hl _)
  have hresume : ∀ u, exec (.debugResume u) s = .next (s.setHalt u false) := fun u => congrArg _ (State.atLevel_of_le hup hl _)
  refine ⟨fun k => ⟨_, hhalt _, s.setHalt_core k true⟩, fun n => ⟨_, hhalt _, ?_, rfl⟩, fun u => ?_, fun k => ?_,
    fun n => ⟨_, hresume _, ?_, rfl⟩⟩
  · exact List.mem_append_right _ (List.mem_singleton.mpr rfl)
  · cases u with
    | core k =>
      have hstep : exec (.debugSingleStep (.core k)) s = .next (s.modCore k fun c => { c with stepOne := c.halted }) :=
        congrArg Host.Outcome.next (State.atLevel_of_le hup hl _)
      have hcore := State.core_modCore_self s k fun c => { c with stepOne := c.halted }
      have hone := congrArg Core.stepOne hcore
      have hhalted := congrArg Core.halted hcore
      refine ⟨_, hstep, hone, hhalted, ⟨rfl, fun j hj => State.core_modCore_other _ _ hj⟩, ?_⟩
      constructor <;> rw [hcore]
    | ctrl n => exact ⟨s, congrArg Host.Outcome.next (State.atLevel_of_le hup hl _), rfl⟩
  · obtain ⟨hhalted, -, honly, hregs, hvregs⟩ := s.setHalt_core k false
    exact ⟨_, hresume _, hhalted, honly, hregs, hvregs⟩
  · intro hn
    exact absurd (List.mem_filter.mp hn).2 (by simp)

/-! Accesses. -/

/-- What the debug port answers an access that waits for nothing. -/
def State.debugReach (s : State) (a : DbgAccess) : State :=
  match a.target with
  | .counters | .trc | .registers => s.dbgReg a
  | .log => if a.write.isSome ∨ ¬ s.dbgLog a.addr then s.violateDebug 0x04 a.addr else s
  | .traces => if a.write.isSome then s.violateDebug 0x04 a.addr else s
  | .stack => s.dbgMem a s.dbgStack 2
  | .lpddr => s.dbgMem a dbgLp 3
  | .sec | .keyStore | .taglessOther => s.violateDebug 0x04 a.addr

section
variable {s : State} {a : DbgAccess}

theorem debugAccess_of_free (hup : s.dbgUp = true) (hl : 1 ≤ s.sec.dlevel) (hscrub : s.sec.scrub = false)
    (hwaits : a.target = .lpddr → s.waits [(a.addr, 4)] = false) : exec (.debugAccess a) s = .next (s.debugReach a) := by
  show execDebugAccess a s = _
  unfold execDebugAccess
  rw [State.atLevel_of_le hup hl, if_neg]
  · rfl
  · rintro (h | ⟨htarget, h⟩)
    · exact Bool.false_ne_true (hscrub.symm.trans h)
    · exact Bool.false_ne_true ((hwaits htarget).symm.trans h)

/-- An access during a scrub, and one of a package under retraining, waits (R155, R372). -/
theorem debugAccess_waits (hup : s.dbgUp = true) (hl : 1 ≤ s.sec.dlevel)
    (hwaits : s.sec.scrub = true ∨ (a.target = .lpddr ∧ s.waits [(a.addr, 4)] = true)) :
    exec (.debugAccess a) s = .next (s.wait (.debugAccess a)) := by
  show execDebugAccess a s = _
  unfold execDebugAccess
  rw [State.atLevel_of_le hup hl, if_pos hwaits]

/-! Registers. -/

theorem State.dbgReg_of_some {r : RegAddr} (haddr : csrAddr a.addr = some r) (hblock : dbgBlock a.target r = true) (hreg : (s.reg r).isSome = true) :
    s.dbgReg a =
      match a.write with
      | none =>
        if 2 ≤ s.sec.dlevel ∨ a.target = .trc ∨ (a.target = .counters ∧ s.telBit r = none) then s.readLatch r else s.violateDebug 0x04 a.addr
      | some v =>
        if (3 ≤ s.sec.dlevel ∧ a.target ≠ .trc) ∨ (a.target = .trc ∧ trcWritable r) then (s.csrWrite r v).getD s
        else s.violateDebug 0x04 a.addr := by
  unfold State.dbgReg
  rw [haddr]
  show (if (s.reg r).isNone = true then _ else _) = _
  have hreg' : ¬ (s.reg r).isNone = true := by rw [Option.isNone_iff_eq_none]; exact Option.isSome_iff_ne_none.mp hreg
  exact (if_neg hreg').trans (if_neg (not_not.mpr hblock))

/-- Registers of every block but SEC_: written at D3, read from D2 on (R367). -/
theorem debugReach_registers {r : RegAddr} {u : State} (ht : a.target = .registers) (haddr : csrAddr a.addr = some r)
    (hblock : dbgBlock .registers r = true) (hreg : (s.reg r).isSome = true) :
    (∀ v, a.write = some v → 3 ≤ s.sec.dlevel → s.csrWrite r v = some u → s.debugReach a = u)
      ∧ (a.write = none → 2 ≤ s.sec.dlevel → s.debugReach a = s.readLatch r) := by
  have hreach : s.debugReach a = s.dbgReg a := by rw [State.debugReach, ht]
  have hreg' := State.dbgReg_of_some haddr (by rw [ht]; exact hblock) hreg
  refine ⟨fun v hw hl hu => ?_, fun hw hl => ?_⟩
  · rw [hreach, hreg', hw]
    show (if _ then _ else _) = u
    rw [if_pos (.inl ⟨hl, by rw [ht]; decide⟩), hu]
    rfl
  · rw [hreach, hreg', hw]
    exact if_pos (.inl hl)

/-- The PUBLIC counters and the TRC_ blocks from D1 on (R367, R486). -/
theorem debugReach_counters {r : RegAddr} (ht : a.target = .counters ∨ a.target = .trc) (haddr : csrAddr a.addr = some r)
    (hblock : dbgBlock a.target r = true) (hreg : (s.reg r).isSome = true) :
    (a.write = none → (a.target = .trc ∨ s.telBit r = none) → s.debugReach a = s.readLatch r)
      ∧ (∀ v u, a.target = .trc → trcWritable r = true → a.write = some v → s.csrWrite r v = some u → s.debugReach a = u)
      ∧ (a.target = .trc → trcWritable r = false → a.write.isSome = true → s.debugReach a = s.violateDebug 0x04 a.addr) := by
  have hreach : s.debugReach a = s.dbgReg a := by
    obtain h | h := ht <;> rw [State.debugReach, h]
  have hreg' := State.dbgReg_of_some haddr hblock hreg
  refine ⟨fun hw hpublic => ?_, fun v u htrc hwritable hw hu => ?_, fun htrc hfixed hw => ?_⟩
  · rw [hreach, hreg', hw]
    refine if_pos (.inr ?_)
    obtain h | h := ht
    · exact hpublic.imp_right fun htel => ⟨h, htel⟩
    · exact .inl h
  · rw [hreach, hreg', hw]
    show (if _ then _ else _) = u
    rw [if_pos (.inr ⟨htrc, hwritable⟩), hu]
    rfl
  · obtain ⟨v, hv⟩ := Option.isSome_iff_exists.mp hw
    rw [hreach, hreg', hv]
    refine if_neg ?_
    rintro (⟨-, h⟩ | ⟨-, h⟩)
    · exact h htrc
    · exact Bool.false_ne_true (hfixed.symm.trans h)

/-! Memory. -/

/-- What the debug port reaches by physical address lies in the stack, below LPDDR5X. -/
theorem State.isSram_of_dbgStack {x : Nat} (h : s.dbgStack x = true) : isSram x = true ∧ regionOf x ≠ .outside ∧ ∀ g, regionOf x ≠ .code g := by
  unfold State.dbgStack at h
  refine ⟨decide_eq_true (Nat.lt_of_not_le fun hx => ?_), fun hout => ?_, fun g hcode => ?_⟩
  · obtain hlp | hcsr | hout := regionOf_of_le hx
    · revert h hlp
      cases regionOf x <;> simp [Region.isLp]
    · rw [hcsr] at h
      exact Bool.false_ne_true h
    · rw [hout] at h
      exact Bool.false_ne_true h
  · rw [hout] at h
    exact Bool.false_ne_true h
  · rw [hcode] at h
    exact Bool.false_ne_true h

/-- What the debug port reaches through the controllers lies in LPDDR5X. -/
theorem isSram_of_dbgLp {x : Nat} (h : dbgLp x = true) : isSram x = false ∧ regionOf x ≠ .outside := by
  unfold dbgLp at h
  refine ⟨decide_eq_false fun hx => ?_, fun hout => ?_⟩
  · have hlow := regionOf_of_lt hx
    revert h hlow
    cases regionOf x <;> simp [Region.isLp]
  · rw [hout] at h
    exact Bool.false_ne_true h

/-- A memory access within what the port reaches, from its level on, to no sealed granule. -/
theorem State.dbgMem_of_ok {ok : Nat → Bool} {rd : Nat} (hin : regionOf a.addr ≠ .outside ∧ regionOf (a.addr + 3) ≠ .outside)
    (hok : ok a.addr = true ∧ ok (a.addr + 3) = true) (hl : (if a.write.isSome then 3 else rd) ≤ s.sec.dlevel)
    (hsealed : ∀ g, regionOf a.addr = .code g → s.isSealed g = false) :
    s.dbgMem a ok rd =
      if ¬ isSram a.addr ∧ (a.poison ∨ s.mm.poisoned.contains (a.addr / 512)) then s.macFail a.addr noCore
      else
        match a.write with
        | none => s
        | some v =>
          if isSram a.addr then { s with mem := memWrite s.mem a.addr (leBytes 4 v.toNat) }
          else writeRuns s (entryCvp (chkGet s (a.addr / 4096))) [(a.addr, leBytes 4 v.toNat)] := by
  unfold State.dbgMem
  extract_lets sealed'
  have hopen : sealed' = false := by
    show (match regionOf a.addr with | .code g => s.isSealed g | _ => false) = false
    split
    · next g hg => exact hsealed g hg
    · rfl
  have hwithin : ¬ (regionOf a.addr = .outside ∨ regionOf (a.addr + 3) = .outside) := not_or.mpr hin
  have hallowed : ¬ (¬ ok a.addr = true ∨ ¬ ok (a.addr + 3) = true) := not_or.mpr ⟨not_not.mpr hok.1, not_not.mpr hok.2⟩
  have hread : ¬ (a.write.isSome = true ∧ sealed' = true) := by rw [hopen]; exact fun h => Bool.false_ne_true h.2
  exact (if_neg hwithin).trans ((if_neg hallowed).trans ((if_neg (Nat.not_lt.mpr hl)).trans (if_neg hread)))

/-- The stack by physical address: written at D3, read from D2 on (R367). -/
theorem debugReach_stack (ht : a.target = .stack) (hlo : s.dbgStack a.addr = true) (hhi : s.dbgStack (a.addr + 3) = true) :
    (∀ v, a.write = some v → 3 ≤ s.sec.dlevel → s.debugReach a = { s with mem := memWrite s.mem a.addr (leBytes 4 v.toNat) })
      ∧ (a.write = none → 2 ≤ s.sec.dlevel → s.debugReach a = s) := by
  obtain ⟨hsram, hin, hcode⟩ := State.isSram_of_dbgStack hlo
  obtain ⟨-, hin', -⟩ := State.isSram_of_dbgStack hhi
  have hreach : s.debugReach a = s.dbgMem a s.dbgStack 2 := by rw [State.debugReach, ht]
  refine ⟨fun v hw hl => ?_, fun hw hl => ?_⟩
  · rw [hreach, State.dbgMem_of_ok ⟨hin, hin'⟩ ⟨hlo, hhi⟩ (by rw [hw]; exact hl) fun g hg => absurd hg (hcode g),
      if_neg (fun h => h.1 hsram), hw]
    exact if_pos hsram
  · rw [hreach, State.dbgMem_of_ok ⟨hin, hin'⟩ ⟨hlo, hhi⟩ (by rw [hw]; exact hl) fun g hg => absurd hg (hcode g),
      if_neg (fun h => h.1 hsram), hw]

/-- LPDDR5X through the controllers, at D3 (R367): a block that fails its MAC takes no write (R154). -/
theorem debugReach_lpddr {v : W32} (ht : a.target = .lpddr) (hlo : dbgLp a.addr = true) (hhi : dbgLp (a.addr + 3) = true)
    (hw : a.write = some v) (hl : 3 ≤ s.sec.dlevel) (hsealed : ∀ g, regionOf a.addr = .code g → s.isSealed g = false) :
    (a.poison = false → a.addr / 512 ∉ s.mm.poisoned →
      s.debugReach a = writeRuns s (entryCvp (chkGet s (a.addr / 4096))) [(a.addr, leBytes 4 v.toNat)])
      ∧ ((a.poison = true ∨ a.addr / 512 ∈ s.mm.poisoned) → s.debugReach a = s.macFail a.addr noCore) := by
  obtain ⟨hdram, hin⟩ := isSram_of_dbgLp hlo
  obtain ⟨-, hin'⟩ := isSram_of_dbgLp hhi
  have hreach : s.debugReach a = s.dbgMem a dbgLp 3 := by rw [State.debugReach, ht]
  rw [hreach, State.dbgMem_of_ok ⟨hin, hin'⟩ ⟨hlo, hhi⟩ (by rw [hw]; exact hl) hsealed]
  refine ⟨fun hgood hmac => ?_, fun hbad => ?_⟩
  · rw [if_neg, hw]
    · exact if_neg (ne_true_of_eq_false hdram)
    · rintro ⟨-, h | h⟩
      · exact Bool.false_ne_true (hgood.symm.trans h)
      · exact hmac (List.contains_iff_mem.mp h)
  · exact if_pos ⟨ne_true_of_eq_false hdram, hbad.imp_right List.contains_iff_mem.mpr⟩

/-- Traces, and entries of the log that are PUBLIC, are read from D1 on (R367). -/
theorem debugReach_log (h : a.target = .traces ∨ (a.target = .log ∧ ∀ e ∈ s.rings.log, e.entry.toNat = a.addr → e.cls = 2))
    (hw : a.write = none) : s.debugReach a = s := by
  unfold State.debugReach
  obtain ht | ⟨ht, hpublic⟩ := h
  · rw [ht, hw]
    rfl
  · rw [ht, hw]
    refine if_neg ?_
    rintro (h | h)
    · exact Bool.false_ne_true h
    · refine h (List.all_eq_true.mpr fun e he => ?_)
      by_cases haddr : e.entry.toNat = a.addr
      · rw [hpublic e he haddr]
        exact Bool.or_true _
      · simp [haddr]

/-- Beyond the table of levels the port freezes (R367). -/
theorem debugAccess_beyond (hup : s.dbgUp = true) (hscrub : s.sec.scrub = false)
    (h : a.target = .sec ∨ a.target = .keyStore ∨ a.target = .taglessOther ∨ s.sec.dlevel = 0) :
    Completes (.debugAccess a) s fun t => t.sec.dbgFrozen = true ∧ t.mem = s.mem := by
  by_cases hl : s.sec.dlevel = 0
  · have hexec : exec (.debugAccess a) s = .next (s.violateDebug 0x04 0) := by
      show execDebugAccess a s = _
      unfold execDebugAccess
      rw [State.atLevel_of_lt hup (by omega)]
    exact ⟨_, hexec, s.violateDebug_freezes 0x04 0⟩
  · have htarget : a.target = .sec ∨ a.target = .keyStore ∨ a.target = .taglessOther := by
      obtain h | h | h | h := h
      exacts [.inl h, .inr (.inl h), .inr (.inr h), absurd h hl]
    have hreach : s.debugReach a = s.violateDebug 0x04 a.addr := by
      obtain h | h | h := htarget <;> rw [State.debugReach, h]
    have hlp : a.target ≠ .lpddr := by
      obtain h | h | h := htarget <;> rw [h] <;> decide
    refine ⟨_, debugAccess_of_free hup (Nat.one_le_iff_ne_zero.mpr hl) hscrub fun h => absurd h hlp, ?_⟩
    rw [hreach]
    exact s.violateDebug_freezes 0x04 a.addr

end

/-! The statement. -/

/-- Settles O39, by the debug requests one after the other. -/
theorem debugRequests : Obligations.DebugRequests := by
  unfold Obligations.DebugRequests
  refine ⟨fun s via h => ⟨dbgOpen1_completes h, debugClose_completes h, debugNonce_completes h⟩, fun s src => hostInterfaceReset_closes,
    fun s x => debugToken_completes, fun s => debugUnit_completes, fun s a hup hscrub => ⟨fun ht hlo hhi => ?_, fun r u ht haddr hblock hreg => ?_,
      fun r ht haddr hblock hreg hl => ?_, fun hpublic hw hl => ?_, fun v ht hlo hhi hw hl hwaits hsealed => ?_, debugAccess_beyond hup hscrub⟩,
    fun s a hup hl hwaits => ⟨_, debugAccess_waits hup hl hwaits, rfl, rfl⟩, fun s hl hthaw => ?_, fun s hup x hx => ?_⟩
  · have hfree : 1 ≤ s.sec.dlevel → exec (.debugAccess a) s = .next (s.debugReach a) := fun hl =>
      debugAccess_of_free hup hl hscrub fun h => absurd (ht.symm.trans h) (by decide)
    obtain ⟨hwrite, hread⟩ := debugReach_stack ht hlo hhi
    refine ⟨fun v hw hl => ⟨_, hfree (by omega), ?_⟩, fun hw hl => ⟨_, hfree (by omega), hread hw hl⟩⟩
    rw [hwrite v hw hl]
    exact ⟨rfl, rfl⟩
  · have hfree : 1 ≤ s.sec.dlevel → exec (.debugAccess a) s = .next (s.debugReach a) := fun hl =>
      debugAccess_of_free hup hl hscrub fun h => absurd (ht.symm.trans h) (by decide)
    obtain ⟨hwrite, hread⟩ := debugReach_registers ht haddr hblock hreg
    exact ⟨fun v hw hl hu => ⟨_, hfree (by omega), hwrite v hw hl hu⟩, fun hw hl => ⟨_, hfree (by omega), hread hw hl⟩⟩
  · have hfree : exec (.debugAccess a) s = .next (s.debugReach a) :=
      debugAccess_of_free hup hl hscrub fun h => by obtain ht | ht := ht <;> exact absurd (ht.symm.trans h) (by decide)
    obtain ⟨hread, hwrite, hfixed⟩ := debugReach_counters ht haddr hblock hreg
    refine ⟨fun hw hpublic => ⟨_, hfree, hread hw hpublic⟩, fun v u htrc hwritable hw hu => ⟨_, hfree, hwrite v u htrc hwritable hw hu⟩,
      fun htrc hnot hw => ⟨_, hfree, ?_⟩⟩
    rw [hfixed htrc hnot hw]
    exact s.violateDebug_freezes 0x04 a.addr
  · refine ⟨_, debugAccess_of_free hup hl hscrub fun h => ?_, debugReach_log hpublic hw⟩
    obtain ht | ⟨ht, -⟩ := hpublic <;> exact absurd (ht.symm.trans h) (by decide)
  · have hfree := debugAccess_of_free (a := a) hup (by omega) hscrub fun _ => hwaits
    obtain ⟨hwrite, hbad⟩ := debugReach_lpddr ht hlo hhi hw hl hsealed
    refine ⟨fun hgood hmac => ⟨_, hfree, hwrite hgood hmac⟩, fun hfails => ⟨_, hfree, ?_⟩⟩
    rw [hbad hfails]
    exact ⟨State.macFail_mem .., State.div_mem_poisoned_macFail ..⟩
  · exact ⟨_, if_pos ⟨hl, ne_true_of_eq_false hthaw⟩, rfl, rfl, rfl, rfl, rfl, rfl, rfl⟩
  · simp only [List.mem_cons, List.not_mem_nil, or_false] at hx
    obtain rfl | rfl | rfl | rfl | rfl := hx
    all_goals exact ⟨fun hl => ⟨_, rfl, (State.jtag_spec hup _).1 hl⟩, fun hl => ⟨_, rfl, (State.jtag_spec hup _).2 hl⟩⟩

end Sys2Proof.Machine
end

section
/-! Start-up: standby power, a valid input, the lock of the PLL and the boot record (R253, R357, R395, R408, R411, R441, R451, R452, R460). -/

namespace Sys2Proof.Machine

open Sys2Proof

/-! Input power. -/

/-- Standby power starts Bellows with the limits of the NVM (R441, R444). -/
theorem standbyStart_completes {s : State} {vin : Nat} (hrated : vin ≤ 7200) (hvin : 2000 < vin) (hoff : s.blw.powered = false) :
    Completes (.standbyStart vin) s fun t =>
      t.blw.powered = true ∧ t.blw.vin = vin ∧ t.blw.lim = siteOver s.nvm.faclim s.nvm.part.sitelim ∧ t.blw.causes = [] ∧ t.blw.grant = 0
        ∧ t.blw.duty = 64 ∧ { t with blw := s.blw } = s := by
  have hrating : ¬ vin > vinRating := Nat.not_lt.mpr hrated
  have hstart : ¬ (s.blw.powered = true ∨ vin ≤ 2000) := by rw [hoff]; simp [hvin]
  exact ⟨_, (if_neg hrating).trans (if_neg hstart), rfl, rfl, rfl, rfl, rfl, rfl, rfl⟩

/-- The choice of a Bellows image changes of Bellows what tells of its banks (R437). -/
theorem State.blwBank_keeps (s : State) (ok : Bool) :
    { s.blwBank ok with hif := s.hif, blw := { (s.blwBank ok).blw with bank := s.blw.bank, bver := s.blw.bver, bsvn := s.blw.bsvn, bdigest := s.blw.bdigest } } = s := by
  unfold State.blwBank
  split
  · rfl
  · cases ok <;> rfl

/-- A bank at the voltage of the start holds 25 J (R452). -/
theorem ebank_of_vbankStart {b : Blw} (h : vbankStart ≤ b.vbank) : 2500 ≤ b.ebank := by
  have hsq : vbankStart ^ 2 ≤ b.vbank ^ 2 := Nat.pow_le_pow_left h 2
  have hstart : vbankStart ^ 2 = 136002244 := by decide
  unfold Blw.ebank
  omega

/-- What a cold start on a valid input brings. -/
structure ColdStarted (s t : State) (capacity : Nat) : Prop where
  pstate   : t.sec.pstate = 0
  switch   : t.blw.switch = true
  ramp     : t.blw.ramp = true
  cause    : t.rst.cause = 0
  bank     : 2500 ≤ t.blw.ebank
  worn     : t.blw.worn = decide (capacity < 3000)
  mem      : t.mem = s.mem
  lock     : t.blw.lock3 = none
  causes   : t.blw.causes = s.blw.causes.filter fun c => decide (causeLevel c < 3)
  emergEnd : t.blw.emergEnd = if s.blw.causes.any fun c => decide (causeLevel c = 3) then some s.blw.ms else s.blw.emergEnd

/-- The switch closes on a valid input where the NVM is not lent and the bank holds enough (R411, R452, R495). -/
theorem State.coldStart_started {s : State} {vin capacity : Nat} (hhigh : vin ≤ 6000) (hlow : 4000 ≤ vin) (hon : s.blw.powered = true)
    (hp : s.sec.pstate = 4) (hlent : s.nvm.lent = false) (hcap : 2500 ≤ capacity) (ok : Bool) :
    ColdStarted s (s.coldStart vin capacity ok) capacity := by
  have hgo : ¬ (¬ s.blw.powered ∨ s.sec.pstate ≠ 4 ∨ s.nvm.lent ∨ vin < 4000 ∨ vin > 6000) := by
    rw [hon, hlent]
    simp
    omega
  unfold State.coldStart
  rw [if_neg hgo]
  extract_lets s1 blw b ended
  rw [if_neg (Nat.not_lt.mpr hcap)]
  have hkeeps := s.blwBank_keeps ok
  have hmem := congrArg State.mem hkeeps
  have hms := congrArg (fun x : State => x.blw.ms) hkeeps
  have hcauses := congrArg (fun x : State => x.blw.causes) hkeeps
  have hend := congrArg (fun x : State => x.blw.emergEnd) hkeeps
  refine ⟨rfl, rfl, rfl, rfl, ebank_of_vbankStart (le_max_right ..), rfl, hmem, rfl, congrArg _ hcauses, ?_⟩
  have hbcauses : b.causes = s.blw.causes := hcauses
  have hbms : b.ms = s.blw.ms := hms
  have hbend : b.emergEnd = s.blw.emergEnd := hend
  show (if ended then some b.ms else b.emergEnd) = _
  rw [hbms, hbend]
  show (if b.causes.any _ then _ else _) = _
  rw [hbcauses]

theorem inputValid_eq {s : State} {e : ColdEnv} (hhigh : e.vin ≤ 6000) :
    exec (.inputValid e) s = if s.blw.lock3.isSome then .next s else .next (s.coldStart e.vin e.capacity e.bankOk) :=
  if_neg (Nat.not_lt.mpr (hhigh.trans (by decide)))

theorem inputSwitchReclose_eq {s : State} {e : ColdEnv} {t0 : Nat} (hhigh : e.vin ≤ 6000) (hlock : s.blw.lock3 = some t0)
    (hms : t0 + 60000 ≤ s.blw.ms) (htj : s.blw.tj < (s.blw.lim.tj1 : Int) - 2000) :
    exec (.inputSwitchReclose e) s = .next (s.coldStart e.vin e.capacity e.bankOk) := by
  show execInputSwitchReclose e s = _
  unfold execInputSwitchReclose
  rw [if_neg (Nat.not_lt.mpr (hhigh.trans (by decide))), hlock]
  exact if_neg (by omega)

/-! The boot ROM. -/

theorem State.hifIrq_phase (s : State) (b : BitVec 3) : (s.hifIrq b).hif.phase = s.hif.phase ∧ (s.hifIrq b).hif.fail = s.hif.fail := by
  unfold State.hifIrq
  extract_lets hif s1
  split
  · have hphase := congrArg (fun x : State => x.hif.phase) (s1.vector_frame 2)
    have hfail := congrArg (fun x : State => x.hif.fail) (s1.vector_frame 2)
    exact ⟨hphase, hfail⟩
  · exact ⟨rfl, rfl⟩

theorem State.setPhase_phase (s : State) (p : Nat) : (s.setPhase p).hif.phase = p ∧ (s.setPhase p).hif.fail = s.hif.fail := by
  unfold State.setPhase
  split
  · next h => exact ⟨h, rfl⟩
  · exact State.hifIrq_phase _ 1

theorem State.halt_spec (s : State) (code : Nat) : (s.halt code).hif.phase = 6 ∧ (s.halt code).hif.fail = code ∧ (s.halt code).mem = s.mem
    ∧ (s.halt code).nvm = s.nvm := by
  obtain ⟨hphase, hfail⟩ := State.setPhase_phase ({ s with hif := { s.hif with fail := code } } : State) 6
  exact ⟨hphase, hfail, State.setPhase_mem .., State.setPhase_nvm ..⟩

/-- A start fences a core of the boot record, and its column is out of service (R149, R395). -/
def State.fenceAtStart (t : State) (k : CoreId) : State :=
  { t.modCore k fun c => { c with fenced := true } with mm := { t.mm with oos := SMap.set false t.mm.oos k.val true } }

/-- Is a core fenced and its column out of service. -/
def State.outOfUse (s : State) (k : CoreId) : Prop := (s.core k).fenced = true ∧ SMap.get false s.mm.oos k.val = true

theorem State.outOfUse_fenceAtStart (t : State) (j k : CoreId) (h : j = k ∨ t.outOfUse k) : (t.fenceAtStart j).outOfUse k := by
  have hcore : (t.fenceAtStart j).core k = (t.modCore j fun c => { c with fenced := true }).core k := rfl
  by_cases hk : k = j
  · subst hk
    have hoos : SMap.get false (SMap.set false t.mm.oos k.val true) k.val = true := SMap.get_set_self ..
    refine ⟨?_, hoos⟩
    rw [hcore, State.core_modCore_self]
  · obtain ⟨hfenced, hoos⟩ := h.resolve_left (Ne.symm hk)
    have hval : k.val ≠ j.val := fun h => hk (Fin.ext h)
    have hkept : SMap.get false (SMap.set false t.mm.oos j.val true) k.val = true := (SMap.get_set_other _ _ _ hval).trans hoos
    refine ⟨?_, hkept⟩
    rw [hcore, State.core_modCore_other _ _ hk]
    exact hfenced

/-- What the fences of a start leave: all but cores and columns. -/
theorem State.foldl_fenceAtStart (ks : List CoreId) (t : State) :
    { ks.foldl State.fenceAtStart t with cores := t.cores, mm := t.mm } = t
      ∧ ∀ k, k ∈ ks ∨ t.outOfUse k → (ks.foldl State.fenceAtStart t).outOfUse k := by
  induction ks generalizing t with
  | nil => exact ⟨rfl, fun k h => h.resolve_left List.not_mem_nil⟩
  | cons j ks ih =>
    obtain ⟨hrest, hout⟩ := ih (t.fenceAtStart j)
    refine ⟨?_, fun k h => hout k ?_⟩
    · have h := congrArg (fun x : State => { x with cores := t.cores, mm := t.mm }) hrest
      exact h
    · obtain hk | hk := h
      · obtain rfl | hk := List.mem_cons.mp hk
        · exact .inr (State.outOfUse_fenceAtStart _ _ _ (.inl rfl))
        · exact .inl hk
      · exact .inr (State.outOfUse_fenceAtStart _ _ _ (.inr hk))

/-- What a device part brings at a start (R253, R357, R395). -/
structure PartApplied (s t : State) (d : DevPart) : Prop where
  sec     : t.sec = { s.sec with sstate := d.sstate, dlevel := 0 }
  map     : t.lnk.map = d.linkmap
  extents : t.lnk.extents = d.extents
  fences  : ∀ k : CoreId, k.val ∈ d.fence → t.outOfUse k
  rst     : t.rst = s.rst
  nvm     : t.nvm = s.nvm
  mem     : t.mem = s.mem

theorem State.applyPart_applied (s : State) : PartApplied s s.applyPart s.nvm.part := by
  unfold State.applyPart
  extract_lets d sec lnk s1
  obtain ⟨hrest, hout⟩ := State.foldl_fenceAtStart (allCores.filter fun k => d.fence.contains k.val) s1
  have hsec := congrArg State.sec hrest
  have hlnk := congrArg State.lnk hrest
  have hrst := congrArg State.rst hrest
  have hnvm := congrArg State.nvm hrest
  have hmem := congrArg State.mem hrest
  exact ⟨hsec, congrArg Lnk.map hlnk, congrArg Lnk.extents hlnk,
    fun k hk => hout k (.inl (List.mem_filter.mpr ⟨List.mem_finRange k, List.contains_iff_mem.mpr hk⟩)), hrst, hnvm, hmem⟩

theorem State.readHold_of_even {s : State} (h : (s.nvm.ctrs.getD 4 0).getLsbD 0 = false) (ok : Bool) : s.readHold ok = s := if_pos h

/-- The state in which the boot ROM has found its identity and the slot of the boot record to start from. -/
def State.bootFound (s : State) (seed : BitVec 256) (d : DevPart) : State :=
  let s1 := { s with sec := { s.sec with seed := some seed } }
  let n := { s1.nvm with part := d, ctrs := s1.nvm.ctrs.set 0 d.octr }
  { s1 with nvm := n, sec := { s1.sec with recDigest := n.digest seed } }

theorem State.drawSet_rest (s : State) : s.drawSet.2 = { s with draws := s.draws + 3 } := rfl

/-- New keys of LPDDR5X for firmware and for the host (R153). -/
def State.keysDrawn (u : State) : State :=
  let fw := u.drawSet
  let host := fw.2.drawSet
  { host.2 with mm := { u.mm with fwKeys := some fw.1, hostKeys := some host.1 } }

theorem State.keysDrawn_rest (u : State) :
    ∃ fw host, u.keysDrawn = { u with draws := u.draws + 3 + 3, mm := { u.mm with fwKeys := fw, hostKeys := host } } := by
  refine ⟨some u.drawSet.1, some u.drawSet.2.drawSet.1, ?_⟩
  have hdrawn : u.drawSet.2.drawSet.2 = { u with draws := u.draws + 3 + 3 } := by rw [State.drawSet_rest, State.drawSet_rest]
  show ({ u.drawSet.2.drawSet.2 with mm := { u.mm with fwKeys := some u.drawSet.1, hostKeys := some u.drawSet.2.drawSet.1 } } : State) = _
  rw [hdrawn]

/-- The identity that a start has: the one it keeps, or after power the one it regenerates (R333, R413). -/
def State.bootId (s : State) (e : BootEnv) : Option (BitVec 256) := s.sec.seed.or (if s.rst.cause = 0 then s.regenerate e.reads else none)

section
variable {s : State} {e : BootEnv}

theorem State.bootRom_of_badFactory (h : e.factoryOk = false) : s.bootRom e = s.halt failBootrec := by
  unfold State.bootRom
  rw [h]

theorem State.bootRom_of_noId (h : e.factoryOk = true) (hid : s.bootId e = none) : s.bootRom e = s.halt failIdentity := by
  unfold State.bootRom
  extract_lets id
  rw [h, show id = none from hid]

theorem State.bootRom_of_noRecord {seed : BitVec 256} (h : e.factoryOk = true) (hid : s.bootId e = some seed) (hpick : s.nvm.pick e = none) :
    s.bootRom e = ({ s with sec := { s.sec with seed := some seed } } : State).halt failBootrec := by
  unfold State.bootRom
  extract_lets id
  rw [h, show id = some seed from hid]
  dsimp only
  rw [hpick]

/-- With a good factory part, an identity and a slot to start from the record takes force, keys of LPDDR5X are drawn, and the boot ROM
waits for firmware (R408, R411). -/
theorem State.bootRom_of_record {seed : BitVec 256} {d : DevPart} (h : e.factoryOk = true) (hid : s.bootId e = some seed)
    (hpick : s.nvm.pick e = some d) (hhold : (s.nvm.ctrs.getD 4 0).getLsbD 0 = false) :
    s.bootRom e = (s.bootFound seed d).applyPart.keysDrawn.setPhase 1 := by
  have hctrs : ((s.bootFound seed d).nvm.ctrs.getD 4 0).getLsbD 0 = false := by
    show ((s.nvm.ctrs.set 0 d.octr).getD 4 0).getLsbD 0 = false
    rw [List.getD_eq_getElem?_getD, List.getElem?_set_ne (by decide), ← List.getD_eq_getElem?_getD]
    exact hhold
  unfold State.bootRom
  extract_lets id
  rw [h, show id = some seed from hid]
  dsimp only
  rw [hpick]
  show ((s.bootFound seed d).readHold e.holdOk).applyPart.keysDrawn.setPhase 1 = _
  rw [State.readHold_of_even hctrs]

end

/-- What the lock of the PLL does while the die is held in reset: the boot ROM runs (R460). -/
def State.lockedUp (s : State) : State := { s with rst := { s.rst with locked := true, dieUp := true }, blw := { s.blw with shown := false } }

theorem pllLock_eq {s : State} {e : BootEnv} (hp : s.sec.pstate < 3) (hdown : s.rst.dieUp = false) :
    exec (.pllLock e) s = .next (s.lockedUp.bootRom e) := by
  have hgo : ¬ (s.sec.pstate ≥ 3 ∨ s.rst.dieUp = true) := by rw [hdown]; simp [hp]
  exact if_neg hgo

theorem State.bootId_lockedUp (s : State) (e : BootEnv) : s.lockedUp.bootId e = s.bootId e := rfl

/-- The lock of the PLL with an identity and a slot of the boot record to start from. -/
theorem pllLock_starts {s : State} {e : BootEnv} {d : DevPart} (hp : s.sec.pstate < 3) (hdown : s.rst.dieUp = false) (hfac : e.factoryOk = true)
    (hid : (s.bootId e).isSome = true) (hpick : s.nvm.pick e = some d) (hhold : (s.nvm.ctrs.getD 4 0).getLsbD 0 = false) :
    Completes (.pllLock e) s fun t =>
        t.rst.locked = true ∧ t.rst.dieUp = true ∧ t.hif.phase = 1 ∧ t.sec.idOk = true ∧ t.sec.dlevel = 0
          ∧ t.sec.sstate = d.sstate ∧ t.lnk.map = d.linkmap ∧ t.lnk.extents = d.extents
          ∧ (∀ k, k.val ∈ d.fence → (t.core k).fenced = true ∧ SMap.get false t.mm.oos k.val = true) ∧ t.nvm.part = d ∧ t.mem = s.mem := by
  obtain ⟨seed, hseed⟩ := Option.isSome_iff_exists.mp hid
  have hrom := State.bootRom_of_record (s := s.lockedUp) hfac hseed hpick hhold
  have hpart := (s.lockedUp.bootFound seed d).applyPart_applied
  generalize (s.lockedUp.bootFound seed d).applyPart = u at hrom hpart
  obtain ⟨fw, host, hkeys⟩ := u.keysDrawn_rest
  generalize u.keysDrawn = x at hrom hkeys
  have hsec := (State.setPhase_sec x 1).trans ((congrArg State.sec hkeys).trans hpart.sec)
  have hrst := (State.setPhase_rst x 1).trans ((congrArg State.rst hkeys).trans hpart.rst)
  have hlnk := (State.setPhase_lnk x 1).trans (congrArg State.lnk hkeys)
  have hnvm := (State.setPhase_nvm x 1).trans ((congrArg State.nvm hkeys).trans hpart.nvm)
  have hmem := (State.setPhase_mem x 1).trans ((congrArg State.mem hkeys).trans hpart.mem)
  have hcore := (State.core_congr (State.setPhase_cores x 1)).trans (State.core_congr (congrArg State.cores hkeys))
  have hoos := (congrArg MemSt.oos (State.setPhase_mm x 1)).trans (congrArg (fun y : State => y.mm.oos) hkeys)
  refine ⟨x.setPhase 1, (pllLock_eq hp hdown).trans (congrArg _ hrom), by rw [hrst]; rfl, by rw [hrst]; rfl, (x.setPhase_phase 1).1,
    by rw [hsec]; rfl, by rw [hsec], by rw [hsec]; rfl, by rw [hlnk]; exact hpart.map, by rw [hlnk]; exact hpart.extents, fun k hk => ?_,
    by rw [hnvm]; rfl, hmem⟩
  rw [hcore, hoos]
  exact hpart.fences k hk

/-- Settles O52: standby power, a valid input, the switch closed again, and the outcomes of the boot ROM. -/
theorem powersUp : Obligations.PowersUp := by
  unfold Obligations.PowersUp
  refine ⟨fun s vin => ⟨fun h => if_pos h, standbyStart_completes⟩, fun s e hhigh hlow hon hp hlent hcap => ⟨fun hlock => ?_, fun t0 hlock hms htj => ?_,
    fun t0 hlock => ⟨s, ?_, rfl⟩⟩, fun s e hp hdown => ⟨fun hfac hid => ?_, fun hfac hno hlost => ?_, fun hfac => ?_⟩, fun d => rfl⟩
  · have hc := State.coldStart_started hhigh hlow hon hp hlent hcap e.bankOk
    have hexec : exec (.inputValid e) s = .next (s.coldStart e.vin e.capacity e.bankOk) := by rw [inputValid_eq hhigh, hlock]; rfl
    refine ⟨_, hexec, hc.pstate, hc.switch, hc.ramp, hc.cause, hc.bank, ?_, hc.mem⟩
    rw [hc.worn, decide_eq_true_iff]
  · have hc := State.coldStart_started hhigh hlow hon hp hlent hcap e.bankOk
    refine ⟨_, inputSwitchReclose_eq hhigh hlock hms htj, hc.pstate, hc.switch, hc.lock, fun ⟨c, hc3, hlevel⟩ => ?_, fun c hc3 => ?_⟩
    · rw [hc.emergEnd]
      exact if_pos (List.any_eq_true.mpr ⟨c, hc3, decide_eq_true hlevel⟩)
    · rw [hc.causes] at hc3
      exact of_decide_eq_true (List.mem_filter.mp hc3).2
  · rw [inputValid_eq hhigh, hlock]
    rfl
  · have hid' : (s.bootId e).isSome = true := by
      obtain h | ⟨hcause, h⟩ := hid
      · rw [State.bootId, Option.isSome_or, show s.sec.seed.isSome = true from h]
        rfl
      · rw [State.bootId, if_pos hcause, Option.isSome_or, h]
        exact Bool.or_true _
    refine ⟨fun d hpick hhold => pllLock_starts hp hdown hfac hid' hpick hhold, fun hpick => ?_⟩
    obtain ⟨seed, hseed⟩ := Option.isSome_iff_exists.mp hid'
    refine ⟨_, pllLock_eq hp hdown, ?_⟩
    rw [State.bootRom_of_noRecord (s := s.lockedUp) hfac hseed hpick]
    exact State.halt_spec _ failBootrec
  · have hid : s.bootId e = none := by
      rw [State.bootId, show s.sec.seed = none from Option.isSome_eq_false_iff.mp hno |> Option.isNone_iff_eq_none.mp, Option.none_or]
      obtain h | h := hlost
      · exact if_neg h
      · rw [h, ite_self]
    refine ⟨_, pllLock_eq hp hdown, ?_⟩
    rw [State.bootRom_of_noId (s := s.lockedUp) hfac hid]
    exact State.halt_spec _ failIdentity
  · refine ⟨_, pllLock_eq hp hdown, ?_⟩
    rw [State.bootRom_of_badFactory hfac]
    exact State.halt_spec _ failBootrec

end Sys2Proof.Machine
end

section
/-! What the end of a transition leaves, and what a scrub leaves behind (R341, R361, R371, R372). -/

namespace Sys2Proof.Machine

open Sys2Proof

/-! The end of a transition. -/

/-- Nothing of a core's tiles, registers and long tallies is left, and nothing is in flight. -/
def Core.Emptied (c : Core) : Prop := c.tiles = [] ∧ c.vregs = [] ∧ c.lt = [] ∧ c.inflight = []

/-- What stands while the transitions in line follow one another: all but their own state, what they ask to be written, and what cores
that are stopped lose. -/
structure TransKept (s t : State) : Prop where
  mem      : t.mem = s.mem
  chk      : t.chk = s.chk
  job      : t.job = s.job
  lnk      : t.lnk = s.lnk
  outq     : t.outq = s.outq
  nvm      : { t.nvm with writes := s.nvm.writes } = s.nvm
  stalled  : t.mm.stalled = s.mm.stalled
  jobKeys  : t.mm.jobKeys = s.mm.jobKeys
  sstate   : t.sec.sstate = s.sec.sstate
  dlevel   : t.sec.dlevel = s.sec.dlevel
  ownerKey : t.sec.ownerKey = s.sec.ownerKey
  slots    : t.sec.slots = s.sec.slots
  emptied  : ∀ k, (s.core k).Emptied → (t.core k).Emptied

theorem TransKept.refl (s : State) : TransKept s s := ⟨rfl, rfl, rfl, rfl, rfl, rfl, rfl, rfl, rfl, rfl, rfl, rfl, fun _ => id⟩

/-- The NVM but for the writes asked for, from one state to the next. -/
theorem Nvm.writes_trans {a b c : Nvm} (h : { b with writes := a.writes } = a) (h' : { c with writes := b.writes } = b) :
    { c with writes := a.writes } = a := by
  have h'' := congrArg (fun x : Nvm => { x with writes := a.writes }) h'
  exact h''.trans h

section
variable {s₀ s t : State}

theorem TransKept.trans (h : TransKept s₀ s) (h' : TransKept s t) : TransKept s₀ t :=
  ⟨h'.mem.trans h.mem, h'.chk.trans h.chk, h'.job.trans h.job, h'.lnk.trans h.lnk, h'.outq.trans h.outq, Nvm.writes_trans h.nvm h'.nvm,
    h'.stalled.trans h.stalled, h'.jobKeys.trans h.jobKeys, h'.sstate.trans h.sstate, h'.dlevel.trans h.dlevel,
    h'.ownerKey.trans h.ownerKey, h'.slots.trans h.slots, fun k hk => h'.emptied k (h.emptied k hk)⟩

/-- A reply that fits in the mailbox changes the host interface alone. -/
theorem State.postReply_of_small (s : State) {r : Reply} (hd : r.data.size ≤ 4080) :
    s.postReply r = { s with hif := (s.postReply r).hif } := by
  have href : s.byRef r = (s, r) := if_pos (.inl hd)
  have h := s.postReply_eq r
  rw [href] at h
  exact h

theorem TransKept.postReply (s : State) {r : Reply} (hd : r.data.size ≤ 4080) : TransKept s (s.postReply r) := by
  rw [s.postReply_of_small hd]
  exact ⟨rfl, rfl, rfl, rfl, rfl, rfl, rfl, rfl, rfl, rfl, rfl, rfl, fun _ => id⟩

theorem TransKept.log (s : State) (kind cls : Nat) (payload : List Nat) : TransKept s (s.log kind cls payload) :=
  ⟨rfl, rfl, rfl, rfl, rfl, rfl, rfl, rfl, rfl, rfl, rfl, rfl, fun _ => id⟩

theorem TransKept.transReply (s : State) (x : TransK) (st : Nat) {p : Payload} (hp : p.size ≤ 4080) :
    TransKept s (s.transReply x st p) := by
  unfold State.transReply
  split
  · exact .postReply s hp
  · exact .refl s

theorem Core.Emptied.stopped (k : CoreId) (h : (s.core k).Emptied) : (s.stopCores.core k).Emptied := by
  obtain ⟨htiles, hvregs, hlt, -⟩ := h
  rw [State.core_stopCores]
  exact ⟨htiles, hvregs, hlt, rfl⟩

theorem TransKept.beginTrans (s : State) (x : TransK) : TransKept s (s.beginTrans x) := by
  unfold State.beginTrans
  split
  · exact ⟨rfl, rfl, rfl, rfl, rfl, rfl, rfl, rfl, rfl, rfl, rfl, rfl, Core.Emptied.stopped⟩
  · exact ⟨rfl, rfl, rfl, rfl, rfl, rfl, rfl, rfl, rfl, rfl, rfl, rfl, fun _ => id⟩

theorem TransKept.followTrans : ∀ (n : Nat) (s : State), TransKept s (State.followTrans n s)
  | 0, s => .refl s
  | n + 1, s => by
    unfold State.followTrans
    extract_lets sec s1
    have hs1 : TransKept s s1 := ⟨rfl, rfl, rfl, rfl, rfl, rfl, rfl, rfl, rfl, rfl, rfl, rfl, fun _ => id⟩
    split
    · exact hs1
    next x xs _ =>
      extract_lets s2
      have hs2 : TransKept s s2 := ⟨rfl, rfl, rfl, rfl, rfl, rfl, rfl, rfl, rfl, rfl, rfl, rfl, fun _ => id⟩
      split
      · exact hs2.trans (.beginTrans s2 x)
      · refine (hs2.trans ?_).trans (TransKept.followTrans n _)
        split
        · exact .log ..
        · exact .transReply _ _ _ (Nat.zero_le _)

/-- A change of the power state alone. -/
theorem TransKept.setPstate (s : State) (ps : Nat) : TransKept s (s.setStates s.sec.sstate s.sec.dlevel ps) := by
  refine ⟨State.setStates_mem .., State.setStates_chk .., State.setStates_job .., State.setStates_lnk .., State.setStates_outq .., ?_, ?_,
    ?_, ?_, ?_, ?_, ?_, fun k => ?_⟩
  · rw [State.setStates_nvm]
  · rw [State.setStates_mm]
  · rw [State.setStates_mm]
  · rw [State.setStates_sec]
  · rw [State.setStates_sec]
  · rw [State.setStates_sec]
  · rw [State.setStates_sec]
  · rw [State.core_congr (State.setStates_cores ..)]
    exact id

theorem TransKept.parkDue (s : State) : TransKept s s.parkDue := by
  unfold State.parkDue
  split
  · exact .refl s
  · extract_lets sec s1
    have hs1 : TransKept s s1 := ⟨rfl, rfl, rfl, rfl, rfl, rfl, rfl, rfl, rfl, rfl, rfl, rfl, fun _ => id⟩
    split
    · exact hs1
    · exact hs1.trans (.setPstate s1 2)

/-- What a park changes of the transitions: nothing. -/
theorem State.parkDue_trans (s : State) : s.parkDue.sec.trans = s.sec.trans := by
  unfold State.parkDue
  split
  · rfl
  · extract_lets sec s1
    split
    · rfl
    · rw [State.setStates_sec]

/-- A retraining that starts leaves all but the channel under retraining and those that wait. -/
theorem State.startRetrain_rest (s : State) :
    { s.startRetrain with mm := { s.startRetrain.mm with retrainQ := s.mm.retrainQ, retrain := s.mm.retrain } } = s := by
  unfold State.startRetrain
  split
  · split <;> rfl
  · rfl

theorem State.startRetrain_sec (s : State) : s.startRetrain.sec = s.sec := by
  have h := congrArg State.sec s.startRetrain_rest
  exact h

theorem TransKept.startRetrain (s : State) : TransKept s s.startRetrain := by
  unfold State.startRetrain
  split
  · split <;> exact ⟨rfl, rfl, rfl, rfl, rfl, rfl, rfl, rfl, rfl, rfl, rfl, rfl, fun _ => id⟩
  · exact .refl s

theorem TransKept.endTrans (s : State) : TransKept s s.endTrans := by
  unfold State.endTrans
  extract_lets u
  refine TransKept.trans ?_ (.startRetrain _)
  split
  · exact (TransKept.followTrans _ s).trans (.parkDue u)
  · exact .followTrans _ s

theorem State.followTrans_of_nil (n : Nat) {s : State} (h : s.sec.queue = []) :
    State.followTrans (n + 1) s = { s with sec := { s.sec with trans := none, scrub := false } } := by
  unfold State.followTrans
  extract_lets sec s1
  split
  · rfl
  · next hq => exact absurd (h.symm.trans hq) (List.cons_ne_nil _ _).symm

/-- With none in line, no transition is under way any more. -/
theorem State.endTrans_trans_of_nil {s : State} (h : s.sec.queue = []) : s.endTrans.sec.trans = none := by
  unfold State.endTrans
  extract_lets u
  have hu : u.sec.trans = none := congrArg (fun x : State => x.sec.trans) (State.followTrans_of_nil _ h)
  rw [State.startRetrain_sec]
  split
  · rw [State.parkDue_trans, hu]
  · exact hu

end

/-! The scrubs. -/

/-- Dropping the job answers a load under way, and leaves all but the job and its keys. -/
theorem State.dropJob_eq (s : State) : ∃ h : Hif, s.dropJob = { s with
    hif := h, job := .zero, stp := .zero, race := .zero, scc := { s.scc with nmanaged := 0 },
    mm := { s.mm with sealed := [], jobMarks := false, jobKeys := none }, sec := { s.sec with slots := [], ktDigest := none } } := by
  unfold State.dropJob
  split
  · next l _ =>
    have hsmall : Payload.size (.words s.capability) ≤ 4080 := by show 8 * 2 ≤ 4080; decide
    rw [s.postReply_of_small (r := ⟨0x0050, l.seq, if s.quarantining then stQuar else stDebug, 0, .words s.capability, none⟩) hsmall]
    exact ⟨_, rfl⟩
  · exact ⟨s.hif, rfl⟩

/-- What a scrub leaves: no byte of the stack, no check value, no job, no key of a slot, and nothing in a core. -/
structure Scrubbed (t : State) : Prop where
  stack   : ∀ a, a < lpBase → memGet t.mem a = 0
  chk     : t.chk = []
  job     : t.job = .zero
  slots   : t.sec.slots = []
  jobKeys : t.mm.jobKeys = none
  cores   : ∀ k, (t.core k).Emptied

theorem Scrubbed.kept {s t : State} (h : Scrubbed s) (hk : TransKept s t) : Scrubbed t :=
  ⟨fun a ha => by rw [hk.mem]; exact h.stack a ha, hk.chk.trans h.chk, hk.job.trans h.job, hk.slots.trans h.slots, hk.jobKeys.trans h.jobKeys,
    fun k => hk.emptied k (h.cores k)⟩

/-- Where memory keeps nothing, it reads as zero. -/
theorem memGet_memKeep_of_out {f : Nat → Bool} {m : List Host.Cell} {a : Nat} (h : f a = false) : memGet (memKeep f m) a = 0 := by
  have hget : memGet (memKeep f m) a = if f a = true then memGet m a else memDefault := SMap.get_filter memDefault f m a
  rw [hget, h]
  rfl

theorem Core.emptied_scrubbed (vrel : Bool) (c : Core) : (c.scrubbed vrel).Emptied := by
  cases vrel <;> exact ⟨rfl, rfl, rfl, rfl⟩

theorem Core.scrubbed_zero (vrel : Bool) : Core.zero.scrubbed vrel = Core.zero := by
  cases vrel <;> rfl

theorem State.jobScrub_spec (s : State) : Scrubbed s.jobScrub
    ∧ s.jobScrub.sec = { s.sec with slots := [], ktDigest := none } ∧ s.jobScrub.nvm = s.nvm
    ∧ s.jobScrub.mm.stalled = s.mm.stalled ∧ s.jobScrub.outq = s.outq := by
  unfold State.jobScrub
  extract_lets cn vrel mm lnk mon evc rings s1
  obtain ⟨h, hdrop⟩ := s1.dropJob_eq
  rw [hdrop]
  refine ⟨⟨fun a ha => ?_, rfl, rfl, rfl, rfl, fun k => ?_⟩, rfl, rfl, rfl, rfl⟩
  · have hsram : isSram a = true := decide_eq_true ha
    have hout : (! isSram a && ! s.jobLp a) = false := by
      rw [hsram]
      rfl
    exact memGet_memKeep_of_out (f := fun x => ! isSram x && ! s.jobLp x) (m := s.mem) hout
  · have hcore := SMap.get_mapVals_of_fixed (f := fun _ c => c.scrubbed vrel) (fun _ => Core.scrubbed_zero vrel) s.cores k.val
    have hk : (s1.core k) = (s.core k).scrubbed vrel := hcore
    show (s1.core k).Emptied
    rw [hk]
    exact Core.emptied_scrubbed ..

/-- A full scrub empties the memory and the output queue too, and drops the owner's key. -/
theorem State.fullScrub_spec (s : State) : Scrubbed s.fullScrub ∧ s.fullScrub.mem = []
    ∧ s.fullScrub.sec = { s.sec with slots := [], ktDigest := none, ownerKey := none } ∧ s.fullScrub.nvm = s.nvm
    ∧ s.fullScrub.mm.stalled = s.mm.stalled ∧ s.fullScrub.outq = .zero := by
  obtain ⟨hscrubbed, hsec, hnvm, hstalled, -⟩ := s.jobScrub_spec
  unfold State.fullScrub
  extract_lets s1 ps eng fw host t
  have hs1 : s.jobScrub = s1 := rfl
  rw [hs1] at hscrubbed hsec hnvm hstalled
  clear_value s1
  have hfw : fw.2 = { s1 with draws := s1.draws + 3 } := s1.drawSet_rest
  have ht : t = { fw.2 with draws := fw.2.draws + 3 } := fw.2.drawSet_rest
  have hdrawn : t = { s1 with draws := s1.draws + 3 + 3 } := by rw [ht, hfw]
  clear_value t
  subst hdrawn
  refine ⟨⟨fun _ _ => rfl, hscrubbed.chk, hscrubbed.job, hscrubbed.slots, hscrubbed.jobKeys, fun k => ?_⟩, rfl, ?_, hnvm, hstalled, rfl⟩
  · have hcore : SMap.get Core.zero (SMap.mapVals Core.zero eng s1.cores) k.val = eng k.val (s1.core k) :=
      SMap.get_mapVals_of_fixed (fun _ => rfl) s1.cores k.val
    show Core.Emptied (SMap.get Core.zero (SMap.mapVals Core.zero eng s1.cores) k.val)
    rw [hcore]
    exact hscrubbed.cores k
  · exact congrArg (fun x : Sec => { x with ownerKey := none }) hsec

/-- The log entry of an unload changes nothing but the log. -/
theorem TransKept.logUnload (s was : State) (reason : Nat) : TransKept s (s.logUnload was reason) := by
  unfold State.logUnload
  split
  · exact .refl s
  · exact .log ..

theorem State.logUnload_sec (s was : State) (reason : Nat) : (s.logUnload was reason).sec = s.sec := by
  unfold State.logUnload
  split <;> rfl

theorem State.logUnload_nvm (s was : State) (reason : Nat) : (s.logUnload was reason).nvm = s.nvm := by
  unfold State.logUnload
  split <;> rfl

/-- Without a program no core is moved for its test. -/
theorem State.startTests_of_noProg {s : State} (h : s.job.prog = none) : s.startTests = { s with tst := s.startTests.tst } := by
  have hcols : s.jobColumns = [] := by rw [State.jobColumns, h]
  unfold State.startTests
  rw [hcols]
  split
  · rfl
  split
  · rfl
  · split <;> rfl

theorem State.queueTest_of_noProg {s : State} (k : CoreId) (h : s.job.prog = none) : s.queueTest k = { s with tst := (s.queueTest k).tst } := by
  unfold State.queueTest
  split
  · exact State.startTests_of_noProg h
  · have hrest := State.startTests_of_noProg (s := { s with tst := { s.tst with queue := s.tst.queue ++ [k] } }) h
    exact hrest

theorem TransKept.queueTests (ks : List CoreId) {s : State} (h : s.job.prog = none) : TransKept s (ks.foldl State.queueTest s) := by
  induction ks generalizing s with
  | nil => exact .refl s
  | cons k ks ih =>
    have hk : TransKept s (s.queueTest k) := by
      rw [State.queueTest_of_noProg k h]
      exact ⟨rfl, rfl, rfl, rfl, rfl, rfl, rfl, rfl, rfl, rfl, rfl, rfl, fun _ => id⟩
    have hprog : (s.queueTest k).job.prog = none := by rw [hk.job]; exact h
    exact hk.trans (ih hprog)

/-- Where nothing was kept waiting and the output queue has room for all, nothing goes on. -/
theorem State.unstall_of_nil {s : State} (hstalled : s.mm.stalled = []) (hwaiting : s.outq.waiting = []) : s.unstall = s := by
  have hsame : ({ s with mm := { s.mm with stalled := [] } } : State) = s := by rw [← hstalled]
  unfold State.unstall
  extract_lets mm t
  have ht : t = s := by
    show s.mm.stalled.foldl State.perform ({ s with mm := { s.mm with stalled := [] } }) = s
    rw [hsame, hstalled]
    rfl
  rw [ht, hwaiting]
  unfold State.outPlace
  rw [hwaiting]

/-! The end of a scrub. -/

section
variable {s : State}

/-- What SCRUB_COMPLETE leaves of a transition: its write is asked for, behind what waits. -/
def State.asksWrite (s : State) (x : TransK) (reason : Nat) : State :=
  { s.fullScrub.logUnload s reason with
    sec := { (s.fullScrub.logUnload s reason).sec with scrub := false, discarded := s.outq.undrained.length },
    nvm := { (s.fullScrub.logUnload s reason).nvm with writes := (s.fullScrub.logUnload s reason).nvm.writes ++ [NvmWrite.trans x] } }

theorem State.asksWrite_spec (s : State) (x : TransK) (reason : Nat) (hstalled : s.mm.stalled = []) :
    (s.asksWrite x reason).unstall = s.asksWrite x reason ∧ Scrubbed (s.asksWrite x reason) ∧ (s.asksWrite x reason).mem = []
      ∧ (s.asksWrite x reason).sec.trans = s.sec.trans ∧ (s.asksWrite x reason).sec.scrub = false
      ∧ (s.asksWrite x reason).sec.ownerKey = none ∧ (s.asksWrite x reason).nvm.writes = s.nvm.writes ++ [.trans x] := by
  obtain ⟨hscrubbed, hmem, hsec, hnvm, hst, houtq⟩ := s.fullScrub_spec
  unfold State.asksWrite
  have hlog := TransKept.logUnload s.fullScrub s reason
  have hu := hscrubbed.kept hlog
  have husec := (s.fullScrub.logUnload_sec s reason).trans hsec
  have hunvm := (s.fullScrub.logUnload_nvm s reason).trans hnvm
  have hust := hlog.stalled.trans (hst.trans hstalled)
  have humem := hlog.mem.trans hmem
  have huoutq := hlog.outq.trans houtq
  clear hlog
  generalize s.fullScrub.logUnload s reason = u at *
  have huwaiting : u.outq.waiting = [] := by rw [huoutq]; rfl
  have htrans : u.sec.trans = s.sec.trans := by rw [husec]
  have hkey : u.sec.ownerKey = none := by rw [husec]
  have hwrites : u.nvm.writes ++ [NvmWrite.trans x] = s.nvm.writes ++ [.trans x] := by rw [hunvm]
  exact ⟨State.unstall_of_nil hust huwaiting, ⟨hu.stack, hu.chk, hu.job, hu.slots, hu.jobKeys, hu.cores⟩, humem, htrans, rfl, hkey, hwrites⟩

/-- The debug level that a scrub gave way to is in force (R361). -/
def State.opensDebug (s : State) (l : Nat) : State := s.setStates s.sec.sstate (max l s.sec.dlevel) s.sec.pstate

/-- What a job scrub left stands where the debug level rises. -/
theorem State.opensDebug_spec (l : Nat) (h : Scrubbed s) : Scrubbed (s.opensDebug l) ∧ (s.opensDebug l).sec.dlevel = max l s.sec.dlevel
    ∧ (s.opensDebug l).sec.queue = s.sec.queue ∧ (s.opensDebug l).mm.stalled = s.mm.stalled ∧ (s.opensDebug l).outq = s.outq := by
  unfold State.opensDebug
  have hsec := s.setStates_sec s.sec.sstate (max l s.sec.dlevel) s.sec.pstate
  have hcore := State.core_congr (s.setStates_cores s.sec.sstate (max l s.sec.dlevel) s.sec.pstate)
  refine ⟨⟨?_, ?_, ?_, ?_, ?_, ?_⟩, ?_, ?_, ?_, State.setStates_outq ..⟩
  · rw [State.setStates_mem]
    exact h.stack
  · rw [State.setStates_chk]
    exact h.chk
  · rw [State.setStates_job]
    exact h.job
  · rw [hsec]
    exact h.slots
  · rw [State.setStates_mm]
    exact h.jobKeys
  · rw [hcore]
    exact h.cores
  · rw [hsec]
  · rw [hsec]
  · rw [State.setStates_mm]

/-- The end of a transition's scrub, before what waited goes on. -/
def State.scrubEnds (s : State) : TransK → State
  | .jobScrub => s.jobScrub.endTrans
  | .jobUnload q => (((s.jobScrub.logUnload s 0).marchTests).transReply (.jobUnload q) stOk .none).endTrans
  | .debugOpen l => ((s.jobScrub.logUnload s 0).opensDebug l).endTrans
  | .quarantine c => s.asksWrite (.quarantine c) 2
  | x => s.asksWrite x 1

/-- SCRUB_COMPLETE reaches the transition that the scrub is of. -/
theorem scrubComplete_eq {x : TransK} (hscrub : s.sec.scrub = true) (hup : s.rst.dieUp = true) (hbusy : s.rst.busy = false)
    (hp : s.sec.pstate < 3) (hx : s.sec.trans = some x) : exec .scrubComplete s = .next (s.scrubEnds x).unstall := by
  have hgo : ¬ (¬ s.sec.scrub = true ∨ ¬ s.rst.dieUp = true ∨ s.rst.busy = true ∨ 3 ≤ s.sec.pstate) := by
    rw [hscrub, hup, hbusy]
    simp
    omega
  show execScrubComplete s = _
  unfold execScrubComplete
  rw [if_neg hgo]
  split
  · next hnone => exact absurd (hx.symm.trans hnone) (Option.some_ne_none x)
  · next y hy =>
    obtain rfl : y = x := Option.some.inj (hy.symm.trans hx)
    cases y <;> rfl

/-- SCRUB_COMPLETE of a transition that its scrub ends: what stands when it has ended. -/
theorem scrubbed_of_endTrans {u : State} (h : Scrubbed u) (hstalled : u.mm.stalled = []) (hwaiting : u.outq.waiting = []) :
    u.endTrans.unstall = u.endTrans ∧ Scrubbed u.endTrans := by
  have hend := TransKept.endTrans u
  have hwait : u.endTrans.outq.waiting = [] := by
    rw [hend.outq]
    exact hwaiting
  exact ⟨State.unstall_of_nil (hend.stalled.trans hstalled) hwait, h.kept hend⟩

end

/-- What the end of a transition's scrub leaves: nothing of the job; a debug level that is in force; or, of every other transition, its
write asked for, with no memory and no owner's key. -/
def ScrubLeaves (s : State) (x : TransK) (t : State) : Prop :=
  Scrubbed t
    ∧ (∀ l, x = .debugOpen l → s.sec.queue = [] → t.sec.dlevel = max l s.sec.dlevel ∧ t.sec.trans = none)
    ∧ ((∀ l, x ≠ .debugOpen l) → (∀ q, x ≠ .jobUnload q) → x ≠ .jobScrub →
        t.mem = [] ∧ t.sec.trans = some x ∧ t.sec.scrub = false ∧ t.sec.ownerKey = none ∧ t.nvm.writes = s.nvm.writes ++ [.trans x])

/-- SCRUB_COMPLETE (R371, R372). -/
theorem scrubComplete_completes {s : State} {x : TransK} (hscrub : s.sec.scrub = true) (hup : s.rst.dieUp = true) (hbusy : s.rst.busy = false)
    (hp : s.sec.pstate < 3) (hstalled : s.mm.stalled = []) (hwaiting : s.outq.waiting = []) (hx : s.sec.trans = some x) :
    Completes .scrubComplete s (ScrubLeaves s x) := by
  obtain ⟨hscrubbed, hsec, -, hst, houtq⟩ := s.jobScrub_spec
  have hjstalled := hst.trans hstalled
  have hjwaiting : s.jobScrub.outq.waiting = [] := by
    rw [houtq]
    exact hwaiting
  have hlog := TransKept.logUnload s.jobScrub s 0
  have hlstalled := hlog.stalled.trans hjstalled
  have hlwaiting : (s.jobScrub.logUnload s 0).outq.waiting = [] := by
    rw [hlog.outq]
    exact hjwaiting
  have hlsec := s.jobScrub.logUnload_sec s 0
  have hexec := scrubComplete_eq hscrub hup hbusy hp hx
  have hasks (reason : Nat) : (s.asksWrite x reason).mem = [] ∧ (s.asksWrite x reason).sec.trans = some x
      ∧ (s.asksWrite x reason).sec.scrub = false ∧ (s.asksWrite x reason).sec.ownerKey = none
      ∧ (s.asksWrite x reason).nvm.writes = s.nvm.writes ++ [.trans x] := by
    obtain ⟨-, -, hmem, htrans, hdone⟩ := s.asksWrite_spec x reason hstalled
    exact ⟨hmem, htrans.trans hx, hdone⟩
  have hwrites (reason : Nat) (hno : ∀ l, x ≠ .debugOpen l) (hexec : exec .scrubComplete s = .next (s.asksWrite x reason).unstall) :
      Completes .scrubComplete s (ScrubLeaves s x) := by
    obtain ⟨hun, hs, -⟩ := s.asksWrite_spec x reason hstalled
    rw [hun] at hexec
    exact ⟨_, hexec, hs, fun l hl => absurd hl (hno l), fun _ _ _ => hasks reason⟩
  cases x with
  | jobScrub =>
    obtain ⟨hun, hs⟩ := scrubbed_of_endTrans hscrubbed hjstalled hjwaiting
    exact ⟨_, hexec.trans (congrArg _ hun), hs, fun l hl => (TransK.noConfusion hl), fun _ _ h => absurd rfl h⟩
  | jobUnload q =>
    have hprog : (s.jobScrub.logUnload s 0).job.prog = none := by
      rw [hlog.job, hscrubbed.job]
      rfl
    have hmarch := TransKept.queueTests (allCores.filter fun k => ((s.jobScrub.logUnload s 0).core k).marchDue) hprog
    have hall := (hlog.trans hmarch).trans (.transReply _ (.jobUnload q) stOk (p := .none) (Nat.zero_le _))
    obtain ⟨hun, hs⟩ := scrubbed_of_endTrans (hscrubbed.kept hall) (hall.stalled.trans hjstalled) (by rw [hall.outq]; exact hjwaiting)
    exact ⟨_, hexec.trans (congrArg _ hun), hs, fun l hl => (TransK.noConfusion hl), fun _ h => absurd rfl (h q)⟩
  | debugOpen l =>
    obtain ⟨hopen, hlevel, hqueue, hostalled, hooutq⟩ := State.opensDebug_spec l (hscrubbed.kept hlog)
    obtain ⟨hun, hs⟩ := scrubbed_of_endTrans hopen (hostalled.trans hlstalled) (by rw [hooutq]; exact hlwaiting)
    refine ⟨_, hexec.trans (congrArg _ hun), hs, fun l' hl' hq => ⟨?_, State.endTrans_trans_of_nil ?_⟩, fun h => absurd rfl (h l)⟩
    · rw [(TransKept.endTrans _).dlevel, hlevel, hlsec, hsec, TransK.debugOpen.inj hl']
    · rw [hqueue, hlsec, hsec]
      exact hq
  | quarantine c => exact hwrites 2 (fun l => TransK.noConfusion) hexec
  | install o q => exact hwrites 1 (fun l => TransK.noConfusion) hexec
  | release q => exact hwrites 1 (fun l => TransK.noConfusion) hexec
  | reclaim q => exact hwrites 1 (fun l => TransK.noConfusion) hexec
  | factoryEntry q => exact hwrites 1 (fun l => TransK.noConfusion) hexec
  | factoryExit q => exact hwrites 1 (fun l => TransK.noConfusion) hexec

end Sys2Proof.Machine
end

section
/-! Authenticated writes and the transitions that take effect with them (R264, R361, R408). -/

namespace Sys2Proof.Machine

open Sys2Proof

/-! What leaves the security state, the owner's key and the device part in force. -/

/-- The security state, the owner's key and the NVM but for the writes asked for stand. -/
structure PartKept (s t : State) : Prop where
  nvm      : { t.nvm with writes := s.nvm.writes } = s.nvm
  sstate   : t.sec.sstate = s.sec.sstate
  ownerKey : t.sec.ownerKey = s.sec.ownerKey

theorem PartKept.refl (s : State) : PartKept s s := ⟨rfl, rfl, rfl⟩

theorem PartKept.trans {s₀ s t : State} (h : PartKept s₀ s) (h' : PartKept s t) : PartKept s₀ t :=
  ⟨Nvm.writes_trans h.nvm h'.nvm, h'.sstate.trans h.sstate, h'.ownerKey.trans h.ownerKey⟩

theorem PartKept.of_eq {s t : State} (hsec : t.sec = s.sec) (hnvm : t.nvm = s.nvm) : PartKept s t :=
  ⟨by rw [hnvm], by rw [hsec], by rw [hsec]⟩

theorem TransKept.part {s t : State} (h : TransKept s t) : PartKept s t := ⟨h.nvm, h.sstate, h.ownerKey⟩

theorem PartKept.quarantine (s : State) (cause : Nat) : PartKept s (s.quarantine cause) := by
  obtain ⟨hsec, hnvm⟩ := s.quarantine_keeps cause
  have hsstate := congrArg Sec.sstate hsec
  have hkey := congrArg Sec.ownerKey hsec
  exact ⟨by rw [hnvm], hsstate, hkey⟩

theorem PartKept.macFail (s : State) (a : Nat) (core : W16) : PartKept s (s.macFail a core) := by
  unfold State.macFail
  extract_lets mm s1
  have hs1 : PartKept s s1 := .of_eq (State.raise_sec ..) (State.raise_nvm ..)
  split
  · exact hs1.trans (.quarantine s1 4)
  · exact hs1.trans (.quarantine s1 4)
  · exact hs1

theorem PartKept.outWrite (s : State) (u : Nat) (bs : List Byte) : PartKept s (s.outWrite u bs) := by
  unfold State.outWrite
  extract_lets rs put
  have hput (xs : List Run) : PartKept s (put xs) := .of_eq rfl rfl
  split
  · exact hput _
  · exact (hput _).trans (.macFail ..)

theorem PartKept.outPlace : ∀ (n : Nat) (s : State), PartKept s (State.outPlace n s)
  | 0, s => .refl s
  | n + 1, s => by
    unfold State.outPlace
    split
    · exact .refl s
    · split
      · extract_lets p s1
        have hs1 : PartKept s s1 := .outWrite ..
        refine PartKept.trans ?_ (PartKept.outPlace n _)
        exact hs1.trans (.of_eq rfl rfl)
      · exact .refl s

theorem PartKept.refData (s : State) (n : Nat) (bs : List Byte) : PartKept s (s.refData n bs) := by
  unfold State.refData
  refine PartKept.trans ?_ (.outPlace ..)
  exact .of_eq rfl rfl

theorem PartKept.postReply (s : State) (r : Reply) : PartKept s (s.postReply r) := by
  have href : PartKept s (s.byRef r).1 := by
    unfold State.byRef
    split
    · exact .refl s
    · exact .refData ..
  rw [State.postReply_eq]
  exact href.trans (.of_eq rfl rfl)

theorem PartKept.transReply (s : State) (x : TransK) (st : Nat) (p : Payload) : PartKept s (s.transReply x st p) := by
  unfold State.transReply
  split
  · exact .postReply ..
  · exact .refl s

/-- A transition that has been answered ends. -/
theorem PartKept.transEnds (s : State) (x : TransK) (st : Nat) (p : Payload) : PartKept s (s.transReply x st p).endTrans :=
  (PartKept.transReply s x st p).trans (TransKept.endTrans _).part

theorem State.negotiate_island (s : State) (p : Nat) (st : PortSt) : (s.negotiate p st).sec = s.sec ∧ (s.negotiate p st).nvm = s.nvm := by
  unfold State.negotiate
  extract_lets d s1
  split
  · exact ⟨rfl, rfl⟩
  · exact ⟨rfl, rfl⟩

/-- A negotiation of the ports anew changes neither the island nor the NVM. -/
theorem State.rekey_sec (s : State) : s.rekey.sec = s.sec := by
  unfold State.rekey
  extract_lets f
  exact foldl_keeps State.sec f (fun t p => (t.negotiate_island p _).1) _ s

theorem State.rekey_nvm (s : State) : s.rekey.nvm = s.nvm := by
  unfold State.rekey
  extract_lets f
  exact foldl_keeps State.nvm f (fun t p => (t.negotiate_island p _).2) _ s

/-! The effects of transitions. -/

/-- A module whose ports negotiate anew comes to a security state. -/
def State.comesTo (s : State) (ss : SState) : State := s.rekey.setStates ss s.sec.dlevel s.sec.pstate

theorem State.comesTo_spec (s : State) (ss : SState) :
    (s.comesTo ss).nvm = s.nvm ∧ (s.comesTo ss).sec.sstate = ss ∧ (s.comesTo ss).sec.ownerKey = s.sec.ownerKey := by
  unfold State.comesTo
  rw [State.setStates_sec, State.setStates_nvm, State.rekey_sec, State.rekey_nvm]
  exact ⟨rfl, rfl, rfl⟩

/-- What a transition that takes effect leaves: the NVM as the write left it, a security state and an owner's key. -/
structure EffectIs (s t : State) (ss : SState) (key : Option (List Byte)) : Prop where
  nvm      : { t.nvm with writes := s.nvm.writes } = s.nvm
  sstate   : t.sec.sstate = ss
  ownerKey : t.sec.ownerKey = key

/-- A transition that comes to a security state, is answered and ends. -/
theorem EffectIs.of_comesTo {s s1 : State} {ss : SState} (x : TransK) (st : Nat) (p : Payload) (hnvm : s1.nvm = s.nvm) :
    EffectIs s ((s1.comesTo ss).transReply x st p).endTrans ss s1.sec.ownerKey := by
  obtain ⟨hcnvm, hss, hkey⟩ := s1.comesTo_spec ss
  have hend := PartKept.transEnds (s1.comesTo ss) x st p
  have hn : (s1.comesTo ss).nvm = s.nvm := hcnvm.trans hnvm
  refine ⟨?_, hend.sstate.trans hss, hend.ownerKey.trans hkey⟩
  rw [← hn]
  exact hend.nvm

section
variable (s : State)

/-- The module with an owner's key. -/
def State.withOwner (s : State) (key : Option (List Byte)) : State := { s with sec := { s.sec with ownerKey := key } }

/-- What the reply to an install carries: the wrapping key, and evidence. -/
def State.installReply (s : State) : Payload := .installed (wrapKey (s.sec.seed.getD 0)) (s.evidence [])

theorem effectTrans_install_eq (o : List Byte) (q : W32) : s.effectTrans (.install o q)
    = (((s.withOwner (some o)).comesTo .owned).transReply (.install o q) stOk ((s.withOwner (some o)).comesTo .owned).installReply).endTrans :=
  rfl

theorem effectTrans_install (o : List Byte) (q : W32) : EffectIs s (s.effectTrans (.install o q)) .owned (some o) := by
  rw [effectTrans_install_eq]
  exact EffectIs.of_comesTo (s1 := s.withOwner (some o)) (.install o q) stOk _ rfl

theorem effectTrans_release (q : W32) : EffectIs s (s.effectTrans (.release q)) .open' none :=
  EffectIs.of_comesTo (s1 := s.withOwner none) (.release q) stOk _ rfl

theorem effectTrans_reclaim (q : W32) : EffectIs s (s.effectTrans (.reclaim q)) .open' none :=
  EffectIs.of_comesTo (s1 := s.withOwner none) (.reclaim q) stOk _ rfl

theorem effectTrans_factoryEntry (q : W32) : EffectIs s (s.effectTrans (.factoryEntry q)) .factory s.sec.ownerKey :=
  EffectIs.of_comesTo (s1 := s) (.factoryEntry q) stOk _ rfl

/-- A module reset leaves the device part, the security state, and the die at rest (R413). -/
theorem State.moduleReset_spec (cause : Nat) : { (s.moduleReset cause).nvm with writes := s.nvm.writes } = s.nvm
    ∧ (s.moduleReset cause).sec.sstate = s.sec.sstate ∧ (s.moduleReset cause).rst.dieUp = false := ⟨rfl, rfl, rfl⟩

/-- The exit from FACTORY ends in a module reset. -/
theorem effectTrans_factoryExit (q : W32) : { (s.effectTrans (.factoryExit q)).nvm with writes := s.nvm.writes } = s.nvm
    ∧ (s.effectTrans (.factoryExit q)).sec.sstate = .open' ∧ (s.effectTrans (.factoryExit q)).rst.dieUp = false := by
  have hend := PartKept.transEnds (s.setStates .open' s.sec.dlevel s.sec.pstate) (.factoryExit q) stOk .none
  have hss : (s.setStates .open' s.sec.dlevel s.sec.pstate).sec.sstate = .open' := by rw [State.setStates_sec]
  have hn := State.setStates_nvm s .open' s.sec.dlevel s.sec.pstate
  have hreset : s.effectTrans (.factoryExit q)
      = (((s.setStates .open' s.sec.dlevel s.sec.pstate).transReply (.factoryExit q) stOk .none).endTrans).moduleReset 2 := rfl
  rw [hreset]
  generalize ((s.setStates .open' s.sec.dlevel s.sec.pstate).transReply (.factoryExit q) stOk .none).endTrans = u at hend
  have hu := (u.moduleReset_spec 2)
  have hnvm := Nvm.writes_trans hend.nvm hu.1
  rw [hn] at hnvm
  exact ⟨hnvm, hu.2.1.trans (hend.sstate.trans hss), hu.2.2⟩

/-! QUARANTINE. -/

/-- Is a port held out, without keys (R264). -/
def Port.HeldOut (p : Port) : Prop := p.st = .heldOut ∧ p.keys = none

theorem State.port_modPort (p q : Nat) (f : Port → Port) : (s.modPort p f).port q = if q = p then f (s.port q) else s.port q := by
  split
  · next h =>
    subst h
    exact SMap.get_set_self ..
  · next h => exact SMap.get_set_other _ _ _ h

/-- Every port that the link map names is held out. -/
theorem State.holdPorts_heldOut {q : Nat} (h : q ∈ s.mappedPorts) : (s.holdPorts.port q).HeldOut := by
  unfold State.holdPorts
  extract_lets f
  have hf (t : State) (p : Nat) (hq : q = p ∨ (t.port q).HeldOut) : ((f t p).port q).HeldOut := by
    rw [State.port_modPort]
    split
    · exact ⟨rfl, rfl⟩
    · next hne => exact hq.resolve_left hne
  have hfold (ps : List Nat) (t : State) (hq : q ∈ ps ∨ (t.port q).HeldOut) : ((ps.foldl f t).port q).HeldOut := by
    induction ps generalizing t with
    | nil => exact hq.resolve_left List.not_mem_nil
    | cons p ps ih =>
      refine ih (f t p) ?_
      obtain hmem | hheld := hq
      · obtain heq | hin := List.mem_cons.mp hmem
        · exact .inr (hf t p (.inl heq))
        · exact .inl hin
      · exact .inr (hf t p (.inr hheld))
  exact hfold s.mappedPorts s (.inl h)

theorem State.holdPorts_island : s.holdPorts.sec = s.sec ∧ s.holdPorts.nvm = s.nvm := by
  unfold State.holdPorts
  extract_lets f
  exact ⟨foldl_keeps State.sec f (fun _ _ => rfl) _ s, foldl_keeps State.nvm f (fun _ _ => rfl) _ s⟩

theorem State.bare_size (type : Nat) : (s.bare type).size ≤ 4080 := by
  unfold State.bare
  split
  · show 8 * 2 ≤ 4080
    decide
  · exact Nat.zero_le _

theorem TransKept.dropOwnMsgs : TransKept s s.dropOwnMsgs := by
  unfold State.dropOwnMsgs
  generalize s.sec.ownMsgs = ms
  have hfold (u : State) (hu : TransKept s u) : TransKept s (ms.foldl (fun t i => match parkedMsg i with
      | some q => t.postReply ⟨q.1, q.2, stQuar, 0, t.bare q.1, none⟩ | none => t) u) := by
    induction ms generalizing u with
    | nil => exact hu
    | cons i is ih =>
      refine ih _ ?_
      beta_reduce
      split
      · exact hu.trans (.postReply _ (State.bare_size ..))
      · exact hu
  exact hfold _ ⟨rfl, rfl, rfl, rfl, rfl, rfl, rfl, rfl, rfl, rfl, rfl, rfl, fun _ => id⟩

/-- The write of a QUARANTINE (R361, R364, R372): D0, and every port held out. -/
theorem effectTrans_quarantine (c : Nat) : EffectIs s (s.effectTrans (.quarantine c)) .quarantine s.sec.ownerKey
    ∧ (s.effectTrans (.quarantine c)).sec.dlevel = 0
    ∧ ∀ p ∈ s.mappedPorts, ((s.effectTrans (.quarantine c)).port p).HeldOut := by
  have heffect : s.effectTrans (.quarantine c)
      = ((s.holdPorts.setStates .quarantine 0 (if s.sec.pstate = 2 then 0 else s.sec.pstate)).dropOwnMsgs).endTrans := rfl
  rw [heffect]
  generalize (if s.sec.pstate = 2 then 0 else s.sec.pstate) = ps
  have hhold := s.holdPorts_island
  have hsec := s.holdPorts.setStates_sec .quarantine 0 ps
  have hnvm := s.holdPorts.setStates_nvm .quarantine 0 ps
  have hlnk := s.holdPorts.setStates_lnk .quarantine 0 ps
  generalize s.holdPorts.setStates .quarantine 0 ps = u at hsec hnvm hlnk
  have hend := (TransKept.dropOwnMsgs u).trans (.endTrans _)
  refine ⟨⟨?_, hend.sstate.trans (by rw [hsec]), hend.ownerKey.trans (by rw [hsec, hhold.1])⟩, hend.dlevel.trans (by rw [hsec]), fun p hp => ?_⟩
  · rw [← hhold.2, ← hnvm]
    exact hend.nvm
  · have hport : (u.dropOwnMsgs.endTrans).port p = s.holdPorts.port p := by
      unfold State.port
      rw [hend.lnk, hlnk]
    rw [hport]
    exact s.holdPorts_heldOut hp

/-- Whatever transition takes effect, the NVM stands as its write left it, but for what is asked for next. -/
theorem effectTrans_nvm (x : TransK) : { (s.effectTrans x).nvm with writes := s.nvm.writes } = s.nvm := by
  cases x with
  | install o q => exact (effectTrans_install s o q).nvm
  | release q => exact (effectTrans_release s q).nvm
  | reclaim q => exact (effectTrans_reclaim s q).nvm
  | factoryEntry q => exact (effectTrans_factoryEntry s q).nvm
  | factoryExit q => exact (effectTrans_factoryExit s q).1
  | quarantine c => exact (effectTrans_quarantine s c).1.nvm
  | debugOpen l => exact (TransKept.endTrans s).nvm
  | jobUnload q => exact (TransKept.endTrans s).nvm
  | jobScrub => exact (TransKept.endTrans s).nvm

end

/-! An authenticated write. -/

section
variable {s t : State} {w : NvmWrite} {ws : List NvmWrite}

/-- The module with the oldest change in force. -/
def State.changed (s : State) (w : NvmWrite) (ws : List NvmWrite) : State :=
  ({ s with nvm := { s.nvm with writes := ws } } : State).writePart w

/-- What a change that takes effect brings after its write. -/
def State.writeEffect (s : State) : NvmWrite → State
  | .trans x => s.effectTrans x
  | .site _ q => s.postReply ⟨0x0030, q, stOk, 0, .none, none⟩
  | _ => s

theorem State.writeEffect_trans (s : State) (x : TransK) : s.writeEffect (.trans x) = s.effectTrans x := rfl

/-- A site configuration is answered; the island stands. -/
theorem State.writeEffect_site_sec (s : State) (c : SiteCfg) (q : W32) : (s.writeEffect (.site c q)).sec = s.sec := by
  show (s.postReply ⟨0x0030, q, stOk, 0, .none, none⟩).sec = s.sec
  rw [s.postReply_of_small (r := ⟨0x0030, q, stOk, 0, .none, none⟩) (Nat.zero_le _)]

theorem authenticatedWriteComplete_eq (hw : s.nvm.writes = w :: ws) (hp : s.sec.pstate < 3) :
    exec .authenticatedWriteComplete s = .next ((s.changed w ws).writeEffect w) := by
  show execAuthenticatedWriteComplete s = _
  unfold execAuthenticatedWriteComplete
  split
  · next h => exact absurd (hw.symm.trans h) (List.cons_ne_nil _ _)
  · next w' ws' h =>
    obtain ⟨rfl, rfl⟩ := List.cons.inj (hw.symm.trans h)
    rw [if_neg (Nat.not_le.mpr hp)]
    cases w <;> rfl

theorem State.writeEffect_nvm (s : State) (w : NvmWrite) : { (s.writeEffect w).nvm with writes := s.nvm.writes } = s.nvm := by
  cases w with
  | trans x => exact effectTrans_nvm s x
  | site c q => exact (PartKept.postReply s ⟨0x0030, q, stOk, 0, .none, none⟩).nvm
  | fence f => rfl
  | cause q => rfl

/-- The device part, its slots and the counters after a write (R408). -/
structure PartWritten (s t : State) (w : NvmWrite) : Prop where
  part  : t.nvm.part = s.nvm.part.change w
  slotA : t.nvm.slotA = if s.nvm.slotA = some s.nvm.part then s.nvm.slotA else some (s.nvm.part.change w)
  slotB : t.nvm.slotB = if s.nvm.slotA = some s.nvm.part then some (s.nvm.part.change w) else s.nvm.slotB
  ctrs  : t.nvm.ctrs = if w.advances s.nvm.part then (s.nvm.ctrs.set 1 (s.nvm.part.change w).gen).set 0 (s.nvm.part.change w).octr
            else s.nvm.ctrs.set 1 (s.nvm.part.change w).gen

theorem PartWritten.of_nvm (h : { t.nvm with writes := (s.changed w ws).nvm.writes } = (s.changed w ws).nvm) : PartWritten s t w := by
  have hpart := congrArg Nvm.part h
  have hslotA := congrArg Nvm.slotA h
  have hslotB := congrArg Nvm.slotB h
  have hctrs := congrArg Nvm.ctrs h
  exact ⟨hpart, hslotA, hslotB, hctrs⟩

/-- Every change counts the generation on, and the owner counter where it advances it. -/
theorem DevPart.change_counts (d : DevPart) (w : NvmWrite) : (d.change w).gen = d.gen + 1
    ∧ (d.change w).octr = if w.advances d then d.octr + 1 else d.octr := by
  cases w with
  | trans x => cases x <;> exact ⟨rfl, rfl⟩
  | _ => exact ⟨rfl, rfl⟩

/-- AUTHENTICATED_WRITE_COMPLETE (R361, R408). -/
theorem authenticatedWriteComplete_completes (hw : s.nvm.writes = w :: ws) (hp : s.sec.pstate < 3) :
      Completes .authenticatedWriteComplete s fun t =>
      t.nvm.part = s.nvm.part.change w ∧ t.nvm.part.gen = s.nvm.part.gen + 1
        ∧ t.nvm.part.octr = (if w.advances s.nvm.part then s.nvm.part.octr + 1 else s.nvm.part.octr)
        ∧ (s.nvm.slotA = some s.nvm.part → t.nvm.slotA = s.nvm.slotA ∧ t.nvm.slotB = some t.nvm.part)
        ∧ (s.nvm.slotA ≠ some s.nvm.part → t.nvm.slotA = some t.nvm.part ∧ t.nvm.slotB = s.nvm.slotB)
        ∧ (let c := s.nvm.ctrs.set 1 t.nvm.part.gen; t.nvm.ctrs = if w.advances s.nvm.part then c.set 0 t.nvm.part.octr else c)
        ∧ (∀ f, w = .fence f → t.nvm.part.fence = f ∧ t.nvm.writes = ws ∧ { t with nvm := s.nvm } = s)
        ∧ (∀ c q, w = .site c q → t.nvm.part.sitelim = c.limits ∧ t.nvm.part.linkmap = c.linkmap ∧ t.nvm.part.factory = c.factory ∧ t.sec = s.sec)
        ∧ (∀ o q, w = .trans (.install o q) → t.sec.sstate = .owned ∧ t.nvm.part.ownh = some (digestOf o) ∧ t.sec.ownerKey = some o)
        ∧ (∀ q, (w = .trans (.release q) ∨ w = .trans (.reclaim q)) → t.sec.sstate = .open' ∧ t.nvm.part.ownh = none ∧ t.nvm.part.qcause = 0
            ∧ t.sec.ownerKey = none)
        ∧ (∀ q, w = .trans (.factoryEntry q) → t.sec.sstate = .factory ∧ t.nvm.part.factory = true)
        ∧ (∀ q, w = .trans (.factoryExit q) → t.sec.sstate = .open' ∧ t.nvm.part.factory = false ∧ t.rst.dieUp = false)
        ∧ (∀ c, w = .trans (.quarantine c) → t.sec.sstate = .quarantine ∧ t.nvm.part.qcause = c ∧ t.sec.dlevel = 0
            ∧ ∀ p ∈ s.mappedPorts, (t.port p).st = .heldOut ∧ (t.port p).keys = none) := by
  refine ⟨_, authenticatedWriteComplete_eq hw hp, ?_⟩
  have hpart : PartWritten s ((s.changed w ws).writeEffect w) w := .of_nvm ((s.changed w ws).writeEffect_nvm w)
  obtain ⟨hgen, hoctr⟩ := s.nvm.part.change_counts w
  refine ⟨hpart.part, by rw [hpart.part, hgen], by rw [hpart.part, hoctr], fun h => ?_, fun h => ?_, ?_, fun f hf => ?_, fun c q hf => ?_,
    fun o q hf => ?_, fun q hf => ?_, fun q hf => ?_, fun q hf => ?_, fun c hf => ?_⟩
  · exact ⟨hpart.slotA.trans (if_pos h), by rw [hpart.part, hpart.slotB, if_pos h]⟩
  · exact ⟨by rw [hpart.part, hpart.slotA, if_neg h], hpart.slotB.trans (if_neg h)⟩
  · rw [hpart.part]
    exact hpart.ctrs
  · subst hf
    exact ⟨rfl, rfl, rfl⟩
  · rw [hpart.part]
    subst hf
    exact ⟨rfl, rfl, rfl, State.writeEffect_site_sec _ c q⟩
  · rw [hpart.part]
    subst hf
    rw [State.writeEffect_trans]
    have heffect := effectTrans_install (s.changed (.trans (.install o q)) ws) o q
    exact ⟨heffect.sstate, rfl, heffect.ownerKey⟩
  · rw [hpart.part]
    obtain rfl | rfl := hf
    · rw [State.writeEffect_trans]
      have heffect := effectTrans_release (s.changed (.trans (.release q)) ws) q
      exact ⟨heffect.sstate, rfl, rfl, heffect.ownerKey⟩
    · rw [State.writeEffect_trans]
      have heffect := effectTrans_reclaim (s.changed (.trans (.reclaim q)) ws) q
      exact ⟨heffect.sstate, rfl, rfl, heffect.ownerKey⟩
  · rw [hpart.part]
    subst hf
    rw [State.writeEffect_trans]
    exact ⟨(effectTrans_factoryEntry (s.changed (.trans (.factoryEntry q)) ws) q).sstate, rfl⟩
  · rw [hpart.part]
    subst hf
    rw [State.writeEffect_trans]
    obtain ⟨-, hss, hup⟩ := effectTrans_factoryExit (s.changed (.trans (.factoryExit q)) ws) q
    exact ⟨hss, rfl, hup⟩
  · rw [hpart.part]
    subst hf
    rw [State.writeEffect_trans]
    obtain ⟨heffect, hlevel, hports⟩ := effectTrans_quarantine (s.changed (.trans (.quarantine c)) ws) c
    exact ⟨heffect.sstate, rfl, hlevel, hports⟩

end

end Sys2Proof.Machine
end

section
/-! Monitors, the NVM bus and the service of LPDDR5X (R155, R362, R374, R495). -/

namespace Sys2Proof.Machine

open Sys2Proof

/-! Monitors (R362). -/

section
variable {s : State} {i : Instr} {cause : Nat}

/-- A monitor's event enters QUARANTINE, with D0 and out of P2. -/
theorem quarantine_completes (hexec : exec i s = .next (s.quarantine cause)) (hp : s.sec.pstate < 3) (hq : s.quarantining = false) :
    Completes i s fun t => t.quarantining = true ∧ t.sec.dlevel = 0 ∧ t.sec.pstate ≠ 2 ∧ t.mem = s.mem := by
  obtain ⟨hin, hlevel, hpstate⟩ := s.quarantine_enters cause hq (Nat.ne_of_lt hp)
  refine ⟨_, hexec, hin, hlevel, ?_, State.quarantine_mem ..⟩
  rw [hpstate]
  split
  · decide
  · assumption

/-- In a hold it stands in the hold record. -/
theorem quarantine_inHold {r : HoldRec} (hexec : exec i s = .next (s.quarantine cause)) (hp : s.sec.pstate = 3) (hq : s.quarantining = false)
    (hr : s.sec.hold = some r) (hnone : r.qcause = 0) : Completes i s fun t =>
      t.sec.hold = some { r with qcause := cause } ∧ { t with sec := { t.sec with hold := s.sec.hold } } = s := by
  rw [State.quarantine_of_hold s cause hq hp] at hexec
  refine ⟨_, hexec, ?_, rfl⟩
  show s.sec.hold.map _ = _
  rw [hr, Option.map_some, if_pos hnone]

/-- The three monitors, where the island watches them. -/
theorem monitors_eq (hp : s.sec.pstate < 4) (hup : s.rst.dieUp = true) : (s.blw.ramp = false → exec .supply s = .next (s.quarantine 1))
    ∧ (s.rst.locked = true → exec .clock s = .next (s.quarantine 2)) ∧ exec .shield s = .next (s.quarantine 3) := by
  have hisland : s.islandUp = true := by
    rw [State.islandUp, hup, decide_eq_true hp]
    rfl
  have hno {p : Prop} (h : ¬ p) : ¬ (p ∨ ¬ s.islandUp = true) := not_or.mpr ⟨h, not_not.mpr hisland⟩
  exact ⟨fun h => if_neg (hno (ne_true_of_eq_false h)), fun h => if_neg (hno (not_not.mpr h)), if_neg (not_not.mpr hisland)⟩

end

/-! LPDDR5X (R155). -/

section
variable {s : State}

/-- Where no channel is under retraining, the oldest that waits starts at a step boundary. -/
theorem State.startRetrain_of_free (h : s.mm.retrain = none) :
    s.startRetrain.mm.retrain = (if s.atBoundary then s.mm.retrainQ.head? else none)
      ∧ s.startRetrain.mm.retrainQ = (if s.atBoundary then s.mm.retrainQ.drop 1 else s.mm.retrainQ) := by
  unfold State.startRetrain
  split
  · next c cs _ hq =>
    rw [hq]
    split
    · exact ⟨rfl, rfl⟩
    · exact ⟨h, hq⟩
  · next hno =>
    have hq : s.mm.retrainQ = [] := by
      cases hq : s.mm.retrainQ with
      | nil => rfl
      | cons c cs => exact absurd hq (hno c cs h)
    rw [h, hq]
    exact ⟨(ite_self _).symm, (ite_self _).symm⟩

/-- No retraining starts within a step. -/
theorem State.startRetrain_of_midStep (h : s.atBoundary = false) : s.startRetrain = s := by
  unfold State.startRetrain
  split
  · rw [h]
    rfl
  · rfl

/-- A channel that waits still waits, or is under retraining. -/
theorem State.mem_startRetrain {c : Nat} (h : c ∈ s.mm.retrainQ) : c ∈ s.startRetrain.mm.retrainQ ∨ s.startRetrain.mm.retrain = some c := by
  unfold State.startRetrain
  split
  · next d ds _ hq =>
    split
    · rw [hq] at h
      obtain rfl | hin := List.mem_cons.mp h
      · exact .inr rfl
      · exact .inl hin
    · exact .inl h
  · exact .inl h

/-- The module with a channel in the line for retraining. -/
def State.queueRetrain (s : State) (c : Nat) : State :=
  { s with mm := { s.mm with retrainQ := if s.mm.retrainQ.contains c then s.mm.retrainQ else s.mm.retrainQ ++ [c] } }

/-- LPDDR_RETRAIN (R155). -/
theorem lpddrRetrain_completes {c : Fin 64} (hup : s.rst.dieUp = true) (hp : s.sec.pstate < 3) : Completes (.lpddrRetrain c) s fun t =>
    (c.val ∈ t.mm.retrainQ ∨ t.mm.retrain = some c.val) ∧ (s.atBoundary = false → t.mm.retrain = s.mm.retrain)
      ∧ { t with mm := { t.mm with retrainQ := s.mm.retrainQ, retrain := s.mm.retrain } } = s := by
  have hgo : ¬ (¬ s.rst.dieUp = true ∨ s.sec.pstate ≥ 3) := by
    rw [hup]
    simp
    omega
  have hexec : exec (.lpddrRetrain c) s = .next (s.queueRetrain c.val).startRetrain := if_neg hgo
  have hqueued : c.val ∈ (s.queueRetrain c.val).mm.retrainQ := by
    show c.val ∈ if _ then _ else _
    split
    · next h => exact List.contains_iff_mem.mp h
    · exact List.mem_append_right _ (List.mem_singleton_self _)
  have hrest := (s.queueRetrain c.val).startRetrain_rest
  have hsame := congrArg (fun x : State => { x with mm := { x.mm with retrainQ := s.mm.retrainQ, retrain := s.mm.retrain } }) hrest
  refine ⟨_, hexec, State.mem_startRetrain hqueued, fun h => ?_, hsame⟩
  rw [State.startRetrain_of_midStep (s := s.queueRetrain c.val) h]
  rfl

/-- Where no core holds a command back, what may go on changes no core. -/
theorem State.foldl_reissue (ks : List CoreId) (s : State) (h : ∀ k, (s.core k).waitq = []) :
    ∃ cs, ks.foldl (fun t k => (t.reissue k).getD t) s = { s with cores := cs }
      ∧ ∀ k, (ks.foldl (fun t k => (t.reissue k).getD t) s).core k = s.core k := by
  induction ks generalizing s with
  | nil => exact ⟨s.cores, rfl, fun _ => rfl⟩
  | cons j js ih =>
    have hj : (s.reissue j).getD s = s.modCore j fun c => { c with waitq := [] } := by rw [State.reissue_of_nil (h j)]; rfl
    have hcore (k : CoreId) : (s.modCore j fun c => { c with waitq := [] }).core k = s.core k := by
      by_cases hk : k = j
      · rw [hk, State.core_modCore_self, ← h j]
      · exact State.core_modCore_other _ _ hk
    obtain ⟨cs, hcs, hkept⟩ := ih (s.modCore j fun c => { c with waitq := [] }) (fun k => by rw [hcore]; exact h k)
    rw [List.foldl_cons, hj]
    exact ⟨cs, hcs, fun k => (hkept k).trans (hcore k)⟩

/-- The module with no channel under retraining. -/
def State.retrained (s : State) : State := { s with mm := { s.mm with retrain := none } }

/-- LPDDR_RETRAIN_COMPLETE where no core holds a command back: what waited goes on, then the next channel may start. -/
theorem lpddrRetrainComplete_eq (h : s.mm.retrain.isSome = true) {u : State} (hu : s.retrained.unstall = u) (hwait : ∀ k, (u.core k).waitq = []) :
    ∃ cs, exec .lpddrRetrainComplete s = .next ({ u with cores := cs } : State).startRetrain ∧ ∀ k, ({ u with cores := cs } : State).core k = u.core k := by
  obtain ⟨cs, hcs, hcore⟩ := State.foldl_reissue u.usedCores u hwait
  have hgo : ¬ s.mm.retrain.isNone = true := by rw [← Option.not_isSome, h]; decide
  rw [hcs] at hcore
  refine ⟨cs, ?_, hcore⟩
  rw [← hcs]
  subst hu
  exact if_neg hgo

/-- A retraining that nothing waited for ends. -/
theorem lpddrRetrainComplete_completes (h : s.mm.retrain.isSome = true) (hstalled : s.mm.stalled = []) (hwaiting : s.outq.waiting = [])
    (hwait : ∀ k, (s.core k).waitq = []) : Completes .lpddrRetrainComplete s fun t =>
      t.mm.retrain = (if s.atBoundary then s.mm.retrainQ.head? else none)
        ∧ t.mm.retrainQ = (if s.atBoundary then s.mm.retrainQ.drop 1 else s.mm.retrainQ)
        ∧ (∀ k, t.core k = s.core k) ∧ { t with cores := s.cores, mm := { t.mm with retrainQ := s.mm.retrainQ, retrain := s.mm.retrain } } = s := by
  obtain ⟨cs, hexec, hcore⟩ := lpddrRetrainComplete_eq h (State.unstall_of_nil (s := s.retrained) hstalled hwaiting) hwait
  obtain ⟨hretrain, hqueue⟩ := State.startRetrain_of_free (s := { s.retrained with cores := cs }) rfl
  have hrest := State.startRetrain_rest { s.retrained with cores := cs }
  have hcores := congrArg State.cores hrest
  have hsame := congrArg (fun x : State => { x with cores := s.cores, mm := { x.mm with retrainQ := s.mm.retrainQ, retrain := s.mm.retrain } }) hrest
  exact ⟨_, hexec, hretrain, hqueue, fun k => (congrFun (State.core_congr hcores) k).trans (hcore k), hsame⟩

/-! A BAR2 access that waited (R155, R420). -/

/-- A BAR2 access that reads no block whose MAC fails changes memory, poisoned blocks and the data returned. -/
theorem State.bar2_of_sound {ps : List (Nat × Nat)} {w : Option (List Byte)} {po : Option Nat}
    (h : ∀ x ∈ readBlocks ps w.isSome, x ∉ s.mm.poisoned ∧ po ≠ some x) : (s.bar2 ps w po).outq = s.outq ∧ (s.bar2 ps w po).job = s.job
      ∧ (s.bar2 ps w po).cores = s.cores ∧ (s.bar2 ps w po).mm.stalled = s.mm.stalled := by
  unfold State.bar2
  split
  · next b hb =>
    have hfail := List.find?_some hb
    obtain ⟨hnot, hpo⟩ := h b (List.mem_of_find?_eq_some hb)
    simp [hnot, hpo] at hfail
  · split
    · exact ⟨rfl, rfl, rfl, rfl⟩
    · exact ⟨rfl, rfl, rfl, rfl⟩

/-- The module with no channel under retraining, and nothing kept waiting. -/
def State.unblocked (s : State) : State := { s with mm := { s.mm with retrain := none, stalled := [] } }

/-- Where no channel is under retraining and nothing waits, a piece of LPDDR5X is free but for a scrub. -/
theorem State.waits_unblocked (hscrub : s.sec.scrub = false) (ps : List (Nat × Nat)) : s.unblocked.waits ps = false := by
  have hstalls (x : Nat × Nat) : s.unblocked.stalls x.1 x.2 = false := rfl
  have hs : s.unblocked.sec.scrub = false := hscrub
  unfold State.waits
  simp only [hs, hstalls]
  simp [State.unblocked]

theorem State.perform_bar2 {off len : Nat} {w : Option (List Byte)} {po : Option Nat} {ps : List (Nat × Nat)} (hperst : s.hif.perst = false)
    (hup : s.rst.dieUp = true) (hp : s.sec.pstate < 2) (hfrozen : s.sec.pcieFrozen = false) (hscrub : s.sec.scrub = false)
    (hn : 0 < barLen w ⟨len, po⟩) (hps : s.bar2Pieces off (barLen w ⟨len, po⟩) = some ps) :
    s.unblocked.perform (.bar2Access off w ⟨len, po⟩) = s.unblocked.bar2 ps w po := by
  have hexec : execBar2Access off w ⟨len, po⟩ s.unblocked = .next (s.unblocked.bar2 ps w po) := by
    have hpieces : s.unblocked.bar2Pieces off (barLen w ⟨len, po⟩) = some ps := hps
    have hgo : ¬ (s.unblocked.hif.perst = true ∨ ¬ s.unblocked.rst.dieUp = true ∨ s.unblocked.sec.pstate ≥ 3 ∨ barLen w ⟨len, po⟩ = 0) := by
      simp [State.unblocked, hperst, hup]
      omega
    have hopen : ¬ (s.unblocked.sec.pcieFrozen = true ∨ s.unblocked.sec.pstate = 2) := by
      simp [State.unblocked, hfrozen]
      omega
    unfold execBar2Access
    extract_lets n
    rw [if_neg hgo, if_neg hopen, hpieces]
    exact if_neg (by rw [State.waits_unblocked hscrub]; decide)
  unfold State.perform
  extract_lets run
  show run (execBar2Access off w ⟨len, po⟩ s.unblocked) = _
  rw [hexec]

/-- A BAR2 access that waited for the package goes on when the retraining ends. -/
theorem lpddrRetrainComplete_bar2 {off len : Nat} {w : Option (List Byte)} {po : Option Nat} {ps : List (Nat × Nat)}
    (h : s.mm.retrain.isSome = true) (hperst : s.hif.perst = false) (hup : s.rst.dieUp = true) (hp : s.sec.pstate < 2)
    (hfrozen : s.sec.pcieFrozen = false) (hscrub : s.sec.scrub = false) (hwaiting : s.outq.waiting = [])
    (hstalled : s.mm.stalled = [.bar2Access off w ⟨len, po⟩]) (hwait : ∀ k, (s.core k).waitq = []) (hn : 0 < barLen w ⟨len, po⟩)
    (hps : s.bar2Pieces off (barLen w ⟨len, po⟩) = some ps) (hsound : ∀ x ∈ readBlocks ps w.isSome, x ∉ s.mm.poisoned ∧ po ≠ some x) :
    Completes .lpddrRetrainComplete s fun t =>
      t.mm.stalled = [] ∧ t.mem = (s.unblocked.bar2 ps w po).mem ∧ t.hif = (s.unblocked.bar2 ps w po).hif ∧ t.job = s.job := by
  obtain ⟨houtq, hjob, hcores, hst⟩ := State.bar2_of_sound (s := s.unblocked) hsound
  have hperform := State.perform_bar2 hperst hup hp hfrozen hscrub hn hps
  have hunstall : s.retrained.unstall = s.unblocked.bar2 ps w po := by
    have hfold : s.mm.stalled.foldl State.perform s.unblocked = s.unblocked.bar2 ps w po := by
      rw [hstalled]
      exact hperform
    have hw : (s.unblocked.bar2 ps w po).outq.waiting = [] := by
      rw [houtq]
      exact hwaiting
    show State.outPlace ((s.mm.stalled.foldl State.perform s.unblocked).outq.waiting.length + 1) (s.mm.stalled.foldl State.perform s.unblocked) = _
    rw [hfold, hw]
    unfold State.outPlace
    rw [hw]
  have hwait' (k : CoreId) : ((s.unblocked.bar2 ps w po).core k).waitq = [] := by
    rw [State.core_congr hcores]
    exact hwait k
  obtain ⟨cs, hexec, -⟩ := lpddrRetrainComplete_eq h hunstall hwait'
  generalize s.unblocked.bar2 ps w po = u at *
  have hkept := TransKept.startRetrain { u with cores := cs }
  have hhif := congrArg State.hif (State.startRetrain_rest { u with cores := cs })
  exact ⟨_, hexec, hkept.stalled.trans hst, hkept.mem, hhif, hkept.job.trans hjob⟩

end

/-- Settles O57: monitors, scrubs, authenticated writes, the NVM bus and the service of LPDDR5X. -/
theorem transitions : Obligations.Transitions := by
  unfold Obligations.Transitions
  refine ⟨⟨fun s hp hup hq => ?_, fun s r hp hup hq hr hnone x hx hin => ?_, fun s hscrub hno => ⟨s, ?_, rfl⟩,
      fun s x hscrub hup hbusy hp hstalled hwaiting hx => ?_, fun s w ws hw hp => authenticatedWriteComplete_completes hw hp⟩,
    fun s => ⟨⟨_, rfl, rfl, decide_eq_true_iff, rfl⟩, ⟨_, rfl, rfl, rfl, rfl⟩, ⟨s, rfl, rfl⟩⟩,
    fun s c hup hp => lpddrRetrain_completes hup hp, fun s h hstalled hwaiting hwait => lpddrRetrainComplete_completes h hstalled hwaiting hwait,
    fun s off w len po ps h hperst hup hp hfrozen hscrub hwaiting hstalled hwait _ hn hps hsound =>
      lpddrRetrainComplete_bar2 h hperst hup hp hfrozen hscrub hwaiting hstalled hwait hn hps hsound⟩
  · obtain ⟨hsupply, hclock, hshield⟩ := monitors_eq (Nat.lt_succ_of_lt hp) hup
    exact ⟨fun h => quarantine_completes (hsupply h) hp hq, fun h => quarantine_completes (hclock h) hp hq, quarantine_completes hshield hp hq⟩
  · obtain ⟨hsupply, hclock, hshield⟩ := monitors_eq (s := s) (by omega) hup
    simp only [List.mem_cons, List.not_mem_nil, or_false] at hx
    obtain rfl | rfl | rfl := hx
    · exact quarantine_inHold (hsupply hin) hp hq hr hnone
    · exact quarantine_inHold (hclock hin) hp hq hr hnone
    · exact quarantine_inHold hshield hp hq hr hnone
  · exact if_pos (hno.elim (fun h => .inr (.inr (.inl h))) fun h => .inr (.inr (.inr h)))
  · obtain ⟨t, hexec, hs, hdebug, hasks⟩ := scrubComplete_completes hscrub hup hbusy hp hstalled hwaiting hx
    exact ⟨t, hexec, hs.stack, hs.chk, hs.job, hs.slots, hs.jobKeys, hs.cores, hdebug, hasks⟩

end Sys2Proof.Machine
end
